-- ==== Sys2Proof/Word.lean ====
section
/-! DEFINITION. The word types of the model. -/

namespace Sys2Proof

/-- A 32-bit register word (R28). -/
abbrev Word := BitVec 32

/-- A 64-bit raw-time value in units of 2^-16 ns (R166). -/
abbrev Raw := BitVec 64

end Sys2Proof
end

