-- ==== Sys2Proof/Syntax.lean ====
section
/-! DEFINITION. The commands of the block: one constructor of `Instr` per row of the opcode table, with the row's operands. Quantities that the spec says are measured (temperatures, phases, stamps, message contents) are operands of the event that brings them. -/

namespace Sys2Proof

/-- The two register access paths (R27). -/
inductive Path where
  | pcie | smbus
  deriving DecidableEq, Repr

/-- How an SMBus write transaction ends (R377, R378): with no PEC byte, a right one, a wrong one,
or not at all (the bus stops before the access is made). -/
inductive Pec where
  | none | good | bad | cut
  deriving DecidableEq, Repr

/-- A two-shot preamble tag as received (Table 4-7): none, or a sequenced frame. -/
structure TsTag where
  crcOk : Bool
  express : Bool
  seq : BitVec 20
  epoch : BitVec 8
  deriving DecidableEq, Repr

/-- What the stamp logic reads of a frame (R175, R176), on the local raw copy of its group die: the value at the TCLK
edge before the reference lane's last alignment marker, the taps of the group TDC bank's line that the marker's symbol
edge had passed at the TCLK edge after it, and the encoded line bits from the marker to the frame's start block. -/
structure LineStamp where
  edge : Raw
  tap : Fin 384
  bits : Nat
  deriving DecidableEq, Repr

/-- What the SECDED check of a node, gate entry or cell met (R143, R163): a right word, a single-bit
error, or an uncorrectable one. -/
inductive Ecc where
  | clean | single | double
  deriving DecidableEq, Repr

/-- A table entry whose stored bits suffered an upset, with the bits that it changed (R117). -/
structure ScrubHit where
  table : Fin 5
  index : Nat
  bits : BitVec 128
  double : Bool
  deriving DecidableEq, Repr

/-- What a frame is at the MAC Merge sublayer (R67): a frame, or a verify (SMD-V) or respond (SMD-R) frame of the verify
process. -/
inductive Smd where
  | frame | verify | respond
  deriving DecidableEq, Repr

/-- A received frame, as far as any rule reads it (Table 5-1). `stack` holds label stack entries
top first; `nibble` is the first nibble of the payload below them; `dcw` the 4 bytes after S = 1;
`fec` the FEC codewords corrected while it was received; `upsets` the errors on the table words that its
lookups read (R117); `tooLate` says that link capacity left for the receive rings does not carry it (R271). -/
structure RxFrame where
  port : Fin 48
  sub : Fin 8
  stamp : LineStamp
  len : Nat
  da : BitVec 48
  sa : BitVec 48
  tags : List (BitVec 16 × BitVec 16)
  etype : BitVec 16
  esmc : Bool
  stack : List (BitVec 32)
  dcw : BitVec 32
  nibble : BitVec 4
  preempt : Bool
  smd : Smd
  tag : Option TsTag
  fec : Nat
  upsets : List ScrubHit
  tooLate : Bool
  deriving DecidableEq, Repr

/-- How a frame's tail reaches the ingress (R62, R66). -/
inductive TailEnd where
  | good | badFcs | badFec
  deriving DecidableEq, Repr

/-- Errors met while a frame is read for its start (R143, R163): in a tree node, in its first cell, in
the link behind it, in a free-list entry as a cell of it is freed; `upper` says that this entry lies in the upper
member's slice of a fused output. -/
structure TxEcc where
  node : Option (Fin 256 × Ecc)
  cell : Ecc
  link : Ecc
  freeEntry : Ecc
  upper : Bool
  deriving DecidableEq, Repr

/-- Where in an input store an error lies (R143): in a cell, in a queue link, in a free-list entry. -/
inductive StorePlace where
  | cell | link | freeEntry
  deriving DecidableEq, Repr

/-- An error met in an input store as a cell of a frame is read. -/
structure StoreHit where
  frame : Nat
  place : StorePlace
  ecc : Ecc
  deriving DecidableEq, Repr

/-- What a scheduler slot's self-checks meet beside injected faults (Table 6-3): nothing, a fault
in one replica, in both, or unequal vectors with both self-checks passing. -/
inductive SlotFault where
  | none | replicaA | replicaB | both | silent
  deriving DecidableEq, Repr

/-- IEEE 1588 message kinds of Table 9-1. -/
inductive PtpKind where
  | sync | followUp | delayReq | delayResp | announce | signaling | unsupported
  deriving DecidableEq, Repr

/-- The Speid TLV (Table 9-4), times in units of 2^-16 ns, slopes in 2^-32 ns per clapper. -/
structure SpeidTlv where
  version : Nat
  aligned : Bool
  locked : Bool
  member : Bool
  clapper : Nat
  phiTx : Nat
  phiRx : Nat
  dphiTx : Int
  dphiRx : Int
  modM : Nat
  rate : Int
  nRx : Option Int
  deriving DecidableEq, Repr

/-- The contents of an Announce (R194); `flags` is the low octet of its flagField: leap61, leap59,
currentUtcOffsetValid, ptpTimescale, timeTraceable and frequencyTraceable from bit 0 up. -/
structure Announce where
  clockClass : BitVec 8
  accuracy : BitVec 8
  variance : BitVec 16
  priority1 : BitVec 8
  priority2 : BitVec 8
  identity : BitVec 64
  steps : BitVec 16
  utcOffset : BitVec 16
  flags : BitVec 8
  timeSource : BitVec 8
  deriving DecidableEq, Repr

/-- The L1_SYNC TLV (Tables 9-1 and 9-2). -/
structure L1Sync where
  tcr : Bool
  rcr : Bool
  cr : Bool
  ope : Bool
  deriving DecidableEq, Repr

/-- A received timing message (R192): addressing, then the fields a session uses. Times are in
units of 2^-16 ns; `stamp` is what the stamp logic reads of its frame. `labelBottom` says whether a removed MPLS
label carried S = 1 with the PTP header directly after it (R193). -/
structure PtpMsg where
  port : Fin 48
  sub : Fin 8
  stamp : LineStamp
  transport : Nat
  vid : BitVec 12
  label : BitVec 20
  labelBottom : Bool
  domain : BitVec 8
  source : BitVec 80
  kind : PtpKind
  seqId : BitVec 16
  twoStep : Bool
  badTlv : Bool
  time : Nat
  corr : Int
  requester : Bool
  ann : Announce
  l1 : Option L1Sync
  speid : Option SpeidTlv
  deriving DecidableEq, Repr

/-- Phases the TDC bank latched for one session (R199), in units of 2^-16 ns, and what the stamp logic reads of the
frames that the session sends in this clapper. -/
structure PhaseIn where
  session : Fin 16384
  phiTx : Nat
  phiRx : Nat
  tx : LineStamp
  deriving DecidableEq, Repr

/-- What the marker's hardware measured since the last marker: the control value of the reference
loop, the published frequency offsets in ppb of frequency candidates, the fitted raw instant of the first EVCLK edge
at or after the marker with that edge's number and the fractional frequency of EVCLK fitted over 16 clappers, the
fractional frequency of TBIN against TCLK over the clapper (both in units of 2^-40), and the symbol errors that the
lanes' pattern checkers found (R84, R217, R219, R263, R265). -/
structure MarkerIn where
  cv : Int
  freq : List (Fin 10 × Int)
  mapRaw : Raw
  mapEdge : Nat
  rho : Int
  tbFreq : Int
  patErr : List ((Fin 48 × Fin 8) × Nat)
  deriving DecidableEq, Repr

/-- A received fuse marker (R90). -/
structure FuseMarker where
  identity : BitVec 64
  upperRole : Bool
  clapper : Nat
  stamp : LineStamp
  deriving DecidableEq, Repr

/-- Trained values of one lane (R81): the TXEQ word and the two precoder bits. -/
structure TrainedLane where
  txeq : Word
  txPrecode : Bool
  rxPrecode : Bool
  deriving DecidableEq, Repr

/-- A received ESMC PDU (R210). -/
structure EsmcPdu where
  wellFormed : Bool
  isEvent : Bool
  ssm : BitVec 4
  essm : Option (BitVec 8)
  stamp : LineStamp
  deriving DecidableEq, Repr

/-- A persistent word whose copies fail their ECC check as a cold reset loads them (R313). -/
structure MramUpset where
  index : Nat
  copyA : Bool
  copyB : Bool
  deriving DecidableEq, Repr

/-- What a cold reset finds in its step 4: the straps at their balls, the persistent words with bad copies, and whether the
loss of supply had cut a commit between its two copies. -/
structure PowerUp where
  straps : BitVec 16
  mram : List MramUpset
  torn : Bool
  deriving DecidableEq, Repr

/-- The instructions of the TAP (R380). -/
inductive TapInstr where
  | bypass | idcode | samplePreload | extest | clamp | highz | extestPulse | extestTrain
  deriving DecidableEq, Repr

/-- What happens at the TAP (R380): TRST_N falls or rises, TMS leads it to Test-Logic-Reset, an instruction takes its
place in the instruction register, or the cells of the boundary register are updated. -/
inductive TapMove where
  | trst (low : Bool)
  | testLogicReset
  | load (i : TapInstr)
  | boundary (cells : List Bool)
  deriving DecidableEq, Repr

/-- A move of the TAP, with the levels at the strap balls, which are sampled where it ends a warm reset (R376). -/
structure TapEvent where
  move : TapMove
  straps : BitVec 16
  deriving DecidableEq, Repr

/-- A request that reaches the PCIe function (R23 to R26): a memory read or write of BAR0 or BAR2, of which a reset can let
only the first accesses be performed (R25, R305), a write of a word of the MSI-X table, or a configuration write of the
power state, D3hot or D0. -/
inductive PcieOp where
  | read (cut : Option Nat)
  | write (cut : Option Nat)
  | tableWrite (k : BitVec 8)
  | powerState (d3hot : Bool)
  deriving DecidableEq, Repr

/-- The head of an SMBus transaction: its address and its command, and whether the host acknowledges the last data byte of
a read (R377, R378). -/
structure SmbHead where
  addr : BitVec 7
  cmd : BitVec 8
  ack : Bool
  deriving DecidableEq, Repr

/-- A reference candidate: frequency candidate Fi or time slot Tk (Table 10-1). -/
inductive Cand where
  | freq (i : Fin 10)
  | time (k : Fin 8)
  deriving DecidableEq, Repr

/-- One pass over a delay line (R278): the hits that each tap collects, of 2^22, and the samplers that show a bubble. -/
structure TdcPass where
  hits : List Nat
  bubbles : List Nat
  deriving DecidableEq, Repr

/-- The common grid onto which a CAL_TDC of bank 8 brings the event channels (R264, R279): its boundaries and the term
G(i) of each interval, in units of 2^-32 ns before the sampling edge at the balls, and the interval of each tap of each
channel. -/
structure TdcGrid where
  bounds : List Nat
  terms : List Nat
  intervals : List (List Nat)
  deriving DecidableEq, Repr

/-- The measured outcome of a calibration run (R278 to R283). CAL_TDC brings the passes over the two lines of each
channel in turn, and the grid of bank 8. -/
inductive CalIn where
  | tdc (lines : List (List TdcPass)) (grid : TdcGrid)
  | lanes (tx rx : List Nat)
  | links (delays : List Nat)
  | phase (d : Int)
  | asym (loop : Nat) (probesOk : Bool)
  deriving DecidableEq, Repr

/-- A table window whose operation ends, and the bits in which the entry that it reads met an upset, with whether the
error cannot be corrected (R117). -/
structure TblEnd where
  window : Fin 5
  upset : Option (BitVec 128 × Bool)
  deriving DecidableEq, Repr

/-- A READ of the session window, and the bits in which the word that it reads met an error that cannot be corrected. -/
structure SessAsk where
  path : Path
  upset : Option (BitVec 256)
  deriving DecidableEq, Repr

/-- The slot of a SET_TAKE, and the errors that its check meets in the shadow gate entries (R163). -/
structure TakeCheck where
  slot : Fin 16
  upsets : List (Fin 1024 × Ecc)
  deriving DecidableEq, Repr

/-- The slot of a TABLE_COMMIT, and the errors that its check meets in the staging words (R117). -/
structure CommitCheck where
  slot : Fin 16
  upsets : List ScrubHit
  deriving DecidableEq, Repr

/-- A grip engine that overruns its clapper, the phases latched for it, and how many items of its work it has reached
(R205). -/
structure Overrun where
  engine : Fin 8
  phases : List PhaseIn
  reached : Nat
  deriving DecidableEq, Repr

/-- Where an edge of an event channel was sampled: the number of the clock edge, and the taps that it had passed (R262). -/
structure EdgeAt where
  edge : Nat
  tap : Fin 384
  deriving DecidableEq, Repr

/-- A subport whose frame leaves its last bit, and what the ECC of the cells read since its start met (R143). -/
structure WireEnd where
  sub : Fin 8
  cells : List Ecc
  deriving DecidableEq, Repr

/-- A subport whose link falls, and whether by a remote fault alone, with the PCS still aligned (R86). -/
structure LinkFall where
  sub : Fin 8
  faultOnly : Bool
  deriving DecidableEq, Repr

/-- One regulator's telemetry: READ_VOUT in mV, READ_IOUT in 0.1 A, STATUS_WORD (R296). -/
structure RegTelem where
  vout : BitVec 16
  iout : BitVec 16
  status : BitVec 16
  deriving DecidableEq, Repr

/-- The commands of the block, in the order of the opcode table. A 27-bit address lies in the space of R355:
BAR0 from 0, the BAR2 rings from 0x0500_0000. -/
inductive Instr where
  | registerWrite (path : Path) (addr : BitVec 27) (be : BitVec 4) (data : Word)
  | wideLowRead (path : Path) (addr : BitVec 26)
  | wideWrite (path : Path) (addr : BitVec 26) (be : BitVec 4) (data : Word)
  | nowRead (path : Path) (lag : Fin 4)
  | convert (path : Path)
  | convertDone
  | tblRead (path : Path) (w : Fin 5) (data : Word)
  | tblWrite (path : Path) (w : Fin 5) (data : Word)
  | tblOpDone (e : TblEnd)
  | schdRead (path : Path) (w : Fin 2)
  | schdWrite (path : Path) (w : Fin 2) (andRead : Bool)
  | schdOpDone (w : Fin 2) (ecc : Ecc)
  | sessRead (ask : SessAsk)
  | sessReadDone
  | archRead (path : Path)
  | archReadDone
  | apply (path : Path) (p : Fin 48)
  | treeCheckDone (p : Fin 48) (upsets : List (Fin 256 × Ecc))
  | injectA (path : Path)
  | injectB (path : Path)
  | injectBoth (path : Path)
  | slateW0Read (path : Path) (e : Fin 8)
  | bankDataRead (path : Path)
  | probeCountRead (path : Path) (k : Fin 64)
  | bar4Read (offset : BitVec 20) (count : Nat)
  | bar4Write (offset : BitVec 20) (data : Word)
  | pcieMemRequest (op : PcieOp) (addr : BitVec 27) (firstBe lastBe : BitVec 4) (count : Nat) (data : List Word)
  | smbusBlockWrite (head : SmbHead) (count : BitVec 8) (offset data : Word) (pec : Pec)
  | smbusProcessCall (head : SmbHead) (count : BitVec 8) (offset : Word)
  | smbusTimeout
  | go (path : Path) (slot : Fin 16) (tag opcode : BitVec 8) (irq : Bool)
  | admitFlow (slot : Fin 16)
  | releaseFlow (slot : Fin 16)
  | setTake (check : TakeCheck)
  | tableCommit (check : CommitCheck)
  | acceptStep (slot : Fin 16)
  | reslate (slot : Fin 16)
  | setAsym (slot : Fin 16)
  | sessionOpen (slot : Fin 16)
  | sessionClose (slot : Fin 16)
  | calTdc (slot : Fin 16) (lines : List (List TdcPass)) (grid : TdcGrid)
  | calLaneDelay (slot : Fin 16) (tx rx : List Nat)
  | calDieLink (slot : Fin 16) (delays : List Nat)
  | calPllPhase (slot : Fin 16) (d : Int)
  | calAsym (slot : Fin 16) (loop : Nat) (probesOk : Bool)
  | snapshot (slot : Fin 16)
  | readDailies (slot : Fin 16)
  | deviceReset (slot : Fin 16)
  | groupReset (slot : Fin 16)
  | portReset (slot : Fin 16)
  | setPowerState (slot : Fin 16)
  | powerTransitionDone (slot : Fin 16)
  | portModeWrite (path : Path) (p : Fin 48) (maxframe : Bool) (be : BitVec 4) (data : Word)
  | twoShotWrite (path : Path) (p : Fin 48) (be : BitVec 4) (data : Word)
  | enableWrite (path : Path) (p : Fin 48) (be : BitVec 4) (data : Word)
  | mergeEnWrite (path : Path) (p : Fin 48) (be : BitVec 4) (data : Word)
  | clkoutCfgWrite (path : Path) (n : Fin 8) (be : BitVec 4) (data : Word)
  | ppsoutCfgWrite (path : Path) (n : Fin 4) (reg : Fin 3) (be : BitVec 4) (data : Word)
  | evModeWrite (path : Path) (e : Fin 8) (be : BitVec 4) (data : Word)
  | rwpWrite (path : Path) (be : BitVec 4) (data : Word)
  | persCommit
  | dmaBatchWrite (e : Fin 8)
  | clapperMarker (m : MarkerIn)
  | gripClapper (g : Fin 8) (phases : List PhaseIn)
  | gripOverrun (o : Overrun)
  | directorOverrun
  | servoCompute
  | coastEntry
  | directorMismatch
  | directorSelftestDone (pass : Bool)
  | gafferMismatch
  | gafferSelftestDone (pass : Bool)
  | sensorReading (khz : List (Fin 64 × Nat))
  | driftMeasure (taps : List (Fin 10 × Nat))
  | oscHourly
  | dailyPlan (linkMoved : Bool)
  | avsStep (readMv : Nat)
  | avsReadbackTimeout (readMv : Nat)
  | telemetryPoll (t0 t1 t2 : RegTelem)
  | pmbAlert (s0 s1 s2 : BitVec 16)
  | tempReading (temps : List (Fin 10 × Int))
  | thermalTrip
  | dipEntry (rail : Fin 5) (minMv : Nat)
  | dipEndCondition
  | dipTimeout
  | railResetLevel (rail : Fin 5)
  | powerOn (x : PowerUp)
  | sequenceRailTimeout (rail : Fin 3)
  | sequenceRestart (x : PowerUp)
  | masterLockTimeout
  | resetReady (pass0 pass1 gafferPass : Bool)
  | warmResetAssert
  | warmResetRelease (straps : BitVec 16)
  | thermalHoldRelease (straps : BitVec 16)
  | xoLoss
  | xoReturn
  | groupFault (g : Fin 8)
  | groupResetReady (g : Fin 8)
  | handshakeComplete (page : BitVec 14)
  | pcieFlr
  | pcieLinkDown (perst : Bool)
  | masterPllLol
  | masterPllLock (band : BitVec 4) (phis : List Nat)
  | masterPllRetry
  | fallbackReturn
  | corePllLol (pllB : Bool)
  | coreSettingChange
  | coreStandbyLocked
  | lanePllLol (g : Fin 8) (k : Fin 2)
  | lanePllRelock (g : Fin 8) (k : Fin 2)
  | ppsoutPulse (n : Fin 4)
  | tbinLoss (multiplier : Bool)
  | tbinReturn
  | eventEdge (e : Fin 8) (rising : Bool) (place : EdgeAt) (inSwitch : Bool)
  | deadTimeEnd (e : Fin 8)
  | frameReceive (f : RxFrame)
  | frameAdmission (id : Nat)
  | frameTailAdmission (id : Nat) (how : TailEnd)
  | cellForm (id : Nat)
  | schedulerSlot (fault : SlotFault) (ecc : List StoreHit)
  | bufferAudit (drift : List (Fin 96 × Int))
  | bufferSweepDone (store : Fin 96)
  | txFrameStart (p : Fin 48) (s : Fin 8) (stamp : LineStamp) (ecc : TxEcc)
  | txUnderrun (p : Fin 48) (s : Fin 8)
  | txFrameEnd (p : Fin 48) (x : WireEnd)
  | seqWaitExpiry (id : Nat)
  | fuseMarkerRx (p : Fin 48) (m : FuseMarker)
  | linkDown (p : Fin 48) (x : LinkFall)
  | holdExpiry (p : Fin 48) (s : Fin 8)
  | linkUp (p : Fin 48) (s : Fin 8)
  | linkTrainingDone (p : Fin 48) (s : Fin 8) (lanes : List TrainedLane)
  | anFail (p : Fin 48) (s : Fin 8)
  | anRetry (p : Fin 48) (s : Fin 8)
  | mergeVerifyDone (p : Fin 48) (s : Fin 8) (ok : Bool)
  | tableScrub (hits : List ScrubHit)
  | parityScan (upsets : List (BitVec 26 × Fin 33))
  | voteRepair (addr : BitVec 26) (flipA flipB flipC : Word)
  | takeBoundary (p : Fin 48)
  | gateEvent (p : Fin 48) (ecc : Ecc)
  | takeCutover (p : Fin 48)
  | txRingServe (f : RxFrame)
  | esmcInfoTx (p : Fin 48) (s : Fin 8)
  | esmcEventTx (p : Fin 48) (s : Fin 8)
  | esmcPduRx (p : Fin 48) (s : Fin 8) (pdu : EsmcPdu)
  | esmcFailed (p : Fin 48) (s : Fin 8)
  | ptpMessageRx (m : PtpMsg)
  | annTimeout (n : Fin 16384)
  | gripFault (g : Fin 8)
  | gripRestartDone (g : Fin 8) (phases : List PhaseIn)
  | ppsinPulse (n : Fin 2) (stamp : Raw)
  | holdoffExpiry (c : Cand)
  | wtrExpiry (c : Cand)
  | refActivityLoss (c : Cand)
  | acquireStageSettle
  | jtagInstruction (x : TapEvent)
  | pcsAlignment (p : Fin 48) (s : Fin 8)
  | standbyPairMismatch
  | gafferOverrun
  | tbinPresent
  | multiplierLock
  | refActivityReturn (c : Cand)
  | vddAuxRemoval
  | pcieLinkUp
  deriving DecidableEq, Repr

end Sys2Proof
end

