-- ==== Sys2Proof/Decode.lean ====
section
/-! DEFINITION. The command a table word spells. The rows of the opcode table give no bits: the block takes events of its pins, engines and register bus, not words. -/

namespace Sys2Proof

/-- The command spelt by `nbits` bits `w` of the opcode table: none, since no row of the table gives bits. -/
def decodeTableWord (_nbits _w : Nat) : Option Instr := none

end Sys2Proof
end

