-- ==== Sys2Proof/Config.lean ====
section
/-! DEFINITION. What one implementation fixes and the spec leaves open: constants without a body, of which nothing can be proved. -/

namespace Sys2Proof.Config

/-- The one-way delay of die link n held in ROM, in 1/16 ps (R9, R281): the spec gives no value. -/
opaque romLinkDelay : Nat → Nat

/-- The places where the spec states a quantity by a formula, a field holds it as a whole number of units,
and the spec does not say how it is rounded: a delay of the ledger or of a pulse (R196, R216, R253), an
offset and a mean path delay (R197, R201), the far end's rate term (R200), the dolly's move (R228), a
frequency in ppb (R219), the mean of a holdover, of a second and of an hour (R231, R233, R287), a
least-squares slope and the oscillator's offset (R287, R291), a degradation (R285), need in mV (R288), a
stamp error (R286), microseconds (R300, R340), a loop delay (R283), a lane skew (R91), a stamp (R175), a fine
delay (R253), a phase (R199, R201) and a scaled equaliser tap (R84). -/
inductive Rounded where
  | delay | offset | meanPath | farRate | dolly | frequency | holdover | second | hour | slope | oscillator
  | degradation | need | stampError | micros | loop | skew | stamp | fine | phase | tap
  deriving DecidableEq, Repr

/-- Whether a quotient that is not whole is taken upward at such a place: the spec does not say. -/
opaque roundUp : Rounded → Int → Int → Bool

/-- The ball-to-line delay D_e of an event channel (R262) and the fixed paths of a lane before CAL_LANE_DELAY has
measured them (R175), held in ROM, in units of 2^-32 ns and 1/16 ps: the spec gives no value. -/
opaque ballDelay : Nat → Nat
opaque romLaneTx : Nat → Nat
opaque romLaneRx : Nat → Nat

/-- The hits of 2^22 that stand for the width of a tap of a line in ROM (R176, R262): the spec gives no value. -/
opaque romTap : Nat → Nat → Nat

/-- The share of a tap that the last tap with hits of a line adds to the taps of a sampling cycle, in 1/256: R279 does not
say how it is interpolated from that tap's share of hits. -/
opaque lastTap : List Nat → Nat

/-- The class in which the KN4876 sends a frame that it originates (R346): the spec gives none. -/
opaque ownClass : Fin 16

/-- The slope of points that lie on no one line, in units of 2^-40: R219 does not say how a line is fitted to the
offsets of 16 s. Each point is its time after the first and its offset, both in units of 2^-16 ns. -/
opaque slope : List (Int × Int) → Int

/-- The slope of a phase that does not move evenly, in 2^-32 ns per clapper: R199 does not say how it is fitted to the
last 16 clappers. The phases are listed newest first, in units of 2^-16 ns. -/
opaque phaseSlope : List Nat → Int

/-- The flags that a MASTER sends beside those that R194 gives when it sends the ANN fields of its entry. -/
opaque annFlags : BitVec 8

/-- The enhanced SSM code that the extended QL TLV carries for an SSM code in automatic mode (R210): the spec gives no
table. -/
opaque enhancedSsm : Nat → BitVec 8

end Sys2Proof.Config
end

