-- ==== Sys2Proof/Machine/Operands.lean ====
section
/-! DEFINITION. Operand forms: bit fields of words and entries, signed readings, byte enables, and the named fields of the table, node, gate, session and mailbox words. -/

namespace Sys2Proof.Machine

/-- Bits [hi:lo] of a word as a number. -/
def bits {n : Nat} (w : BitVec n) (hi lo : Nat) : Nat := w.toNat / 2 ^ lo % 2 ^ (hi - lo + 1)

/-- One bit of a word. -/
def bit {n : Nat} (w : BitVec n) (k : Nat) : Bool := bits w k k == 1

/-- A `width`-bit number read in two's complement. -/
def signed (width x : Nat) : Int :=
  if 2 ^ (width - 1) ≤ x % 2 ^ width then (x % 2 ^ width : Nat) - (2 ^ width : Nat) else (x % 2 ^ width : Nat)

/-- An integer in two's complement on `width` bits. -/
def twos (width : Nat) (x : Int) : Nat := (x % (2 ^ width : Nat)).toNat

/-- The 32-bit word of a number. -/
def word (n : Nat) : Word := BitVec.ofNat 32 n

/-- 1 for true. -/
def ofBool (b : Bool) : Nat := if b then 1 else 0

/-- Limit a number to a range. -/
def clamp (lo hi x : Nat) : Nat := if x < lo then lo else if hi < x then hi else x

/-- Limit an integer to a range. -/
def clampI (lo hi x : Int) : Int := if x < lo then lo else if hi < x then hi else x

/-- Least number at or above the quotient. -/
def ceilDiv (a b : Nat) : Nat := (a + b - 1) / b

/-- Round to nearest, ties toward zero (R182). -/
def roundTiesZero (a : Int) (b : Nat) : Int :=
  if 0 ≤ a then ((2 * a.toNat + b - 1) / (2 * b) : Nat)
  else - (((2 * (-a).toNat + b - 1) / (2 * b) : Nat) : Int)

/-- A quotient whose rounding the spec leaves open: itself where it is whole, else one of its two neighbours. -/
def freeDiv (place : Config.Rounded) (a b : Int) : Int :=
  a / b + (if a % b ≠ 0 ∧ Config.roundUp place a b = true then 1 else 0)

/-- Round to nearest, ties away from zero. -/
def roundNear (a : Int) (b : Nat) : Int :=
  if 0 ≤ a then ((2 * a.toNat + b) / (2 * b) : Nat)
  else - (((2 * (-a).toNat + b) / (2 * b) : Nat) : Int)

/-- The mask of the bytes that four byte enables turn on (R36). -/
def beMask (be : BitVec 4) : Word :=
  word ((if bit be 0 then 0xFF else 0) + (if bit be 1 then 0xFF00 else 0)
    + (if bit be 2 then 0xFF0000 else 0) + (if bit be 3 then 0xFF000000 else 0))

/-- Signed difference of raw values (R167): positive when `b` is later than `a`. -/
def rawDiff (a b : Raw) : Int := signed 64 (b - a).toNat

/-- Four 32-bit words as one 128-bit entry, lowest first. -/
def entry128 (w0 w1 w2 w3 : Word) : BitVec 128 := w3 ++ w2 ++ w1 ++ w0

/-- Word i of an entry. -/
def entryWord {n : Nat} (e : BitVec n) (i : Nat) : Word := word (e.toNat / 2 ^ (32 * i) % 2 ^ 32)

/-- Eight 32-bit words as one 256-bit word, lowest first. -/
def entry256 (ws : List Word) : BitVec 256 :=
  BitVec.ofNat 256 (ws.reverse.foldl (fun a w => a * 2 ^ 32 + w.toNat) 0)

/-- The n-th element of a list of words, zero beyond its end. -/
def nth (ws : List Word) (i : Nat) : Word := ws.getD i 0

/-- Network time in units of 2^-16 ns from seconds and nanoseconds (R168). -/
def netTime (sec ns : Nat) : Nat := (sec * 1000000000 + ns) * 65536

/-- Seconds of a network time. -/
def netSec (t : Nat) : Nat := t / 65536 / 1000000000 % 2 ^ 48

/-- Nanoseconds of a network time. -/
def netNs (t : Nat) : Nat := t / 65536 % 1000000000

/-- The four words of a network time, fraction first (Table 8-5). -/
def netWords (t : Nat) : List Word :=
  [word (t % 65536), word (netNs t), word (netSec t % 2 ^ 32), word (netSec t / 2 ^ 32)]

/-- The SWAP, POP, … codes of Table 5-3. -/
def actSwap : Nat := 0
def actPop : Nat := 1
def actPopLookup : Nat := 2
def actPush : Nat := 3
def actNodeSeg : Nat := 4
def actAdjSeg : Nat := 5
def actTrap : Nat := 6
def actDrop : Nat := 7
def actToGrip : Nat := 8

/-- Fields of a path entry (Table 5-2). -/
def pathValid (e : BitVec 128) : Bool := bit e 127
def pathGen (e : BitVec 128) : Nat := bits e 126 119
def pathAction (e : BitVec 128) : Nat := bits e 118 115
def pathLcount (e : BitVec 128) : Nat := bits e 114 112
def pathClass (e : BitVec 128) : Nat := bits e 111 108
def pathDetnet (e : BitVec 128) : Bool := bit e 107
def pathUniform (e : BitVec 128) : Bool := bit e 106
def pathTcCopy (e : BitVec 128) : Bool := bit e 105
def pathIsGroup (e : BitVec 128) : Bool := bit e 104
def pathGroupSize (e : BitVec 128) : Nat := bits e 103 98
def pathNh (e : BitVec 128) : Nat := bits e 97 80
def pathLabel (e : BitVec 128) (i : Nat) : Nat := bits e (79 - 20 * i) (60 - 20 * i)

/-- LCOUNT lies in the range Table 5-3 gives for the action. -/
def lcountOk (action lcount : Nat) : Bool :=
  if action = actSwap ∨ action = actPush then decide (1 ≤ lcount ∧ lcount ≤ 4)
  else if action = actPop ∨ action = actNodeSeg ∨ action = actAdjSeg then decide (lcount ≤ 4)
  else lcount == 0

/-- A path entry that R114 refuses. -/
def pathBad (e : BitVec 128) : Bool :=
  pathValid e && (decide (8 < pathAction e) || !lcountOk (pathAction e) (pathLcount e)
    || (pathAction e == actAdjSeg && pathIsGroup e)
    || (pathIsGroup e && decide (262143 < pathNh e + pathGroupSize e)))

/-- Fields of a next-hop entry (Table 5-4). -/
def nhValid (e : BitVec 128) : Bool := bit e 127
def nhPort (e : BitVec 128) : Nat := bits e 118 113
def nhSub (e : BitVec 128) : Nat := bits e 112 110
def nhVlan (e : BitVec 128) : Nat := bits e 109 108
def nhVid (e : BitVec 128) : Nat := bits e 107 96
def nhDmac (e : BitVec 128) : BitVec 48 := BitVec.ofNat 48 (bits e 95 48)

/-- A next-hop entry that R114 refuses. -/
def nhBad (e : BitVec 128) : Bool := nhValid e && decide (47 < nhPort e)

/-- Fields of a flow entry (Table 5-5). -/
def flowValid (e : BitVec 128) : Bool := bit e 127
def flowGen (e : BitVec 128) : Nat := bits e 126 119
def flowKey (e : BitVec 128) : Nat := bits e 118 78
def flowPort (e : BitVec 128) : Nat := bits e 77 72
def flowSub (e : BitVec 128) : Nat := bits e 71 69
def flowClass (e : BitVec 128) : Nat := bits e 68 65
def flowDemote (e : BitVec 128) : Nat := bits e 64 61
def flowDrop (e : BitVec 128) : Bool := bit e 60
def flowRate (e : BitVec 128) : Nat := bits e 59 38
def flowBurst (e : BitVec 128) : Nat := bits e 37 18
def flowMaxf (e : BitVec 128) : Nat := bits e 17 4
def flowSeqLen (e : BitVec 128) : Nat := bits e 3 2

/-- The flow key of a label pair: SECOND_PRESENT, TOP, SECOND (R104). -/
def flowKeyOf (present : Bool) (top second : Nat) : Nat :=
  (ofBool present * 2 ^ 20 + top) * 2 ^ 20 + second

/-- The set of a label pair (R104). -/
def flowSet (present : Bool) (top second : Nat) : Nat :=
  let x := top ^^^ second
  (x % 2 ^ 14) ^^^ (x / 2 ^ 14 % 2 ^ 6) ^^^ (ofBool present * 0x2000)

/-- Fields of a tree node (Table 7-1). -/
def nodeValid (e : BitVec 128) : Bool := bit e 127
def nodeSealed (e : BitVec 128) : Bool := bit e 126
def nodeKind (e : BitVec 128) : Nat := bits e 125 124
def nodeParent (e : BitVec 128) : Nat := bits e 123 116
def nodePrio (e : BitVec 128) : Nat := bits e 115 112
def nodeWeight (e : BitVec 128) : Nat := max 1 (bits e 111 104)
def nodeClass (e : BitVec 128) : Nat := bits e 103 100
def nodeCir (e : BitVec 128) : Nat := bits e 99 78
def nodePir (e : BitVec 128) : Nat := bits e 77 56
def nodeCbs (e : BitVec 128) : Nat := max 1 (bits e 55 40) * 64
def nodePbs (e : BitVec 128) : Nat := max 1 (bits e 39 24) * 64

/-- A committed rate without limit (Table 7-1). -/
def unlimited : Nat := 0x3FFFFF

/-- Fields of a gate entry (Table 7-2). -/
def gateDuration (e : BitVec 64) : Nat := bits e 52 32
def gateMask (e : BitVec 64) : BitVec 16 := BitVec.ofNat 16 (bits e 15 0)

/-- Fields of a label stack entry. -/
def labelOf (e : BitVec 32) : Nat := bits e 31 12
def tcOf (e : BitVec 32) : Nat := bits e 11 9
def bottomOf (e : BitVec 32) : Bool := bit e 8
def ttlOf (e : BitVec 32) : Nat := bits e 7 0
def labelEntry (label tc ttl : Nat) (bottom : Bool) : BitVec 32 :=
  word (((label * 8 + tc) * 2 + ofBool bottom) * 256 + ttl)

/-- Fields of a session's configuration word (Table 9-8). -/
def cfgMaster (c : BitVec 256) : Bool := bit c 254
def cfgProfile (c : BitVec 256) : Nat := bits c 253 252
def cfgSpeid (c : BitVec 256) : Bool := bit c 251
def cfgTransport (c : BitVec 256) : Nat := bits c 250 249
def cfgPort (c : BitVec 256) : Nat := bits c 248 243
def cfgSub (c : BitVec 256) : Nat := bits c 242 240
def cfgDomain (c : BitVec 256) : Nat := bits c 239 232
def cfgLogSync (c : BitVec 256) : Int := signed 4 (bits c 231 228)
def cfgLogDelay (c : BitVec 256) : Int := signed 4 (bits c 227 224)
def cfgLogAnnounce (c : BitVec 256) : Int := signed 4 (bits c 223 220)
def cfgDaSel (c : BitVec 256) : Nat := bits c 219 218
def cfgVid (c : BitVec 256) : Nat := bits c 217 206
def cfgLabel (c : BitVec 256) : Nat := bits c 205 186
def cfgNh (c : BitVec 256) : Nat := bits c 185 168
def cfgTtl (c : BitVec 256) : Nat := bits c 167 160
def cfgAnnForce (c : BitVec 256) : Bool := bit c 7
def cfgPeer (c : BitVec 256) : BitVec 80 := BitVec.ofNat 80 (bits c 159 80)

end Sys2Proof.Machine
end

