-- ==== Sys2Proof/Machine/RegMap.lean ====
section
/-! DEFINITION. The register tables of the spec (Tables 0-1, 1-4, 2-3, 3-5, 3-6, 4-3 to 16-5), one list of rows per kind of page, and the named fields of those tables. -/

namespace Sys2Proof.Machine

/-- Access codes of Table 2-4 (R30); `ctr` is RW on a field that counts events (R30, R344). -/
inductive Access where
  | rw | ro | ros | w1c | w1s | trg | rwv | rwp | ctr
  deriving DecidableEq, Repr

/-- One field of a register table: least bit, width, access code, Reset value, and its Survives
column as a mask: 1 W, 2 S, 4 G, 8 T, 0x10 PORT_DARK, 0x20 GROUP_DARK, 0x40 STANDBY, 0x80 C
(R31). `idx` marks a field whose Reset value is its own index (the lane map of Table 4-4). -/
structure FieldRow where
  lsb : Nat
  width : Nat
  acc : Access
  reset : Word
  keep : Nat
  idx : Bool
  deriving DecidableEq, Repr

/-- One row of a register table: byte offset in its page, up to two index ranges (count and byte
stride), and its fields. -/
structure RegRow where
  off : Nat
  n1 : Nat
  st1 : Nat
  n2 : Nat
  st2 : Nat
  fields : List FieldRow
  deriving DecidableEq, Repr

/-- A named field: the byte address of its word in the address space of R355, its least bit, its
width and its Reset value. -/
structure Fld where
  addr : Nat
  lsb : Nat
  width : Nat
  reset : Word
  deriving DecidableEq, Repr

/-- Registers of the `sys` kind of page. -/
def rowsSys : List RegRow := [
  ⟨0x40, 1, 0, 1, 0, [⟨4, 4, .ro, 0xb, 0xff, false⟩, ⟨0, 4, .ro, 0, 0xff, false⟩]⟩,
  ⟨0x44, 1, 0, 1, 0, [⟨8, 8, .ro, 2, 0xff, false⟩, ⟨0, 8, .ro, 3, 0xff, false⟩]⟩,
  ⟨0x48, 1, 0, 1, 0, [⟨16, 16, .ro, 0, 0x7f, false⟩, ⟨8, 1, .ro, 0, 0x7c, false⟩, ⟨4, 1, .ro, 0, 0x7c, false⟩, ⟨3, 1, .w1c, 0, 0x7c, false⟩, ⟨2, 1, .ro, 0, 0x7c, false⟩, ⟨0, 1, .ro, 0, 0x7c, false⟩]⟩,
  ⟨0x4c, 1, 0, 1, 0, [⟨0, 1, .rw, 0, 0x7c, false⟩]⟩]

/-- Registers of the `hdr` kind of page. -/
def rowsHdr : List RegRow := [
  ⟨4, 1, 0, 1, 0, [⟨3, 1, .w1c, 0, 0, false⟩, ⟨2, 1, .w1c, 0, 0, false⟩, ⟨1, 1, .w1c, 0, 0, false⟩, ⟨0, 1, .w1c, 0, 0, false⟩]⟩,
  ⟨8, 1, 0, 1, 0, [⟨1, 1, .rw, 0, 0, false⟩, ⟨0, 1, .rw, 0, 0, false⟩]⟩,
  ⟨0xc, 1, 0, 1, 0, [⟨16, 16, .ro, 0, 0, false⟩, ⟨0, 1, .w1s, 0, 0, false⟩]⟩,
  ⟨0x10, 1, 0, 1, 0, [⟨16, 16, .ro, 0, 0, false⟩, ⟨0, 10, .ro, 0, 0, false⟩]⟩,
  ⟨0x14, 1, 0, 1, 0, [⟨0, 32, .ctr, 0, 0, false⟩]⟩]

/-- Registers of the `adm` kind of page. -/
def rowsAdm : List RegRow := [
  ⟨0x40, 1, 0, 1, 0, [⟨8, 1, .rw, 1, 0x3c, false⟩, ⟨0, 4, .rw, 0, 0x3c, false⟩]⟩,
  ⟨0x44, 1, 0, 1, 0, [⟨16, 16, .ro, 0, 0x3c, false⟩, ⟨11, 1, .w1c, 0, 0x3c, false⟩, ⟨10, 1, .ro, 0, 0x3c, false⟩, ⟨9, 1, .w1c, 0, 0x3c, false⟩, ⟨8, 1, .w1c, 0, 0x3c, false⟩, ⟨0, 8, .ro, 0, 0x3c, false⟩]⟩,
  ⟨0x100, 8, 0x80, 1, 0, [⟨0, 9, .rwv, 0, 0x3c, false⟩]⟩,
  ⟨0x104, 8, 0x80, 1, 0, [⟨0, 22, .ro, 0, 0x3c, false⟩]⟩,
  ⟨0x108, 8, 0x80, 1, 0, [⟨0, 17, .ro, 0, 0x3c, false⟩]⟩,
  ⟨0x110, 8, 0x80, 4, 4, [⟨0, 32, .ro, 0, 0x3c, false⟩]⟩,
  ⟨0x120, 8, 0x80, 1, 0, [⟨0, 32, .ctr, 0, 0x3c, false⟩]⟩,
  ⟨0x124, 8, 0x80, 1, 0, [⟨0, 32, .ctr, 0, 0x3c, false⟩]⟩,
  ⟨0x128, 8, 0x80, 1, 0, [⟨0, 32, .ctr, 0, 0x3c, false⟩]⟩,
  ⟨0x12c, 8, 0x80, 1, 0, [⟨0, 32, .ctr, 0, 0x3c, false⟩]⟩,
  ⟨0x130, 8, 0x80, 1, 0, [⟨0, 32, .ctr, 0, 0x3c, false⟩]⟩,
  ⟨0x134, 8, 0x80, 1, 0, [⟨0, 32, .ctr, 0, 0x3c, false⟩]⟩,
  ⟨0x138, 8, 0x80, 1, 0, [⟨0, 32, .ctr, 0, 0x3c, false⟩]⟩,
  ⟨0x13c, 8, 0x80, 1, 0, [⟨0, 32, .ctr, 0, 0x3c, false⟩]⟩,
  ⟨0x140, 8, 0x80, 1, 0, [⟨0, 32, .ctr, 0, 0x3c, false⟩]⟩,
  ⟨0x144, 8, 0x80, 1, 0, [⟨0, 32, .ctr, 0, 0x3c, false⟩]⟩,
  ⟨0x148, 8, 0x80, 1, 0, [⟨0, 32, .ctr, 0, 0x3c, false⟩]⟩,
  ⟨0x14c, 8, 0x80, 1, 0, [⟨0, 32, .ctr, 0, 0x3c, false⟩]⟩,
  ⟨0x150, 8, 0x80, 1, 0, [⟨0, 32, .ctr, 0, 0x3c, false⟩]⟩,
  ⟨0x154, 8, 0x80, 1, 0, [⟨0, 32, .ctr, 0, 0x3c, false⟩]⟩]

/-- Registers of the `port0` kind of page. -/
def rowsPort0 : List RegRow := [
  ⟨0x40, 1, 0, 1, 0, [⟨8, 1, .rwv, 0, 0x3c, false⟩, ⟨4, 2, .rwv, 0, 0x3c, false⟩, ⟨0, 2, .rwv, 0, 0x3c, false⟩]⟩,
  ⟨0x44, 1, 0, 1, 0, [⟨8, 2, .rw, 0, 0x3c, false⟩, ⟨0, 8, .rw, 0, 0x3c, false⟩]⟩,
  ⟨0x48, 1, 0, 1, 0, [⟨21, 1, .ro, 0, 0x30, false⟩, ⟨20, 1, .ro, 0, 0x30, false⟩, ⟨19, 1, .ro, 0, 0x30, false⟩, ⟨18, 1, .ro, 0, 0x30, false⟩, ⟨17, 1, .ro, 0, 0x30, false⟩, ⟨16, 1, .w1c, 0, 0x30, false⟩, ⟨8, 8, .ro, 0, 0x30, false⟩, ⟨0, 8, .ro, 0, 0x30, false⟩]⟩,
  ⟨0x4c, 1, 0, 1, 0, [⟨0, 14, .rwv, 0x2400, 0x3c, false⟩]⟩,
  ⟨0x50, 1, 0, 1, 0, [⟨0, 21, .rw, 0x40000, 0x3c, false⟩]⟩,
  ⟨0x54, 1, 0, 1, 0, [⟨8, 2, .rw, 0, 0x3c, false⟩, ⟨0, 1, .rw, 0, 0x3c, false⟩]⟩,
  ⟨0x58, 1, 0, 1, 0, [⟨0, 16, .ro, 0, 0x30, false⟩]⟩]

/-- Registers of the `port1` kind of page. -/
def rowsPort1 : List RegRow := [
  ⟨0x40, 8, 0xc, 1, 0, [⟨14, 2, .rw, 0, 0x3c, false⟩, ⟨12, 1, .rw, 0, 0x3c, false⟩, ⟨11, 1, .rw, 0, 0x3c, false⟩, ⟨10, 1, .rw, 0, 0x3c, false⟩, ⟨9, 1, .rw, 0, 0x3c, false⟩, ⟨4, 3, .rw, 0, 0x3c, true⟩, ⟨0, 3, .rw, 0, 0x3c, true⟩]⟩,
  ⟨0x44, 8, 0xc, 1, 0, [⟨24, 6, .rw, 0, 0x3c, false⟩, ⟨18, 6, .rw, 0x3f, 0x3c, false⟩, ⟨12, 6, .rw, 0, 0x3c, false⟩, ⟨6, 6, .rw, 0, 0x3c, false⟩, ⟨0, 6, .rw, 0, 0x3c, false⟩]⟩,
  ⟨0x48, 8, 0xc, 1, 0, [⟨0, 32, .ctr, 0, 0x30, false⟩]⟩]

/-- Registers of the `port2` kind of page. -/
def rowsPort2 : List RegRow := [
  ⟨0x40, 8, 0x40, 1, 0, [⟨0, 32, .ctr, 0, 0x30, false⟩]⟩,
  ⟨0x44, 8, 0x40, 1, 0, [⟨0, 32, .ctr, 0, 0x30, false⟩]⟩,
  ⟨0x48, 8, 0x40, 1, 0, [⟨0, 32, .ctr, 0, 0x30, false⟩]⟩,
  ⟨0x4c, 8, 0x40, 1, 0, [⟨0, 32, .ctr, 0, 0x30, false⟩]⟩,
  ⟨0x50, 8, 0x40, 1, 0, [⟨0, 32, .ctr, 0, 0x30, false⟩]⟩,
  ⟨0x54, 8, 0x40, 1, 0, [⟨0, 32, .ctr, 0, 0x30, false⟩]⟩,
  ⟨0x58, 8, 0x40, 1, 0, [⟨0, 32, .ctr, 0, 0x30, false⟩]⟩,
  ⟨0x5c, 8, 0x40, 1, 0, [⟨0, 32, .ctr, 0, 0x30, false⟩]⟩,
  ⟨0x60, 8, 0x40, 1, 0, [⟨0, 32, .ctr, 0, 0x30, false⟩]⟩,
  ⟨0x64, 8, 0x40, 1, 0, [⟨0, 32, .ctr, 0, 0x30, false⟩]⟩,
  ⟨0x68, 8, 0x40, 1, 0, [⟨0, 32, .ctr, 0, 0x30, false⟩]⟩,
  ⟨0x6c, 8, 0x40, 1, 0, [⟨0, 32, .ctr, 0, 0x30, false⟩]⟩,
  ⟨0x70, 8, 0x40, 1, 0, [⟨0, 32, .ctr, 0, 0x30, false⟩]⟩]

/-- Registers of the `port3` kind of page. -/
def rowsPort3 : List RegRow := [
  ⟨0x40, 1, 0, 1, 0, [⟨8, 1, .rw, 1, 0x3c, false⟩, ⟨4, 1, .rw, 1, 0x3c, false⟩, ⟨3, 1, .rw, 0, 0x3c, false⟩, ⟨0, 2, .rw, 1, 0x3c, false⟩]⟩,
  ⟨0x44, 1, 0, 1, 0, [⟨0, 18, .rw, 0, 0x3c, false⟩]⟩,
  ⟨0x48, 1, 0, 1, 0, [⟨0, 32, .rwv, 0, 0x3c, false⟩]⟩,
  ⟨0x4c, 1, 0, 1, 0, [⟨0, 16, .rwv, 0, 0x3c, false⟩]⟩,
  ⟨0x50, 1, 0, 1, 0, [⟨0, 32, .ctr, 0, 0x30, false⟩]⟩,
  ⟨0x54, 1, 0, 1, 0, [⟨0, 32, .ctr, 0, 0x30, false⟩]⟩,
  ⟨0x58, 1, 0, 1, 0, [⟨0, 32, .ctr, 0, 0x30, false⟩]⟩,
  ⟨0x5c, 1, 0, 1, 0, [⟨0, 32, .ctr, 0, 0x30, false⟩]⟩,
  ⟨0x60, 1, 0, 1, 0, [⟨0, 32, .ctr, 0, 0x30, false⟩]⟩,
  ⟨0x64, 1, 0, 1, 0, [⟨0, 32, .ctr, 0, 0x30, false⟩]⟩,
  ⟨0x68, 1, 0, 1, 0, [⟨0, 32, .ctr, 0, 0x30, false⟩]⟩,
  ⟨0x6c, 1, 0, 1, 0, [⟨0, 32, .ctr, 0, 0x30, false⟩]⟩,
  ⟨0x70, 1, 0, 1, 0, [⟨0, 32, .ctr, 0, 0x30, false⟩]⟩,
  ⟨0x74, 1, 0, 1, 0, [⟨0, 32, .ctr, 0, 0x30, false⟩]⟩,
  ⟨0x78, 1, 0, 1, 0, [⟨0, 32, .ctr, 0, 0x30, false⟩]⟩]

/-- Registers of the `ring` kind of page. -/
def rowsRing : List RegRow := [
  ⟨0, 1, 0, 1, 0, [⟨9, 1, .rw, 0, 0x3c, false⟩, ⟨8, 1, .rw, 0, 0x3c, false⟩, ⟨0, 4, .rw, 6, 0x3c, false⟩]⟩,
  ⟨4, 1, 0, 1, 0, [⟨0, 15, .ro, 0, 0x3c, false⟩]⟩,
  ⟨8, 1, 0, 1, 0, [⟨0, 15, .rw, 0, 0x3c, false⟩]⟩,
  ⟨0xc, 1, 0, 1, 0, [⟨0, 17, .rw, 0, 0x3c, false⟩]⟩,
  ⟨0x10, 1, 0, 1, 0, [⟨0, 32, .ctr, 0, 0x3c, false⟩]⟩,
  ⟨0x14, 1, 0, 1, 0, [⟨0, 32, .ctr, 0, 0x3c, false⟩]⟩,
  ⟨0x18, 1, 0, 1, 0, [⟨0, 32, .ctr, 0, 0x3c, false⟩]⟩]

/-- Registers of the `tbl` kind of page. -/
def rowsTbl : List RegRow := [
  ⟨0x40, 1, 0, 1, 0, [⟨0, 20, .rw, 0, 0x3c, false⟩]⟩,
  ⟨0x44, 4, 4, 1, 0, [⟨0, 32, .rw, 0, 0x3c, false⟩]⟩,
  ⟨0x54, 1, 0, 1, 0, [⟨17, 1, .trg, 0, 0, false⟩, ⟨16, 1, .trg, 0, 0, false⟩, ⟨8, 1, .rw, 0, 0x3c, false⟩, ⟨0, 8, .rw, 0, 0x3c, false⟩]⟩,
  ⟨0x58, 1, 0, 1, 0, [⟨8, 1, .ro, 0, 0x3c, false⟩, ⟨0, 4, .ro, 0, 0x3c, false⟩]⟩,
  ⟨0x5c, 1, 0, 1, 0, [⟨0, 32, .ctr, 0, 0x3c, false⟩]⟩,
  ⟨0x60, 1, 0, 1, 0, [⟨0, 32, .ctr, 0, 0x3c, false⟩]⟩,
  ⟨0x64, 1, 0, 1, 0, [⟨0, 20, .ro, 0, 0x3c, false⟩]⟩]

/-- Registers of the `tblnh` kind of page. -/
def rowsTblnh : List RegRow := [
  ⟨0x68, 1, 0, 1, 0, [⟨0, 16, .rwv, 0, 0x3c, false⟩]⟩]

/-- Registers of the `tblstage` kind of page. -/
def rowsTblstage : List RegRow := [
  ⟨0x68, 1, 0, 1, 0, [⟨20, 1, .rw, 0, 0x3c, false⟩, ⟨0, 20, .rw, 0, 0x3c, false⟩]⟩]

/-- Registers of the `fab` kind of page. -/
def rowsFab : List RegRow := [
  ⟨0x40, 1, 0, 1, 0, [⟨2, 1, .trg, 0, 0, false⟩, ⟨1, 1, .trg, 0, 0, false⟩, ⟨0, 1, .trg, 0, 0, false⟩]⟩,
  ⟨0x44, 1, 0, 1, 0, [⟨7, 1, .ro, 0, 0x3c, false⟩, ⟨6, 1, .w1c, 0, 0x3c, false⟩, ⟨5, 1, .w1c, 0, 0x3c, false⟩, ⟨4, 1, .ro, 0, 0x3c, false⟩, ⟨1, 1, .ro, 0, 0x3c, false⟩, ⟨0, 1, .ro, 0, 0x3c, false⟩]⟩,
  ⟨0x48, 1, 0, 1, 0, [⟨0, 32, .ctr, 0, 0x3c, false⟩]⟩,
  ⟨0x4c, 1, 0, 1, 0, [⟨0, 32, .ctr, 0, 0x3c, false⟩]⟩,
  ⟨0x50, 1, 0, 1, 0, [⟨0, 32, .ctr, 0, 0x3c, false⟩]⟩,
  ⟨0x54, 1, 0, 1, 0, [⟨0, 32, .ctr, 0, 0x3c, false⟩]⟩,
  ⟨0x58, 1, 0, 1, 0, [⟨0, 32, .ctr, 0, 0x3c, false⟩]⟩,
  ⟨0x5c, 1, 0, 1, 0, [⟨0, 32, .ctr, 0, 0x3c, false⟩]⟩,
  ⟨0x60, 1, 0, 1, 0, [⟨0, 32, .ro, 0, 0x3c, false⟩]⟩,
  ⟨0x64, 1, 0, 1, 0, [⟨0, 32, .ro, 0, 0x3c, false⟩]⟩]

/-- Registers of the `buf0` kind of page. -/
def rowsBuf0 : List RegRow := [
  ⟨0x40, 48, 0x40, 16, 4, [⟨0, 15, .rwv, 0x300, 0x3c, false⟩]⟩]

/-- Registers of the `buf1` kind of page. -/
def rowsBuf1 : List RegRow := [
  ⟨0x40, 48, 0x40, 16, 4, [⟨16, 15, .ro, 0, 0x3c, false⟩, ⟨0, 15, .ro, 0, 0x3c, false⟩]⟩]

/-- Registers of the `buf2` kind of page. -/
def rowsBuf2 : List RegRow := [
  ⟨0x40, 48, 0x40, 16, 4, [⟨0, 32, .ctr, 0, 0x3c, false⟩]⟩]

/-- Registers of the `buf3` kind of page. -/
def rowsBuf3 : List RegRow := [
  ⟨0x40, 1, 0, 1, 0, [⟨8, 6, .ro, 0, 0x3c, false⟩, ⟨3, 1, .w1c, 0, 0x3c, false⟩, ⟨2, 1, .ro, 0, 0x3c, false⟩, ⟨1, 1, .w1c, 0, 0x3c, false⟩, ⟨0, 1, .w1c, 0, 0x3c, false⟩]⟩,
  ⟨0x44, 1, 0, 1, 0, [⟨0, 32, .ctr, 0, 0x3c, false⟩]⟩,
  ⟨0x48, 1, 0, 1, 0, [⟨0, 32, .ctr, 0, 0x3c, false⟩]⟩,
  ⟨0x4c, 1, 0, 1, 0, [⟨0, 32, .ctr, 0, 0x3c, false⟩]⟩,
  ⟨0x50, 1, 0, 1, 0, [⟨0, 32, .ctr, 0, 0x3c, false⟩]⟩,
  ⟨0x54, 1, 0, 1, 0, [⟨0, 32, .ctr, 0, 0x3c, false⟩]⟩,
  ⟨0x58, 1, 0, 1, 0, [⟨0, 32, .ctr, 0, 0x3c, false⟩]⟩,
  ⟨0x5c, 1, 0, 1, 0, [⟨0, 32, .ctr, 0, 0x3c, false⟩]⟩,
  ⟨0x60, 1, 0, 1, 0, [⟨0, 32, .ctr, 0, 0x3c, false⟩]⟩,
  ⟨0x100, 48, 4, 1, 0, [⟨0, 14, .ro, 0x3000, 0x3c, false⟩]⟩]

/-- Registers of the `port4` kind of page. -/
def rowsPort4 : List RegRow := [
  ⟨0x40, 1, 0, 1, 0, [⟨16, 9, .ro, 0, 0x30, false⟩, ⟨0, 11, .ro, 0, 0x30, false⟩]⟩,
  ⟨0x44, 1, 0, 1, 0, [⟨0, 32, .ctr, 0, 0x30, false⟩]⟩,
  ⟨0x48, 1, 0, 1, 0, [⟨0, 32, .ctr, 0, 0x30, false⟩]⟩,
  ⟨0x4c, 1, 0, 1, 0, [⟨0, 32, .ctr, 0, 0x30, false⟩]⟩,
  ⟨0x50, 1, 0, 1, 0, [⟨0, 32, .ctr, 0, 0x30, false⟩]⟩,
  ⟨0x54, 1, 0, 1, 0, [⟨0, 32, .ctr, 0, 0x30, false⟩]⟩,
  ⟨0x58, 1, 0, 1, 0, [⟨0, 32, .ctr, 0, 0x30, false⟩]⟩]

/-- Registers of the `schd` kind of page. -/
def rowsSchd : List RegRow := [
  ⟨0x40, 1, 0, 1, 0, [⟨16, 1, .rw, 0, 0x3c, false⟩, ⟨0, 16, .rw, 0, 0x3c, false⟩]⟩,
  ⟨0x44, 4, 4, 1, 0, [⟨0, 32, .rw, 0, 0x3c, false⟩]⟩,
  ⟨0x54, 1, 0, 1, 0, [⟨17, 1, .trg, 0, 0, false⟩, ⟨16, 1, .trg, 0, 0, false⟩]⟩,
  ⟨0x58, 1, 0, 1, 0, [⟨8, 1, .ro, 0, 0x3c, false⟩, ⟨0, 4, .ro, 0, 0x3c, false⟩]⟩,
  ⟨0x5c, 1, 0, 1, 0, [⟨0, 32, .ctr, 0, 0x3c, false⟩]⟩,
  ⟨0x60, 1, 0, 1, 0, [⟨0, 32, .ctr, 0, 0x3c, false⟩]⟩]

/-- Registers of the `port5` kind of page. -/
def rowsPort5 : List RegRow := [
  ⟨0x40, 1, 0, 1, 0, [⟨0, 1, .trg, 0, 0, false⟩]⟩,
  ⟨0x44, 1, 0, 1, 0, [⟨16, 4, .ro, 0, 0x3c, false⟩, ⟨8, 8, .ro, 0, 0x3c, false⟩, ⟨4, 1, .ro, 0, 0x3c, false⟩, ⟨0, 4, .ro, 0, 0x3c, false⟩]⟩,
  ⟨0x48, 1, 0, 1, 0, [⟨17, 1, .ro, 0, 0x3c, false⟩, ⟨16, 1, .ro, 0, 0x3c, false⟩, ⟨0, 11, .ro, 0, 0x3c, false⟩]⟩,
  ⟨0x4c, 1, 0, 1, 0, [⟨0, 21, .ro, 0, 0x3c, false⟩]⟩,
  ⟨0x50, 1, 0, 1, 0, [⟨0, 32, .ro, 0, 0x3c, false⟩]⟩,
  ⟨0x54, 1, 0, 1, 0, [⟨0, 32, .ro, 0, 0x3c, false⟩]⟩,
  ⟨0x58, 1, 0, 1, 0, [⟨0, 32, .ctr, 0, 0x3c, false⟩]⟩,
  ⟨0x5c, 1, 0, 1, 0, [⟨0, 32, .ctr, 0, 0x3c, false⟩]⟩,
  ⟨0x60, 1, 0, 1, 0, [⟨0, 32, .ctr, 0, 0x3c, false⟩]⟩]

/-- Registers of the `time0` kind of page. -/
def rowsTime0 : List RegRow := [
  ⟨0x7c, 1, 0, 1, 0, [⟨8, 1, .ro, 0, 0x7c, false⟩, ⟨7, 1, .w1c, 0, 0x7c, false⟩, ⟨6, 1, .w1c, 0, 0x7c, false⟩, ⟨5, 1, .w1c, 0, 0x7c, false⟩, ⟨3, 1, .ro, 0, 0x7c, false⟩, ⟨2, 1, .ro, 0, 0x7c, false⟩, ⟨0, 2, .ro, 0, 0x7c, false⟩]⟩,
  ⟨0x80, 1, 0, 1, 0, [⟨24, 6, .rwv, 0x15, 0x7c, false⟩, ⟨21, 1, .rwv, 0, 0x7c, false⟩, ⟨16, 5, .rwv, 0xa, 0x7c, false⟩, ⟨0, 16, .rwv, 0x10, 0x7c, false⟩]⟩,
  ⟨0x84, 1, 0, 1, 0, [⟨0, 30, .rwv, 0x64, 0x7c, false⟩]⟩,
  ⟨0x90, 1, 0, 1, 0, [⟨16, 5, .ro, 0, 0x7c, false⟩, ⟨0, 16, .ro, 0xffff, 0x7c, false⟩]⟩,
  ⟨0xa0, 1, 0, 1, 0, [⟨16, 1, .ro, 0, 0x7c, false⟩, ⟨0, 14, .ro, 0, 0x7c, false⟩]⟩,
  ⟨0xa4, 1, 0, 1, 0, [⟨9, 1, .w1c, 0, 0x7c, false⟩, ⟨8, 1, .w1c, 0, 0x7c, false⟩, ⟨0, 8, .w1c, 0, 0x7c, false⟩]⟩,
  ⟨0xb0, 1, 0, 1, 0, [⟨0, 1, .trg, 0, 0, false⟩]⟩,
  ⟨0xb4, 1, 0, 1, 0, [⟨8, 1, .ro, 0, 0x7c, false⟩, ⟨4, 1, .ro, 0, 0x7c, false⟩, ⟨0, 2, .ro, 0, 0x7c, false⟩]⟩,
  ⟨0x88, 1, 0, 1, 0, [⟨0, 32, .ro, 0, 0x7c, false⟩]⟩,
  ⟨0x8c, 1, 0, 1, 0, [⟨0, 32, .ro, 0, 0x7c, false⟩]⟩,
  ⟨0x94, 1, 0, 1, 0, [⟨0, 32, .ro, 0, 0x7c, false⟩]⟩,
  ⟨0x98, 1, 0, 1, 0, [⟨0, 32, .ro, 0, 0x7c, false⟩]⟩,
  ⟨0x9c, 1, 0, 1, 0, [⟨0, 32, .ro, 0, 0x7c, false⟩]⟩,
  ⟨0xa8, 1, 0, 1, 0, [⟨0, 32, .rw, 0, 0x7c, false⟩]⟩,
  ⟨0xac, 1, 0, 1, 0, [⟨0, 32, .rw, 0, 0x7c, false⟩]⟩,
  ⟨0xc8, 1, 0, 1, 0, [⟨0, 32, .ctr, 0, 0x7c, false⟩]⟩,
  ⟨0xcc, 1, 0, 1, 0, [⟨0, 32, .ctr, 0, 0x7c, false⟩]⟩,
  ⟨0xd0, 1, 0, 1, 0, [⟨0, 32, .ctr, 0, 0x7c, false⟩]⟩,
  ⟨0xd4, 1, 0, 1, 0, [⟨0, 32, .ctr, 0, 0x7c, false⟩]⟩,
  ⟨0xd8, 1, 0, 1, 0, [⟨0, 32, .ctr, 0, 0x7c, false⟩]⟩,
  ⟨0xdc, 1, 0, 1, 0, [⟨0, 32, .ctr, 0, 0x7c, false⟩]⟩]

/-- Registers of the `time1` kind of page. -/
def rowsTime1 : List RegRow := [
  ⟨0x40, 1, 0, 1, 0, [⟨16, 1, .rw, 0, 0x7c, false⟩, ⟨0, 14, .rw, 0, 0x7c, false⟩]⟩,
  ⟨0x44, 1, 0, 1, 0, [⟨0, 1, .trg, 0, 0, false⟩]⟩,
  ⟨0x48, 1, 0, 1, 0, [⟨8, 1, .ro, 0, 0x7c, false⟩, ⟨0, 4, .ro, 0, 0x7c, false⟩]⟩,
  ⟨0x4c, 8, 4, 1, 0, [⟨0, 32, .ro, 0, 0x7c, false⟩]⟩]

/-- Registers of the `grp2` kind of page. -/
def rowsGrp2 : List RegRow := [
  ⟨0x40, 1, 0, 1, 0, [⟨17, 1, .ro, 0, 0x18, false⟩, ⟨0, 13, .ro, 0, 0x3c, false⟩]⟩,
  ⟨0x44, 1, 0, 1, 0, [⟨16, 14, .ro, 0, 0x18, false⟩, ⟨0, 14, .ro, 0, 0x18, false⟩]⟩,
  ⟨0x48, 1, 0, 1, 0, [⟨0, 32, .ctr, 0, 0x18, false⟩]⟩,
  ⟨0x4c, 1, 0, 1, 0, [⟨0, 32, .ctr, 0, 0x18, false⟩]⟩,
  ⟨0x50, 1, 0, 1, 0, [⟨0, 32, .ctr, 0, 0x18, false⟩]⟩,
  ⟨0x54, 1, 0, 1, 0, [⟨0, 32, .ctr, 0, 0x18, false⟩]⟩,
  ⟨0x58, 1, 0, 1, 0, [⟨0, 32, .ctr, 0, 0x18, false⟩]⟩,
  ⟨0x5c, 1, 0, 1, 0, [⟨0, 32, .ctr, 0, 0x18, false⟩]⟩,
  ⟨0x60, 1, 0, 1, 0, [⟨0, 32, .ctr, 0, 0x18, false⟩]⟩,
  ⟨0x64, 1, 0, 1, 0, [⟨0, 32, .ctr, 0, 0x18, false⟩]⟩,
  ⟨0x68, 1, 0, 1, 0, [⟨0, 32, .ctr, 0, 0x18, false⟩]⟩,
  ⟨0x6c, 1, 0, 1, 0, [⟨0, 32, .ctr, 0, 0x18, false⟩]⟩,
  ⟨0x70, 1, 0, 1, 0, [⟨0, 32, .ctr, 0, 0x18, false⟩]⟩,
  ⟨0x74, 1, 0, 1, 0, [⟨0, 32, .ctr, 0, 0x18, false⟩]⟩]

/-- Registers of the `port6` kind of page. -/
def rowsPort6 : List RegRow := [
  ⟨0x40, 1, 0, 1, 0, [⟨24, 8, .rw, 0, 0x3c, false⟩, ⟨16, 4, .rw, 0xf, 0x3c, false⟩, ⟨11, 1, .rw, 0, 0x3c, false⟩, ⟨10, 1, .rw, 0, 0x3c, false⟩, ⟨8, 2, .rw, 0, 0x3c, false⟩, ⟨0, 8, .rw, 0, 0x3c, false⟩]⟩,
  ⟨0x44, 8, 4, 1, 0, [⟨16, 8, .ro, 0, 0x30, false⟩, ⟨8, 4, .ro, 0, 0x30, false⟩, ⟨1, 1, .ro, 0, 0x30, false⟩, ⟨0, 1, .ro, 0, 0x30, false⟩]⟩,
  ⟨0x64, 1, 0, 1, 0, [⟨0, 32, .ctr, 0, 0x30, false⟩]⟩,
  ⟨0x68, 1, 0, 1, 0, [⟨0, 32, .ctr, 0, 0x30, false⟩]⟩,
  ⟨0x6c, 1, 0, 1, 0, [⟨0, 32, .ctr, 0, 0x30, false⟩]⟩,
  ⟨0x70, 1, 0, 1, 0, [⟨0, 32, .ctr, 0, 0x30, false⟩]⟩]

/-- Registers of the `pers2` kind of page. -/
def rowsPers2 : List RegRow := [
  ⟨0x40, 48, 0x40, 8, 8, [⟨16, 16, .ro, 0, 0xff, false⟩, ⟨0, 16, .ro, 0, 0xff, false⟩]⟩,
  ⟨0x44, 48, 0x40, 8, 8, [⟨8, 24, .ro, 0, 0xff, false⟩, ⟨6, 2, .ro, 0, 0xff, false⟩]⟩]

/-- Registers of the `ref0` kind of page. -/
def rowsRef0 : List RegRow := [
  ⟨0x40, 1, 0, 1, 0, [⟨31, 1, .rw, 0, 0x7c, false⟩, ⟨16, 14, .rwv, 0x3e8, 0x7c, false⟩, ⟨12, 4, .rw, 0xb, 0x7c, false⟩, ⟨0, 12, .rw, 0x12c, 0x7c, false⟩]⟩,
  ⟨0x44, 1, 0, 1, 0, [⟨16, 12, .rw, 0xa, 0x7c, false⟩, ⟨0, 16, .rw, 0x64, 0x7c, false⟩]⟩,
  ⟨0x48, 1, 0, 1, 0, [⟨16, 12, .rw, 0x78, 0x7c, false⟩, ⟨0, 12, .rw, 0x12c, 0x7c, false⟩]⟩,
  ⟨0x4c, 1, 0, 1, 0, [⟨28, 4, .ro, 0xf, 0x7c, false⟩, ⟨24, 4, .ro, 0xb, 0x7c, false⟩, ⟨23, 1, .w1c, 0, 0x7c, false⟩, ⟨22, 1, .w1c, 0, 0x7c, false⟩, ⟨16, 2, .ro, 0, 0x7c, false⟩, ⟨0, 15, .ro, 0, 0x7c, false⟩]⟩,
  ⟨0x50, 1, 0, 1, 0, [⟨0, 32, .ro, 0, 0x7c, false⟩]⟩,
  ⟨0x54, 1, 0, 1, 0, [⟨0, 32, .ro, 0, 0x7c, false⟩]⟩,
  ⟨0x58, 1, 0, 1, 0, [⟨0, 32, .ro, 0, 0x7c, false⟩]⟩,
  ⟨0x5c, 1, 0, 1, 0, [⟨0, 32, .ro, 0, 0x7c, false⟩]⟩,
  ⟨0x60, 1, 0, 1, 0, [⟨0, 12, .ro, 0, 0x7c, false⟩]⟩,
  ⟨0x64, 1, 0, 1, 0, [⟨0, 32, .ctr, 0, 0x7c, false⟩]⟩,
  ⟨0x68, 1, 0, 1, 0, [⟨0, 32, .ctr, 0, 0x7c, false⟩]⟩,
  ⟨0x6c, 1, 0, 1, 0, [⟨0, 32, .ctr, 0, 0x7c, false⟩]⟩,
  ⟨0x70, 1, 0, 1, 0, [⟨0, 32, .ctr, 0, 0x7c, false⟩]⟩,
  ⟨0x74, 1, 0, 1, 0, [⟨0, 32, .ctr, 0, 0x7c, false⟩]⟩]

/-- Registers of the `ref1` kind of page. -/
def rowsRef1 : List RegRow := [
  ⟨0x40, 6, 0x10, 1, 0, [⟨0, 30, .rw, 0, 0x7c, false⟩]⟩,
  ⟨0xa0, 4, 0x10, 1, 0, [⟨0, 9, .rw, 0, 0x7c, false⟩]⟩,
  ⟨0x44, 10, 0x10, 1, 0, [⟨31, 1, .rwv, 0, 0x7c, false⟩, ⟨30, 1, .rw, 0, 0x7c, false⟩, ⟨24, 4, .rw, 0xf, 0x7c, false⟩, ⟨20, 4, .rwv, 0xf, 0x7c, false⟩, ⟨0, 20, .rw, 0x11f8, 0x7c, false⟩]⟩,
  ⟨0x48, 10, 0x10, 1, 0, [⟨31, 1, .ro, 0, 0x7c, false⟩, ⟨30, 1, .ro, 0, 0x7c, false⟩, ⟨29, 1, .ro, 0, 0x7c, false⟩, ⟨28, 1, .ro, 0, 0x7c, false⟩, ⟨27, 1, .ro, 0, 0x7c, false⟩, ⟨24, 3, .ro, 0, 0x7c, false⟩, ⟨0, 24, .ro, 0, 0x7c, false⟩]⟩,
  ⟨0x4c, 10, 0x10, 1, 0, [⟨0, 32, .ctr, 0, 0x7c, false⟩]⟩]

/-- Registers of the `ref2` kind of page. -/
def rowsRef2 : List RegRow := [
  ⟨0x40, 1, 0, 1, 0, [⟨31, 1, .rw, 0, 0x7c, false⟩, ⟨16, 14, .rwv, 0x1f4, 0x7c, false⟩, ⟨0, 12, .rw, 0x12c, 0x7c, false⟩]⟩,
  ⟨0x44, 1, 0, 1, 0, [⟨24, 8, .rw, 7, 0x7c, false⟩, ⟨12, 12, .rw, 0xa, 0x7c, false⟩]⟩,
  ⟨0x48, 1, 0, 1, 0, [⟨31, 1, .ro, 0, 0x7c, false⟩, ⟨30, 1, .ro, 0, 0x7c, false⟩, ⟨29, 1, .w1c, 0, 0x7c, false⟩, ⟨0, 4, .ro, 0xf, 0x7c, false⟩]⟩,
  ⟨0x4c, 1, 0, 1, 0, [⟨0, 32, .ro, 0, 0x7c, false⟩]⟩,
  ⟨0x50, 1, 0, 1, 0, [⟨0, 32, .ro, 0, 0x7c, false⟩]⟩,
  ⟨0x54, 1, 0, 1, 0, [⟨0, 32, .ctr, 0, 0x7c, false⟩]⟩,
  ⟨0x58, 1, 0, 1, 0, [⟨0, 32, .ctr, 0, 0x7c, false⟩]⟩,
  ⟨0x80, 8, 0x10, 1, 0, [⟨31, 1, .rwv, 0, 0x7c, false⟩, ⟨30, 1, .rw, 0, 0x7c, false⟩, ⟨24, 4, .rwv, 0xf, 0x7c, false⟩, ⟨0, 14, .rw, 0, 0x7c, false⟩]⟩,
  ⟨0x84, 8, 0x10, 1, 0, [⟨0, 20, .rw, 0x11f8, 0x7c, false⟩]⟩,
  ⟨0x88, 8, 0x10, 1, 0, [⟨0, 32, .rw, 0, 0x7c, false⟩]⟩,
  ⟨0x8c, 8, 0x10, 1, 0, [⟨31, 1, .ro, 0, 0x7c, false⟩, ⟨30, 1, .ro, 0, 0x7c, false⟩, ⟨29, 1, .ro, 0, 0x7c, false⟩, ⟨28, 1, .ro, 0, 0x7c, false⟩, ⟨27, 1, .ro, 0, 0x7c, false⟩, ⟨24, 3, .ro, 0, 0x7c, false⟩, ⟨0, 24, .ro, 0, 0x7c, false⟩]⟩,
  ⟨0x100, 8, 4, 1, 0, [⟨0, 32, .ctr, 0, 0x7c, false⟩]⟩]

/-- Registers of the `ref3` kind of page. -/
def rowsRef3 : List RegRow := [
  ⟨0x40, 1, 0, 1, 0, [⟨0, 12, .rw, 0, 0x7c, false⟩]⟩,
  ⟨0x44, 1, 0, 1, 0, [⟨0, 1, .trg, 0, 0, false⟩]⟩,
  ⟨0x48, 1, 0, 1, 0, [⟨8, 1, .ro, 0, 0x7c, false⟩]⟩,
  ⟨0x4c, 4, 4, 1, 0, [⟨0, 32, .ro, 0, 0x7f, false⟩]⟩,
  ⟨0x5c, 1, 0, 1, 0, [⟨0, 12, .ro, 0, 0x7f, false⟩]⟩,
  ⟨0x60, 1, 0, 1, 0, [⟨0, 32, .ro, 0, 0x7f, false⟩]⟩]

/-- Registers of the `pll0` kind of page. -/
def rowsPll0 : List RegRow := [
  ⟨0x40, 1, 0, 1, 0, [⟨8, 1, .ro, 0, 0x7f, false⟩, ⟨7, 1, .w1c, 0, 0x7f, false⟩, ⟨6, 1, .w1c, 0, 0x7f, false⟩, ⟨4, 1, .ro, 0, 0x7f, false⟩, ⟨0, 4, .ro, 0, 0x7f, false⟩]⟩,
  ⟨0x44, 1, 0, 1, 0, [⟨16, 16, .ro, 0x1ae, 0xff, false⟩, ⟨0, 16, .ro, 0, 0x7f, false⟩]⟩,
  ⟨0x48, 1, 0, 1, 0, [⟨9, 1, .ro, 0, 0, false⟩, ⟨8, 1, .ro, 0, 0x7f, false⟩, ⟨5, 1, .ro, 1, 0x7c, false⟩, ⟨4, 1, .ro, 0, 0x7f, false⟩, ⟨3, 1, .ro, 0, 0x7f, false⟩, ⟨1, 1, .w1c, 0, 0x7f, false⟩, ⟨0, 1, .ro, 0, 0x7f, false⟩]⟩,
  ⟨0x4c, 1, 0, 1, 0, [⟨0, 16, .ro, 0, 0, false⟩]⟩,
  ⟨0x50, 1, 0, 1, 0, [⟨0, 32, .ctr, 0, 0x7f, false⟩]⟩,
  ⟨0x54, 1, 0, 1, 0, [⟨0, 32, .ctr, 0, 0x7f, false⟩]⟩,
  ⟨0x58, 1, 0, 1, 0, [⟨0, 32, .ctr, 0, 0x7f, false⟩]⟩,
  ⟨0x5c, 1, 0, 1, 0, [⟨0, 32, .ctr, 0, 0x7f, false⟩]⟩,
  ⟨0x60, 1, 0, 1, 0, [⟨0, 32, .ctr, 0, 0x7f, false⟩]⟩,
  ⟨0x64, 1, 0, 1, 0, [⟨0, 32, .ctr, 0, 0x7f, false⟩]⟩,
  ⟨0x68, 1, 0, 1, 0, [⟨0, 32, .ctr, 0, 0x7f, false⟩]⟩,
  ⟨0x6c, 1, 0, 1, 0, [⟨0, 32, .ctr, 0, 0x7f, false⟩]⟩]

/-- Registers of the `pll1` kind of page. -/
def rowsPll1 : List RegRow := [
  ⟨0x40, 8, 8, 1, 0, [⟨31, 1, .rw, 0, 0x7f, false⟩, ⟨0, 24, .rw, 0x64, 0x7f, false⟩]⟩,
  ⟨0x44, 8, 8, 1, 0, [⟨1, 1, .ro, 0, 0x7f, false⟩, ⟨0, 1, .ro, 0, 0x7f, false⟩]⟩,
  ⟨0x80, 4, 0x20, 1, 0, [⟨31, 1, .rw, 0, 0x7f, false⟩, ⟨0, 30, .rw, 0x3b9aca00, 0x7f, false⟩]⟩,
  ⟨0x84, 4, 0x20, 1, 0, [⟨0, 30, .rw, 0x5f5e100, 0x7f, false⟩]⟩,
  ⟨0x88, 4, 0x20, 1, 0, [⟨0, 32, .rw, 0, 0x7f, false⟩]⟩,
  ⟨0x8c, 4, 0x20, 1, 0, [⟨2, 1, .ro, 0, 0x7f, false⟩, ⟨1, 1, .ro, 0, 0x7f, false⟩, ⟨0, 1, .ro, 1, 0x7f, false⟩]⟩,
  ⟨0x90, 4, 0x20, 1, 0, [⟨0, 32, .ro, 0, 0x7f, false⟩]⟩,
  ⟨0x94, 4, 0x20, 1, 0, [⟨0, 32, .ro, 0, 0x7f, false⟩]⟩,
  ⟨0x98, 4, 0x20, 1, 0, [⟨0, 32, .ctr, 0, 0x7f, false⟩]⟩,
  ⟨0x9c, 4, 0x20, 1, 0, [⟨0, 32, .ctr, 0, 0x7f, false⟩]⟩]

/-- Registers of the `tdc0` kind of page. -/
def rowsTdc0 : List RegRow := [
  ⟨0x40, 1, 0, 1, 0, [⟨1, 1, .rw, 0, 0x7c, false⟩, ⟨0, 1, .rw, 0, 0x7c, false⟩]⟩,
  ⟨0x44, 1, 0, 1, 0, [⟨3, 1, .w1c, 0, 0x7c, false⟩, ⟨2, 1, .ro, 0, 0x7c, false⟩, ⟨1, 1, .ro, 0, 0x7c, false⟩, ⟨0, 1, .ro, 0, 0x7c, false⟩]⟩,
  ⟨0x48, 1, 0, 1, 0, [⟨0, 32, .ro, 0, 0x7c, false⟩]⟩,
  ⟨0x4c, 1, 0, 1, 0, [⟨0, 32, .ctr, 0, 0x7c, false⟩]⟩,
  ⟨0x50, 1, 0, 1, 0, [⟨0, 32, .ctr, 0, 0x7c, false⟩]⟩]

/-- Registers of the `ev` kind of page. -/
def rowsEv : List RegRow := [
  ⟨0x40, 1, 0, 1, 0, [⟨8, 2, .rw, 0, 0x7c, false⟩, ⟨4, 1, .rw, 0, 0x7c, false⟩, ⟨0, 2, .rw, 0, 0x7c, false⟩]⟩,
  ⟨0x44, 1, 0, 1, 0, [⟨31, 1, .w1c, 0, 0x7c, false⟩, ⟨30, 1, .ro, 0, 0x7c, false⟩, ⟨16, 13, .ro, 0, 0x7c, false⟩, ⟨0, 13, .ro, 0, 0x7c, false⟩]⟩,
  ⟨0x58, 1, 0, 1, 0, [⟨12, 20, .rw, 0, 0x7c, false⟩]⟩,
  ⟨0x5c, 1, 0, 1, 0, [⟨0, 32, .rw, 0, 0x7c, false⟩]⟩,
  ⟨0x60, 1, 0, 1, 0, [⟨8, 8, .rw, 0xa, 0x7c, false⟩, ⟨0, 5, .rw, 0xc, 0x7c, false⟩]⟩,
  ⟨0x64, 1, 0, 1, 0, [⟨0, 20, .ro, 0, 0x7c, false⟩]⟩,
  ⟨0x68, 1, 0, 1, 0, [⟨0, 20, .rw, 0, 0x7c, false⟩]⟩,
  ⟨0x6c, 1, 0, 1, 0, [⟨0, 32, .ctr, 0, 0x7c, false⟩]⟩,
  ⟨0x70, 1, 0, 1, 0, [⟨0, 32, .ctr, 0, 0x7c, false⟩]⟩,
  ⟨0x74, 1, 0, 1, 0, [⟨0, 32, .ctr, 0, 0x7c, false⟩]⟩]

/-- Registers of the `cal0` kind of page. -/
def rowsCal0 : List RegRow := [
  ⟨0x40, 1, 0, 1, 0, [⟨12, 10, .ro, 0, 0x7f, false⟩, ⟨11, 1, .ro, 0, 0x7c, false⟩, ⟨10, 1, .ro, 0, 0x7f, false⟩, ⟨7, 3, .ro, 0, 0x7c, false⟩, ⟨6, 1, .ro, 0, 0x7c, false⟩, ⟨0, 2, .ro, 0, 0x7c, false⟩]⟩,
  ⟨0x44, 1, 0, 1, 0, [⟨0, 32, .ro, 0, 0x7f, false⟩]⟩,
  ⟨0x48, 1, 0, 1, 0, [⟨0, 16, .ro, 0, 0x7f, false⟩]⟩,
  ⟨0x4c, 1, 0, 1, 0, [⟨8, 8, .ro, 0, 0x7c, false⟩, ⟨0, 8, .ro, 0, 0x7c, false⟩]⟩,
  ⟨0x50, 1, 0, 1, 0, [⟨0, 32, .ctr, 0, 0x7c, false⟩]⟩,
  ⟨0x54, 1, 0, 1, 0, [⟨0, 32, .ctr, 0, 0x7c, false⟩]⟩,
  ⟨0x58, 1, 0, 1, 0, [⟨0, 32, .ctr, 0, 0x7c, false⟩]⟩,
  ⟨0x5c, 1, 0, 1, 0, [⟨0, 32, .ctr, 0, 0x7c, false⟩]⟩]

/-- Registers of the `cal1` kind of page. -/
def rowsCal1 : List RegRow := [
  ⟨0x40, 384, 8, 1, 0, [⟨0, 16, .ro, 0, 0x7f, false⟩]⟩,
  ⟨0x44, 384, 8, 1, 0, [⟨0, 16, .ro, 0, 0x7f, false⟩]⟩]

/-- Registers of the `cal2` kind of page. -/
def rowsCal2 : List RegRow := [
  ⟨0x40, 1, 0, 1, 0, [⟨0, 32, .ro, 0, 0x7f, false⟩]⟩,
  ⟨0x44, 1, 0, 1, 0, [⟨0, 32, .ro, 0, 0x7f, false⟩]⟩,
  ⟨0x48, 1, 0, 1, 0, [⟨16, 16, .ro, 0, 0x7f, false⟩, ⟨0, 16, .ro, 0, 0x7f, false⟩]⟩,
  ⟨0x4c, 1, 0, 1, 0, [⟨7, 1, .ro, 0, 0x7f, false⟩, ⟨6, 1, .ro, 0, 0x7f, false⟩, ⟨0, 5, .ro, 0, 0x7f, false⟩]⟩,
  ⟨0x50, 1, 0, 1, 0, [⟨0, 32, .ro, 0, 0x7f, false⟩]⟩,
  ⟨0x54, 1, 0, 1, 0, [⟨0, 32, .ro, 0, 0x7f, false⟩]⟩,
  ⟨0x58, 10, 4, 1, 0, [⟨0, 16, .ro, 0, 0x7f, false⟩]⟩,
  ⟨0x100, 64, 4, 1, 0, [⟨16, 16, .ro, 0, 0x7f, false⟩, ⟨0, 16, .ro, 0, 0x7f, false⟩]⟩]

/-- Registers of the `pers3` kind of page. -/
def rowsPers3 : List RegRow := [
  ⟨0x40, 5, 0x10, 1, 0, [⟨0, 32, .ro, 0, 0xff, false⟩]⟩,
  ⟨0x44, 5, 0x10, 1, 0, [⟨0, 32, .ro, 0, 0xff, false⟩]⟩,
  ⟨0x48, 5, 0x10, 1, 0, [⟨31, 1, .ro, 0, 0xff, false⟩, ⟨0, 16, .ro, 0, 0xff, false⟩]⟩,
  ⟨0x4c, 5, 0x10, 1, 0, [⟨0, 32, .ro, 0, 0xff, false⟩]⟩,
  ⟨0x100, 17, 4, 1, 0, [⟨0, 24, .ro, 0, 0xff, false⟩]⟩,
  ⟨0x180, 10, 4, 1, 0, [⟨0, 18, .ro, 0, 0xff, false⟩]⟩,
  ⟨0x1c0, 1, 0, 1, 0, [⟨0, 32, .ro, 0, 0xff, false⟩]⟩,
  ⟨0x1c4, 1, 0, 1, 0, [⟨0, 32, .ro, 0, 0xff, false⟩]⟩,
  ⟨0x1c8, 1, 0, 1, 0, [⟨0, 32, .ro, 0, 0xff, false⟩]⟩]

/-- Registers of the `rst` kind of page. -/
def rowsRst : List RegRow := [
  ⟨0x40, 1, 0, 1, 0, [⟨4, 3, .ro, 0, 0x7c, false⟩, ⟨0, 4, .ro, 0, 0x7c, false⟩]⟩,
  ⟨0x44, 1, 0, 1, 0, [⟨8, 8, .ro, 0, 0x7c, false⟩, ⟨1, 1, .ro, 0, 0x7f, false⟩, ⟨0, 1, .ro, 0, 0, false⟩]⟩,
  ⟨0x48, 1, 0, 1, 0, [⟨0, 32, .ctr, 0, 0x7f, false⟩]⟩,
  ⟨0x4c, 1, 0, 1, 0, [⟨0, 32, .ctr, 0, 0x7f, false⟩]⟩,
  ⟨0x50, 1, 0, 1, 0, [⟨0, 32, .ctr, 0, 0x7f, false⟩]⟩,
  ⟨0x54, 1, 0, 1, 0, [⟨0, 32, .ctr, 0, 0x7f, false⟩]⟩]

/-- Registers of the `pwr` kind of page. -/
def rowsPwr : List RegRow := [
  ⟨0x40, 1, 0, 1, 0, [⟨3, 1, .w1c, 0, 0x7f, false⟩, ⟨2, 1, .ro, 0, 0x7f, false⟩, ⟨1, 1, .w1c, 0, 0x7f, false⟩, ⟨0, 1, .ro, 0, 0x7f, false⟩]⟩,
  ⟨0x44, 1, 0, 1, 0, [⟨29, 3, .ro, 0, 0x7f, false⟩, ⟨16, 13, .ro, 0, 0x7f, false⟩, ⟨0, 16, .ro, 0, 0x7f, false⟩]⟩,
  ⟨0x48, 1, 0, 1, 0, [⟨16, 10, .ro, 0, 0x7f, false⟩, ⟨0, 10, .ro, 0, 0x7f, false⟩]⟩,
  ⟨0x4c, 3, 4, 1, 0, [⟨16, 16, .ros, 0, 0x7f, false⟩, ⟨0, 16, .ros, 0, 0x7f, false⟩]⟩,
  ⟨0x58, 1, 0, 1, 0, [⟨0, 32, .ctr, 0, 0x7f, false⟩]⟩,
  ⟨0x5c, 1, 0, 1, 0, [⟨0, 32, .ctr, 0, 0x7f, false⟩]⟩,
  ⟨0x60, 1, 0, 1, 0, [⟨0, 32, .ctr, 0, 0x7f, false⟩]⟩,
  ⟨0x64, 1, 0, 1, 0, [⟨0, 32, .ctr, 0, 0x7f, false⟩]⟩]

/-- Registers of the `hlth` kind of page. -/
def rowsHlth : List RegRow := [
  ⟨0x40, 1, 0, 1, 0, [⟨0, 16, .w1c, 0, 0x7f, false⟩]⟩,
  ⟨0x44, 1, 0, 1, 0, [⟨0, 16, .rw, 0xffff, 0x7f, false⟩]⟩,
  ⟨0x48, 1, 0, 1, 0, [⟨0, 14, .ro, 0, 0x7f, false⟩]⟩,
  ⟨0x50, 10, 4, 1, 0, [⟨16, 16, .ro, 0x8000, 0x7f, false⟩, ⟨0, 16, .ros, 0, 0x7f, false⟩]⟩]

/-- Registers of the `pers0` kind of page. -/
def rowsPers0 : List RegRow := [
  ⟨0x40, 4, 4, 1, 0, [⟨0, 32, .ro, 0, 0xff, false⟩]⟩,
  ⟨0x50, 1, 0, 1, 0, [⟨3, 1, .w1c, 0, 0x7f, false⟩, ⟨2, 1, .w1c, 0, 0x7f, false⟩, ⟨1, 1, .w1c, 0, 0x7f, false⟩, ⟨0, 1, .w1c, 0, 0x7f, false⟩]⟩,
  ⟨0x54, 1, 0, 1, 0, [⟨0, 16, .ro, 0, 0x7f, false⟩]⟩,
  ⟨0x58, 1, 0, 1, 0, [⟨0, 16, .rw, 0, 0x7f, false⟩]⟩,
  ⟨0x60, 1, 0, 1, 0, [⟨0, 32, .ctr, 0, 0x7f, false⟩]⟩,
  ⟨0x64, 1, 0, 1, 0, [⟨0, 32, .ctr, 0, 0x7f, false⟩]⟩,
  ⟨0x80, 10, 4, 1, 0, [⟨0, 10, .ro, 0, 0xff, false⟩]⟩,
  ⟨0x100, 64, 4, 1, 0, [⟨0, 24, .ro, 0, 0xff, false⟩]⟩]

/-- Registers of the `pers1` kind of page. -/
def rowsPers1 : List RegRow := [
  ⟨0x40, 1, 0, 1, 0, [⟨16, 16, .rwp, 0, 0xff, false⟩, ⟨0, 16, .rwp, 0, 0xff, false⟩]⟩,
  ⟨0x44, 1, 0, 1, 0, [⟨0, 5, .ro, 0, 0xff, false⟩]⟩,
  ⟨0x80, 32, 4, 1, 0, [⟨22, 10, .ro, 0, 0xff, false⟩, ⟨12, 10, .ro, 0, 0xff, false⟩, ⟨0, 12, .ro, 0, 0xff, false⟩]⟩]

/-- Registers of the `cmd` kind of page. -/
def rowsCmd : List RegRow := [
  ⟨0x40, 4, 0x300, 1, 0, [⟨31, 1, .trg, 0, 0, false⟩, ⟨30, 1, .rw, 0, 0x7c, false⟩, ⟨16, 8, .rw, 0, 0x7c, false⟩, ⟨0, 8, .rw, 0, 0x7c, false⟩]⟩,
  ⟨0x44, 4, 0x300, 56, 4, [⟨0, 32, .rw, 0, 0x7c, false⟩]⟩,
  ⟨0x140, 4, 0x300, 1, 0, [⟨31, 1, .ro, 0, 0x7f, false⟩, ⟨16, 8, .ro, 0, 0x7f, false⟩, ⟨8, 8, .ro, 0, 0x7f, false⟩, ⟨0, 4, .ro, 0, 0x7f, false⟩]⟩,
  ⟨0x144, 4, 0x300, 56, 4, [⟨0, 32, .ro, 0, 0x7f, false⟩]⟩]

/-- Registers of the `cmd0` kind of page. -/
def rowsCmd0 : List RegRow := [
  ⟨0xc40, 1, 0, 1, 0, [⟨0, 16, .w1c, 0, 0x7f, false⟩]⟩,
  ⟨0xc44, 1, 0, 1, 0, [⟨0, 32, .ctr, 0, 0x7c, false⟩]⟩]

/-- Registers of the `traf` kind of page. -/
def rowsTraf : List RegRow := [
  ⟨0x40, 8, 0x40, 16, 4, [⟨0, 32, .ctr, 0, 0x3c, false⟩]⟩,
  ⟨0x240, 8, 0xc, 1, 0, [⟨0, 32, .ctr, 0, 0x3c, false⟩]⟩,
  ⟨0x244, 8, 0xc, 1, 0, [⟨0, 32, .ctr, 0, 0x3c, false⟩]⟩,
  ⟨0x248, 8, 0xc, 1, 0, [⟨0, 32, .ctr, 0, 0x3c, false⟩]⟩,
  ⟨0x2a0, 16, 4, 1, 0, [⟨0, 32, .ctr, 0, 0x3c, false⟩]⟩]

/-- Registers of the `pcnt0` kind of page. -/
def rowsPcnt0 : List RegRow := [
  ⟨0x40, 1, 0, 1, 0, [⟨0, 1, .rw, 0, 0x7c, false⟩]⟩,
  ⟨0x44, 1, 0, 1, 0, [⟨0, 32, .ro, 0, 0x7c, false⟩]⟩,
  ⟨0x48, 1, 0, 1, 0, [⟨31, 1, .ro, 0, 0x7c, false⟩, ⟨0, 14, .ro, 0, 0x7c, false⟩]⟩,
  ⟨0x4c, 1, 0, 1, 0, [⟨0, 32, .ro, 0, 0x7c, false⟩]⟩,
  ⟨0x50, 1, 0, 1, 0, [⟨0, 32, .ro, 0, 0x7c, false⟩]⟩,
  ⟨0x54, 1, 0, 1, 0, [⟨0, 10, .ro, 0, 0x7c, false⟩]⟩,
  ⟨0x58, 1, 0, 1, 0, [⟨0, 18, .rw, 0, 0x7c, false⟩]⟩,
  ⟨0x60, 1, 0, 1, 0, [⟨0, 32, .ctr, 0, 0x7c, false⟩]⟩]

/-- Registers of the `pcnt1` kind of page. -/
def rowsPcnt1 : List RegRow := [
  ⟨0x40, 64, 0x20, 1, 0, [⟨31, 1, .rw, 0, 0x7c, false⟩, ⟨16, 2, .rw, 0, 0x7c, false⟩, ⟨8, 3, .rw, 0, 0x7c, false⟩, ⟨0, 8, .rw, 0, 0x7c, false⟩]⟩,
  ⟨0x44, 64, 0x20, 1, 0, [⟨0, 32, .rw, 0, 0x7c, false⟩]⟩,
  ⟨0x48, 64, 0x20, 1, 0, [⟨2, 25, .rw, 0, 0x7c, false⟩]⟩,
  ⟨0x4c, 64, 0x20, 1, 0, [⟨2, 25, .rw, 0, 0x7c, false⟩]⟩,
  ⟨0x50, 64, 0x20, 1, 0, [⟨0, 32, .ctr, 0, 0x7c, false⟩]⟩]

/-! ### The named fields -/

namespace F

def sysSiliconRevBaseLayer : Fld := ⟨0x00000000 + 0x40, 4, 4, 0xb⟩
def sysSiliconRevMetal : Fld := ⟨0x00000000 + 0x40, 0, 4, 0⟩
def sysAqvanVerMajor : Fld := ⟨0x00000000 + 0x44, 8, 8, 2⟩
def sysAqvanVerMinor : Fld := ⟨0x00000000 + 0x44, 0, 8, 3⟩
def sysDirectorSwapCount : Fld := ⟨0x00000000 + 0x48, 16, 16, 0⟩
def sysDirectorControlLost : Fld := ⟨0x00000000 + 0x48, 8, 1, 0⟩
def sysDirectorStandbyFenced : Fld := ⟨0x00000000 + 0x48, 4, 1, 0⟩
def sysDirectorSwapped : Fld := ⟨0x00000000 + 0x48, 3, 1, 0⟩
def sysDirectorStandbyReady : Fld := ⟨0x00000000 + 0x48, 2, 1, 0⟩
def sysDirectorActive : Fld := ⟨0x00000000 + 0x48, 0, 1, 0⟩
def sysCtrlUserRead : Fld := ⟨0x00000000 + 0x4c, 0, 1, 0⟩
def hdrPgStatusTrgLost (pg : Nat) : Fld := ⟨pg * 0x1000 + 4, 3, 1, 0⟩
def hdrPgStatusLockHit (pg : Nat) : Fld := ⟨pg * 0x1000 + 4, 2, 1, 0⟩
def hdrPgStatusVote (pg : Nat) : Fld := ⟨pg * 0x1000 + 4, 1, 1, 0⟩
def hdrPgStatusParity (pg : Nat) : Fld := ⟨pg * 0x1000 + 4, 0, 1, 0⟩
def hdrPgCtrlLockReport (pg : Nat) : Fld := ⟨pg * 0x1000 + 8, 1, 1, 0⟩
def hdrPgCtrlVoteReport (pg : Nat) : Fld := ⟨pg * 0x1000 + 8, 0, 1, 0⟩
def hdrPgLockRefused (pg : Nat) : Fld := ⟨pg * 0x1000 + 0xc, 16, 16, 0⟩
def hdrPgLockLock (pg : Nat) : Fld := ⟨pg * 0x1000 + 0xc, 0, 1, 0⟩
def hdrPgParityCount (pg : Nat) : Fld := ⟨pg * 0x1000 + 0x10, 16, 16, 0⟩
def hdrPgParityWord (pg : Nat) : Fld := ⟨pg * 0x1000 + 0x10, 0, 10, 0⟩
def hdrPgVote (pg : Nat) : Fld := ⟨pg * 0x1000 + 0x14, 0, 32, 0⟩
def admCtrlLateAction (o : Nat) : Fld := ⟨0x00140000 + o * 0x1000 + 0x40, 8, 1, 1⟩
def admCtrlUnadmittedClass (o : Nat) : Fld := ⟨0x00140000 + o * 0x1000 + 0x40, 0, 4, 0⟩
def admStatusFlows (o : Nat) : Fld := ⟨0x00140000 + o * 0x1000 + 0x44, 16, 16, 0⟩
def admStatusShareHeld (o : Nat) : Fld := ⟨0x00140000 + o * 0x1000 + 0x44, 11, 1, 0⟩
def admStatusDegraded (o : Nat) : Fld := ⟨0x00140000 + o * 0x1000 + 0x44, 10, 1, 0⟩
def admStatusMergeLost (o : Nat) : Fld := ⟨0x00140000 + o * 0x1000 + 0x44, 9, 1, 0⟩
def admStatusGateUpset (o : Nat) : Fld := ⟨0x00140000 + o * 0x1000 + 0x44, 8, 1, 0⟩
def admStatusMergeActive (o : Nat) : Fld := ⟨0x00140000 + o * 0x1000 + 0x44, 0, 8, 0⟩
def admSubShare (o s : Nat) : Fld := ⟨0x00140000 + o * 0x1000 + 0x100 + s * 0x80, 0, 9, 0⟩
def admSubRate (o s : Nat) : Fld := ⟨0x00140000 + o * 0x1000 + 0x104 + s * 0x80, 0, 22, 0⟩
def admSubFlows (o s : Nat) : Fld := ⟨0x00140000 + o * 0x1000 + 0x108 + s * 0x80, 0, 17, 0⟩
def admSubBound (o s c : Nat) : Fld := ⟨0x00140000 + o * 0x1000 + 0x110 + s * 0x80 + c * 4, 0, 32, 0⟩
def admSubAccepted (o s : Nat) : Fld := ⟨0x00140000 + o * 0x1000 + 0x120 + s * 0x80, 0, 32, 0⟩
def admSubKept (o s : Nat) : Fld := ⟨0x00140000 + o * 0x1000 + 0x124 + s * 0x80, 0, 32, 0⟩
def admSubBreakReset (o s : Nat) : Fld := ⟨0x00140000 + o * 0x1000 + 0x128 + s * 0x80, 0, 32, 0⟩
def admSubBreakLink (o s : Nat) : Fld := ⟨0x00140000 + o * 0x1000 + 0x12c + s * 0x80, 0, 32, 0⟩
def admSubBreakFabric (o s : Nat) : Fld := ⟨0x00140000 + o * 0x1000 + 0x130 + s * 0x80, 0, 32, 0⟩
def admSubBreakEcc (o s : Nat) : Fld := ⟨0x00140000 + o * 0x1000 + 0x134 + s * 0x80, 0, 32, 0⟩
def admSubBreakMerge (o s : Nat) : Fld := ⟨0x00140000 + o * 0x1000 + 0x138 + s * 0x80, 0, 32, 0⟩
def admSubBreakGate (o s : Nat) : Fld := ⟨0x00140000 + o * 0x1000 + 0x13c + s * 0x80, 0, 32, 0⟩
def admSubBreakLate (o s : Nat) : Fld := ⟨0x00140000 + o * 0x1000 + 0x140 + s * 0x80, 0, 32, 0⟩
def admSubDemoted (o s : Nat) : Fld := ⟨0x00140000 + o * 0x1000 + 0x144 + s * 0x80, 0, 32, 0⟩
def admSubDropped (o s : Nat) : Fld := ⟨0x00140000 + o * 0x1000 + 0x148 + s * 0x80, 0, 32, 0⟩
def admSubOversize (o s : Nat) : Fld := ⟨0x00140000 + o * 0x1000 + 0x14c + s * 0x80, 0, 32, 0⟩
def admSubUnadmitted (o s : Nat) : Fld := ⟨0x00140000 + o * 0x1000 + 0x150 + s * 0x80, 0, 32, 0⟩
def admSubAborted (o s : Nat) : Fld := ⟨0x00140000 + o * 0x1000 + 0x154 + s * 0x80, 0, 32, 0⟩
def port0ModeTwoShot (p : Nat) : Fld := ⟨0x02000000 + p * 0x10000 + 0x40, 8, 1, 0⟩
def port0ModeIfType (p : Nat) : Fld := ⟨0x02000000 + p * 0x10000 + 0x40, 4, 2, 0⟩
def port0ModeSplit (p : Nat) : Fld := ⟨0x02000000 + p * 0x10000 + 0x40, 0, 2, 0⟩
def port0CtrlLoopback (p : Nat) : Fld := ⟨0x02000000 + p * 0x10000 + 0x44, 8, 2, 0⟩
def port0CtrlEnable (p : Nat) : Fld := ⟨0x02000000 + p * 0x10000 + 0x44, 0, 8, 0⟩
def port0StatusMapBad (p : Nat) : Fld := ⟨0x02000000 + p * 0x10000 + 0x48, 21, 1, 0⟩
def port0StatusTsDegraded (p : Nat) : Fld := ⟨0x02000000 + p * 0x10000 + 0x48, 20, 1, 0⟩
def port0StatusTsSkew (p : Nat) : Fld := ⟨0x02000000 + p * 0x10000 + 0x48, 19, 1, 0⟩
def port0StatusTsNoPeer (p : Nat) : Fld := ⟨0x02000000 + p * 0x10000 + 0x48, 18, 1, 0⟩
def port0StatusTsFused (p : Nat) : Fld := ⟨0x02000000 + p * 0x10000 + 0x48, 17, 1, 0⟩
def port0StatusModeHeld (p : Nat) : Fld := ⟨0x02000000 + p * 0x10000 + 0x48, 16, 1, 0⟩
def port0StatusHolding (p : Nat) : Fld := ⟨0x02000000 + p * 0x10000 + 0x48, 8, 8, 0⟩
def port0StatusLinkUp (p : Nat) : Fld := ⟨0x02000000 + p * 0x10000 + 0x48, 0, 8, 0⟩
def port0Maxframe (p : Nat) : Fld := ⟨0x02000000 + p * 0x10000 + 0x4c, 0, 14, 0x2400⟩
def port0HoldHoldNs (p : Nat) : Fld := ⟨0x02000000 + p * 0x10000 + 0x50, 0, 21, 0x40000⟩
def port0MergeAddFragSize (p : Nat) : Fld := ⟨0x02000000 + p * 0x10000 + 0x54, 8, 2, 0⟩
def port0MergeMergeEn (p : Nat) : Fld := ⟨0x02000000 + p * 0x10000 + 0x54, 0, 1, 0⟩
def port0TsSkewSkewPs (p : Nat) : Fld := ⟨0x02000000 + p * 0x10000 + 0x58, 0, 16, 0⟩
def port1MapPattern (p k : Nat) : Fld := ⟨0x02001000 + p * 0x10000 + 0x40 + k * 0xc, 14, 2, 0⟩
def port1MapRxPrecode (p k : Nat) : Fld := ⟨0x02001000 + p * 0x10000 + 0x40 + k * 0xc, 12, 1, 0⟩
def port1MapTxPrecode (p k : Nat) : Fld := ⟨0x02001000 + p * 0x10000 + 0x40 + k * 0xc, 11, 1, 0⟩
def port1MapRxInvert (p k : Nat) : Fld := ⟨0x02001000 + p * 0x10000 + 0x40 + k * 0xc, 10, 1, 0⟩
def port1MapTxInvert (p k : Nat) : Fld := ⟨0x02001000 + p * 0x10000 + 0x40 + k * 0xc, 9, 1, 0⟩
def port1MapRxPhys (p k : Nat) : Fld := ⟨0x02001000 + p * 0x10000 + 0x40 + k * 0xc, 4, 3, BitVec.ofNat 32 k⟩
def port1MapTxPhys (p k : Nat) : Fld := ⟨0x02001000 + p * 0x10000 + 0x40 + k * 0xc, 0, 3, BitVec.ofNat 32 k⟩
def port1TxeqPost1 (p k : Nat) : Fld := ⟨0x02001000 + p * 0x10000 + 0x44 + k * 0xc, 24, 6, 0⟩
def port1TxeqMain (p k : Nat) : Fld := ⟨0x02001000 + p * 0x10000 + 0x44 + k * 0xc, 18, 6, 0x3f⟩
def port1TxeqPre1 (p k : Nat) : Fld := ⟨0x02001000 + p * 0x10000 + 0x44 + k * 0xc, 12, 6, 0⟩
def port1TxeqPre2 (p k : Nat) : Fld := ⟨0x02001000 + p * 0x10000 + 0x44 + k * 0xc, 6, 6, 0⟩
def port1TxeqPre3 (p k : Nat) : Fld := ⟨0x02001000 + p * 0x10000 + 0x44 + k * 0xc, 0, 6, 0⟩
def port1PatErr (p k : Nat) : Fld := ⟨0x02001000 + p * 0x10000 + 0x48 + k * 0xc, 0, 32, 0⟩
def port2LinkDown (p s : Nat) : Fld := ⟨0x02002000 + p * 0x10000 + 0x40 + s * 0x40, 0, 32, 0⟩
def port2FecCorrected (p s : Nat) : Fld := ⟨0x02002000 + p * 0x10000 + 0x44 + s * 0x40, 0, 32, 0⟩
def port2FecUncorrectable (p s : Nat) : Fld := ⟨0x02002000 + p * 0x10000 + 0x48 + s * 0x40, 0, 32, 0⟩
def port2HoldResumed (p s : Nat) : Fld := ⟨0x02002000 + p * 0x10000 + 0x4c + s * 0x40, 0, 32, 0⟩
def port2HoldExpired (p s : Nat) : Fld := ⟨0x02002000 + p * 0x10000 + 0x50 + s * 0x40, 0, 32, 0⟩
def port2Flushed (p s : Nat) : Fld := ⟨0x02002000 + p * 0x10000 + 0x54 + s * 0x40, 0, 32, 0⟩
def port2DownDiscard (p s : Nat) : Fld := ⟨0x02002000 + p * 0x10000 + 0x58 + s * 0x40, 0, 32, 0⟩
def port2RxOversize (p s : Nat) : Fld := ⟨0x02002000 + p * 0x10000 + 0x5c + s * 0x40, 0, 32, 0⟩
def port2MacControl (p s : Nat) : Fld := ⟨0x02002000 + p * 0x10000 + 0x60 + s * 0x40, 0, 32, 0⟩
def port2AnFail (p s : Nat) : Fld := ⟨0x02002000 + p * 0x10000 + 0x64 + s * 0x40, 0, 32, 0⟩
def port2TagBad (p s : Nat) : Fld := ⟨0x02002000 + p * 0x10000 + 0x68 + s * 0x40, 0, 32, 0⟩
def port2SeqLost (p s : Nat) : Fld := ⟨0x02002000 + p * 0x10000 + 0x6c + s * 0x40, 0, 32, 0⟩
def port2SeqLate (p s : Nat) : Fld := ⟨0x02002000 + p * 0x10000 + 0x70 + s * 0x40, 0, 32, 0⟩
def port3LkpCtrlDaCheck (p : Nat) : Fld := ⟨0x02003000 + p * 0x10000 + 0x40, 8, 1, 1⟩
def port3LkpCtrlTtlHost (p : Nat) : Fld := ⟨0x02003000 + p * 0x10000 + 0x40, 4, 1, 1⟩
def port3LkpCtrlMissHost (p : Nat) : Fld := ⟨0x02003000 + p * 0x10000 + 0x40, 3, 1, 0⟩
def port3LkpCtrlNonmpls (p : Nat) : Fld := ⟨0x02003000 + p * 0x10000 + 0x40, 0, 2, 1⟩
def port3LkpDefnhDefaultNh (p : Nat) : Fld := ⟨0x02003000 + p * 0x10000 + 0x44, 0, 18, 0⟩
def port3MacLo (p : Nat) : Fld := ⟨0x02003000 + p * 0x10000 + 0x48, 0, 32, 0⟩
def port3MacHi (p : Nat) : Fld := ⟨0x02003000 + p * 0x10000 + 0x4c, 0, 16, 0⟩
def port3ParseTags (p : Nat) : Fld := ⟨0x02003000 + p * 0x10000 + 0x50, 0, 32, 0⟩
def port3NonMpls (p : Nat) : Fld := ⟨0x02003000 + p * 0x10000 + 0x54, 0, 32, 0⟩
def port3PathMiss (p : Nat) : Fld := ⟨0x02003000 + p * 0x10000 + 0x58, 0, 32, 0⟩
def port3PathDrop (p : Nat) : Fld := ⟨0x02003000 + p * 0x10000 + 0x5c, 0, 32, 0⟩
def port3TtlExpired (p : Nat) : Fld := ⟨0x02003000 + p * 0x10000 + 0x60, 0, 32, 0⟩
def port3DaMismatch (p : Nat) : Fld := ⟨0x02003000 + p * 0x10000 + 0x64, 0, 32, 0⟩
def port3DeepStack (p : Nat) : Fld := ⟨0x02003000 + p * 0x10000 + 0x68, 0, 32, 0⟩
def port3EndOfStack (p : Nat) : Fld := ⟨0x02003000 + p * 0x10000 + 0x6c, 0, 32, 0⟩
def port3NhInvalid (p : Nat) : Fld := ⟨0x02003000 + p * 0x10000 + 0x70, 0, 32, 0⟩
def port3LenOver (p : Nat) : Fld := ⟨0x02003000 + p * 0x10000 + 0x74, 0, 32, 0⟩
def port3DetnetBad (p : Nat) : Fld := ⟨0x02003000 + p * 0x10000 + 0x78, 0, 32, 0⟩
def ringCtrlIrqEn (n : Nat) : Fld := ⟨0x05080000 + n * 0x100000 + 0, 9, 1, 0⟩
def ringCtrlEnable (n : Nat) : Fld := ⟨0x05080000 + n * 0x100000 + 0, 8, 1, 0⟩
def ringCtrlSize (n : Nat) : Fld := ⟨0x05080000 + n * 0x100000 + 0, 0, 4, 6⟩
def ringHead (n : Nat) : Fld := ⟨0x05080000 + n * 0x100000 + 4, 0, 15, 0⟩
def ringTail (n : Nat) : Fld := ⟨0x05080000 + n * 0x100000 + 8, 0, 15, 0⟩
def ringRate (n : Nat) : Fld := ⟨0x05080000 + n * 0x100000 + 0xc, 0, 17, 0⟩
def ringFrames (n : Nat) : Fld := ⟨0x05080000 + n * 0x100000 + 0x10, 0, 32, 0⟩
def ringPoliced (n : Nat) : Fld := ⟨0x05080000 + n * 0x100000 + 0x14, 0, 32, 0⟩
def ringRingFull (n : Nat) : Fld := ⟨0x05080000 + n * 0x100000 + 0x18, 0, 32, 0⟩
def tblIndex (w : Nat) : Fld := ⟨0x00200000 + w * 0x1000 + 0x40, 0, 20, 0⟩
def tblData (w i : Nat) : Fld := ⟨0x00200000 + w * 0x1000 + 0x44 + i * 4, 0, 32, 0⟩
def tblCmdRead (w : Nat) : Fld := ⟨0x00200000 + w * 0x1000 + 0x54, 17, 1, 0⟩
def tblCmdWrite (w : Nat) : Fld := ⟨0x00200000 + w * 0x1000 + 0x54, 16, 1, 0⟩
def tblCmdCheckGen (w : Nat) : Fld := ⟨0x00200000 + w * 0x1000 + 0x54, 8, 1, 0⟩
def tblCmdExpectGen (w : Nat) : Fld := ⟨0x00200000 + w * 0x1000 + 0x54, 0, 8, 0⟩
def tblStatusBusy (w : Nat) : Fld := ⟨0x00200000 + w * 0x1000 + 0x58, 8, 1, 0⟩
def tblStatusResult (w : Nat) : Fld := ⟨0x00200000 + w * 0x1000 + 0x58, 0, 4, 0⟩
def tblEccCorrected (w : Nat) : Fld := ⟨0x00200000 + w * 0x1000 + 0x5c, 0, 32, 0⟩
def tblEccUncorr (w : Nat) : Fld := ⟨0x00200000 + w * 0x1000 + 0x60, 0, 32, 0⟩
def tblEccIndex (w : Nat) : Fld := ⟨0x00200000 + w * 0x1000 + 0x64, 0, 20, 0⟩
def tblnhHashSeed : Fld := ⟨0x00201000 + 0x68, 0, 16, 0⟩
def tblstageTargetTable : Fld := ⟨0x00204000 + 0x68, 20, 1, 0⟩
def tblstageTargetEntry : Fld := ⟨0x00204000 + 0x68, 0, 20, 0⟩
def fabCcCtrlInjectBoth : Fld := ⟨0x00100000 + 0x40, 2, 1, 0⟩
def fabCcCtrlInjectB : Fld := ⟨0x00100000 + 0x40, 1, 1, 0⟩
def fabCcCtrlInjectA : Fld := ⟨0x00100000 + 0x40, 0, 1, 0⟩
def fabCcStatusHeld : Fld := ⟨0x00100000 + 0x44, 7, 1, 0⟩
def fabCcStatusDual : Fld := ⟨0x00100000 + 0x44, 6, 1, 0⟩
def fabCcStatusFenceEvent : Fld := ⟨0x00100000 + 0x44, 5, 1, 0⟩
def fabCcStatusSimplex : Fld := ⟨0x00100000 + 0x44, 4, 1, 0⟩
def fabCcStatusBFenced : Fld := ⟨0x00100000 + 0x44, 1, 1, 0⟩
def fabCcStatusAFenced : Fld := ⟨0x00100000 + 0x44, 0, 1, 0⟩
def fabCcMismatch : Fld := ⟨0x00100000 + 0x48, 0, 32, 0⟩
def fabCcFenceA : Fld := ⟨0x00100000 + 0x4c, 0, 32, 0⟩
def fabCcFenceB : Fld := ⟨0x00100000 + 0x50, 0, 32, 0⟩
def fabCcDual : Fld := ⟨0x00100000 + 0x54, 0, 32, 0⟩
def fabCcLostCells : Fld := ⟨0x00100000 + 0x58, 0, 32, 0⟩
def fabCcCutFrames : Fld := ⟨0x00100000 + 0x5c, 0, 32, 0⟩
def fabCcLastLo : Fld := ⟨0x00100000 + 0x60, 0, 32, 0⟩
def fabCcLastHi : Fld := ⟨0x00100000 + 0x64, 0, 32, 0⟩
def buf0Limit (o c : Nat) : Fld := ⟨0x00120000 + 0x40 + o * 0x40 + c * 4, 0, 15, 0x300⟩
def buf1OccRsv (o c : Nat) : Fld := ⟨0x00121000 + 0x40 + o * 0x40 + c * 4, 16, 15, 0⟩
def buf1OccCells (o c : Nat) : Fld := ⟨0x00121000 + 0x40 + o * 0x40 + c * 4, 0, 15, 0⟩
def buf2Drop (o c : Nat) : Fld := ⟨0x00122000 + 0x40 + o * 0x40 + c * 4, 0, 32, 0⟩
def buf3StatusLimitPort : Fld := ⟨0x00123000 + 0x40, 8, 6, 0⟩
def buf3StatusAuditSurplus : Fld := ⟨0x00123000 + 0x40, 3, 1, 0⟩
def buf3StatusSweeping : Fld := ⟨0x00123000 + 0x40, 2, 1, 0⟩
def buf3StatusUnderrun : Fld := ⟨0x00123000 + 0x40, 1, 1, 0⟩
def buf3StatusLimitRefused : Fld := ⟨0x00123000 + 0x40, 0, 1, 0⟩
def buf3Audits : Fld := ⟨0x00123000 + 0x44, 0, 32, 0⟩
def buf3AuditDeficit : Fld := ⟨0x00123000 + 0x48, 0, 32, 0⟩
def buf3Reclaimed : Fld := ⟨0x00123000 + 0x4c, 0, 32, 0⟩
def buf3Duplicates : Fld := ⟨0x00123000 + 0x50, 0, 32, 0⟩
def buf3EccCorrected : Fld := ⟨0x00123000 + 0x54, 0, 32, 0⟩
def buf3EccUncorr : Fld := ⟨0x00123000 + 0x58, 0, 32, 0⟩
def buf3LinkEcc : Fld := ⟨0x00123000 + 0x5c, 0, 32, 0⟩
def buf3Underruns : Fld := ⟨0x00123000 + 0x60, 0, 32, 0⟩
def buf3Free (o : Nat) : Fld := ⟨0x00123000 + 0x100 + o * 4, 0, 14, 0x3000⟩
def port4OccExpress (p : Nat) : Fld := ⟨0x02004000 + p * 0x10000 + 0x40, 16, 9, 0⟩
def port4OccShared (p : Nat) : Fld := ⟨0x02004000 + p * 0x10000 + 0x40, 0, 11, 0⟩
def port4InDrop (p : Nat) : Fld := ⟨0x02004000 + p * 0x10000 + 0x44, 0, 32, 0⟩
def port4ExpFull (p : Nat) : Fld := ⟨0x02004000 + p * 0x10000 + 0x48, 0, 32, 0⟩
def port4Reclaimed (p : Nat) : Fld := ⟨0x02004000 + p * 0x10000 + 0x4c, 0, 32, 0⟩
def port4Duplicates (p : Nat) : Fld := ⟨0x02004000 + p * 0x10000 + 0x50, 0, 32, 0⟩
def port4EccCorrected (p : Nat) : Fld := ⟨0x02004000 + p * 0x10000 + 0x54, 0, 32, 0⟩
def port4EccUncorr (p : Nat) : Fld := ⟨0x02004000 + p * 0x10000 + 0x58, 0, 32, 0⟩
def schdIndexBank (w : Nat) : Fld := ⟨0x00110000 + w * 0x1000 + 0x40, 16, 1, 0⟩
def schdIndex (w : Nat) : Fld := ⟨0x00110000 + w * 0x1000 + 0x40, 0, 16, 0⟩
def schdData (w i : Nat) : Fld := ⟨0x00110000 + w * 0x1000 + 0x44 + i * 4, 0, 32, 0⟩
def schdCmdRead (w : Nat) : Fld := ⟨0x00110000 + w * 0x1000 + 0x54, 17, 1, 0⟩
def schdCmdWrite (w : Nat) : Fld := ⟨0x00110000 + w * 0x1000 + 0x54, 16, 1, 0⟩
def schdStatusBusy (w : Nat) : Fld := ⟨0x00110000 + w * 0x1000 + 0x58, 8, 1, 0⟩
def schdStatusResult (w : Nat) : Fld := ⟨0x00110000 + w * 0x1000 + 0x58, 0, 4, 0⟩
def schdEccCorrected (w : Nat) : Fld := ⟨0x00110000 + w * 0x1000 + 0x5c, 0, 32, 0⟩
def schdEccUncorr (w : Nat) : Fld := ⟨0x00110000 + w * 0x1000 + 0x60, 0, 32, 0⟩
def port5TreeCtrlApply (p : Nat) : Fld := ⟨0x02005000 + p * 0x10000 + 0x40, 0, 1, 0⟩
def port5TreeStatusBadClass (p : Nat) : Fld := ⟨0x02005000 + p * 0x10000 + 0x44, 16, 4, 0⟩
def port5TreeStatusBadNode (p : Nat) : Fld := ⟨0x02005000 + p * 0x10000 + 0x44, 8, 8, 0⟩
def port5TreeStatusChecking (p : Nat) : Fld := ⟨0x02005000 + p * 0x10000 + 0x44, 4, 1, 0⟩
def port5TreeStatusResult (p : Nat) : Fld := ⟨0x02005000 + p * 0x10000 + 0x44, 0, 4, 0⟩
def port5TakeStatusPending (p : Nat) : Fld := ⟨0x02005000 + p * 0x10000 + 0x48, 17, 1, 0⟩
def port5TakeStatusRunning (p : Nat) : Fld := ⟨0x02005000 + p * 0x10000 + 0x48, 16, 1, 0⟩
def port5TakeStatusLen (p : Nat) : Fld := ⟨0x02005000 + p * 0x10000 + 0x48, 0, 11, 0⟩
def port5TakeLenTakeNs (p : Nat) : Fld := ⟨0x02005000 + p * 0x10000 + 0x4c, 0, 21, 0⟩
def port5TakeCutLo (p : Nat) : Fld := ⟨0x02005000 + p * 0x10000 + 0x50, 0, 32, 0⟩
def port5TakeCutHi (p : Nat) : Fld := ⟨0x02005000 + p * 0x10000 + 0x54, 0, 32, 0⟩
def port5Takes (p : Nat) : Fld := ⟨0x02005000 + p * 0x10000 + 0x58, 0, 32, 0⟩
def port5Splices (p : Nat) : Fld := ⟨0x02005000 + p * 0x10000 + 0x5c, 0, 32, 0⟩
def port5TreeApplied (p : Nat) : Fld := ⟨0x02005000 + p * 0x10000 + 0x60, 0, 32, 0⟩
def time0StatusDipCoast : Fld := ⟨0x00020000 + 0x7c, 8, 1, 0⟩
def time0StatusSrcDisq : Fld := ⟨0x00020000 + 0x7c, 7, 1, 0⟩
def time0StatusJumpRefused : Fld := ⟨0x00020000 + 0x7c, 6, 1, 0⟩
def time0StatusTimeStepped : Fld := ⟨0x00020000 + 0x7c, 5, 1, 0⟩
def time0StatusValid : Fld := ⟨0x00020000 + 0x7c, 3, 1, 0⟩
def time0StatusSet : Fld := ⟨0x00020000 + 0x7c, 2, 1, 0⟩
def time0StatusState : Fld := ⟨0x00020000 + 0x7c, 0, 2, 0⟩
def time0ServoCfgIshift : Fld := ⟨0x00020000 + 0x80, 24, 6, 0x15⟩
def time0ServoCfgCoastX16 : Fld := ⟨0x00020000 + 0x80, 21, 1, 0⟩
def time0ServoCfgPshift : Fld := ⟨0x00020000 + 0x80, 16, 5, 0xa⟩
def time0ServoCfgCoastClappers : Fld := ⟨0x00020000 + 0x80, 0, 16, 0x10⟩
def time0JumpCfgJumpNs : Fld := ⟨0x00020000 + 0x84, 0, 30, 0x64⟩
def time0RefuseRun : Fld := ⟨0x00020000 + 0x90, 16, 5, 0⟩
def time0RefuseSource : Fld := ⟨0x00020000 + 0x90, 0, 16, 0xffff⟩
def time0ClapperAligned : Fld := ⟨0x00020000 + 0xa0, 16, 1, 0⟩
def time0ClapperNumber : Fld := ⟨0x00020000 + 0xa0, 0, 14, 0⟩
def time0ClapperOverrunGaffer : Fld := ⟨0x00020000 + 0xa4, 9, 1, 0⟩
def time0ClapperOverrunDirector : Fld := ⟨0x00020000 + 0xa4, 8, 1, 0⟩
def time0ClapperOverrunGrip : Fld := ⟨0x00020000 + 0xa4, 0, 8, 0⟩
def time0ConvCtrlConvert : Fld := ⟨0x00020000 + 0xb0, 0, 1, 0⟩
def time0ConvStatusBusy : Fld := ⟨0x00020000 + 0xb4, 8, 1, 0⟩
def time0ConvStatusStepSince : Fld := ⟨0x00020000 + 0xb4, 4, 1, 0⟩
def time0ConvStatusResult : Fld := ⟨0x00020000 + 0xb4, 0, 2, 0⟩
def time0JumpLo : Fld := ⟨0x00020000 + 0x88, 0, 32, 0⟩
def time0JumpHi : Fld := ⟨0x00020000 + 0x8c, 0, 32, 0⟩
def time0OffsetLast : Fld := ⟨0x00020000 + 0x94, 0, 32, 0⟩
def time0StepLastLo : Fld := ⟨0x00020000 + 0x98, 0, 32, 0⟩
def time0StepLastHi : Fld := ⟨0x00020000 + 0x9c, 0, 32, 0⟩
def time0ConvRawLo : Fld := ⟨0x00020000 + 0xa8, 0, 32, 0⟩
def time0ConvRawHi : Fld := ⟨0x00020000 + 0xac, 0, 32, 0⟩
def time0Steps : Fld := ⟨0x00020000 + 0xc8, 0, 32, 0⟩
def time0Refusals : Fld := ⟨0x00020000 + 0xcc, 0, 32, 0⟩
def time0Disqualified : Fld := ⟨0x00020000 + 0xd0, 0, 32, 0⟩
def time0Coasts : Fld := ⟨0x00020000 + 0xd4, 0, 32, 0⟩
def time0Realigns : Fld := ⟨0x00020000 + 0xd8, 0, 32, 0⟩
def time0Overruns : Fld := ⟨0x00020000 + 0xdc, 0, 32, 0⟩
def time1SessIndexWord : Fld := ⟨0x00021000 + 0x40, 16, 1, 0⟩
def time1SessIndexSession : Fld := ⟨0x00021000 + 0x40, 0, 14, 0⟩
def time1SessCmdRead : Fld := ⟨0x00021000 + 0x44, 0, 1, 0⟩
def time1SessStatusBusy : Fld := ⟨0x00021000 + 0x48, 8, 1, 0⟩
def time1SessStatusResult : Fld := ⟨0x00021000 + 0x48, 0, 4, 0⟩
def time1SessData (i : Nat) : Fld := ⟨0x00021000 + 0x4c + i * 4, 0, 32, 0⟩
def grp2GripStatusRestarting (g : Nat) : Fld := ⟨0x03002000 + g * 0x10000 + 0x40, 17, 1, 0⟩
def grp2GripStatusSessions (g : Nat) : Fld := ⟨0x03002000 + g * 0x10000 + 0x40, 0, 13, 0⟩
def grp2GripRxqPeak (g : Nat) : Fld := ⟨0x03002000 + g * 0x10000 + 0x44, 16, 14, 0⟩
def grp2GripRxqDepth (g : Nat) : Fld := ⟨0x03002000 + g * 0x10000 + 0x44, 0, 14, 0⟩
def grp2MsgRx (g : Nat) : Fld := ⟨0x03002000 + g * 0x10000 + 0x48, 0, 32, 0⟩
def grp2MsgTx (g : Nat) : Fld := ⟨0x03002000 + g * 0x10000 + 0x4c, 0, 32, 0⟩
def grp2NoSession (g : Nat) : Fld := ⟨0x03002000 + g * 0x10000 + 0x50, 0, 32, 0⟩
def grp2Unsupported (g : Nat) : Fld := ⟨0x03002000 + g * 0x10000 + 0x54, 0, 32, 0⟩
def grp2Deferred (g : Nat) : Fld := ⟨0x03002000 + g * 0x10000 + 0x58, 0, 32, 0⟩
def grp2RxqDrop (g : Nat) : Fld := ⟨0x03002000 + g * 0x10000 + 0x5c, 0, 32, 0⟩
def grp2Restarts (g : Nat) : Fld := ⟨0x03002000 + g * 0x10000 + 0x60, 0, 32, 0⟩
def grp2Slips (g : Nat) : Fld := ⟨0x03002000 + g * 0x10000 + 0x64, 0, 32, 0⟩
def grp2Residual (g : Nat) : Fld := ⟨0x03002000 + g * 0x10000 + 0x68, 0, 32, 0⟩
def grp2AgreeFail (g : Nat) : Fld := ⟨0x03002000 + g * 0x10000 + 0x6c, 0, 32, 0⟩
def grp2MemberChanges (g : Nat) : Fld := ⟨0x03002000 + g * 0x10000 + 0x70, 0, 32, 0⟩
def grp2AnnTimeouts (g : Nat) : Fld := ⟨0x03002000 + g * 0x10000 + 0x74, 0, 32, 0⟩
def port6EsmcCtrlForcedEssm (p : Nat) : Fld := ⟨0x02006000 + p * 0x10000 + 0x40, 24, 8, 0⟩
def port6EsmcCtrlForcedSsm (p : Nat) : Fld := ⟨0x02006000 + p * 0x10000 + 0x40, 16, 4, 0xf⟩
def port6EsmcCtrlExtTlv (p : Nat) : Fld := ⟨0x02006000 + p * 0x10000 + 0x40, 11, 1, 0⟩
def port6EsmcCtrlOption (p : Nat) : Fld := ⟨0x02006000 + p * 0x10000 + 0x40, 10, 1, 0⟩
def port6EsmcCtrlTxMode (p : Nat) : Fld := ⟨0x02006000 + p * 0x10000 + 0x40, 8, 2, 0⟩
def port6EsmcCtrlEn (p : Nat) : Fld := ⟨0x02006000 + p * 0x10000 + 0x40, 0, 8, 0⟩
def port6EsmcRxEssm (p s : Nat) : Fld := ⟨0x02006000 + p * 0x10000 + 0x44 + s * 4, 16, 8, 0⟩
def port6EsmcRxSsm (p s : Nat) : Fld := ⟨0x02006000 + p * 0x10000 + 0x44 + s * 4, 8, 4, 0⟩
def port6EsmcRxFailed (p s : Nat) : Fld := ⟨0x02006000 + p * 0x10000 + 0x44 + s * 4, 1, 1, 0⟩
def port6EsmcRxValid (p s : Nat) : Fld := ⟨0x02006000 + p * 0x10000 + 0x44 + s * 4, 0, 1, 0⟩
def port6PduRx (p : Nat) : Fld := ⟨0x02006000 + p * 0x10000 + 0x64, 0, 32, 0⟩
def port6PduTx (p : Nat) : Fld := ⟨0x02006000 + p * 0x10000 + 0x68, 0, 32, 0⟩
def port6PduBad (p : Nat) : Fld := ⟨0x02006000 + p * 0x10000 + 0x6c, 0, 32, 0⟩
def port6QlChanges (p : Nat) : Fld := ⟨0x02006000 + p * 0x10000 + 0x70, 0, 32, 0⟩
def pers2ExtExtTx (p s : Nat) : Fld := ⟨0x00012000 + 0x40 + p * 0x40 + s * 8, 16, 16, 0⟩
def pers2ExtExtRx (p s : Nat) : Fld := ⟨0x00012000 + 0x40 + p * 0x40 + s * 8, 0, 16, 0⟩
def pers2Asym (p s : Nat) : Fld := ⟨0x00012000 + 0x44 + p * 0x40 + s * 8, 8, 24, 0⟩
def pers2AsymSource (p s : Nat) : Fld := ⟨0x00012000 + 0x44 + p * 0x40 + s * 8, 6, 2, 0⟩
def ref0FctrlRevertive : Fld := ⟨0x00030000 + 0x40, 31, 1, 0⟩
def ref0FctrlBwTrack : Fld := ⟨0x00030000 + 0x40, 16, 14, 0x3e8⟩
def ref0FctrlHoldQl : Fld := ⟨0x00030000 + 0x40, 12, 4, 0xb⟩
def ref0FctrlWtrS : Fld := ⟨0x00030000 + 0x40, 0, 12, 0x12c⟩
def ref0FqualCfgHoldoffS : Fld := ⟨0x00030000 + 0x44, 16, 12, 0xa⟩
def ref0FqualCfgDriftLimit : Fld := ⟨0x00030000 + 0x44, 0, 16, 0x64⟩
def ref0HoCfgGuardS : Fld := ⟨0x00030000 + 0x48, 16, 12, 0x78⟩
def ref0HoCfgWindowS : Fld := ⟨0x00030000 + 0x48, 0, 12, 0x12c⟩
def ref0FstatusFselected : Fld := ⟨0x00030000 + 0x4c, 28, 4, 0xf⟩
def ref0FstatusSelQl : Fld := ⟨0x00030000 + 0x4c, 24, 4, 0xb⟩
def ref0FstatusCut : Fld := ⟨0x00030000 + 0x4c, 23, 1, 0⟩
def ref0FstatusHoShort : Fld := ⟨0x00030000 + 0x4c, 22, 1, 0⟩
def ref0FstatusLoopState : Fld := ⟨0x00030000 + 0x4c, 16, 2, 0⟩
def ref0FstatusBwNow : Fld := ⟨0x00030000 + 0x4c, 0, 15, 0⟩
def ref0CvLo : Fld := ⟨0x00030000 + 0x50, 0, 32, 0⟩
def ref0CvHi : Fld := ⟨0x00030000 + 0x54, 0, 32, 0⟩
def ref0HoCvLo : Fld := ⟨0x00030000 + 0x58, 0, 32, 0⟩
def ref0HoCvHi : Fld := ⟨0x00030000 + 0x5c, 0, 32, 0⟩
def ref0HoEntries : Fld := ⟨0x00030000 + 0x60, 0, 12, 0⟩
def ref0Cuts : Fld := ⟨0x00030000 + 0x64, 0, 32, 0⟩
def ref0Holdovers : Fld := ⟨0x00030000 + 0x68, 0, 32, 0⟩
def ref0Acquires : Fld := ⟨0x00030000 + 0x6c, 0, 32, 0⟩
def ref0SoftAlarms : Fld := ⟨0x00030000 + 0x70, 0, 32, 0⟩
def ref0DriftFails : Fld := ⟨0x00030000 + 0x74, 0, 32, 0⟩
def ref1CfgNom (i : Nat) : Fld := ⟨0x00031000 + 0x40 + i * 0x10, 0, if i < 6 then 30 else 9, 0⟩
def ref1QualLockout (i : Nat) : Fld := ⟨0x00031000 + 0x44 + i * 0x10, 31, 1, 0⟩
def ref1QualQlEn (i : Nat) : Fld := ⟨0x00031000 + 0x44 + i * 0x10, 30, 1, 0⟩
def ref1QualQl (i : Nat) : Fld := ⟨0x00031000 + 0x44 + i * 0x10, 24, 4, 0xf⟩
def ref1QualPriority (i : Nat) : Fld := ⟨0x00031000 + 0x44 + i * 0x10, 20, 4, 0xf⟩
def ref1QualLimitPpb (i : Nat) : Fld := ⟨0x00031000 + 0x44 + i * 0x10, 0, 20, 0x11f8⟩
def ref1StatusQualified (i : Nat) : Fld := ⟨0x00031000 + 0x48 + i * 0x10, 31, 1, 0⟩
def ref1StatusActive (i : Nat) : Fld := ⟨0x00031000 + 0x48 + i * 0x10, 30, 1, 0⟩
def ref1StatusSoftAlarm (i : Nat) : Fld := ⟨0x00031000 + 0x48 + i * 0x10, 29, 1, 0⟩
def ref1StatusWtrRunning (i : Nat) : Fld := ⟨0x00031000 + 0x48 + i * 0x10, 28, 1, 0⟩
def ref1StatusHoldoff (i : Nat) : Fld := ⟨0x00031000 + 0x48 + i * 0x10, 27, 1, 0⟩
def ref1StatusCause (i : Nat) : Fld := ⟨0x00031000 + 0x48 + i * 0x10, 24, 3, 0⟩
def ref1StatusOffset (i : Nat) : Fld := ⟨0x00031000 + 0x48 + i * 0x10, 0, 24, 0⟩
def ref1Disqualified (i : Nat) : Fld := ⟨0x00031000 + 0x4c + i * 0x10, 0, 32, 0⟩
def ref2TctrlRevertive : Fld := ⟨0x00032000 + 0x40, 31, 1, 0⟩
def ref2TctrlDollyPs : Fld := ⟨0x00032000 + 0x40, 16, 14, 0x1f4⟩
def ref2TctrlWtrS : Fld := ⟨0x00032000 + 0x40, 0, 12, 0x12c⟩
def ref2TqualCfgClassMax : Fld := ⟨0x00032000 + 0x44, 24, 8, 7⟩
def ref2TqualCfgHoldoffS : Fld := ⟨0x00032000 + 0x44, 12, 12, 0xa⟩
def ref2TstatusDolly : Fld := ⟨0x00032000 + 0x48, 31, 1, 0⟩
def ref2TstatusDollyHeld : Fld := ⟨0x00032000 + 0x48, 30, 1, 0⟩
def ref2TstatusCut : Fld := ⟨0x00032000 + 0x48, 29, 1, 0⟩
def ref2TstatusTselected : Fld := ⟨0x00032000 + 0x48, 0, 4, 0xf⟩
def ref2DollyLo : Fld := ⟨0x00032000 + 0x4c, 0, 32, 0⟩
def ref2DollyHi : Fld := ⟨0x00032000 + 0x50, 0, 32, 0⟩
def ref2Tcuts : Fld := ⟨0x00032000 + 0x54, 0, 32, 0⟩
def ref2Reaims : Fld := ⟨0x00032000 + 0x58, 0, 32, 0⟩
def ref2TslotCfgLockout (k : Nat) : Fld := ⟨0x00032000 + 0x80 + k * 0x10, 31, 1, 0⟩
def ref2TslotCfgKind (k : Nat) : Fld := ⟨0x00032000 + 0x80 + k * 0x10, 30, 1, 0⟩
def ref2TslotCfgPriority (k : Nat) : Fld := ⟨0x00032000 + 0x80 + k * 0x10, 24, 4, 0xf⟩
def ref2TslotCfgIndex (k : Nat) : Fld := ⟨0x00032000 + 0x80 + k * 0x10, 0, 14, 0⟩
def ref2TslotLimitLimitPpb (k : Nat) : Fld := ⟨0x00032000 + 0x84 + k * 0x10, 0, 20, 0x11f8⟩
def ref2TslotPpsDelay (k : Nat) : Fld := ⟨0x00032000 + 0x88 + k * 0x10, 0, 32, 0⟩
def ref2TslotStatusQualified (k : Nat) : Fld := ⟨0x00032000 + 0x8c + k * 0x10, 31, 1, 0⟩
def ref2TslotStatusActive (k : Nat) : Fld := ⟨0x00032000 + 0x8c + k * 0x10, 30, 1, 0⟩
def ref2TslotStatusSoftAlarm (k : Nat) : Fld := ⟨0x00032000 + 0x8c + k * 0x10, 29, 1, 0⟩
def ref2TslotStatusWtrRunning (k : Nat) : Fld := ⟨0x00032000 + 0x8c + k * 0x10, 28, 1, 0⟩
def ref2TslotStatusHoldoff (k : Nat) : Fld := ⟨0x00032000 + 0x8c + k * 0x10, 27, 1, 0⟩
def ref2TslotStatusCause (k : Nat) : Fld := ⟨0x00032000 + 0x8c + k * 0x10, 24, 3, 0⟩
def ref2TslotStatusOffset (k : Nat) : Fld := ⟨0x00032000 + 0x8c + k * 0x10, 0, 24, 0⟩
def ref2TslotDisqualified (k : Nat) : Fld := ⟨0x00032000 + 0x100 + k * 4, 0, 32, 0⟩
def ref3ArchIndex : Fld := ⟨0x00033000 + 0x40, 0, 12, 0⟩
def ref3ArchCmdRead : Fld := ⟨0x00033000 + 0x44, 0, 1, 0⟩
def ref3ArchStatusBusy : Fld := ⟨0x00033000 + 0x48, 8, 1, 0⟩
def ref3ArchData (i : Nat) : Fld := ⟨0x00033000 + 0x4c + i * 4, 0, 32, 0⟩
def ref3ArchNewest : Fld := ⟨0x00033000 + 0x5c, 0, 12, 0⟩
def ref3ArchCount : Fld := ⟨0x00033000 + 0x60, 0, 32, 0⟩
def pll0MstatusFallback : Fld := ⟨0x00040000 + 0x40, 8, 1, 0⟩
def pll0MstatusPhaseFail : Fld := ⟨0x00040000 + 0x40, 7, 1, 0⟩
def pll0MstatusLolEvent : Fld := ⟨0x00040000 + 0x40, 6, 1, 0⟩
def pll0MstatusLocked : Fld := ⟨0x00040000 + 0x40, 4, 1, 0⟩
def pll0MstatusBand : Fld := ⟨0x00040000 + 0x40, 0, 4, 0⟩
def pll0MphaseTargetPs : Fld := ⟨0x00040000 + 0x44, 16, 16, 0x1ae⟩
def pll0MphaseMeasuredPs : Fld := ⟨0x00040000 + 0x44, 0, 16, 0⟩
def pll0CstatusSafeStop : Fld := ⟨0x00040000 + 0x48, 9, 1, 0⟩
def pll0CstatusActive : Fld := ⟨0x00040000 + 0x48, 8, 1, 0⟩
def pll0CstatusSetting : Fld := ⟨0x00040000 + 0x48, 5, 1, 1⟩
def pll0CstatusBLocked : Fld := ⟨0x00040000 + 0x48, 4, 1, 0⟩
def pll0CstatusALocked : Fld := ⟨0x00040000 + 0x48, 3, 1, 0⟩
def pll0CstatusSwapEvent : Fld := ⟨0x00040000 + 0x48, 1, 1, 0⟩
def pll0CstatusStandbyReady : Fld := ⟨0x00040000 + 0x48, 0, 1, 0⟩
def pll0LstatusLocked : Fld := ⟨0x00040000 + 0x4c, 0, 16, 0⟩
def pll0MasterLol : Fld := ⟨0x00040000 + 0x50, 0, 32, 0⟩
def pll0Fallbacks : Fld := ⟨0x00040000 + 0x54, 0, 32, 0⟩
def pll0PhaseRetries : Fld := ⟨0x00040000 + 0x58, 0, 32, 0⟩
def pll0CoreLolA : Fld := ⟨0x00040000 + 0x5c, 0, 32, 0⟩
def pll0CoreLolB : Fld := ⟨0x00040000 + 0x60, 0, 32, 0⟩
def pll0Swaps : Fld := ⟨0x00040000 + 0x64, 0, 32, 0⟩
def pll0LaneLol : Fld := ⟨0x00040000 + 0x68, 0, 32, 0⟩
def pll0Squelches : Fld := ⟨0x00040000 + 0x6c, 0, 32, 0⟩
def pll1ClkoutCfgEn (n : Nat) : Fld := ⟨0x00041000 + 0x40 + n * 8, 31, 1, 0⟩
def pll1ClkoutCfgDiv (n : Nat) : Fld := ⟨0x00041000 + 0x40 + n * 8, 0, 24, 0x64⟩
def pll1ClkoutStatusSquelched (n : Nat) : Fld := ⟨0x00041000 + 0x44 + n * 8, 1, 1, 0⟩
def pll1ClkoutStatusRunning (n : Nat) : Fld := ⟨0x00041000 + 0x44 + n * 8, 0, 1, 0⟩
def pll1PpsCfgEn (n : Nat) : Fld := ⟨0x00041000 + 0x80 + n * 0x20, 31, 1, 0⟩
def pll1PpsCfgPeriodNs (n : Nat) : Fld := ⟨0x00041000 + 0x80 + n * 0x20, 0, 30, 0x3b9aca00⟩
def pll1PpsWidth (n : Nat) : Fld := ⟨0x00041000 + 0x84 + n * 0x20, 0, 30, 0x5f5e100⟩
def pll1PpsDelay (n : Nat) : Fld := ⟨0x00041000 + 0x88 + n * 0x20, 0, 32, 0⟩
def pll1PpsStatusCfgBad (n : Nat) : Fld := ⟨0x00041000 + 0x8c + n * 0x20, 2, 1, 0⟩
def pll1PpsStatusRunning (n : Nat) : Fld := ⟨0x00041000 + 0x8c + n * 0x20, 1, 1, 0⟩
def pll1PpsStatusAligned (n : Nat) : Fld := ⟨0x00041000 + 0x8c + n * 0x20, 0, 1, 1⟩
def pll1PpsMisalignLo (n : Nat) : Fld := ⟨0x00041000 + 0x90 + n * 0x20, 0, 32, 0⟩
def pll1PpsMisalignHi (n : Nat) : Fld := ⟨0x00041000 + 0x94 + n * 0x20, 0, 32, 0⟩
def pll1PpsReslates (n : Nat) : Fld := ⟨0x00041000 + 0x98 + n * 0x20, 0, 32, 0⟩
def pll1PpsPulses (n : Nat) : Fld := ⟨0x00041000 + 0x9c + n * 0x20, 0, 32, 0⟩
def tdc0TbcfgForceTclk : Fld := ⟨0x00050000 + 0x40, 1, 1, 0⟩
def tdc0TbcfgFreq : Fld := ⟨0x00050000 + 0x40, 0, 1, 0⟩
def tdc0TbstatusLossEvent : Fld := ⟨0x00050000 + 0x44, 3, 1, 0⟩
def tdc0TbstatusInUse : Fld := ⟨0x00050000 + 0x44, 2, 1, 0⟩
def tdc0TbstatusLocked : Fld := ⟨0x00050000 + 0x44, 1, 1, 0⟩
def tdc0TbstatusPresent : Fld := ⟨0x00050000 + 0x44, 0, 1, 0⟩
def tdc0TbOffset : Fld := ⟨0x00050000 + 0x48, 0, 32, 0⟩
def tdc0TbLosses : Fld := ⟨0x00050000 + 0x4c, 0, 32, 0⟩
def tdc0TbReturns : Fld := ⟨0x00050000 + 0x50, 0, 32, 0⟩
def evCtrlEdgeSel (e : Nat) : Fld := ⟨0x00051000 + e * 0x1000 + 0x40, 8, 2, 0⟩
def evCtrlIrqEn (e : Nat) : Fld := ⟨0x00051000 + e * 0x1000 + 0x40, 4, 1, 0⟩
def evCtrlMode (e : Nat) : Fld := ⟨0x00051000 + e * 0x1000 + 0x40, 0, 2, 0⟩
def evStatusOvf (e : Nat) : Fld := ⟨0x00051000 + e * 0x1000 + 0x44, 31, 1, 0⟩
def evStatusDmaStall (e : Nat) : Fld := ⟨0x00051000 + e * 0x1000 + 0x44, 30, 1, 0⟩
def evStatusPeak (e : Nat) : Fld := ⟨0x00051000 + e * 0x1000 + 0x44, 16, 13, 0⟩
def evStatusLevel (e : Nat) : Fld := ⟨0x00051000 + e * 0x1000 + 0x44, 0, 13, 0⟩
def evDmaBaseLoAddr (e : Nat) : Fld := ⟨0x00051000 + e * 0x1000 + 0x58, 12, 20, 0⟩
def evDmaBaseHiAddr (e : Nat) : Fld := ⟨0x00051000 + e * 0x1000 + 0x5c, 0, 32, 0⟩
def evDmaCfgFlushUs (e : Nat) : Fld := ⟨0x00051000 + e * 0x1000 + 0x60, 8, 8, 0xa⟩
def evDmaCfgSize (e : Nat) : Fld := ⟨0x00051000 + e * 0x1000 + 0x60, 0, 5, 0xc⟩
def evDmaWr (e : Nat) : Fld := ⟨0x00051000 + e * 0x1000 + 0x64, 0, 20, 0⟩
def evDmaRd (e : Nat) : Fld := ⟨0x00051000 + e * 0x1000 + 0x68, 0, 20, 0⟩
def evStamped (e : Nat) : Fld := ⟨0x00051000 + e * 0x1000 + 0x6c, 0, 32, 0⟩
def evMergedLost (e : Nat) : Fld := ⟨0x00051000 + e * 0x1000 + 0x70, 0, 32, 0⟩
def evOverflowLost (e : Nat) : Fld := ⟨0x00051000 + e * 0x1000 + 0x74, 0, 32, 0⟩
def cal0StatusTdcDone : Fld := ⟨0x00060000 + 0x40, 12, 10, 0⟩
def cal0StatusRunning : Fld := ⟨0x00060000 + 0x40, 11, 1, 0⟩
def cal0StatusPllMismatch : Fld := ⟨0x00060000 + 0x40, 10, 1, 0⟩
def cal0StatusRunKind : Fld := ⟨0x00060000 + 0x40, 7, 3, 0⟩
def cal0StatusGafferHalted : Fld := ⟨0x00060000 + 0x40, 6, 1, 0⟩
def cal0StatusLastResult : Fld := ⟨0x00060000 + 0x40, 0, 2, 0⟩
def cal0LaneDoneLo : Fld := ⟨0x00060000 + 0x44, 0, 32, 0⟩
def cal0LaneDoneHi : Fld := ⟨0x00060000 + 0x48, 0, 16, 0⟩
def cal0CauseTarget : Fld := ⟨0x00060000 + 0x4c, 8, 8, 0⟩
def cal0Cause : Fld := ⟨0x00060000 + 0x4c, 0, 8, 0⟩
def cal0InputStates : Fld := ⟨0x00060000 + 0x50, 0, 32, 0⟩
def cal0OutOfRange : Fld := ⟨0x00060000 + 0x54, 0, 32, 0⟩
def cal0Raises : Fld := ⟨0x00060000 + 0x58, 0, 32, 0⟩
def cal0GafferRestarts : Fld := ⟨0x00060000 + 0x5c, 0, 32, 0⟩
def cal1Tx (l : Nat) : Fld := ⟨0x00061000 + 0x40 + l * 8, 0, 16, 0⟩
def cal1Rx (l : Nat) : Fld := ⟨0x00061000 + 0x44 + l * 8, 0, 16, 0⟩
def cal2Seq : Fld := ⟨0x00062000 + 0x40, 0, 32, 0⟩
def cal2Second : Fld := ⟨0x00062000 + 0x44, 0, 32, 0⟩
def cal2VddSetMv : Fld := ⟨0x00062000 + 0x48, 16, 16, 0⟩
def cal2VddNeedMv : Fld := ⟨0x00062000 + 0x48, 0, 16, 0⟩
def cal2FlagsMarginExhausted : Fld := ⟨0x00062000 + 0x4c, 7, 1, 0⟩
def cal2FlagsOscValid : Fld := ⟨0x00062000 + 0x4c, 6, 1, 0⟩
def cal2FlagsRec : Fld := ⟨0x00062000 + 0x4c, 0, 5, 0⟩
def cal2OscAge : Fld := ⟨0x00062000 + 0x50, 0, 32, 0⟩
def cal2OscX : Fld := ⟨0x00062000 + 0x54, 0, 32, 0⟩
def cal2TdcDriftErrorPs (b : Nat) : Fld := ⟨0x00062000 + 0x58 + b * 4, 0, 16, 0⟩
def cal2SensorDegrade (k : Nat) : Fld := ⟨0x00062000 + 0x100 + k * 4, 16, 16, 0⟩
def cal2SensorTrend (k : Nat) : Fld := ⟨0x00062000 + 0x100 + k * 4, 0, 16, 0⟩
def pers3KindCount (k : Nat) : Fld := ⟨0x00013000 + 0x40 + k * 0x10, 0, 32, 0⟩
def pers3KindSecLo (k : Nat) : Fld := ⟨0x00013000 + 0x44 + k * 0x10, 0, 32, 0⟩
def pers3KindSecHiNtValid (k : Nat) : Fld := ⟨0x00013000 + 0x48 + k * 0x10, 31, 1, 0⟩
def pers3KindSecHiSecHi (k : Nat) : Fld := ⟨0x00013000 + 0x48 + k * 0x10, 0, 16, 0⟩
def pers3KindNs (k : Nat) : Fld := ⟨0x00013000 + 0x4c + k * 0x10, 0, 32, 0⟩
def pers3LinkDelay (n : Nat) : Fld := ⟨0x00013000 + 0x100 + n * 4, 0, 24, 0⟩
def pers3TdcRef (b : Nat) : Fld := ⟨0x00013000 + 0x180 + b * 4, 0, 18, 0⟩
def pers3OscX : Fld := ⟨0x00013000 + 0x1c0, 0, 32, 0⟩
def pers3OscAge : Fld := ⟨0x00013000 + 0x1c4, 0, 32, 0⟩
def pers3OscSec : Fld := ⟨0x00013000 + 0x1c8, 0, 32, 0⟩
def rstCauseRail : Fld := ⟨0x00001000 + 0x40, 4, 3, 0⟩
def rstCause : Fld := ⟨0x00001000 + 0x40, 0, 4, 0⟩
def rstStatusGroupHeld : Fld := ⟨0x00001000 + 0x44, 8, 8, 0⟩
def rstStatusHeldThermal : Fld := ⟨0x00001000 + 0x44, 1, 1, 0⟩
def rstStatusReady : Fld := ⟨0x00001000 + 0x44, 0, 1, 0⟩
def rstWarmResets : Fld := ⟨0x00001000 + 0x48, 0, 32, 0⟩
def rstSoftResets : Fld := ⟨0x00001000 + 0x4c, 0, 32, 0⟩
def rstGroupFaults : Fld := ⟨0x00001000 + 0x50, 0, 32, 0⟩
def rstGroupResets : Fld := ⟨0x00001000 + 0x54, 0, 32, 0⟩
def pwrStatusAvsFail : Fld := ⟨0x00002000 + 0x40, 3, 1, 0⟩
def pwrStatusDeferred : Fld := ⟨0x00002000 + 0x40, 2, 1, 0⟩
def pwrStatusDipEvent : Fld := ⟨0x00002000 + 0x40, 1, 1, 0⟩
def pwrStatusDip : Fld := ⟨0x00002000 + 0x40, 0, 1, 0⟩
def pwrDipLogRail : Fld := ⟨0x00002000 + 0x44, 29, 3, 0⟩
def pwrDipLogMinMv : Fld := ⟨0x00002000 + 0x44, 16, 13, 0⟩
def pwrDipLogDurationUs : Fld := ⟨0x00002000 + 0x44, 0, 16, 0⟩
def pwrAvsSetMv : Fld := ⟨0x00002000 + 0x48, 16, 10, 0⟩
def pwrAvsReadMv : Fld := ⟨0x00002000 + 0x48, 0, 10, 0⟩
def pwrTelemVoutMv (r : Nat) : Fld := ⟨0x00002000 + 0x4c + r * 4, 16, 16, 0⟩
def pwrTelemIout (r : Nat) : Fld := ⟨0x00002000 + 0x4c + r * 4, 0, 16, 0⟩
def pwrDips : Fld := ⟨0x00002000 + 0x58, 0, 32, 0⟩
def pwrAvsWrites : Fld := ⟨0x00002000 + 0x5c, 0, 32, 0⟩
def pwrAvsFails : Fld := ⟨0x00002000 + 0x60, 0, 32, 0⟩
def pwrRegFaults : Fld := ⟨0x00002000 + 0x64, 0, 32, 0⟩
def hlthFault : Fld := ⟨0x00003000 + 0x40, 0, 16, 0⟩
def hlthFaultEn : Fld := ⟨0x00003000 + 0x44, 0, 16, 0xffff⟩
def hlthFaultPage : Fld := ⟨0x00003000 + 0x48, 0, 14, 0⟩
def hlthTempMax (d : Nat) : Fld := ⟨0x00003000 + 0x50 + d * 4, 16, 16, 0x8000⟩
def hlthTempNow (d : Nat) : Fld := ⟨0x00003000 + 0x50 + d * 4, 0, 16, 0⟩
def pers0Id (i : Nat) : Fld := ⟨0x00010000 + 0x40 + i * 4, 0, 32, 0⟩
def pers0StatusLost : Fld := ⟨0x00010000 + 0x50, 3, 1, 0⟩
def pers0StatusDeferFull : Fld := ⟨0x00010000 + 0x50, 2, 1, 0⟩
def pers0StatusWorn : Fld := ⟨0x00010000 + 0x50, 1, 1, 0⟩
def pers0StatusRepaired : Fld := ⟨0x00010000 + 0x50, 0, 1, 0⟩
def pers0WornAddr : Fld := ⟨0x00010000 + 0x54, 0, 16, 0⟩
def pers0WearAddr : Fld := ⟨0x00010000 + 0x58, 0, 16, 0⟩
def pers0Commits : Fld := ⟨0x00010000 + 0x60, 0, 32, 0⟩
def pers0Repairs : Fld := ⟨0x00010000 + 0x64, 0, 32, 0⟩
def pers0Vmin (d : Nat) : Fld := ⟨0x00010000 + 0x80 + d * 4, 0, 10, 0⟩
def pers0Sensor (k : Nat) : Fld := ⟨0x00010000 + 0x100 + k * 4, 0, 24, 0⟩
def pers1StrapOvrMask : Fld := ⟨0x00011000 + 0x40, 16, 16, 0⟩
def pers1StrapOvrValue : Fld := ⟨0x00011000 + 0x40, 0, 16, 0⟩
def pers1AvsNewest : Fld := ⟨0x00011000 + 0x44, 0, 5, 0⟩
def pers1AvsHistSetMv (k : Nat) : Fld := ⟨0x00011000 + 0x80 + k * 4, 22, 10, 0⟩
def pers1AvsHistNeedMv (k : Nat) : Fld := ⟨0x00011000 + 0x80 + k * 4, 12, 10, 0⟩
def pers1AvsHistDay (k : Nat) : Fld := ⟨0x00011000 + 0x80 + k * 4, 0, 12, 0⟩
def cmdSlotCmdGo (n : Nat) : Fld := ⟨0x00004000 + n / 4 * 0x1000 + n % 4 * 0x300 + 0x40, 31, 1, 0⟩
def cmdSlotCmdIrq (n : Nat) : Fld := ⟨0x00004000 + n / 4 * 0x1000 + n % 4 * 0x300 + 0x40, 30, 1, 0⟩
def cmdSlotCmdTag (n : Nat) : Fld := ⟨0x00004000 + n / 4 * 0x1000 + n % 4 * 0x300 + 0x40, 16, 8, 0⟩
def cmdSlotCmdOpcode (n : Nat) : Fld := ⟨0x00004000 + n / 4 * 0x1000 + n % 4 * 0x300 + 0x40, 0, 8, 0⟩
def cmdSlotParam (n i : Nat) : Fld := ⟨0x00004000 + n / 4 * 0x1000 + n % 4 * 0x300 + 0x44 + i * 4, 0, 32, 0⟩
def cmdSlotStatusDone (n : Nat) : Fld := ⟨0x00004000 + n / 4 * 0x1000 + n % 4 * 0x300 + 0x140, 31, 1, 0⟩
def cmdSlotStatusTag (n : Nat) : Fld := ⟨0x00004000 + n / 4 * 0x1000 + n % 4 * 0x300 + 0x140, 16, 8, 0⟩
def cmdSlotStatusOpcode (n : Nat) : Fld := ⟨0x00004000 + n / 4 * 0x1000 + n % 4 * 0x300 + 0x140, 8, 8, 0⟩
def cmdSlotStatusStatus (n : Nat) : Fld := ⟨0x00004000 + n / 4 * 0x1000 + n % 4 * 0x300 + 0x140, 0, 4, 0⟩
def cmdSlotResult (n i : Nat) : Fld := ⟨0x00004000 + n / 4 * 0x1000 + n % 4 * 0x300 + 0x144 + i * 4, 0, 32, 0⟩
def cmd0Done : Fld := ⟨0x00004000 + 0xc40, 0, 16, 0⟩
def cmd0Ignored : Fld := ⟨0x00004000 + 0xc44, 0, 32, 0⟩
def trafTxFrames (p s c : Nat) : Fld := ⟨0x00082000 + p * 0x1000 + 0x40 + s * 0x40 + c * 4, 0, 32, 0⟩
def trafRxFrames (p s : Nat) : Fld := ⟨0x00082000 + p * 0x1000 + 0x240 + s * 0xc, 0, 32, 0⟩
def trafRxKib (p s : Nat) : Fld := ⟨0x00082000 + p * 0x1000 + 0x244 + s * 0xc, 0, 32, 0⟩
def trafTxKib (p s : Nat) : Fld := ⟨0x00082000 + p * 0x1000 + 0x248 + s * 0xc, 0, 32, 0⟩
def trafClassTxKib (p c : Nat) : Fld := ⟨0x00082000 + p * 0x1000 + 0x2a0 + c * 4, 0, 32, 0⟩
def pcnt0CtrlAuto : Fld := ⟨0x00080000 + 0x40, 0, 1, 0⟩
def pcnt0SnapSeq : Fld := ⟨0x00080000 + 0x44, 0, 32, 0⟩
def pcnt0SnapClapperTaken : Fld := ⟨0x00080000 + 0x48, 31, 1, 0⟩
def pcnt0SnapClapperNumber : Fld := ⟨0x00080000 + 0x48, 0, 14, 0⟩
def pcnt0SnapRawLo : Fld := ⟨0x00080000 + 0x4c, 0, 32, 0⟩
def pcnt0SnapRawHi : Fld := ⟨0x00080000 + 0x50, 0, 32, 0⟩
def pcnt0SnapDies : Fld := ⟨0x00080000 + 0x54, 0, 10, 0⟩
def pcnt0BankIndex : Fld := ⟨0x00080000 + 0x58, 0, 18, 0⟩
def pcnt0UserBlocked : Fld := ⟨0x00080000 + 0x60, 0, 32, 0⟩
def pcnt1CfgEn (k : Nat) : Fld := ⟨0x00081000 + 0x40 + k * 0x20, 31, 1, 0⟩
def pcnt1CfgSource (k : Nat) : Fld := ⟨0x00081000 + 0x40 + k * 0x20, 16, 2, 0⟩
def pcnt1CfgPrivMask (k : Nat) : Fld := ⟨0x00081000 + 0x40 + k * 0x20, 8, 3, 0⟩
def pcnt1CfgKindMask (k : Nat) : Fld := ⟨0x00081000 + 0x40 + k * 0x20, 0, 8, 0⟩
def pcnt1Master (k : Nat) : Fld := ⟨0x00081000 + 0x44 + k * 0x20, 0, 32, 0⟩
def pcnt1AddrLo (k : Nat) : Fld := ⟨0x00081000 + 0x48 + k * 0x20, 2, 25, 0⟩
def pcnt1AddrHi (k : Nat) : Fld := ⟨0x00081000 + 0x4c + k * 0x20, 2, 25, 0⟩
def pcnt1Count (k : Nat) : Fld := ⟨0x00081000 + 0x50 + k * 0x20, 0, 32, 0⟩

end F

end Sys2Proof.Machine
end

