-- ==== Sys2Proof/Machine/Store.lean ====
section
/-! DEFINITION. Sparse stores: lists of key and value pairs in one canonical form (keys strictly rising, no entry equal to the default), so that equal stores are equal lists. -/

namespace Sys2Proof.Machine

/-- A sparse store keyed by numbers. -/
abbrev Store (α : Type) := List (Nat × α)

/-- The value listed for a key, if any. -/
def Store.find {α : Type} (k : Nat) : Store α → Option α
  | [] => none
  | e :: l => if e.1 = k then some e.2 else Store.find k l

/-- The value of a key, `d` where none is listed. -/
def Store.read {α : Type} (d : α) (l : Store α) (k : Nat) : α :=
  match Store.find k l with
  | some v => v
  | none => d

/-- List a value under a key, at its place in the rising order. -/
def Store.insert {α : Type} (k : Nat) (v : α) : Store α → Store α
  | [] => [(k, v)]
  | e :: l =>
    if e.1 = k then (k, v) :: l
    else if k < e.1 then (k, v) :: e :: l
    else e :: Store.insert k v l

/-- Unlist a key. -/
def Store.erase {α : Type} (k : Nat) : Store α → Store α
  | [] => []
  | e :: l => if e.1 = k then Store.erase k l else e :: Store.erase k l

/-- Write a value under a key; the default is kept by listing nothing. -/
def Store.write {α : Type} [DecidableEq α] (d : α) (l : Store α) (k : Nat) (v : α) : Store α :=
  if v = d then Store.erase k l else Store.insert k v l

/-- Keys strictly rising. -/
def Store.rising {α : Type} : Store α → Bool
  | [] => true
  | [_] => true
  | e :: f :: l => decide (e.1 < f.1) && Store.rising (f :: l)

/-- The canonical form of a store whose unlisted keys read `d`. -/
def Store.canonical {α : Type} [DecidableEq α] (d : α) (l : Store α) : Bool :=
  Store.rising l && l.all (fun e => decide (e.2 ≠ d))

end Sys2Proof.Machine
end

