-- ==== Sys2Proof/Machine/State.lean ====
section
/-! DEFINITION. The state of the KN4876 as plain data: the register store, every hidden store and engine the spec names, and the queue of waiting commands. -/

namespace Sys2Proof.Machine

/-- The answer to the last host access: data words read, and how the access completed. -/
structure Reply where
  data : List Word
  unsupported : Bool
  nack : Bool
  deriving DecidableEq, Repr

/-- Rewritten header a frame carries until it leaves (R99 to R102, R112); `under` holds the tags of a frame sent on
unchanged, behind the new tag (R106, R108). -/
structure OutHeader where
  stack : List (BitVec 32)
  etype : BitVec 16
  dmac : BitVec 48
  smac : BitVec 48
  tag : Option (BitVec 16 × BitVec 16)
  under : List (BitVec 16 × BitVec 16)
  deriving DecidableEq, Repr

/-- A frame inside the KN4876, from its parse to its tail (R112, R119, R120). `len` is the outgoing
length, `full` that length before any cut, `inLen` the received one; `flow` is the way that its lookup matched and
`entry` that flow entry as read; `formed`, `crossed` count cells, `upperCells` those in the upper
member's slice (R135); `link` is its place in its slice queue (0 = not linked); `waiting` holds it for
its SEQ predecessor (R93); `taken` says the admission stage has passed it; `stored` that the input
store has admitted it; `order` its place in the order in which frames were released to the fabric (R93, R127); `bad` that it leaves with an inverted FCS; `ended` that it ends early (R137); `direct` that it
enters the slice without an input store (R108, INJECT = 0); `held` that its output's link was down or in its hold,
or its output two-shot port degraded, within its residence (R71); `broken` that its promise has counted as broken. -/
structure Frame where
  id : Nat
  order : Nat
  inPort : Nat
  inSub : Nat
  frameNo : Nat
  fromHost : Bool
  direct : Bool
  outPort : Nat
  outSub : Nat
  cls : Nat
  express : Bool
  unadmitted : Bool
  flow : Option Nat
  entry : BitVec 128
  len : Nat
  full : Nat
  inLen : Nat
  rxStamp : Raw
  hdr : OutHeader
  tag : Option TsTag
  waiting : Bool
  taken : Bool
  stored : Bool
  tailSeen : Bool
  bad : Bool
  ended : Bool
  formed : Nat
  crossed : Nat
  upperCells : Nat
  link : Nat
  linkedAt : Raw
  rsv : Nat
  started : Bool
  preempted : Bool
  held : Bool
  broken : Bool
  member : Nat
  deriving DecidableEq, Repr

/-- What the admission stage keeps of an accepted frame until its tail (R62, R64): its flow's way and the entry that it was
accepted under, its received length, whether that flow still stands in the way, and whether OVERSIZE has counted it. -/
structure Tail where
  flow : Nat
  entry : BitVec 128
  len : Nat
  live : Bool
  counted : Bool
  deriving DecidableEq, Repr

/-- A flow as its ledger holds it (R329): its terms are the hold of R55 in 1/16 ps and whether the reorder wait of R69
is charged, both by its ingress port as it stood at the admission. -/
structure LFlow where
  index : Nat
  key : Nat
  gen : Nat
  port : Nat
  sub : Nat
  cls : Nat
  rate : Nat
  burst : Nat
  maxf : Nat
  inPort : Nat
  inSub : Nat
  hold : Nat
  reorder : Bool
  underMerge : Bool
  deriving DecidableEq, Repr

/-- A scheduling tree (R149): the reset tree of `base` subports (R154) with the entries that differ. -/
structure Tree where
  base : Nat
  nodes : Store (BitVec 128)
  deriving DecidableEq, Repr

/-- The scheduler state of one port's trees (R150, R151, R153): buckets are kept as the distance
below their caps, in 1/8000 byte. `prev` lists the subports that have made no choice since the last APPLY, each with the
tree that it still runs. -/
structure Sched where
  active : Tree
  shadow : Tree
  cUsed : Store Int
  pUsed : Store Int
  deficit : Store Int
  turn : Store Nat
  badNodes : List Nat
  shadowBad : List Nat
  prev : Store Tree
  deriving DecidableEq, Repr

/-- A gate list (R156): its entries, length, take length and base network time. -/
structure GateList where
  entries : Store (BitVec 64)
  len : Nat
  takeNs : Nat
  base : Nat
  badEntries : List Nat
  deriving DecidableEq, Repr

/-- A pending cut-over (R158, R159): the new list's length, take, base, and its instant request. -/
structure CutOver where
  len : Nat
  takeNs : Nat
  base : Nat
  at_ : Nat
  spliceG : List Nat
  deriving DecidableEq, Repr

/-- The take gate of a port: active and shadow banks, the pending cut-over and the running entry. -/
structure Gate where
  active : GateList
  shadow : GateList
  pending : Option CutOver
  entry : Nat
  mask : BitVec 16
  deriving DecidableEq, Repr

/-- A window operation in progress, with the words captured at its trigger (R110, R164). -/
structure WinOp where
  read : Bool
  write : Bool
  index : Nat
  bank : Bool
  data : BitVec 128
  checkGen : Bool
  expectGen : BitVec 8
  target : Nat
  deriving DecidableEq, Repr

/-- One parameter set of network time (R170, R187). `era` counts the discontinuities before it. -/
structure ParamSet where
  anchor : Raw
  base : Nat
  rate : Int
  isSet : Bool
  era : Nat
  deriving DecidableEq, Repr

/-- The time plane: raw time, the parameters of network time, the clapper schedule and the servo
(R166 to R187). Network times are in units of 2^-16 ns; `y` is in units of 2^-88 / 62,500. -/
structure TimePlane where
  raw : Raw
  running : Bool
  cur : ParamSet
  hist : List ParamSet
  nextAnchor : Raw
  nextNumber : Nat
  sinceAlign : Nat
  y : Int
  nextRate : Option Int
  coast : Nat
  accepted : Bool
  runFirst : Int
  disq : List Nat
  offerHeld : Bool
  lastAccepted : Bool
  srcIdle : Nat
  stepClapper : Bool
  stepRaw : Option Raw
  steps : Nat
  dolly : Int
  reaim : Bool
  deriving DecidableEq, Repr

/-- What a frame holds that the KN4876 originates: IEEE 1588 messages with their times as sent, whole in units of 2^-16 ns,
and their correctionField (R195); ESMC PDUs with the QL and the extended QL TLV (R210); fuse markers (R90); MAC Merge
verify and respond frames (R67); and the probes of CAL_ASYM (R283). -/
inductive SentBody where
  | sync (time : Nat) (corr : Int) (speid : Option SpeidTlv)
  | delayReq (time : Nat) (corr : Int) (speid : Option SpeidTlv)
  | delayResp (time : Nat) (corr : Int) (requester : BitVec 80)
  | announce (a : Announce)
  | signaling (l1 : L1Sync)
  | esmc (isEvent : Bool) (ssm : Nat) (ext : Option (BitVec 8 × BitVec 64))
  | fuseMarker (identity : BitVec 64) (upperRole : Bool) (clapper : Nat)
  | verify
  | respond
  | probe (identity : BitVec 64) (number : Nat)
  deriving DecidableEq, Repr

/-- A frame that the KN4876 originates: its subport, its header, the domain and the sequence number of a timing message,
what it holds, and its slate at the balls (R177). -/
structure Sent where
  port : Nat
  sub : Nat
  dmac : BitVec 48
  etype : BitVec 16
  vid : Option (BitVec 12)
  label : Option (BitVec 32)
  domain : Nat
  seqId : BitVec 16
  body : SentBody
  slate : BitVec 128
  deriving DecidableEq, Repr

/-- A result posted to the time collector (R206): offset, and the earliest of its raw stamps. -/
structure Post where
  e : Int
  stamp : Raw
  deriving DecidableEq, Repr

/-- One half of an exchange (R197): its two times and correction in units of 2^-16 ns, sequence
number, carrying member, the clappers since its completion, and the stamp at the near end. -/
structure Half where
  a : Int
  b : Int
  corr : Int
  seqId : BitVec 16
  upper : Bool
  age : Nat
  stamp : Raw
  deriving DecidableEq, Repr

/-- A Delay_Req that waits for its answer (R195): its sequence number, its sender, its moved RX stamp and its
correctionField. -/
structure Asked where
  seqId : BitVec 16
  source : BitVec 80
  stamp : Raw
  corr : Int
  deriving DecidableEq, Repr

/-- A session's result as its engine forms it (R197, R201): offset, mean path delay, earliest raw stamp. -/
structure Result where
  e : Int
  delay : Int
  stamp : Raw
  deriving DecidableEq, Repr

/-- The sequence numbers of a session's next Sync, Delay_Req, Announce and Signaling. -/
structure SeqIds where
  sync : BitVec 16
  delay : BitVec 16
  announce : BitVec 16
  signaling : BitVec 16
  deriving DecidableEq, Repr

/-- A timing session (R189 to R201, Table 9-8). `sync` and `dly` are the latest complete pairs,
`syncPend` and `dlyPend` the exchanges begun; `asked` holds the Delay_Reqs to answer. The residues of Speid are in units
of 2^-32 / 5 ns, in which the period of 6.4 ns is a whole number, its one-way delays in units of 2^-16 ns; `phases` are
the phases latched at the last 17 markers, newest first; `tlvSeen` counts the clappers since a usable TLV arrived, 257
standing for none within 256. `owed` lists the clappers, by their count, whose sends an overrun left over, and
`finished` is a result that an overrun kept from being posted (R205). -/
structure Session where
  cfg : BitVec 256
  peer : BitVec 80
  learned : Bool
  annTimeout : Bool
  member : Bool
  fresh : Bool
  speid : Nat
  tlv : Option SpeidTlv
  tlvSeen : Nat
  e : Int
  delay : Int
  nIn : Option Int
  nOut : Option Int
  run : Nat
  wIn : Int
  wOut : Int
  dIn : Int
  dOut : Int
  phases : List (Nat × Nat)
  ann : Option Announce
  l1 : Option L1Sync
  age : Nat
  sync : Option Half
  syncPend : Option Half
  dly : Option Half
  dlyPend : Option Half
  newPair : Bool
  asked : List Asked
  seqs : SeqIds
  owed : List Nat
  finished : Option Result
  deriving DecidableEq, Repr

/-- A message in a group's receive queue (R203): its session, its moved stamp, and the clappers that it has waited. -/
structure QMsg where
  session : Nat
  msg : PtpMsg
  stamp : Raw
  age : Nat
  deriving DecidableEq, Repr

/-- ESMC state of one subport (R210): PDUs in the second now counted, where that second began, and
the QL last sent. -/
structure EsmcRx where
  inSecond : Nat
  secondFrom : Raw
  sentQl : Option Nat
  deriving DecidableEq, Repr

/-- Test state of a reference candidate (R219 to R221): the last two published offsets, the offset
and drift tests, the last activity event (true = edges or results returned), the source the
candidate was measured from, the source that activity event concerned, and the failures of the activity
and Announce tests detected since the last marker (R220). -/
structure CandState where
  f : Option Int
  fPrev : Option Int
  offsetOk : Bool
  driftOk : Bool
  act : Option Bool
  source : Nat
  actSource : Nat
  lostAct : Bool
  lostAnn : Bool
  deriving DecidableEq, Repr

/-- The reference planes beside their registers (R217 to R233): the acquisition stage in
1/16384 mHz, candidates (0 to 9 frequency, 10 to 17 time slots), the archive and the sums of its
second now running, the candidates whose wait to restore is over, the offers of PPSIN slots, the last
second in which each PPSIN gave a pulse to each slot, and the offsets of each time slot's source over the
last 16 s with their raw stamps (R219). -/
structure RefPlane where
  cv : Int
  stage : Nat
  cands : Store CandState
  archive : Store (BitVec 128)
  cvSum : Int
  cvCount : Nat
  lockedAll : Bool
  cutIn : Bool
  dipIn : Bool
  wtrOver : List Nat
  ppsOffer : Store (Int × Raw)
  ppsSecond : Store Nat
  offers : Store (List (Raw × Int))
  deriving DecidableEq, Repr

/-- A pulse output beside its registers (R253 to R256), network times in units of 2^-16 ns: its alignment
offset A_n, the period (ns), width (ns) and delay (ps) in force, the earliest next edge, the changes
that wait with the time from which each holds, the last edge given, the time at which the ball falls again, and where the
hardware placed the last edge: a TCLK edge and a fine delay in 1/64 ns. -/
structure Pulse where
  align : Int
  period : Nat
  width : Nat
  delay : Int
  notBefore : Int
  pending : List (Nat × Nat × Int × Int)
  lastEdge : Option Int
  falls : Option Int
  placed : Option (Raw × Int)
  deriving DecidableEq, Repr

/-- A clock output beside its registers (R252), in VCO cycles of 100 ps: whether it gives edges, the divider in force,
the cycles since its divider's last rising edge, and, while it runs from fallback TCLK, the DIV and the cycles of its own
divider from the release of a new lock on (R243). -/
structure ClkOut where
  running : Bool
  div : Nat
  into : Nat
  own : Option (Nat × Nat)
  deriving DecidableEq, Repr

/-- An event channel beside its registers (R266 to R272): the reel, the raw instants at which its slates
entered, the slate whose dead time runs, the loss mark, and the raw instant of the last interrupt. -/
structure Channel where
  reel : List (BitVec 128)
  entered : List Raw
  openSlate : Option (BitVec 128)
  gap : Bool
  lastIrq : Option Raw
  deriving DecidableEq, Repr

/-- The trims of one delay line (R278): the hits that each tap collected in the last pass, of 2^22, and the steps by
which the delay trim of each tap and the threshold trim of each sampler were moved. -/
structure LineTrim where
  hits : List Nat
  delaySteps : List Int
  thresholdSteps : List Nat
  deriving DecidableEq, Repr

/-- The TDC banks beside their registers (R262 to R264, R278, R279, R284): the trims of each trimmed line (channel c of
bank b has the lines 2 (512 b + c), which stamps, and the next), the event channels' common grid with the interval of each
tap of each channel, the map of EVCLK onto raw time, the TCLK edge of the last switch of TCLK, and the groups whose die
holds its bank's trims. -/
structure TdcBanks where
  lines : Store LineTrim
  grid : List Nat
  intervals : Store (List Nat)
  mapRaw : Raw
  mapEdge : Nat
  mapRho : Int
  switched : Option Raw
  loaded : BitVec 8
  deriving DecidableEq, Repr

/-- A calibration run (R275, R276): its slot, kind and target, the die temperatures at its start, the
first failing condition of Table 13-2 met so far (0 = none), the trims with which a CAL_TDC has exchanged the roles of
its lines (R278), and the probes that a CAL_ASYM has sent (R283). -/
structure CalRun where
  slot : Nat
  kind : Nat
  target : Nat
  temps : List Int
  cause : Nat
  half : Option CalIn
  probes : Nat
  deriving DecidableEq, Repr

/-- One persistent word (R313, R315): both MRAM copies with their stamps, whether each copy's ECC
holds, and the commits counted. -/
structure Mram where
  a : Word
  b : Word
  stampA : Nat
  stampB : Nat
  okA : Bool
  okB : Bool
  wear : Nat
  deriving DecidableEq, Repr

/-- The dip state (R299, R300). -/
structure Dip where
  entered : Raw
  rail : Nat
  minMv : Nat
  ended : Option Nat
  deriving DecidableEq, Repr

/-- A VDD_CORE change in progress (R297): its target, the set point it started from, the last step read
back, the last step sent, and the misses of its readback. -/
structure AvsChange where
  target : Nat
  origin : Nat
  old : Nat
  step : Nat
  misses : Nat
  deriving DecidableEq, Repr

/-- Phases of the reset controller (R302 to R306, R250): no supply; steps 1 to 4 of Table 14-4; the rails
off for 100 ms; stopped after three failures; after step 5; RST_N or the TAP holds a warm reset; running;
XO_IN lost. -/
inductive Phase where
  | off | rails | failed | stopped | boot | warmHeld | run | xoLost
  deriving DecidableEq, Repr

/-- Power and reset control beside its registers (R302 to R311): `cold` says that a cold reset is under way,
`tripped` that a thermal trip has not yet been answered by a reset; `straps` are the straps in force, `sampled` the balls
as the release of RST_N found them in this warm reset; `boundary` holds the cells of the TAP's boundary register as last
updated; `modeRun` holds the SPLIT and TWO_SHOT under which a
dark port ran before its mode was written (R51, R96); `pll` holds what the PLLs wait for;
`cut` is the commit that the loss of supply found at the head of the queue (R313). -/
structure Power where
  phase : Phase
  railFails : Nat
  cold : Bool
  tripped : Bool
  straps : BitVec 16
  rstLow : Bool
  perstLow : Bool
  tap : TapInstr
  trstLow : Bool
  boundary : List Bool
  sampled : Option (BitVec 16)
  linkUp : Bool
  portDark : BitVec 48
  groupDark : BitVec 8
  modeRun : Store (Nat × Bool)
  groupReset : BitVec 8
  portReset : BitVec 48
  standby : Bool
  inReset : List Nat
  dip : Option Dip
  avs : Option AvsChange
  faultTimes : Store (List Raw)
  resetFrom : Store Raw
  pll : Store Nat
  mram : Store Mram
  commits : List (Nat × Word)
  cut : Option (Nat × Word)
  stamp : Nat
  deriving DecidableEq, Repr

/-- Cores beside their registers (R10 to R14, R205, R290): a restarted director pair that has passed its self-test and waits
for clapper 0, a pair that failed its self-test and stays fenced, the gaffer pair restarting, its self-test passed, a plan
that is due (whether a die link moved, and whether it waits for clapper 0), and the grip engines that have finished this
clapper. -/
structure Cores where
  selfTestOk : Bool
  pairFailed : Bool
  gafferDown : Bool
  gafferBack : Bool
  planDue : Option (Bool × Bool)
  gripDone : BitVec 8
  deriving DecidableEq, Repr

/-- Gaffer histories (R285 to R289): seconds since cold reset, sensor degradations by reading and by day, bank drift, kept
oscillator hours, the staged raise and whether it found the margin exhausted, and a margin that the next publication is to
report exhausted. -/
structure Gaffer where
  seconds : Nat
  degrade : Store Nat
  history : List (Nat × List Nat)
  atLaneCal : Store Nat
  tdcNow : Store Nat
  oscHours : List (Nat × Int)
  lastCal : Store Nat
  raise : Option (Nat × Bool)
  exhausted : Bool
  deriving DecidableEq, Repr

/-- A mailbox slot beside its registers (R323, R326): where its command stands. -/
inductive SlotPhase where
  | idle | waiting | due | ran | running | ending
  deriving DecidableEq, Repr

/-- The command latched in a slot at its GO write (R323). -/
structure Slot where
  phase : SlotPhase
  opcode : Nat
  tag : Nat
  irq : Bool
  params : List Word
  began : Raw
  snap : List Word
  deriving DecidableEq, Repr

/-- What a command step changes at the marker that ends it (R11). -/
inductive Effect where
  | none
  | addFlow (f : LFlow) (entry : BitVec 128) (bounds : List Nat)
  | release (index : Nat)
  | take (port : Nat) (cut : CutOver)
  | cancel (port : Nat)
  | commit (first count : Nat)
  | step
  | reslate
  | asym (port sub : Nat) (ext asymWord : Word)
  | openSession (n : Nat) (cfg : BitVec 256)
  | closeSession (n : Nat)
  | worn (index : Nat)
  | cal (kind target : Nat) (data : CalIn)
  | snapshot
  | deviceReset
  | groupReset (g : Nat)
  | portReset (p : Nat)
  | power (scope index st : Nat)
  deriving DecidableEq, Repr

/-- A staged step: its slot, its effect, and the status and results its command ends with. -/
structure Staged where
  slot : Nat
  effect : Effect
  status : Nat
  results : List Word
  deriving DecidableEq, Repr

/-- Mailbox and director work (R12, R322 to R327): the slots, what is staged, the slots whose steps run in
this clapper in order, those of them still to run, those moved to the next (R326) and whether that has been
reported, the objects taken in this clapper, and whether its work has been discarded (R12). -/
structure Mail where
  slots : Store Slot
  staged : List Staged
  order : List Nat
  left : List Nat
  moved : List Nat
  moveSeen : Bool
  taken : List Nat
  voided : Bool
  deriving DecidableEq, Repr

/-- The fuse markers received on one member (R90, R91): how many in consecutive clappers, the identity
and role they carry, the clapper count of the last, the number it carries and its stamp. -/
structure MarkerRun where
  run : Nat
  identity : BitVec 64
  upperRole : Bool
  atCount : Nat
  number : Nat
  stamp : Raw
  deriving DecidableEq, Repr

/-- A frame that has arrived on a fused port before its predecessors (R93): its number, the member that received it, its
SEQ, and the receive ring that it is due to, with its subport, its length and whether the link is too late for it. -/
structure Early where
  id : Nat
  inPort : Nat
  seq : Nat
  ring : Option (Nat × Nat × Nat × Bool)
  deriving DecidableEq, Repr

/-- Two-shot state of a fused port, keyed by its lower member (R90 to R94). `early` and `earlyX` list the frames of each
space that have arrived before the expected SEQ, whatever becomes of them. -/
structure Fuse where
  txSeq : Nat
  txSeqX : Nat
  txEpoch : Nat
  rxSeq : Option Nat
  rxSeqX : Option Nat
  early : List Early
  earlyX : List Early
  rxEpoch : Nat
  low : MarkerRun
  up : MarkerRun
  skewOk : Nat
  lowIn : Bool
  upIn : Bool
  everUp : Bool
  deriving DecidableEq, Repr

/-- Link state of one subport beside its registers (R81 to R87); `coreWait` waits for the core setting RUN (R247). -/
inductive LinkPhase where
  | down | negotiating | trained | aligned | up | anWait | coreWait
  deriving DecidableEq, Repr

/-- One subport's link and wire. `expired` marks a link down past its hold; `onWire` lists the frames leaving, a preempted
one behind the one that preempts it. -/
structure Link where
  phase : LinkPhase
  downAt : Raw
  expired : Bool
  verifying : Bool
  onWire : List Nat
  deriving DecidableEq, Repr

/-- The central scheduler and the crossbar (R124 to R130): pointers of each replica; the cells granted and not yet
linked, each with its frame, its output and the slots since its grant; the slots for which a dual reset gives no
matching; injected faults, the fence history in clappers, the free lists of the input stores, the cells that each
store has leaked and those that it holds twice, and the sweeps under way (stores 0 to 47 are slices, 48 to 95
input stores). -/
structure Fabric where
  gptrA : Store Nat
  aptrA : Store Nat
  gptrB : Store Nat
  aptrB : Store Nat
  rot : Store Nat
  injectA : Bool
  injectB : Bool
  crossing : List (Nat × Nat × Nat)
  pause : Nat
  fencesA : List Nat
  fencesB : List Nat
  inFree : Store Nat
  leaked : Store Nat
  doubled : Store Nat
  sweeps : List Nat
  clapperCount : Nat
  deriving DecidableEq, Repr

/-- The PCIe function beside its rings (R23 to R25): the words of its configuration space and of its MSI-X table, four
of each vector, that differ from their defaults, whether it stands in D3hot, and whether AER has logged an Unsupported
Request. -/
structure Endpoint where
  config : Store Word
  table : Store Word
  d3hot : Bool
  urLogged : Bool
  deriving DecidableEq, Repr

/-- The block: every register and every hidden piece of state, but for the command queue. -/
structure Chip where
  regs : Store Word
  badParity : List Nat
  shadow : Store Word
  held : Store (BitVec 4 × Word)
  reply : Reply
  msix : BitVec 64
  pcie : Endpoint
  smbHeld : Option (Nat × Word)
  ringMem : Store Word
  hostTokens : Nat
  ringTokens : Store Nat
  txTurn : Nat
  dmaOut : List (Nat × BitVec 128)
  windows : Store WinOp
  convBusy : Option Raw
  conv : Nat
  sessBusy : Option (Nat × Bool × Option (BitVec 256))
  archBusy : Option (BitVec 128)
  checking : List Nat
  path : Store (BitVec 128)
  nh : Store (BitVec 128)
  flow : Store (BitVec 128)
  dn : Store (BitVec 128)
  stage : Store (BitVec 128)
  stageTgt : Store Nat
  eccMarked : List (Nat × Nat)
  tokens : Store Nat
  tails : Store Tail
  ledger : List LFlow
  frames : List Frame
  nextFrame : Nat
  nextLink : Nat
  frameNos : Store Nat
  links : Store Link
  fuses : Store Fuse
  fab : Fabric
  scheds : Store Sched
  gates : Store Gate
  time : TimePlane
  slateSeq : Store Word
  slateStep : Store Nat
  slateLost : List Nat
  sessions : Store Session
  rxq : Store (List QMsg)
  posts : Store Post
  esmc : Store EsmcRx
  out : List Sent
  refs : RefPlane
  pulses : Store Pulse
  clk : Store ClkOut
  tdc : Store Channel
  banks : TdcBanks
  calRun : Option CalRun
  lOut : Store (Nat × Raw)
  linkTrim : Store Nat
  power : Power
  cores : Cores
  gaffer : Gaffer
  mail : Mail
  bank : Store Word
  kib : Store Nat
  deriving DecidableEq, Repr

/-- The block with nothing in it: every register at its Reset value, every store empty, no power. -/
def Chip.zero : Chip :=
  { regs := [], badParity := [], shadow := [], held := [], reply := ⟨[], false, false⟩, msix := 0
    pcie := ⟨[], [], false, false⟩
    smbHeld := none, ringMem := [], hostTokens := 0, ringTokens := [], txTurn := 0, dmaOut := []
    windows := [], convBusy := none, conv := 0, sessBusy := none, archBusy := none, checking := []
    path := [], nh := [], flow := [], dn := [], stage := [], stageTgt := [], eccMarked := [], tokens := []
    tails := [], ledger := [], frames := [], nextFrame := 0, nextLink := 1, frameNos := [], links := []
    fuses := []
    fab := ⟨[], [], [], [], [], false, false, [], 0, [], [], [], [], [], [], 0⟩
    scheds := [], gates := []
    time := ⟨0, false, ⟨0, 0, 0, false, 0⟩, [], 0, 0, 0, 0, none, 0, false, 0, [], false, false, 16, false, none, 0, 0, false⟩
    slateSeq := [], slateStep := [], slateLost := [], sessions := [], rxq := [], posts := [], esmc := [], out := []
    refs := ⟨0, 0, [], [], 0, 0, false, false, false, [], [], [], []⟩
    pulses := [], clk := [], tdc := [], banks := ⟨[], [], [], 0, 0, 0, none, 0xFF⟩, calRun := none, lOut := [], linkTrim := []
    power := ⟨.off, 0, false, false, 0, false, false, .idcode, true, [], none, false, 0, 0, [], 0, 0, false, [], none, none, [], [], [], [], [], none, 0⟩
    cores := ⟨false, false, false, false, none, 0⟩
    gaffer := ⟨0, [], [], [], [], [], [], none, false⟩
    mail := ⟨[], [], [], [], [], false, [], false⟩
    bank := [], kib := [] }

/-- The state: the block and the queue of commands that wait, first in, first out. -/
structure State where
  chip : Chip
  pending : List Instr
  deriving DecidableEq, Repr

/-- A field's entry in the register store: its key, the word address and least bit together, and a value. -/
def Fld.entry (f : Fld) (v : Nat) : Nat × Word := (f.addr * 32 + f.lsb, BitVec.ofNat 32 v)

/-- The block as a cold reset from power-on leaves it at the instant READY rises (Table 14-4): every register at its
Reset value but those that the sequence sets. `rail 7` is RST.CAUSE.RAIL for no rail. -/
def Chip.afterReset : Chip :=
  { Chip.zero with
    regs := [
      F.sysDirectorStandbyReady.entry 1, F.rstCauseRail.entry 7, F.rstStatusReady.entry 1, F.pwrAvsSetMv.entry 800,
      F.pll0MstatusLocked.entry 1, F.pll0MphaseMeasuredPs.entry 430, F.pll0CstatusStandbyReady.entry 1,
      F.pll0CstatusALocked.entry 1, F.pll0CstatusBLocked.entry 1, F.pll0LstatusLocked.entry 0xFFFF]
    time := { Chip.zero.time with running := true, hist := [⟨0, 0, 0, false, 0⟩], nextAnchor := 0xF4240000, nextNumber := 1 }
    power := { Chip.zero.power with phase := .run, linkUp := true } }

/-- The machine right after reset: nothing waits in the queue. -/
def State.reset : State := ⟨Chip.afterReset, []⟩

/-- Faults of the machine: none is ever raised, because every command of the table has an effect
that the spec gives, in every state. Safe: the type only fills the host's interface. -/
inductive Fault where
  /-- Raised by nothing. Safe. -/
  | unreachable
  deriving DecidableEq, Repr

/-- Refusals of the model. -/
inductive Refusal where
  /-- A command of the table without a meaning yet, by its mnemonic; raised by an arm of `exec`
  only. Safe: the run stops. -/
  | notModelled (mnemonic : String)
  deriving DecidableEq, Repr

end Sys2Proof.Machine
end

