-- ==== Sys2Proof/Machine/Ops.lean ====
section
/-! DEFINITION. The named operations over the block that every family shares: registers and pages, event counters and probes, faults and interrupts, ports, frames, time and resets of registers. -/

namespace Sys2Proof.Machine

/-! ### Registers -/

/-- The key of a field in the register store. -/
def Fld.key (f : Fld) : Nat := f.addr * 32 + f.lsb

/-- The value of a field. -/
def Chip.get (s : Chip) (f : Fld) : Word := Store.read f.reset s.regs f.key

/-- The value of a field as a number. -/
def Chip.getN (s : Chip) (f : Fld) : Nat := (s.get f).toNat

/-- A one-bit field. -/
def Chip.flag (s : Chip) (f : Fld) : Bool := s.getN f != 0

/-- Write a field, cut to its width. -/
def Chip.set (s : Chip) (f : Fld) (v : Word) : Chip :=
  { s with regs := Store.write f.reset s.regs f.key (word (v.toNat % 2 ^ f.width)) }

/-- Write a field from a number. -/
def Chip.setN (s : Chip) (f : Fld) (v : Nat) : Chip := s.set f (word (v % 2 ^ f.width))

/-- Write a one-bit field. -/
def Chip.setB (s : Chip) (f : Fld) (v : Bool) : Chip := s.setN f (ofBool v)

/-- Bit k of a field. -/
def Chip.getBit (s : Chip) (f : Fld) (k : Nat) : Bool := bit (s.get f) k

/-- Write bit k of a field. -/
def Chip.setBit (s : Chip) (f : Fld) (k : Nat) (v : Bool) : Chip :=
  s.setN f (s.getN f - ofBool (s.getBit f k) * 2 ^ k + ofBool v * 2 ^ k)

/-- Raise a register that keeps a maximum. -/
def Chip.setMax (s : Chip) (f : Fld) (v : Nat) : Chip := s.setN f (max (s.getN f) v)

/-! ### Pages (R28, R360, R361) -/

/-- The rows of an occupied page, empty for a page no block occupies (Tables 17-1, 17-5). -/
def pageRows (pg : Nat) : List RegRow :=
  if pg = 0 then rowsSys else if pg = 1 then rowsRst else if pg = 2 then rowsPwr
  else if pg = 3 then rowsHlth else if pg = 4 then rowsCmd ++ rowsCmd0 else if pg ≤ 7 then rowsCmd
  else if pg = 0x10 then rowsPers0 else if pg = 0x11 then rowsPers1
  else if pg = 0x12 then rowsPers2 else if pg = 0x13 then rowsPers3
  else if pg = 0x20 then rowsTime0 else if pg = 0x21 then rowsTime1
  else if pg = 0x30 then rowsRef0 else if pg = 0x31 then rowsRef1
  else if pg = 0x32 then rowsRef2 else if pg = 0x33 then rowsRef3
  else if pg = 0x40 then rowsPll0 else if pg = 0x41 then rowsPll1
  else if pg = 0x50 then rowsTdc0 else if 0x51 ≤ pg ∧ pg ≤ 0x58 then rowsEv
  else if pg = 0x60 then rowsCal0 else if pg = 0x61 then rowsCal1 else if pg = 0x62 then rowsCal2
  else if pg = 0x80 then rowsPcnt0 else if pg = 0x81 then rowsPcnt1
  else if 0x82 ≤ pg ∧ pg ≤ 0xB1 then rowsTraf
  else if pg = 0x100 then rowsFab else if pg = 0x110 ∨ pg = 0x111 then rowsSchd
  else if pg = 0x120 then rowsBuf0 else if pg = 0x121 then rowsBuf1
  else if pg = 0x122 then rowsBuf2 else if pg = 0x123 then rowsBuf3
  else if 0x140 ≤ pg ∧ pg < 0x170 then rowsAdm
  else if pg = 0x201 then rowsTbl ++ rowsTblnh else if pg = 0x204 then rowsTbl ++ rowsTblstage
  else if 0x200 ≤ pg ∧ pg ≤ 0x204 then rowsTbl
  else if 0x2000 ≤ pg ∧ pg < 0x2300 then
    (if pg % 16 = 0 then rowsPort0 else if pg % 16 = 1 then rowsPort1 else if pg % 16 = 2 then rowsPort2
     else if pg % 16 = 3 then rowsPort3 else if pg % 16 = 4 then rowsPort4
     else if pg % 16 = 5 then rowsPort5 else if pg % 16 = 6 then rowsPort6 else [])
  else if 0x3000 ≤ pg ∧ pg < 0x3080 ∧ pg % 16 = 2 then rowsGrp2
  else []

/-- BLOCK_TYPE and INSTANCE of an occupied page (Tables 17-1 and 17-2). -/
def pageIdent (pg : Nat) : Nat × Nat :=
  if pg ≤ 3 then (pg + 1, 0) else if pg ≤ 7 then (5, pg - 4)
  else if 0x10 ≤ pg ∧ pg ≤ 0x13 then (0x10, pg - 0x10)
  else if pg = 0x20 ∨ pg = 0x21 then (0x20, pg - 0x20)
  else if 0x30 ≤ pg ∧ pg ≤ 0x33 then (0x30, pg - 0x30)
  else if pg = 0x40 ∨ pg = 0x41 then (0x40, pg - 0x40)
  else if 0x50 ≤ pg ∧ pg ≤ 0x58 then (0x50, pg - 0x50)
  else if 0x60 ≤ pg ∧ pg ≤ 0x62 then (0x60, pg - 0x60)
  else if 0x80 ≤ pg ∧ pg ≤ 0xB1 then (0x80, pg - 0x80)
  else if pg = 0x100 then (0x100, 0)
  else if pg = 0x110 ∨ pg = 0x111 then (0x110, pg - 0x110)
  else if 0x120 ≤ pg ∧ pg ≤ 0x123 then (0x120, pg - 0x120)
  else if 0x140 ≤ pg ∧ pg < 0x170 then (0x140, pg - 0x140)
  else if 0x200 ≤ pg ∧ pg ≤ 0x204 then (pg, 0)
  else if 0x2000 ≤ pg ∧ pg < 0x2300 ∧ pg % 16 ≤ 6 then (0x300 + pg % 16, pg / 16 - 0x200)
  else if 0x3000 ≤ pg ∧ pg < 0x3080 ∧ pg % 16 = 2 then (0x402, pg / 16 - 0x300)
  else (0, 0)

/-- A page that a block occupies. -/
def occupied (pg : Nat) : Bool := (pageIdent pg).1 != 0

/-- PAGE_ID (R361). -/
def pageId (pg : Nat) : Word :=
  if occupied pg then word ((pageIdent pg).1 * 0x10000 + (pageIdent pg).2 * 0x100 + 1) else 0

/-- The port that owns a PORTp page. -/
def portOfPage (pg : Nat) : Option Nat :=
  if 0x2000 ≤ pg ∧ pg < 0x2300 then some (pg / 16 - 0x200) else none

/-- The group whose die holds a page (Table 17-1). -/
def groupOfPage (pg : Nat) : Option Nat :=
  match portOfPage pg with
  | some p => some (p / 6)
  | none => if 0x3000 ≤ pg ∧ pg < 0x3080 then some (pg / 16 - 0x300) else none

/-- A page on the fabric die (Table 17-1). -/
def onFabric (pg : Nat) : Bool := decide ((0x82 ≤ pg ∧ pg ≤ 0xB1) ∨ (0x100 ≤ pg ∧ pg < 0x2000))

/-- The pages served on the SLOWCLK path through every reset (R303). -/
def slowPage (pg : Nat) : Bool := decide (pg ≤ 3 ∨ pg = 0x40 ∨ pg = 0x41)

/-- The index of a row's register at a page offset. -/
def RegRow.hit (r : RegRow) (o : Nat) : Option Nat :=
  let d := o - r.off
  let i := if r.st1 = 0 then 0 else d / r.st1
  let e := d - i * r.st1
  let j := if r.st2 = 0 then 0 else e / r.st2
  if r.off ≤ o ∧ i < r.n1 ∧ j < r.n2 ∧ e = j * r.st2 then some i else none

/-- The fields of the first row that holds a page offset, reset values worked out. -/
def fieldsIn (o : Nat) : List RegRow → List FieldRow
  | [] => []
  | r :: l =>
    match r.hit o with
    | some i => r.fields.map (fun f => if f.idx then { f with reset := word i } else f)
    | none => fieldsIn o l

/-- The fields of the register word at an address of R355 (BAR0 and the ring registers of BAR2). -/
def fieldsAt (addr : Nat) : List FieldRow :=
  if 0x04000000 ≤ addr then (if addr / 0x80000 % 2 = 1 ∧ 0x05000000 ≤ addr then fieldsIn (addr % 0x80000) rowsRing else [])
  else if addr % 4096 < 0x40 then fieldsIn (addr % 4096) rowsHdr
  else fieldsIn (addr % 4096) (pageRows (addr / 4096))

/-- A table field as a named field. -/
def FieldRow.at (f : FieldRow) (addr : Nat) : Fld := ⟨addr, f.lsb, f.width, f.reset⟩

/-- The stored word at an address: its fields side by side. -/
def Chip.wordAt (s : Chip) (addr : Nat) : Word :=
  (fieldsAt addr).foldl (fun w f => w ||| (s.get (f.at addr) <<< f.lsb)) 0

/-! ### Interrupts and faults (R318, Table 14-7) -/

/-- Raise an MSI-X vector. -/
def Chip.raise (s : Chip) (vector : Nat) : Chip :=
  { s with msix := s.msix ||| BitVec.ofNat 64 (2 ^ vector) }

/-- Set a bit of HLTH.FAULT; with its FAULT_EN bit set, raise vector 32. -/
def Chip.fault (s : Chip) (k : Nat) : Chip :=
  let t := s.setBit F.hlthFault k true
  if t.getBit F.hlthFaultEn k then t.raise 32 else t

/-- Bits of HLTH.FAULT. -/
def fParity : Nat := 0
def fVote : Nat := 1
def fLock : Nat := 2
def fCal : Nat := 3
def fEcc : Nat := 4
def fSched : Nat := 5
def fCore : Nat := 6
def fPll : Nat := 7
def fDip : Nat := 8
def fReg : Nat := 9
def fAvs : Nat := 10
def fPers : Nat := 11
def fGroup : Nat := 12
def fThermWarn : Nat := 13
def fThermLimit : Nat := 14
def fThermTrip : Nat := 15

/-- Report a parity, vote or lock fault of a page (R318). -/
def Chip.pageFault (s : Chip) (k pg : Nat) : Chip := (s.fault k).setN F.hlthFaultPage pg

/-! ### Counters and probes (R344, R345, R354 to R357) -/

/-- The class of the event counter at an address (Table 16-1); 7 where there is none. -/
def counterClass (addr : Nat) : Nat :=
  let pg := addr / 4096
  let o := addr % 4096
  if 0x05000000 ≤ addr then (if addr % 0x80000 = 0x10 then 0 else 1)
  else if 0x82 ≤ pg ∧ pg ≤ 0xB1 then 0
  else if 0x51 ≤ pg ∧ pg ≤ 0x58 then (if o = 0x6C then 0 else 1)
  else if pg = 0x41 then (if o % 0x20 = 0x1C then 0 else 4)
  else if pg = 0x122 then 1
  else if 0x140 ≤ pg ∧ pg < 0x170 then 2
  else if pg = 0x100 then (if o = 0x58 ∨ o = 0x5C then 1 else 5)
  else if pg = 0x123 ∨ pg = 0x110 ∨ pg = 0x111 ∨ (0x200 ≤ pg ∧ pg ≤ 0x204) then 5
  else if pg = 0x10 then (if o = 0x64 then 5 else 6)
  else if pg = 1 ∨ pg = 2 ∨ pg = 4 ∨ pg = 0x60 ∨ pg = 0x80 then 6
  else if pg = 0x20 ∨ pg = 0x50 ∨ pg = 0x40 ∨ (0x30 ≤ pg ∧ pg ≤ 0x32) then 4
  else if 0x3000 ≤ pg ∧ pg < 0x3080 then 4
  else if 0x2000 ≤ pg ∧ pg < 0x2300 then
    (if pg % 16 = 1 ∨ pg % 16 = 6 then 3
     else if pg % 16 = 2 then
       (if o % 0x40 ≤ 0x10 ∨ o % 0x40 = 0x24 then 3 else 1)
     else if pg % 16 = 3 then 1
     else if pg % 16 = 4 then (if o = 0x44 ∨ o = 0x48 then 1 else 5)
     else if pg % 16 = 5 then 6 else 7)
  else 7

/-- The probe whose EN field stands under a store key, if the key is one. -/
def enProbe (key : Nat) : Option Nat :=
  let a := key / 32
  if key % 32 = 31 ∧ 0x00081040 ≤ a ∧ a < 0x00081840 ∧ (a - 0x00081040) % 0x20 = 0
  then some ((a - 0x00081040) / 0x20) else none

/-- The probes with EN = 1, ascending. -/
def Chip.enabledProbes (s : Chip) : List Nat := s.regs.filterMap (fun e => enProbe e.1)

/-- Add to probe k, carrying each wrap to an enabled CHAIN probe above it (R354, R356). -/
def Chip.probeAdd (s : Chip) (k n : Nat) : Nat → Chip
  | 0 => s
  | fuel + 1 =>
    let v := s.getN (F.pcnt1Count k) + n
    let t := s.setN (F.pcnt1Count k) (v % 2 ^ 32)
    let wraps := v / 2 ^ 32
    if wraps = 0 ∨ 63 ≤ k then t
    else if t.flag (F.pcnt1CfgEn (k + 1)) && t.getN (F.pcnt1CfgSource (k + 1)) == 2
    then Chip.probeAdd t (k + 1) wraps fuel else t

/-- The address lies in probe k's range (R355). -/
def Chip.probeInRange (s : Chip) (k addr : Nat) : Bool :=
  decide (s.getN (F.pcnt1AddrLo k) * 4 ≤ addr ∧ addr ≤ s.getN (F.pcnt1AddrHi k) * 4)

/-- Feed n events of the counter at an address to the EVENT probes (R354). -/
def Chip.feed (s : Chip) (addr n : Nat) : Chip :=
  s.enabledProbes.foldl (fun t k =>
    if s.getN (F.pcnt1CfgSource k) = 1 ∧ s.getBit (F.pcnt1CfgKindMask k) (counterClass addr)
        ∧ s.probeInRange k addr
    then t.probeAdd k n 64 else t) s

/-- Feed one register access to the ACCESS probes: its kind, privilege and master by bit number. -/
def Chip.access (s : Chip) (kind priv master addr : Nat) : Chip :=
  s.enabledProbes.foldl (fun t k =>
    if s.getN (F.pcnt1CfgSource k) = 0 ∧ s.getBit (F.pcnt1CfgKindMask k) kind
        ∧ s.getBit (F.pcnt1CfgPrivMask k) priv ∧ s.getBit (F.pcnt1Master k) master
        ∧ s.probeInRange k addr
    then t.probeAdd k 1 64 else t) s

/-- A word on a page of a dark group, whose status fields and counters read the values held at entry (R51). -/
def Chip.frozen (s : Chip) (addr : Nat) : Bool :=
  match groupOfPage (addr / 4096) with
  | some g => bit s.power.groupDark g
  | none => false

/-- Count n events in an event counter: it wraps, and the probes see the events (R344); on a dark group's page nothing
counts. -/
def Chip.count (s : Chip) (f : Fld) (n : Nat) : Chip :=
  if n = 0 ∨ s.frozen f.addr = true then s else (s.setN f ((s.getN f + n) % 2 ^ 32)).feed f.addr n

/-- Count one event. -/
def Chip.bump (s : Chip) (f : Fld) : Chip := s.count f 1

/-- Add to a field that saturates. -/
def Chip.addSat (s : Chip) (f : Fld) (n : Nat) : Chip :=
  s.setN f (min (2 ^ f.width - 1) (s.getN f + n))

/-- Count n events in an event counter that saturates: the probes see the events (R344, R354). -/
def Chip.countSat (s : Chip) (f : Fld) (n : Nat) : Chip :=
  if n = 0 ∨ s.frozen f.addr = true then s else (s.addSat f n).feed f.addr n

/-- Write a status field on a page of a group die: it stands still while the group is dark (R51). -/
def Chip.show (s : Chip) (f : Fld) (v : Nat) : Chip := if s.frozen f.addr then s else s.setN f v

/-- Write a one-bit status field on a page of a group die. -/
def Chip.showB (s : Chip) (f : Fld) (v : Bool) : Chip := s.show f (ofBool v)

/-! ### Resets of registers (R29, R31) -/

/-- Survives masks. -/
def kW : Nat := 1
def kS : Nat := 2
def kG : Nat := 4
def kT : Nat := 8
def kGroupDark : Nat := 0x20
def kStandby : Nat := 0x40
def kC : Nat := 0x80

/-- The Survives mask of the field under a store key; 0 where no table names it. -/
def keepOf (key : Nat) : Nat :=
  match (fieldsAt (key / 32)).find? (fun f => f.lsb == key % 32) with
  | some f => f.keep
  | none => 0

/-- Every field of the pages acted on that does not survive takes its Reset value, and the shadow of a wide value goes
with its word. A standing parity mismatch goes where no field of its word survives; R40 does not say what a
reset does to one, and this is the model's choice (log 75). -/
def Chip.resetPages (s : Chip) (mask : Nat) (acts : Nat → Bool) : Chip :=
  { s with
    regs := s.regs.filter (fun e => !acts (e.1 / 32 / 4096) || (keepOf e.1 &&& mask) != 0)
    badParity := s.badParity.filter (fun a => !acts (a / 4096) ||
      (fieldsAt a).any (fun f => (f.keep &&& mask) != 0))
    shadow := s.shadow.filter (fun e => !acts (e.1 / 2 / 4096) ||
      (fieldsAt (e.1 / 2)).any (fun f => (f.keep &&& mask) != 0))
    held := s.held.filter (fun e => !acts (e.1 / 2 / 4096)) }

/-- Pages a group reset of Gg acts on (R29). -/
def groupActs (g pg : Nat) : Bool := groupOfPage pg == some g

/-- Pages a port reset of Pp acts on (R29). -/
def portActs (p pg : Nat) : Bool := portOfPage pg == some p

/-- Pages STANDBY acts on (R29). -/
def standbyActs (pg : Nat) : Bool := onFabric pg || (groupOfPage pg).isSome

/-- The occupied pages of a port, and of a group. -/
def portPages (p : Nat) : List Nat := (List.range 7).map (fun k => 0x2000 + p * 16 + k)
def groupPages (g : Nat) : List Nat :=
  (0x3002 + g * 16) :: (List.range 6).flatMap (fun i => portPages (6 * g + i))

/-! ### Power and reset conditions -/

/-- READY: every page reachable (R303). -/
def Chip.ready (s : Chip) : Bool := s.flag F.rstStatusReady

/-- Safe stop (R249). -/
def Chip.safeStop (s : Chip) : Bool := s.flag F.pll0CstatusSafeStop

/-- No director pair runs (R14). -/
def Chip.controlLost (s : Chip) : Bool := s.flag F.sysDirectorControlLost

/-- The cores run their clappers: ready, not in safe stop, XO_IN present. -/
def Chip.coresRun (s : Chip) : Bool := s.ready && !s.safeStop && decide (s.power.phase = .run)

/-- The synthesisers are powered and clocked, and past step 4 of a cold reset. -/
def Chip.clocked (s : Chip) : Bool :=
  decide (s.power.phase = .run ∨ s.power.phase = .boot ∨ s.power.phase = .warmHeld)

/-- In the dip state (R299). -/
def Chip.inDip (s : Chip) : Bool := s.flag F.pwrStatusDip

def Chip.groupIsDark (s : Chip) (g : Nat) : Bool := bit s.power.groupDark g
def Chip.portIsDark (s : Chip) (p : Nat) : Bool := bit s.power.portDark p
/-- A member of a port is dark, with its port or with its group (R51, R96). -/
def Chip.memberDark (s : Chip) (p : Nat) : Bool := s.portIsDark p || s.groupIsDark (p / 6)
def Chip.groupInReset (s : Chip) (g : Nat) : Bool := bit s.power.groupReset g
def Chip.portInReset (s : Chip) (p : Nat) : Bool := bit s.power.portReset p || s.groupInReset (p / 6)

/-- The pages of the tables. -/
def tablePage (pg : Nat) : Bool := decide (0x200 ≤ pg ∧ pg ≤ 0x204)

/-- A page reads DARK (R51, R96, R311); a table page whose zeroing runs at a wake from STANDBY reads IN_RESET in its
place (R118). -/
def Chip.pageDark (s : Chip) (pg : Nat) : Bool :=
  (s.power.standby && standbyActs pg && !(tablePage pg && s.power.inReset.contains pg)) ||
  (match portOfPage pg with | some p => s.portIsDark p | none => false) ||
  (match groupOfPage pg with | some g => s.groupIsDark g | none => false)

/-- A page reads IN_RESET (R50, R363). -/
def Chip.pageInReset (s : Chip) (pg : Nat) : Bool :=
  occupied pg && ((!s.ready && !slowPage pg) || s.power.inReset.contains pg)

/-- Set or clear a bit of a small set. -/
def setIn {n : Nat} (w : BitVec n) (k : Nat) (v : Bool) : BitVec n :=
  if v then w ||| BitVec.ofNat n (2 ^ k) else w &&& ~~~ BitVec.ofNat n (2 ^ k)

/-! ### Ports -/

/-- Subports of the port's mode (Table 4-1). -/
def Chip.subports (s : Chip) (p : Nat) : Nat := 2 ^ s.getN (F.port0ModeSplit p)

/-- Pp is the lower member of a fused port (R89); P42 to P47 have no port to fuse with, and TWO_SHOT reads zero there. -/
def Chip.fusedLower (s : Chip) (p : Nat) : Bool := decide (p < 42) && s.flag (F.port0ModeTwoShot p)

/-- Pp is the upper member of a fused port. -/
def Chip.fusedUpper (s : Chip) (p : Nat) : Bool := decide (6 ≤ p) && s.fusedLower (p - 6)

/-- The lower member for an upper one; the port itself otherwise. -/
def Chip.lowerOf (s : Chip) (p : Nat) : Nat := if s.fusedUpper p then p - 6 else p

/-- The members of the port named by its lower member. -/
def Chip.members (s : Chip) (p : Nat) : List Nat := if s.fusedLower p then [p, p + 6] else [p]

/-- Subport rate in Mb/s; a fused output counts both members (R69). -/
def Chip.rateMb (s : Chip) (p : Nat) : Nat :=
  if s.fusedLower p then 3200000 else 1600000 / s.subports p

/-- Subport rate of one member's wire in Mb/s. -/
def Chip.wireMb (s : Chip) (p : Nat) : Nat := 1600000 / s.subports p

/-- The acting maximum frame length (Table 4-3). -/
def Chip.maxframe (s : Chip) (p : Nat) : Nat := clamp 1518 9216 (s.getN (F.port0Maxframe (s.lowerOf p)))

/-- The subport's link is up; a fused port's when either member carries frames (R90). -/
def Chip.linkUp (s : Chip) (p sub : Nat) : Bool :=
  if s.fusedLower p then s.flag (F.port0StatusTsFused p) else s.getBit (F.port0StatusLinkUp p) sub

/-- Blocking charge of one member, bits (R67, R68). -/
def Chip.memberBlock (s : Chip) (p sub : Nat) : Nat :=
  if s.getBit (F.admStatusMergeActive p) sub
  then (64 * (1 + s.getN (F.port0MergeAddFragSize (s.lowerOf p))) + 79) * 8
  else (s.maxframe p + 20) * 8

/-- Blocking charge of an output (sub)port, bits; the larger member's on a fused port (R69). -/
def Chip.blockCharge (s : Chip) (p sub : Nat) : Nat :=
  ((s.members p).map (fun m => s.memberBlock m sub)).foldl max 0

/-- Read a link record. -/
def linkDefault : Link := ⟨.down, 0, true, false, []⟩
def Chip.link (s : Chip) (p sub : Nat) : Link := Store.read linkDefault s.links (p * 8 + sub)
def Chip.setLink (s : Chip) (p sub : Nat) (l : Link) : Chip :=
  { s with links := Store.write linkDefault s.links (p * 8 + sub) l }

/-! ### Frames -/

/-- The frame of a number. -/
def Chip.frame (s : Chip) (id : Nat) : Option Frame := s.frames.find? (fun f => f.id == id)

/-- Replace a frame by its number. -/
def Chip.putFrame (s : Chip) (f : Frame) : Chip :=
  { s with frames := s.frames.map (fun g => if g.id = f.id then f else g) }

/-- Cells of a frame (R119). -/
def Frame.cells (f : Frame) : Nat := ceilDiv (f.len - 4) 384

/-- Cells of a frame that the input store holds, its reservation included (R123). -/
def Frame.inputCells (f : Frame) : Nat :=
  if !f.stored then 0
  else if f.express || f.direct || f.formed == f.cells then f.formed - f.crossed
  else 24 - f.crossed

/-- Cells used in one region of a port's input store (R123). -/
def Chip.inputUsed (s : Chip) (p : Nat) (express : Bool) : Nat :=
  ((s.frames.filter (fun f => f.inPort == p && f.express == express && !f.direct)).map Frame.inputCells).sum

/-- Cells of class c that slice o holds, and those it has reserved (R131, R133). -/
def Chip.sliceCells (s : Chip) (o c : Nat) : Nat :=
  ((s.frames.filter (fun f => f.outPort == o && f.cls == c)).map Frame.crossed).sum
def Chip.sliceRsv (s : Chip) (o c : Nat) : Nat :=
  ((s.frames.filter (fun f => f.outPort == o && f.cls == c && decide (f.crossed < f.cells))).map Frame.rsv).sum

/-- Return n cells to the free list of slice o (R131). -/
def Chip.freeCells (s : Chip) (o n : Nat) : Chip :=
  if n = 0 then s else s.setN (F.buf3Free o) (s.getN (F.buf3Free o) + n)

/-- Drop a frame whole: its cells return to the free lists of their stores. -/
def Chip.dropFrame (s : Chip) (f : Frame) : Chip :=
  let t := { s with
    frames := s.frames.filter (fun g => g.id != f.id)
    fab := { s.fab with
      crossing := s.fab.crossing.filter (fun x => x.1 != f.id)
      inFree := if f.direct then s.fab.inFree
        else Store.write 2048 s.fab.inFree f.inPort
          (Store.read 2048 s.fab.inFree f.inPort + (f.formed - f.crossed)) } }
  (t.freeCells f.outPort (f.crossed - f.upperCells)).freeCells (f.outPort + 6) f.upperCells

/-- End a frame early (R137): one that has started ends at once with an inverted FCS, one that has
not is discarded whole; cells still at the input are discarded. -/
def Chip.endFrame (s : Chip) (f : Frame) : Chip :=
  if f.started then
    let t := { s with fab := { s.fab with
      crossing := s.fab.crossing.filter (fun x => x.1 != f.id)
      inFree := if f.direct then s.fab.inFree
        else Store.write 2048 s.fab.inFree f.inPort
          (Store.read 2048 s.fab.inFree f.inPort + (f.formed - f.crossed)) } }
    t.putFrame { f with bad := true, ended := true, formed := f.crossed, rsv := 0 }
  else s.dropFrame f

/-- Count a broken promise of an accepted frame under a counter of its output (R71): each counts once. -/
def Chip.breakPromise (s : Chip) (f : Frame) (ctr : Nat → Nat → Fld) : Chip :=
  if f.express && !f.broken then s.bump (ctr f.outPort f.outSub) else s

/-- A frame is ended where its promise breaks: it counts under a counter of its output. -/
def Chip.endBroken (s : Chip) (f : Frame) (ctr : Nat → Nat → Fld) : Chip :=
  (s.endFrame { f with broken := true }).breakPromise f ctr

/-- An accepted frame fails at the ingress (R66, R137): it is ended, and counts in ABORTED, whether it has started or not. -/
def Chip.abort (s : Chip) (f : Frame) : Chip :=
  if f.express then (s.endFrame f).bump (F.admSubAborted f.outPort f.outSub) else s.endFrame f

/-- The output's link was down, in its hold or two-shot degraded within the frame's residence (R70, R71). -/
def Chip.linkCause (s : Chip) (f : Frame) : Bool :=
  f.held || s.getBit (F.port0StatusHolding f.outPort) f.outSub || s.flag (F.admStatusDegraded f.outPort)

/-- The counter under which a frame's promise breaks where a cause below LINK in Table 3-4 ends it: LINK stands above
every one of them (R71). -/
def Chip.causeOver (s : Chip) (f : Frame) (ctr : Nat → Nat → Fld) : Nat → Nat → Fld :=
  if s.linkCause f then F.admSubBreakLink else ctr

/-- Frames of an output whose link goes down, or that becomes degraded, have that cause in their residence. -/
def Chip.markHeld (s : Chip) (q sub : Nat) : Chip :=
  { s with frames := s.frames.map (fun f => if f.outPort = q ∧ f.outSub = sub then { f with held := true } else f) }

/-- Drop every frame that has not started and that a test picks, counting each broken promise under one counter, and each
frame under another where one is given. -/
def Chip.flush (s : Chip) (pick : Frame → Bool) (brk : Nat → Nat → Fld) (ctr : Option (Nat → Nat → Fld)) : Chip :=
  (s.frames.filter (fun f => !f.started && pick f)).foldl (fun t f =>
    let u := (t.dropFrame f).breakPromise f brk
    match ctr with
    | some c => u.bump (c f.outPort f.outSub)
    | none => u) s

/-! ### Time -/

/-- Network time wraps after 2^48 seconds, its count of seconds being 48 bits wide (R168). -/
def netMod : Nat := 2 ^ 48 * 1000000000 * 65536

/-- The set that a reset puts in force until its first marker (R169): network time runs equal to raw time. -/
def ParamSet.isZero (q : ParamSet) : Bool := !q.isSet && q.anchor == 0 && q.base == 0

/-- Network time of a raw value under a parameter set (R168, R169). -/
def ParamSet.netAt (q : ParamSet) (x : Raw) : Nat :=
  if q.isZero then x.toNat
  else
    let d := rawDiff q.anchor x
    (((q.base : Int) + d + d * q.rate / (2 ^ 48 : Int)) % (netMod : Int)).toNat

/-- Network time now. -/
def Chip.net (s : Chip) : Nat := s.time.cur.netAt s.time.raw

/-- A field that lies outside the page of the probes' counts, PCNT page 1, which any event may advance (R354). -/
def Fld.offProbes (f : Fld) : Prop := f.lsb < 32 ∧ f.addr / 4096 ≠ 0x81

/-- Take credit from the distance below a bucket's cap. -/
def creditN (rate ns used : Nat) : Nat := used - rate * ns
def creditI (rate ns : Nat) (used : Int) : Int := max 0 (used - (rate * ns : Nat))

/-- The rate of a flow's bucket: its entry's RATE. -/
def Chip.flowEntry (s : Chip) (i : Nat) : BitVec 128 := Store.read 0 s.flow i

/-- The node of a tree: listed, or its place in the reset tree of `n` subports (R154). -/
def resetNode (n k : Nat) : BitVec 128 :=
  let cirField := unlimited * 2 ^ 78
  if k < n then BitVec.ofNat 128 (2 ^ 127 + 2 ^ 124 + cirField)
  else if k < n + 12 * n then
    let s := (k - n) / 12
    let c := (k - n) % 12
    BitVec.ofNat 128 (2 ^ 127 + s * 2 ^ 116 + (11 - c) * 2 ^ 112 + 2 ^ 104 + c * 2 ^ 100 + cirField)
  else 0

/-- Node k of a tree. -/
def Tree.node (t : Tree) (k : Nat) : BitVec 128 := Store.read (resetNode t.base k) t.nodes k

/-- Write node k of a tree. -/
def Tree.setNode (t : Tree) (k : Nat) (v : BitVec 128) : Tree :=
  { t with nodes := Store.write (resetNode t.base k) t.nodes k v }

/-- The trees of a port that nothing has changed since the reset tree of n subports (R154). -/
def schedReset (n : Nat) : Sched := ⟨⟨n, []⟩, ⟨n, []⟩, [], [], [], [], [], [], []⟩

/-- The scheduler state of a port. -/
def Chip.sched (s : Chip) (p : Nat) : Sched := Store.read (schedReset 1) s.scheds p
def Chip.setSched (s : Chip) (p : Nat) (t : Sched) : Chip :=
  { s with scheds := Store.write (schedReset 1) s.scheds p t }

/-- The root that a node's chain of parents reaches. -/
def Tree.rootOf (t : Tree) : Nat → Nat → Option Nat
  | 0, _ => none
  | fuel + 1, k => if k < t.base then some k else t.rootOf fuel (nodeParent (t.node k))

/-- The tree in force on a subport: the old one until its next choice after an APPLY (R153). -/
def Sched.treeOf (t : Sched) (sub : Nat) : Tree := (Store.find sub t.prev).getD t.active

/-- The entry in force of a node: the old tree's where its subport still runs on it. -/
def Sched.nodeNow (t : Sched) (k : Nat) : BitVec 128 :=
  match t.prev.find? (fun e => e.2.rootOf 9 k == some e.1) with
  | some e => e.2.node k
  | none => t.active.node k

/-- Credit every bucket of a tree for some nanoseconds (R150), by the number that its rate field holds, an unlimited one
too (log 116). -/
def Sched.credit (t : Sched) (ns : Nat) : Sched :=
  { t with
    cUsed := (t.cUsed.map (fun e => (e.1, creditI (nodeCir (t.nodeNow e.1)) ns e.2))).filter (fun e => e.2 != 0)
    pUsed := (t.pUsed.map (fun e => (e.1, creditI (nodePir (t.nodeNow e.1)) ns e.2))).filter (fun e => e.2 != 0) }

/-- A divider after some VCO cycles, t of them since its last rising edge: it takes a new DIV at its next one (R252). -/
def divide (d t div : Nat) : Nat × Nat := if t < d then (d, t) else (div, (t - d) % div)

/-- Let n nanoseconds pass at the clock outputs (R252), 10 VCO cycles each: at its divider's next rising edge an output
takes the DIV that its register then holds, and starts where it is enabled and not squelched; one that is not stops at
its next falling edge. -/
def ClkOut.pass (x : ClkOut) (on : Bool) (div n : Nat) : ClkOut :=
  let t := x.into + 10 * n
  let high := (x.div + 1) / 2
  let falls := if t < x.div then decide (x.into < high ∧ high ≤ t)
    else decide ((div + 1) / 2 ≤ t - x.div) || decide (x.into < high)
  let stays := if x.running && !on then !falls else if t < x.div then x.running else on
  let p := divide x.div t div
  ⟨stays, p.1, p.2, x.own.map (fun o => divide o.1 (o.2 + 10 * n) div)⟩

/-- A clock output that nothing has changed: its divider runs from the release on, at the DIV that its register resets to. -/
def clkDefault : ClkOut := ⟨false, 100, 0, none⟩
def Chip.clkOut (s : Chip) (n : Nat) : ClkOut := Store.read clkDefault s.clk n

/-- The divider that a clock output's register calls for (R252). -/
def Chip.clkDiv (s : Chip) (n : Nat) : Nat := clamp 8 10000000 (s.getN (F.pll1ClkoutCfgDiv n))

/-- A clock output is called for: enabled and not squelched. -/
def Chip.clkOn (s : Chip) (n : Nat) : Bool := s.flag (F.pll1ClkoutCfgEn n) && !s.flag (F.pll1ClkoutStatusSquelched n)

/-- Let n nanoseconds pass at every clock output; RUNNING tells whether edges leave the ball. -/
def Chip.passClocks (s : Chip) (n : Nat) : Chip :=
  (List.range 8).foldl (fun t k =>
    let x := (t.clkOut k).pass (t.clkOn k) (t.clkDiv k) n
    ({ t with clk := Store.write clkDefault t.clk k x }).setB (F.pll1ClkoutStatusRunning k) x.running) s

/-- Let n nanoseconds of TCLK pass at the raw counter and the buckets. -/
def Chip.passTime (s : Chip) (n : Nat) : Chip :=
  if s.time.running then
    { s with
      time := { s.time with raw := s.time.raw + BitVec.ofNat 64 (n * 65536) }
      tokens := (s.tokens.map (fun e => (e.1, creditN (flowRate (s.flowEntry e.1)) n e.2))).filter (fun e => e.2 != 0)
      hostTokens := creditN 100000 n s.hostTokens
      ringTokens := (s.ringTokens.map (fun e => (e.1, creditN (s.getN (F.ringRate e.1)) n e.2))).filter (fun e => e.2 != 0)
      scheds := s.scheds.map (fun e => (e.1, e.2.credit n)) }
  else s

/-- Let n nanoseconds of TCLK pass: the raw counter adds 65,536 per edge (R166), every bucket takes its credit (R62,
R109, R150), and the clock outputs give their edges (R252). Nothing moves while TCLK is stopped (R250). -/
def Chip.elapse (s : Chip) (n : Nat) : Chip :=
  if s.time.running then (s.passClocks n).passTime n else s

/-! ### Failures that reference candidates latch until the next marker (R220) -/

/-- A candidate of which nothing is measured. -/
def candDefault : CandState := ⟨none, none, true, true, none, 0, 0, false, false⟩
def Chip.cand (s : Chip) (c : Nat) : CandState := Store.read candDefault s.refs.cands c
def Chip.setCand (s : Chip) (c : Nat) (x : CandState) : Chip :=
  { s with refs := { s.refs with cands := Store.write candDefault s.refs.cands c x } }

/-- Port and subport that a port slot names. -/
def Chip.slotPort (s : Chip) (c : Nat) : Nat × Nat := (s.getN (F.ref1CfgNom c) / 8 % 64, s.getN (F.ref1CfgNom c) % 8)

/-- A subport's link goes down: the port slots that name it have failed their activity test. -/
def Chip.slotsLoseLink (s : Chip) (p sub : Nat) : Chip :=
  (List.range 4).foldl (fun t k =>
    if t.slotPort (6 + k) = (p, sub) then t.setCand (6 + k) { t.cand (6 + k) with lostAct := true } else t) s

/-- A session's Announce values fail: the time slots measured from it have failed their Announce test. -/
def Chip.slotsLoseAnnounce (s : Chip) (n : Nat) : Chip :=
  (List.range 8).foldl (fun t k =>
    if (t.cand (10 + k)).source = n then t.setCand (10 + k) { t.cand (10 + k) with lostAnn := true } else t) s

/-! ### Calibration conditions (R276) -/

/-- A condition of Table 13-2 fails within the running calibration, where it applies to its kind and
target; the lowest number stands. -/
def Chip.calUpset (s : Chip) (cause : Nat) (applies : Nat → Nat → Bool) : Chip :=
  match s.calRun with
  | none => s
  | some r =>
    if applies r.kind r.target && (r.cause == 0 || decide (cause < r.cause))
    then { s with calRun := some { r with cause := cause } } else s

/-- A reset or a dark state acts on a group die: condition 4. -/
def groupInvolved (g kind target : Nat) : Bool :=
  (kind == 0 && target == g) || (kind == 1 && target / 6 == g) || kind == 2 || (kind == 4 && target / 8 / 6 == g)

/-- A reset or a dark state acts on a port: condition 4. -/
def portInvolved (p kind target : Nat) : Bool := (kind == 1 && target == p) || (kind == 4 && target / 8 == p)

/-! ### Persistent words (R313 to R315) -/

/-- The MRAM record of a word nothing has committed. -/
def mramDefault : Mram := ⟨0, 0, 0, 0, true, true, 0⟩

/-- The commits counted for a persistent word, by its index (R315). -/
def Chip.wear (s : Chip) (i : Nat) : Nat := (Store.read mramDefault s.power.mram i).wear

/-- A word at its wear limit. -/
def Chip.worn (s : Chip) (i : Nat) : Bool := decide (2000000 ≤ s.wear i)

/-- Refuse a persistent write of a worn word (R315). -/
def Chip.markWorn (s : Chip) (i : Nat) : Chip :=
  ((s.setB F.pers0StatusWorn true).setN F.pers0WornAddr i).fault fPers

/-- Queue the commit of a persistent word with the value its register now holds (R314). -/
def Chip.queueCommit (s : Chip) (i : Nat) (v : Word) : Chip :=
  let t := { s with power := { s.power with commits := s.power.commits ++ [(i, v)] } }
  if t.inDip then t.setB F.pwrStatusDeferred true else t

/-- The index of a persistent word from its address (R315): TARGET_PS has the index of the word
above the PERS pages that the model gives it. -/
def persIndex (addr : Nat) : Nat := (addr - 0x00010000) / 4

/-- The outcome of a command that has run. -/
def done (s : State) (c : Chip) : Host.Outcome State Fault Refusal := .next { s with chip := c }

end Sys2Proof.Machine
end

