-- ==== Sys2Proof/Machine/Stamps.lean ====
section
/-! DEFINITION. Delay lines and their trims, stamps, slates, and the frames that the KN4876 originates (R175 to R179, R262, R278, R346). -/

namespace Sys2Proof.Machine

/-! ### Delay lines and their trims (R262, R264, R278, R279) -/

/-- A tap that collects h of 2^22 hits is 1.5 to 4.0 ps wide; one without hits lies beyond the sampling cycle. -/
def tapOk (h : Nat) : Bool := h == 0 || decide (3 * 2 ^ 22 ≤ 2000 * h ∧ 1000 * h ≤ 4 * 2 ^ 22)

/-- One pass over a line (R278): the trims after it, and whether it is the last. -/
def LineTrim.pass (t : LineTrim) (p : TdcPass) : LineTrim × Bool :=
  let h := (List.range 384).map (fun j => p.hits.getD j 0)
  let ends := p.bubbles.isEmpty && h.all tapOk
  let move := fun (j : Nat) =>
    let d := t.delaySteps.getD j 0
    let x := h.getD j 0
    if tapOk x then d else if 2600 * 2 ^ 22 ≤ 1000000 * x then d - 1 else d + 1
  (⟨h, if ends then t.delaySteps else (List.range 384).map move,
    (List.range 384).map (fun j => t.thresholdSteps.getD j 0 + ofBool (p.bubbles.contains j))⟩, ends)

/-- The trim of a line, in up to a number of passes (R278). -/
def LineTrim.run (t : LineTrim) : Nat → List TdcPass → LineTrim
  | 0, _ => t
  | _, [] => t
  | n + 1, p :: l =>
    let r := t.pass p
    if r.2 then r.1 else r.1.run n l

/-- A line is out of range: fewer than 300 taps with hits, or a tap whose width is (R278). -/
def LineTrim.outOfRange (t : LineTrim) : Bool :=
  decide ((t.hits.filter (fun h => h != 0)).length < 300) || t.hits.any (fun h => !tapOk h)

/-- The first delay line of channel c of a bank; the spare line has the next number. -/
def lineOf (bank c : Nat) : Nat := 2 * (512 * bank + c)

/-- The trims of a line: none until a run has trimmed it. -/
def Chip.trims (s : Chip) (line : Nat) : LineTrim := Store.read ⟨[], [], []⟩ s.banks.lines line

/-- Line k of a bank after the passes of a run. -/
def Chip.trimmed (s : Chip) (bank k : Nat) (passes : List TdcPass) : LineTrim :=
  (s.trims (lineOf bank 0 + k)).run 3 passes

/-- The channels of a bank (R9, R176, R243, R264): the receive and the transmit clocks of 48 lanes in a group bank, eight
event channels, one for the phase check (log 110). -/
def bankChannels (bank : Nat) : Nat := if bank < 8 then 96 else if bank = 8 then 8 else 1

/-- The running CAL_TDC of a bank has exchanged the roles of its lines: what it measured (R278). -/
def Chip.exchanged (s : Chip) (bank : Nat) : Option CalIn :=
  match s.calRun with
  | some r => if r.kind = 0 ∧ r.target = bank then r.half else none
  | none => none

/-- The hits of the taps of a channel's stamping line: of the run that has exchanged the lines, of the last run that
trimmed it, or none, where ROM holds its trims (R262, R278). -/
def Chip.lineHits (s : Chip) (bank c : Nat) : List Nat :=
  match s.exchanged bank with
  | some (.tdc lines _) => (s.trimmed bank (2 * c + 1) (lines.getD (2 * c + 1) [])).hits
  | _ => (s.trims (lineOf bank c)).hits

/-- 2 W(j) + w(j) of a list of hits. -/
def hitsReach (h : List Nat) (j : Nat) : Nat := 2 * (h.take j).sum + h.getD j 0

/-- 2 W(j) + w(j) of a channel's stamping line, in hits of 2^22 a nanosecond (R176, R262). -/
def Chip.lineReach (s : Chip) (bank c j : Nat) : Nat :=
  let h := s.lineHits bank c
  if h.isEmpty then 2 * ((List.range j).map (Config.romTap (lineOf bank c))).sum + Config.romTap (lineOf bank c) j
  else hitsReach h j

/-- A bank's slates carry UNCAL: CAL_TDC of the bank has not completed, nor has the run now going on trimmed the line that
stamps (R176, R278). -/
def Chip.uncal (s : Chip) (bank : Nat) : Bool := !s.getBit F.cal0StatusTdcDone bank && (s.exchanged bank).isNone

/-! ### Raw time on the dies (R7, R9, R166, R176) -/

/-- The copy of raw time of group die g: it counts the same TCLK ticks as the director die's, and a die in reset or dark
has none until it loads it again. That the copies agree only to some picoseconds (R9) lies below one tick (log 78). -/
def Chip.groupRaw (s : Chip) (g : Nat) : Option Raw :=
  if s.groupIsDark g || s.groupInReset g then none else some s.time.raw

/-! ### Stamps (R175, R176, R245) -/

/-- Lanes of a subport, and its reference lane as a logical lane of the port (Table 8-1). -/
def Chip.laneCount (s : Chip) (p : Nat) : Nat := 8 / s.subports (s.lowerOf p)
def Chip.refLane (s : Chip) (p sub : Nat) : Nat := sub * s.laneCount p

/-- CAL_LANE_DELAY of a port has completed since cold reset. -/
def Chip.laneDone (s : Chip) (p : Nat) : Bool :=
  if p < 32 then s.getBit F.cal0LaneDoneLo p else s.getBit F.cal0LaneDoneHi (p - 32)

/-- The physical lane of a subport's reference lane, on receive and on transmit (R83). -/
def Chip.rxLane (s : Chip) (p sub : Nat) : Nat := s.getN (F.port1MapRxPhys p (s.refLane p sub))
def Chip.txLane (s : Chip) (p sub : Nat) : Nat := s.getN (F.port1MapTxPhys p (s.refLane p sub))

/-- The fixed path between a lane's balls and its sampling point, in 1/16 ps: measured by CAL_LANE_DELAY, until then from
ROM (R175, R280). -/
def Chip.rxTrim (s : Chip) (p sub : Nat) : Nat :=
  let l := 8 * p + s.rxLane p sub
  if s.laneDone p then s.getN (F.cal1Rx l) else Config.romLaneRx l
def Chip.txTrim (s : Chip) (p sub : Nat) : Nat :=
  let l := 8 * p + s.txLane p sub
  if s.laneDone p then s.getN (F.cal1Tx l) else Config.romLaneTx l

/-- The channel of its group bank that measures a lane of a port against TCLK: the receive clocks of the 48 lanes come
first, the transmit clocks after them (log 110). -/
def rxChannel (p lane : Nat) : Nat := p % 6 * 8 + lane
def txChannel (p lane : Nat) : Nat := 48 + p % 6 * 8 + lane

/-- The TCLK edge of a stamp falls within 8 cycles after a switch of TCLK: no interpolation is available (R245). -/
def Chip.noInterp (s : Chip) (edge : Raw) : Bool :=
  match s.banks.switched with
  | some w => decide (0 ≤ rawDiff w edge ∧ rawDiff w edge < 8 * 65536)
  | none => false

/-- A stamp cut to its TCLK edge where no interpolation is available (Table 8-2). -/
def Chip.interpolated (s : Chip) (edge x : Raw) : Raw :=
  if s.noInterp edge then BitVec.ofNat 64 (x.toNat / 65536 * 65536) else x

/-- t_am + k / (n * 212.5), moved to the balls by a path of `d` sixteenths of a picosecond (R175). t_am lies W(j) + w(j) / 2
before the TCLK edge after the marker, by the trims of channel c of the group bank (R176, log 110). -/
def Chip.lineStamp (s : Chip) (p c n : Nat) (a : LineStamp) (d : Int) : Raw :=
  let frac : Int := (128 * 65536 : Int) - (s.lineReach (p / 6) c a.tap : Nat)
  let num : Int := (a.bits * 131072 * 16000 : Nat) + d * 65536 * (n * 425 : Nat) + frac * (n * 425 * 125 : Nat)
  s.interpolated a.edge (a.edge + BitVec.ofInt 64 (freeDiv .stamp num (n * 425 * 16000 : Nat)))

/-- The RX and the TX stamp of a frame on a subport of one member. -/
def Chip.rxStamp (s : Chip) (p sub : Nat) (a : LineStamp) : Raw :=
  s.lineStamp p (rxChannel p (s.rxLane p sub)) (s.laneCount p) a (-(s.rxTrim p sub : Int))
def Chip.txStamp (s : Chip) (p sub : Nat) (a : LineStamp) : Raw :=
  s.lineStamp p (txChannel p (s.txLane p sub)) (s.laneCount p) a (s.txTrim p sub)

/-! ### Slates (R178, R179) -/

/-- Flag bits [47:41] of a port's slate: UNCAL, NO_INTERP, MEMBER (Table 8-2). -/
def Chip.portFlags (s : Chip) (p : Nat) (a : LineStamp) : Nat :=
  ofBool (s.uncal (p / 6)) * 64 + ofBool (s.noInterp a.edge) * 32 + ofBool (s.fusedUpper p)

/-- A step took effect after the previous slate of a source (Table 8-2), if it has given one. -/
def Chip.stepped (s : Chip) (src : Nat) : Bool :=
  let k := Store.read 0 s.slateStep src
  k != 0 && k != s.time.steps + 1

/-- Take the next slate of a source: kind, index and the flag bits [47:41], at a raw stamp. GAP marks the slate that
follows a loss. -/
def Chip.slate (s : Chip) (kind index flags : Nat) (stamp : Raw) : Chip × BitVec 128 :=
  let src := kind * 4096 + index
  let seq := Store.read (0 : Word) s.slateSeq src
  let gap := ofBool (s.slateLost.contains src) * 4
  let w := ((((stamp.toNat * 16 + kind) * 4096 + index) * 128 + (flags + gap)) * 2 + ofBool (s.stepped src)) * 2 ^ 8
  ({ s with
     slateSeq := Store.write 0 s.slateSeq src (seq + 1)
     slateStep := Store.write 0 s.slateStep src (s.time.steps + 1)
     slateLost := s.slateLost.filter (fun k => k != src) },
   BitVec.ofNat 128 (w * 2 ^ 32 + seq.toNat))

/-- The slate that a source has just produced is lost: the next one carries GAP (R179). -/
def Chip.slateIsLost (s : Chip) (kind index : Nat) : Chip :=
  let src := kind * 4096 + index
  { s with slateLost := s.slateLost.filter (fun k => k != src) ++ [src] }

/-- Count bytes of a traffic counter in KiB, carrying the remainder (R346). -/
def Chip.addKib (s : Chip) (f : Fld) (bytes : Nat) : Chip :=
  let r := Store.read 0 s.kib f.addr + bytes
  ({ s with kib := Store.write 0 s.kib f.addr (r % 1024) }).count f (r / 1024)

/-! ### Frames that the KN4876 originates (R67, R90, R177, R283) -/

/-- The device identity held in PERS (R90, R194). -/
def Chip.identity (s : Chip) : BitVec 64 := s.get (F.pers0Id 1) ++ s.get (F.pers0Id 0)

/-- What the stamp logic reads of a frame that leaves now, where no command brings it (log 85). -/
def Chip.stampNow (s : Chip) : LineStamp := ⟨s.time.raw, 383, 0⟩

/-- The length of a frame that the KN4876 originates, from destination address to FCS (R90, R283; the message and PDU
lengths of the standards that R191 and R210 name, log 111). -/
def Sent.len (f : Sent) : Nat :=
  let content := match f.body with
    | .sync _ _ t => if t.isSome then 88 else 44
    | .delayReq _ _ t => if t.isSome then 88 else 44
    | .delayResp .. => 54
    | .announce _ => 64
    | .signaling _ => 50
    | .esmc _ _ ext => if ext.isSome then 34 else 14
    | .fuseMarker .. => 46
    | .verify => 46
    | .respond => 46
    | .probe .. => 46
  max 64 (18 + content + (if f.vid.isSome then 4 else 0) + (if f.label.isSome then 4 else 0))

/-- A frame of some bytes that the KN4876 originates counts at its TX stamp point, in the class in which it is sent (R346). -/
def Chip.countSent (s : Chip) (m sub len : Nat) : Chip :=
  ((s.bump (F.trafTxFrames m sub Config.ownClass)).addKib (F.trafTxKib m sub) len).addKib
    (F.trafClassTxKib m Config.ownClass) len

/-- Far-end loopback sends back on a port's lanes what they receive, in place of frames of its own (Table 4-3). -/
def Chip.farLoop (s : Chip) (m : Nat) : Bool := s.getN (F.port0CtrlLoopback (s.lowerOf m)) == 2

/-- A frame that the KN4876 originates leaves a subport of one member: its slate is taken. -/
def Chip.emit (s : Chip) (m sub : Nat) (a : LineStamp) (f : BitVec 128 → Sent) : Chip :=
  if s.farLoop m then s else
  let x := s.slate 1 (m * 8 + sub) (s.portFlags m a) (s.txStamp m sub a)
  ({ x.1 with out := x.1.out ++ [f x.2] }).countSent m sub (f x.2).len

/-- A frame that the MAC originates, without a tag, a label or a domain. -/
def Chip.emitMac (s : Chip) (m sub : Nat) (dmac : BitVec 48) (etype : BitVec 16) (b : SentBody) : Chip :=
  s.emit m sub s.stampNow (fun w => ⟨m, sub, dmac, etype, none, none, 0, 0, b, w⟩)

/-- The group address of fuse markers, probes and timing messages. -/
def peerAddress : BitVec 48 := 0x0180C200000E

end Sys2Proof.Machine
end

