-- ==== Sys2Proof/Machine/Promise.lean ====
section
/-! DEFINITION. The ledger of the latency promise: gate figures, the check of R58 and the bounds of R57. -/

namespace Sys2Proof.Machine

/-- An entry of a gate list; one with an uncorrectable error acts open (R163). -/
def GateList.mask (g : GateList) (i : Nat) : BitVec 16 :=
  if g.badEntries.contains i then 0xFFFF else gateMask (Store.read 0 g.entries i)

/-- Length of an entry in ns. -/
def GateList.dur (g : GateList) (i : Nat) : Nat := gateDuration (Store.read 0 g.entries i)

/-- The entries as pairs of openness for class c and duration. -/
def GateList.runsOf (g : GateList) (c : Nat) : List (Bool × Nat) :=
  (List.range g.len).map (fun i => (bit (g.mask i) c, g.dur i))

/-- Longest closed stretch of a list of entries, in ns. -/
def longestClosed (l : List (Bool × Nat)) : Nat :=
  (l.foldl (fun (a : Nat × Nat) e => if e.1 then (0, a.2) else (a.1 + e.2, max a.2 (a.1 + e.2))) (0, 0)).2

/-- Number of open runs of a cyclic list: entries that open after a closed one. -/
def openRuns (l : List (Bool × Nat)) : Nat :=
  ((l.zip (l.drop (l.length - 1) ++ l)).filter (fun p => p.1.1 && !p.2.1)).length

/-- f(c) as a fraction and g(c) in ps (R157). -/
def GateList.figures (g : GateList) (c : Nat) : Nat × Nat × Nat :=
  let l := g.runsOf c
  if l.all (fun e => e.1) then (1, 1, 0)
  else if l.all (fun e => !e.1) then (0, 1, 0)
  else
    let openNs := ((l.filter (fun e => e.1)).map (fun e => e.2)).sum
    (openNs * 100 - 128 * openRuns l, g.takeNs * 100, longestClosed (l ++ l) * 1000 + 2560)

/-- The gate record of a port that has never run a list. -/
def gateDefault : Gate := ⟨⟨[], 0, 0, 0, []⟩, ⟨[], 0, 0, 0, []⟩, none, 0, 0xFFFF⟩
def Chip.gate (s : Chip) (p : Nat) : Gate := Store.read gateDefault s.gates p
def Chip.setGate (s : Chip) (p : Nat) (g : Gate) : Chip := { s with gates := Store.write gateDefault s.gates p g }

/-- The list a cut-over will run. -/
def Gate.newList (g : Gate) (k : CutOver) : GateList := ⟨g.shadow.entries, k.len, k.takeNs, k.base, g.shadow.badEntries⟩

/-- The smaller of two fractions. -/
def fracMin (a b c d : Nat) : Nat × Nat := if a * d ≤ c * b then (a, b) else (c, d)

/-- The worse figures of the old list and the new while a cut-over is pending (R158). -/
def worseFigures (old new : Nat × Nat × Nat) (splice : Nat) : Nat × Nat × Nat :=
  let f := fracMin old.1 old.2.1 new.1 new.2.1
  (f.1, f.2, max old.2.2 (max new.2.2 splice))

/-- The figures the ledgers of a port use now. -/
def Gate.inForce (g : Gate) (c : Nat) : Nat × Nat × Nat :=
  match g.pending with
  | none => g.active.figures c
  | some k => worseFigures (g.active.figures c) ((g.newList k).figures c) (k.spliceG.getD c 0)

/-- The flows of one ledger. -/
def Chip.ledgerOf (s : Chip) (p sub : Nat) : List LFlow := s.ledger.filter (fun f => f.port == p && f.sub == sub)

/-- Sixteenths of a picosecond per bit at a rate in Mb/s. -/
def ps16 (rate : Nat) : Nat := 16000000 / rate

/-- The hold of R55 in 1/16 ps: from the slower ingress to the faster egress wire. -/
def Chip.hold16 (s : Chip) (maxf inPort outPort : Nat) : Nat :=
  maxf * 8 * (ps16 (s.wireMb (s.lowerOf inPort)) - ps16 (s.wireMb outPort))

/-- The extra term of one flow in 1/16 ps: its hold and the two-shot terms (R69). -/
def Chip.hx16 (s : Chip) (f : LFlow) (blk maxWire : Nat) : Nat :=
  f.hold + (if f.reorder then 163840 else 0)
    + (if s.fusedLower f.port then (maxWire * 8 + blk) * 10 else 0)

/-- blk(c) of R58, bits. -/
def Chip.blk (s : Chip) (p sub c : Nat) (fl : List LFlow) : Nat :=
  max (s.blockCharge p sub) (((fl.filter (fun f => decide (f.cls < c))).map (fun f => (f.maxf + 20) * 8)).foldl max 0)

/-- d(c) of R58: `none` where the class holds no flow, `some none` where it is served at or below
its rate, else the bound in ps rounded up (R59). Rates in Mb/s, f as a fraction. -/
def Chip.bound (s : Chip) (p sub : Nat) (fl : List LFlow) (fig : Nat → Nat × Nat × Nat) (c : Nat) : Option (Option Nat) :=
  let own := fl.filter (fun f => f.cls == c)
  if own.isEmpty then none
  else
    let fg := fig c
    let above := ((fl.filter (fun f => decide (c < f.cls))).map LFlow.rate).sum
    let served := fg.1 * s.rateMb p - above * fg.2.1
    let need := (own.map LFlow.rate).sum
    if served ≤ need * fg.2.1 then some none
    else
      let blk := s.blk p sub c fl
      let burst := ((fl.filter (fun f => decide (c ≤ f.cls))).map (fun f => f.burst * 8)).sum
      let maxWire := (fl.map (fun f => f.maxf + 20)).foldl max 0
      let hx := (own.map (fun f => s.hx16 f blk maxWire)).foldl max 0
      some (some (ceilDiv ((blk + burst) * 16000000 * fg.2.1 + (16 * fg.2.2 + hx) * served) (16 * served)))

/-- The outcome of the check of R58. -/
inductive Check where
  | ok (bounds : List Nat)
  | noResource
  | conflict (c d : Nat)
  deriving DecidableEq, Repr

/-- A bound as BOUND_Cc stores it: 0 without a flow, all ones when served at or below the rate. -/
def storedBound (b : Option (Option Nat)) : Nat :=
  match b with
  | none => 0
  | some none => 0xFFFFFFFF
  | some (some d) => min d 0xFFFFFFFF

/-- The bounds of C12 to C15 (R57). -/
def Chip.bounds (s : Chip) (p sub : Nat) (fl : List LFlow) (fig : Nat → Nat × Nat × Nat) : List Nat :=
  [12, 13, 14, 15].map (fun c => storedBound (s.bound p sub fl fig c))

/-- Check the classes from C15 down (R58). -/
def Chip.checkClasses (s : Chip) (p sub : Nat) (fl : List LFlow) (fig : Nat → Nat × Nat × Nat) : List Nat → Check
  | [] => .ok (s.bounds p sub fl fig)
  | c :: l =>
    match s.bound p sub fl fig c with
    | none => s.checkClasses p sub fl fig l
    | some none => .conflict c 0xFFFFFFFF
    | some (some d) => if 128000 < d then .conflict c d else s.checkClasses p sub fl fig l

/-- The share in force (R57): 256 to 511 act as 256. -/
def Chip.share (s : Chip) (p sub : Nat) : Nat := min 256 (s.getN (F.admSubShare p sub))

/-- The check run by ADMIT_FLOW, the new flow included (R58). -/
def Chip.admitCheck (s : Chip) (f : LFlow) : Check :=
  let fl := s.ledgerOf f.port f.sub ++ [f]
  if s.share f.port f.sub * s.rateMb f.port < (fl.map LFlow.rate).sum * 256 then .noResource
  else s.checkClasses f.port f.sub fl (s.gate f.port).inForce [15, 14, 13, 12]

/-- Store four bounds. -/
def Chip.setBounds (s : Chip) (p sub : Nat) (b : List Nat) : Chip :=
  (List.range 4).foldl (fun t i => t.setN (F.admSubBound p sub i) (b.getD i 0)) s

/-- Compute the bounds again with the figures in force, and store them (R57). -/
def Chip.rebound (s : Chip) (p sub : Nat) : Chip :=
  s.setBounds p sub (s.bounds p sub (s.ledgerOf p sub) (s.gate p).inForce)

/-- Compute the bounds of every ledger of a port again. -/
def Chip.reboundPort (s : Chip) (p : Nat) : Chip :=
  (List.range 8).foldl (fun t sub => if (t.ledgerOf p sub).isEmpty then t else t.rebound p sub) s

/-- Bring RATE and FLOWS of a ledger and FLOWS of its page up to the ledger (Table 3-5). -/
def Chip.syncLedger (s : Chip) (p sub : Nat) : Chip :=
  let fl := s.ledgerOf p sub
  ((s.setN (F.admSubRate p sub) (fl.map LFlow.rate).sum).setN (F.admSubFlows p sub) fl.length).setN
    (F.admStatusFlows p) (min 0xFFFF (s.ledger.filter (fun f => f.port == p)).length)

/-- Closed time of class c at the end of a list, up to a boundary, in ns. -/
def GateList.closedTail (g : GateList) (c : Nat) : Nat :=
  ((g.runsOf c).reverse.takeWhile (fun e => !e.1)).map (fun e => e.2) |>.sum

/-- Closed time of class c from a position in a list on, in ns. -/
def closedFrom (pos : Nat) : List (Bool × Nat) → Nat
  | [] => 0
  | e :: l =>
    if e.2 ≤ pos then closedFrom (pos - e.2) l
    else if e.1 then 0
    else (e.2 - pos) + ((l.takeWhile (fun x => !x.1)).map (fun x => x.2)).sum

/-- The splice closure of each class in ps (R158): the old list's closure up to its boundary joined
with the new list's closure from its starting position on. -/
def spliceClosure (old new : GateList) (pos : Nat) : List Nat :=
  (List.range 16).map (fun c =>
    let before := old.closedTail c
    let after := closedFrom pos (new.runsOf c ++ new.runsOf c)
    if before = 0 ∨ after = 0 then 0 else (before + after) * 1000 + 2560)

/-- First boundary of a list at or after a network time, in units of 2^-16 ns (R159). -/
def GateList.boundaryFrom (g : GateList) (t : Nat) : Nat :=
  let l : Int := (g.takeNs * 65536 : Nat)
  ((t : Int) + ((g.base : Int) - (t : Int)) % l).toNat

/-- Position of a network time in a list, in ns. -/
def GateList.position (g : GateList) (t : Nat) : Nat :=
  (((t : Int) - (g.base : Int)) / 65536 % ((max 1 g.takeNs : Nat) : Int)).toNat

/-- Network time since the last boundary of a list, in units of 2^-16 ns (R155). -/
def GateList.past (g : GateList) (t : Nat) : Nat :=
  (((t : Int) - (g.base : Int)) % ((max 1 g.takeNs * 65536 : Nat) : Int)).toNat

/-- Walk the entries' lengths to a position. -/
def entryScan (pos : Nat) : List Nat → Nat → Nat
  | [], i => i
  | d :: l, i => if d ≤ pos then entryScan (pos - d) l (i + 1) else i

/-- The entry in which a position lies. -/
def GateList.entryAt (g : GateList) (pos : Nat) : Nat := entryScan pos ((List.range g.len).map g.dur) 0

/-- The list whose boundaries time a cut-over: the running one, or the new one where none runs (R159). -/
def Gate.timer (g : Gate) (k : CutOver) : GateList := if g.active.len ≠ 0 then g.active else g.newList k

/-- The network time of a pending cut-over, reckoned at a network time `now` (R159): the first boundary
at or after CUTOVER, or the next one where CUTOVER is past. -/
def Gate.cutInstant (g : Gate) (k : CutOver) (now : Nat) : Nat := (g.timer k).boundaryFrom (max k.at_ now)

/-- The express blocking of a frame judged late (R71): the highest cause that stands. -/
def Chip.lateCause (s : Chip) (p : Nat) : Nat → Nat → Fld :=
  if s.flag (F.admStatusDegraded p) then F.admSubBreakLink
  else if s.flag (F.admStatusMergeLost p) then F.admSubBreakMerge
  else if s.flag (F.admStatusGateUpset p) then F.admSubBreakGate
  else F.admSubBreakLate

/-- The break counter of an express frame that is late, too old, or finds its region or class full (R70, R71): LINK
where its output was down, in its hold or degraded within its residence, else the highest cause that stands. -/
def Chip.breakCause (s : Chip) (f : Frame) : Nat → Nat → Fld :=
  if s.linkCause f then F.admSubBreakLink else s.lateCause f.outPort

end Sys2Proof.Machine
end

