-- ==== Sys2Proof/Machine/Lookup.lean ====
section
/-! DEFINITION. Receive parse, path, next-hop and flow lookups, the host packet rings, and the commands FRAME_RECEIVE, TX_RING_SERVE and TABLE_SCRUB with the shared ECC rules (R97 to R118). -/

namespace Sys2Proof.Machine

/-! ### Tables and their failed entries (R117) -/

/-- The tables by window number: 0 path, 1 next hop, 2 flow, 3 DetNet state, 4 staging. -/
def Chip.table (s : Chip) (w : Nat) : Store (BitVec 128) :=
  if w = 0 then s.path else if w = 1 then s.nh else if w = 2 then s.flow else if w = 3 then s.dn else s.stage

/-- Replace a table. -/
def Chip.setTable (s : Chip) (w : Nat) (t : Store (BitVec 128)) : Chip :=
  if w = 0 then { s with path := t } else if w = 1 then { s with nh := t }
  else if w = 2 then { s with flow := t } else if w = 3 then { s with dn := t } else { s with stage := t }

/-- Entries of each table (Table 5-10). -/
def tableSize (w : Nat) : Nat :=
  if w = 0 then 1048576 else if w = 1 then 262144 else if w = 4 then 1024 else 65536

/-- An entry of a table as stored. -/
def Chip.tentry (s : Chip) (w i : Nat) : BitVec 128 := Store.read 0 (s.table w) i

/-- An entry is marked failed. -/
def Chip.failed (s : Chip) (w i : Nat) : Bool := s.eccMarked.contains (w, i)

/-- Write an entry with correct ECC; a failed mark clears (R117). -/
def Chip.putEntry (s : Chip) (w i : Nat) (v : BitVec 128) : Chip :=
  let t := s.setTable w (Store.write 0 (s.table w) i v)
  { t with eccMarked := t.eccMarked.filter (fun x => x != (w, i)) }

/-- Meet one upset (R117): a single-bit error is corrected, a double-bit error marks the entry. -/
def Chip.meetUpset (s : Chip) (h : ScrubHit) : Chip :=
  if tableSize h.table ≤ h.index || s.failed h.table h.index then s
  else if h.double then
    let t := s.setTable h.table (Store.write 0 (s.table h.table) h.index (s.tentry h.table h.index ^^^ h.bits))
    let u := { t with eccMarked := t.eccMarked ++ [((h.table : Nat), h.index)] }
    ((u.bump (F.tblEccUncorr h.table)).setN (F.tblEccIndex h.table) h.index).fault fEcc
  else s.bump (F.tblEccCorrected h.table)

/-- A lookup reads an entry: it meets the upset that stands there (R117). -/
def Chip.readMeets (s : Chip) (hits : List ScrubHit) (w i : Nat) : Chip :=
  (hits.filter (fun h => (h.table : Nat) == w && h.index == i)).foldl Chip.meetUpset s

/-! ### Host packet rings (R106 to R109) -/

/-- Descriptors of a ring. -/
def Chip.ringSize (s : Chip) (n : Nat) : Nat := 2 ^ clamp 6 15 (s.getN (F.ringCtrlSize n))

/-- A descriptor word of a ring: index of descriptor, word. -/
def descKey (n k w : Nat) : Nat := n * 0x40000 + k * 4 + w
def Chip.desc (s : Chip) (n k w : Nat) : Word := Store.read 0 s.ringMem (descKey n k w)
def Chip.setDesc (s : Chip) (n k w : Nat) (v : Word) : Chip :=
  { s with ringMem := Store.write 0 s.ringMem (descKey n k w) v }

/-- Advance HEAD and raise the ring's vector as OWN clears (R107). FRAMES counts every descriptor served, a transmit one
that completes with ERROR too (log 115). -/
def Chip.ringAdvance (s : Chip) (n : Nat) : Chip :=
  let t := (s.setN (F.ringHead n) ((s.getN (F.ringHead n) + 1) % s.ringSize n)).bump (F.ringFrames n)
  if t.flag (F.ringCtrlIrqEn n) then t.raise n else t

/-- The host has handed over the descriptor at HEAD: OWN = 1, and TAIL stands past it (R107). TAIL equal to HEAD
hands over none (log 79). -/
def Chip.handedOver (s : Chip) (n : Nat) : Bool :=
  let k := s.getN (F.ringHead n) % s.ringSize n
  bit (s.desc n k 3) 31 && s.getN (F.ringTail n) % s.ringSize n != k

/-- Deliver a frame to receive ring n (R106, R107, R109): `len` bytes from port p, subport sub. It counts in RING_FULL
where no descriptor is there, or where slate writes leave the link too late for it (R271); a ring with ENABLE = 0 takes
none, which counts there too (log 80). -/
def Chip.toRing (s : Chip) (n p sub len : Nat) (late : Bool) : Chip :=
  let cost := len * 8000
  let limited := decide (s.getN (F.ringRate n) ≠ 0)
  if 64 * 1024 * 8000 < s.hostTokens + cost ∨
      (limited = true ∧ 16 * 1024 * 8000 < Store.read 0 s.ringTokens n + cost) then s.bump (F.ringPoliced n)
  else
    let k := s.getN (F.ringHead n) % s.ringSize n
    if !s.flag (F.ringCtrlEnable n) || !s.handedOver n || late then s.bump (F.ringRingFull n)
    else
      let buf := bits (s.desc n k 2) 31 16
      let w3 := (if buf < len then 2 ^ 30 else 0) + p * 2 ^ 24 + sub * 2 ^ 21
      let t := { s with
        hostTokens := s.hostTokens + cost
        ringTokens := if limited then Store.write 0 s.ringTokens n (Store.read 0 s.ringTokens n + cost) else s.ringTokens }
      ((t.setDesc n k 2 (word (buf * 2 ^ 16 + min len buf))).setDesc n k 3 (word w3)).ringAdvance n

/-! ### Lookup -/

/-- The outcome of a frame's parse and lookups. -/
inductive Verdict where
  | drop
  | ring (n : Nat)
  | grip
  | send (port sub cls len : Nat) (hdr : OutHeader) (flow : Option Nat) (unadmitted : Bool)
  deriving DecidableEq, Repr

/-- The hash of R103 over the received labels. -/
def hashLabels (seed : Nat) (labels : List Nat) : Nat :=
  labels.foldl (fun h v =>
    ((h * 32 % 65536 + h / 2048) ^^^ (v % 65536)) ^^^ (v / 65536 * 0x1000)) seed

/-- The S bits rewritten so that only the bottom entry carries S = 1 (R99). -/
def fixBottom : List (BitVec 32) → List (BitVec 32)
  | [] => []
  | [e] => [labelEntry (labelOf e) (tcOf e) (ttlOf e) true]
  | e :: l => labelEntry (labelOf e) (tcOf e) (ttlOf e) false :: fixBottom l

/-- The CLASS of a path entry as it acts on a frame: 12 to 15 act as 11 on one that the host queued (R108). -/
def classFor (fromHost : Bool) (e : BitVec 128) : Nat := if fromHost then min 11 (pathClass e) else pathClass e

/-- Labels written by an entry that acts with some CLASS, top first, the last taking its own TTL (R99, R100). For a frame
that matches a flow the CLASS here is the path entry's, and the one of its tag's PCP the flow's (log 112). -/
def writtenLabels (e : BitVec 128) (cls tc ttl lastTtl : Nat) : List (BitVec 32) :=
  (List.range (pathLcount e)).map (fun i =>
    labelEntry (pathLabel e i) (if pathTcCopy e then tc else cls / 2)
      (if i + 1 = pathLcount e then lastTtl else if pathUniform e then ttl else 255) false)

/-- Port and subport MAC (R116). -/
def Chip.subMac (s : Chip) (p sub : Nat) : BitVec 48 :=
  BitVec.ofNat 48 (s.getN (F.port3MacHi (s.lowerOf p)) * 2 ^ 32 + s.getN (F.port3MacLo (s.lowerOf p)) + sub)

/-- Choose the next-hop entry and send through it (R102, R103): outgoing labels, EtherType, the frame
length before the new tag, the class, the tags kept under the new one (R106), and the flow lookup's answer for an
output. -/
def Chip.viaNextHop (old : Chip) (f : RxFrame) (nhIndex : Nat) (stack : List (BitVec 32)) (etype : BitVec 16)
    (under : List (BitVec 16 × BitVec 16)) (len cls : Nat) (bind : Nat → Nat → Option Nat × Bool) : Chip × Verdict :=
  let s := old.readMeets f.upsets 1 nhIndex
  let e := s.tentry 1 nhIndex
  let out := s.lowerOf (nhPort e)
  if s.failed 1 nhIndex then (s, .drop)
  else if !nhValid e || decide (48 ≤ nhPort e) || decide (s.subports out ≤ nhSub e) then
    (s.bump (F.port3NhInvalid f.port), .drop)
  else
    let tag : Option (BitVec 16 × BitVec 16) :=
      if nhVlan e = 1 then some (0x8100, BitVec.ofNat 16 (cls / 2 * 2 ^ 13 + nhVid e))
      else if nhVlan e = 2 then some (0x88A8, BitVec.ofNat 16 (cls / 2 * 2 ^ 13 + nhVid e)) else none
    let outLen := len + (if tag.isSome then 4 else 0)
    let b := bind out (nhSub e)
    (s, .send out (nhSub e) cls outLen ⟨stack, etype, nhDmac e, s.subMac out (nhSub e), tag, under⟩ b.1 b.2)

/-- The way of the flow table that matches a label pair (R104). -/
def Chip.matchFlow (s : Chip) (present : Bool) (top second : Nat) : Option Nat :=
  let set := flowSet present top second
  ((List.range 4).map (fun w => set * 4 + w)).find? (fun i =>
    let e := s.tentry 2 i
    flowValid e && !s.failed 2 i && (flowKey e == flowKeyOf present top second))

/-- The DetNet check of a matched flow (R105). `deep` says the d-CW lies beyond the 8 parsed labels. -/
def Chip.detnet (old : Chip) (hits : List ScrubHit) (p i : Nat) (dcw : BitVec 32) (deep : Bool) : Chip :=
  let len := flowSeqLen (old.tentry 2 i)
  let s := if len = 0 ∨ len = 3 then old else old.readMeets hits 3 i
  if len = 0 ∨ len = 3 ∨ s.failed 3 i = true then s
  else if bits dcw 31 28 ≠ 0 ∨ deep = true then s.bump (F.port3DetnetBad p)
  else
    let width := if len = 1 then 16 else 28
    let seq := dcw.toNat % 2 ^ width
    let e := s.tentry 3 i
    let last := bits e 127 100
    let d := (seq + 2 ^ width - last % 2 ^ width) % 2 ^ width
    let sat := fun (x n : Nat) => min 0xFFFFFF (x + n)
    let okc := bits e 95 72
    let dup := bits e 71 48
    let ooo := bits e 47 24
    let lost := bits e 23 0
    let mk := fun (l o du oo lo : Nat) =>
      BitVec.ofNat 128 ((((l * 16 + 8) * 2 ^ 24 + o) * 2 ^ 24 + du) * 2 ^ 48 + oo * 2 ^ 24 + lo)
    let e' :=
      if !bit e 99 then mk seq (sat okc 1) dup ooo lost
      else if d = 0 then mk last okc (sat dup 1) ooo lost
      else if d < 2 ^ (width - 1) then mk seq (sat okc 1) dup ooo (sat lost (d - 1))
      else mk last okc dup (sat ooo 1) lost
    { s with dn := Store.write 0 s.dn i e' }

/-- Flow lookup for a final class of 12 to 15 (R104, R65): the flow's index and whether the frame
is unadmitted on an output. -/
def flowBind (i : Option Nat) (e : BitVec 128) (preempt : Bool) (out sub : Nat) : Option Nat × Bool :=
  match i with
  | none => (none, true)
  | some k => if flowPort e = out ∧ flowSub e = sub ∧ preempt = false then (some k, false) else (none, true)

/-- A frame sent on after its final path entry (R102 to R105). A frame that matches a flow is tagged by the flow's CLASS
(log 112). -/
def Chip.finish (s : Chip) (f : RxFrame) (fromHost : Bool) (e : BitVec 128)
    (stack : List (BitVec 32)) (etype : BitVec 16) : Chip × Verdict :=
  let upTo := f.stack.take 8
  let labels := upTo.map labelOf
  let len := f.len - 4 * f.tags.length + 4 * stack.length - 4 * f.stack.length
  let member := pathNh e + (if pathIsGroup e then
    hashLabels (s.getN F.tblnhHashSeed) labels * (pathGroupSize e + 1) / 65536 else 0)
  let cls := classFor fromHost e
  if cls < 12 then s.viaNextHop f member (fixBottom stack) etype [] len cls (fun _ _ => (none, false))
  else
    let present := decide (2 ≤ f.stack.length)
    let set := flowSet present (labels.getD 0 0) (labels.getD 1 0)
    let t := (List.range 4).foldl (fun x w => x.readMeets f.upsets 2 (set * 4 + w)) s
    match t.matchFlow present (labels.getD 0 0) (labels.getD 1 0) with
    | none => t.viaNextHop f member (fixBottom stack) etype [] len cls (fun _ _ => (none, true))
    | some k =>
      let u := if pathDetnet e then t.detnet f.upsets f.port k f.dcw (decide (8 < f.stack.length)) else t
      u.viaNextHop f member (fixBottom stack) etype [] len (flowClass (u.tentry 2 k))
        (flowBind (some k) (u.tentry 2 k) f.preempt)

/-- END_OF_STACK (R101). -/
def Chip.endOfStack (s : Chip) (p : Nat) : Chip × Verdict := (s.bump (F.port3EndOfStack p), .ring 4)

/-- The payload's EtherType when the last label goes (R101). -/
def Chip.exposePayload (s : Chip) (f : RxFrame) (fromHost : Bool) (e : BitVec 128) : Chip × Verdict :=
  if f.nibble = 4 then s.finish f fromHost e [] 0x0800
  else if f.nibble = 6 then s.finish f fromHost e [] 0x86DD
  else s.endOfStack f.port

/-- One path lookup on the remaining stack (R98 to R101); `left` lookups remain after this one,
and `seen` entries of the 8 parsed have been removed. A miss is judged before the TTL (log 112). -/
def Chip.pathLookup (old : Chip) (f : RxFrame) (fromHost : Bool) (top : BitVec 32) :
    Nat → Nat → List (BitVec 32) → Chip × Verdict
  | _, _, [] => old.endOfStack f.port
  | left, seen, cur :: rest =>
    let p : Nat := f.port
    let q := old.lowerOf p
    let i := labelOf cur
    let s := old.readMeets f.upsets 0 i
    let e := s.tentry 0 i
    let act := pathAction e
    let t := ttlOf top - 1
    let tc := tcOf top
    let cls := classFor fromHost e
    if s.failed 0 i then (s, .drop)
    else if !pathValid e then
      (s.bump (F.port3PathMiss p), if s.flag (F.port3LkpCtrlMissHost q) then .ring 1 else .drop)
    else if act = actTrap then (s, .ring 2)
    else if act = actToGrip then (s, .grip)
    else if ttlOf top ≤ 1 then
      (s.bump (F.port3TtlExpired p), if s.flag (F.port3LkpCtrlTtlHost q) then .ring 3 else .drop)
    else if act = actDrop then (s.bump (F.port3PathDrop p), .drop)
    else if act = actPopLookup then
      (match left with
       | 0 => s.endOfStack p
       | n + 1 =>
         if bottomOf cur || decide (8 ≤ seen + 1) then s.endOfStack p
         else s.pathLookup f fromHost top n (seen + 1) rest)
    else if act = actSwap ∨ (act = actNodeSeg ∧ pathLcount e ≠ 0) then
      s.finish f fromHost e (writtenLabels e cls tc t t ++ rest) 0x8847
    else if act = actPush then
      s.finish f fromHost e (writtenLabels e cls tc t (if pathUniform e then t else 255)
        ++ labelEntry (labelOf cur) (tcOf cur) t (bottomOf cur) :: rest) 0x8847
    else
      let w := writtenLabels e cls tc t (if pathUniform e then t else 255)
      (match rest with
       | [] => if w.isEmpty then s.exposePayload f fromHost e else s.finish f fromHost e w 0x8847
       | x :: l =>
         let x' := if pathUniform e then labelEntry (labelOf x) (tcOf x) (min (ttlOf x) t) (bottomOf x) else x
         s.finish f fromHost e (w ++ x' :: l) 0x8847)

/-- A frame that is not label-switched (R106). -/
def Chip.nonMpls (s : Chip) (f : RxFrame) : Chip × Verdict :=
  let p : Nat := f.port
  let q := s.lowerOf p
  let t := s.bump (F.port3NonMpls p)
  match s.getN (F.port3LkpCtrlNonmpls q) with
  | 1 => (t, .ring 0)
  | 2 => t.viaNextHop f (t.getN (F.port3LkpDefnhDefaultNh q)) f.stack f.etype f.tags f.len 0 (fun _ _ => (none, false))
  | _ => (t, .drop)

/-- The tags are none, one or two in the places Table 5-1 allows. -/
def tagsOk (tags : List (BitVec 16 × BitVec 16)) : Bool :=
  match tags with
  | [] => true
  | [a] => a.1 == 0x8100 || a.1 == 0x88A8
  | [a, b] => (a.1 == 0x8100 || a.1 == 0x88A8) && b.1 == 0x8100
  | _ => false

/-- Parse and look up a frame (Table 5-1). -/
def Chip.lookup (s : Chip) (f : RxFrame) (fromHost : Bool) : Chip × Verdict :=
  let p : Nat := f.port
  let q := s.lowerOf p
  if s.flag (F.port3LkpCtrlDaCheck q) && !bit f.da 40 && f.da != s.subMac p f.sub then
    (s.bump (F.port3DaMismatch p), .drop)
  else if !tagsOk f.tags then (s.bump (F.port3ParseTags p)).nonMpls f
  else if f.etype = 0x88F7 then (s, .grip)
  else if f.etype = 0x8809 then (s, if f.esmc then .grip else .ring 5)
  else if f.etype = 0x8847 then
    let t := if 8 < f.stack.length then s.bump (F.port3DeepStack p) else s
    match f.stack with
    | [] => t.endOfStack p
    | top :: _ => t.pathLookup f fromHost top 2 0 f.stack
  else s.nonMpls f

/-- Rate of a frame's ingress wire and egress wire, in Mb/s. -/
def Chip.inRate (s : Chip) (f : Frame) : Nat := s.wireMb (s.lowerOf f.inPort)

/-- Put a resolved frame into the pipeline with the flow entry that it read (R112), cut at the output's MAXFRAME (R102). A
frame for a ring that waits for its predecessors goes there as its SEQ is released (R93). -/
def Chip.addFrame (s : Chip) (f : RxFrame) (fromHost direct cutIn waiting : Bool) (v : Verdict) : Chip :=
  match v with
  | .drop => s
  | .grip => s
  | .ring n => if waiting then s else s.toRing n f.port f.sub f.len f.tooLate
  | .send port sub cls len hdr flow unadmitted =>
    let cut := decide (s.maxframe port < len)
    let src := (f.port : Nat) * 8 + f.sub
    let no := Store.read 0 s.frameNos src
    let g : Frame :=
      { id := s.nextFrame, order := s.nextFrame, inPort := f.port, inSub := f.sub, frameNo := no, fromHost := fromHost
        direct := direct, outPort := port, outSub := sub, cls := cls, express := false, unadmitted := unadmitted
        flow := flow, entry := match flow with | some i => s.tentry 2 i | none => 0
        len := if cut then s.maxframe port else len, full := len, inLen := f.len
        rxStamp := if fromHost then s.time.raw else s.rxStamp f.port f.sub f.stamp
        hdr := hdr, tag := f.tag, waiting := waiting, taken := false, stored := false, tailSeen := false
        bad := cut || cutIn, ended := false, formed := 0, crossed := 0, upperCells := 0, link := 0, linkedAt := 0, rsv := 0
        started := false, preempted := false
        held := !s.linkUp port sub || s.getBit (F.port0StatusHolding port) sub || s.flag (F.admStatusDegraded port)
        broken := false, member := 0 }
    let t := { s with
      frames := s.frames ++ [g]
      nextFrame := s.nextFrame + 1
      frameNos := Store.write 0 s.frameNos src ((no + 1) % 4096) }
    if cut then t.bump (F.port3LenOver f.port) else t

/-! ### Two-shot receive order (R93) -/

/-- The record of a fused port. -/
def runDefault : MarkerRun := ⟨0, 0, false, 0, 0, 0⟩
def fuseDefault : Fuse := ⟨0, 0, 0, none, none, [], [], 0, runDefault, runDefault, 0, false, false, false⟩
def Chip.fuse (s : Chip) (p : Nat) : Fuse := Store.read fuseDefault s.fuses p
def Chip.setFuse (s : Chip) (p : Nat) (x : Fuse) : Chip := { s with fuses := Store.write fuseDefault s.fuses p x }

/-- Expected SEQ of a space. -/
def Fuse.expected (x : Fuse) (express : Bool) : Option Nat := if express then x.rxSeqX else x.rxSeq
def Fuse.setExpected (x : Fuse) (express : Bool) (v : Option Nat) : Fuse :=
  if express then { x with rxSeqX := v } else { x with rxSeq := v }


/-- The frames of a space that have arrived before the expected SEQ. -/
def Fuse.earlyOf (x : Fuse) (express : Bool) : List Early := if express then x.earlyX else x.early
def Fuse.setEarly (x : Fuse) (express : Bool) (l : List Early) : Fuse :=
  if express then { x with earlyX := l } else { x with early := l }

/-- SEQ n of a space has arrived early. -/
def Fuse.hasEarly (x : Fuse) (express : Bool) (n : Nat) : Bool := (x.earlyOf express).any (fun k => k.seq == n)

/-- An early frame is released (R93): one in the pipeline takes its place in the order of the fabric's requests (R127), and
one for a receive ring goes there. -/
def Chip.releaseEarly (s : Chip) (k : Early) : Chip :=
  let t := { s with
    frames := s.frames.map (fun f => if f.id = k.id then { f with waiting := false, order := s.nextFrame } else f)
    nextFrame := s.nextFrame + 1 }
  match k.ring with
  | some r => t.toRing r.1 k.inPort r.2.1 r.2.2.1 r.2.2.2
  | none => t

/-- The frame of a SEQ that has arrived early is released, and its record goes. -/
def Chip.releaseSeq (s : Chip) (p : Nat) (express : Bool) (n : Nat) : Chip :=
  let x := s.fuse p
  let t := s.setFuse p (x.setEarly express ((x.earlyOf express).filter (fun k => k.seq != n)))
  ((x.earlyOf express).filter (fun k => k.seq == n)).foldl Chip.releaseEarly t

/-- SEQ n of a space is done with, and the SEQ values after it that have arrived are released in order. -/
def Chip.passSeq (s : Chip) (p : Nat) (express : Bool) (n : Nat) : Nat → Chip
  | 0 => s
  | fuel + 1 =>
    let m := (n + 1) % 2 ^ 20
    let t := s.setFuse p ((s.fuse p).setExpected express (some m))
    if (s.fuse p).hasEarly express m then (t.releaseSeq p express m).passSeq p express m fuel else t

/-- How a sequenced frame of a fused port stands against the expected SEQ: late, due now, or early. -/
inductive SeqStand where
  | late | due | early
  deriving DecidableEq, Repr

/-- Judge a SEQ (R93): the first frame of a new EPOCH in a space sets what is expected (R94). Any EPOCH other than the
current one is new, an older one too (log 113). -/
def Fuse.judge (x : Fuse) (t : TsTag) : Fuse × SeqStand :=
  let y := if x.rxEpoch = t.epoch.toNat then x
    else { x with rxEpoch := t.epoch.toNat, rxSeq := none, rxSeqX := none, early := [], earlyX := [] }
  match y.expected t.express with
  | none => (y, .due)
  | some n =>
    let d := (t.seq.toNat + 2 ^ 20 - n) % 2 ^ 20
    if d = 0 then (y, .due) else if 2 ^ 19 ≤ d then (y, .late) else (y, .early)

/-- The frames that wait under an EPOCH that has gone are released, and their records go (R94, log 113). -/
def Chip.leaveEpoch (s : Chip) (p epoch : Nat) : Chip :=
  let x := s.fuse p
  if x.rxEpoch = epoch then s
  else (x.early ++ x.earlyX).foldl Chip.releaseEarly (s.setFuse p { x with early := [], earlyX := [] })

/-- An early frame is recorded, whatever becomes of it: the next frame number is its own (R93). -/
def Chip.recordEarly (s : Chip) (p : Nat) (t : TsTag) (f : RxFrame) (v : Verdict) : Chip :=
  let x := s.fuse p
  let ring := match v with | .ring n => some (n, (f.sub : Nat), f.len, f.tooLate) | _ => none
  s.setFuse p (x.setEarly t.express (x.earlyOf t.express ++ [⟨s.nextFrame, f.port, t.seq.toNat, ring⟩]))

/-- A frame that makes no frame of the pipeline uses up the number under which it is recorded. -/
def Chip.skipNumber (s : Chip) : Verdict → Chip
  | .send .. => s
  | _ => { s with nextFrame := s.nextFrame + 1 }

/-! ### The commands -/

/-- The physical (sub)port passes frames to the parser (R86, R90). -/
def Chip.receives (s : Chip) (p sub : Nat) : Bool :=
  s.coresRun && s.getBit (F.port0StatusLinkUp p) sub &&
    (s.lowerOf p == p && !s.fusedLower p || s.flag (F.port0StatusTsFused (s.lowerOf p)))

/-- A frame that the MAC consumes (R67, R90, R283): a verify frame is answered by a respond frame, whatever MERGE_EN holds
(log 114); a respond frame is what MERGE_VERIFY_DONE reports of; a returning probe of the running CAL_ASYM gives its
RX slate. -/
def Chip.macTakes (s : Chip) (f : RxFrame) : Option Chip :=
  match f.smd with
  | .verify => some (s.emitMac f.port f.sub 0 0 .respond)
  | .respond => some s
  | .frame =>
    if f.etype = 0x88B5 ∧ f.da = peerAddress ∧ f.tags = [] then
      some (match s.calRun with
        | some r => if r.kind = 4 ∧ r.target = (f.port : Nat) * 8 + f.sub ∧ r.probes ≠ 0
            then (s.slate 0 r.target (s.portFlags f.port f.stamp) (s.rxStamp f.port f.sub f.stamp)).1 else s
        | none => s)
    else none

/-- A sequenced frame of a fused port takes its place in its space (R93): SEQ_LATE counts on subport 0 of the member that
received the frame (log 81). -/
def Chip.sequenceTag (s : Chip) (q : Nat) (f : RxFrame) (t : TsTag) (cut : Bool) : Chip :=
  let s1 := s.leaveEpoch q t.epoch.toNat
  let j := (s1.fuse q).judge t
  let s2 := s1.setFuse q j.1
  match j.2 with
  | .late => s2.bump (F.port2SeqLate f.port 0)
  | .early =>
    let r := s2.lookup f false
    ((r.1.recordEarly q t f r.2).addFrame f false false cut true r.2).skipNumber r.2
  | .due =>
    let r := s2.lookup f false
    let u := r.1.addFrame f false false cut false r.2
    u.passSeq q t.express t.seq.toNat (((u.fuse q).earlyOf t.express).length + 1)

/-- FRAME_RECEIVE (R97): stamp, count, cut, order, parse and look up a received frame. -/
def Chip.receive (s : Chip) (f : RxFrame) : Chip :=
  let p : Nat := f.port
  let q := s.lowerOf p
  if f.smd != .frame && s.coresRun && s.getBit (F.port0StatusLinkUp p) f.sub then (s.macTakes f).getD s
  else if !s.receives p f.sub then s
  else
    let long := decide (s.maxframe p < f.len)
    let f' := if long then { f with len := s.maxframe p } else f
    let s1 := ((s.bump (F.trafRxFrames p f.sub)).count (F.port2FecCorrected p f.sub) f.fec).addKib (F.trafRxKib p f.sub) f'.len
    let s2 := if long then s1.bump (F.port2RxOversize p f.sub) else s1
    if f.etype = 0x8808 then s2.bump (F.port2MacControl p f.sub)
    else
      match s2.macTakes f, (if s.fusedLower q then f.tag else none) with
      | some t, _ => t
      | none, none =>
        let r := s2.lookup { f' with tag := none } false
        r.1.addFrame { f' with tag := none } false false long false r.2
      | none, some t => if t.crcOk then s2.sequenceTag q f' t long else s2.bump (F.port2TagBad q 0)

def execFrameReceive (f : RxFrame) (s : State) : Host.Outcome State Fault Refusal := done s (s.chip.receive f)

/-- Put a number at its place among numbers that rise under a measure. -/
def insertBy (m : Nat → Nat) (k : Nat) : List Nat → List Nat
  | [] => [k]
  | j :: l => if m k ≤ m j then k :: j :: l else j :: insertBy m k l

/-- The numbers of a list with a measure rising. -/
def inOrder (m : Nat → Nat) (l : List Nat) : List Nat := l.foldl (fun x k => insertBy m k x) []

/-- The early frame of a number in a space of a fused port. -/
def Fuse.findEarly (x : Fuse) (id : Nat) : Option (Bool × Early) :=
  match x.early.find? (fun k => k.id == id) with
  | some k => some (false, k)
  | none => (x.earlyX.find? (fun k => k.id == id)).map (fun k => (true, k))

/-- The wait of an early frame runs out (R93): the SEQ values before it that have not arrived are lost, and the frames up
to it are released in their order. They count on subport 0 of the member that received it (log 81). -/
def Chip.endWait (s : Chip) (p : Nat) (express : Bool) (k : Early) : Chip :=
  let x := s.fuse p
  let n := (x.expected express).getD k.seq
  let dist := fun m => (m + 2 ^ 20 - n) % 2 ^ 20
  let before := inOrder dist (((x.earlyOf express).map Early.seq).eraseDups.filter (fun m => decide (dist m < dist k.seq)))
  let u := s.count (F.port2SeqLost k.inPort 0) (dist k.seq - before.length)
  ((before ++ [k.seq]).foldl (fun v m => v.releaseSeq p express m) u).passSeq p express k.seq
    ((x.earlyOf express).length + 1)

/-- SEQ_WAIT_EXPIRY (R93): the wait of the early frame of a number runs out. -/
def Chip.seqExpiry (s : Chip) (id : Nat) : Chip :=
  match s.fuses.findSome? (fun e => (e.2.findEarly id).map (fun r => (e.1, r))) with
  | some r => s.endWait r.1 r.2.1 r.2.2
  | none => s

def execSeqWaitExpiry (id : Nat) (s : State) : Host.Outcome State Fault Refusal := done s (s.chip.seqExpiry id)

/-- The next transmit ring in turn with a descriptor to serve (R108). -/
def Chip.nextTxRing (s : Chip) : Option Nat :=
  ((List.range 8).map (fun i => 8 + (s.txTurn + i) % 8)).find? (fun n =>
    s.flag (F.ringCtrlEnable n) && s.handedOver n)

/-- TX_RING_SERVE (R107, R108): serve the descriptor at the HEAD of the ring in turn. The frame's bytes
come from host memory, so `f` brings what the parser reads of them. -/
def Chip.serveTx (s : Chip) (f : RxFrame) : Chip :=
  match s.nextTxRing.filter (fun _ => s.coresRun && !s.power.standby) with
  | none => s
  | some n =>
    let k := s.getN (F.ringHead n) % s.ringSize n
    let w3 := s.desc n k 3
    let len := bits (s.desc n k 2) 15 0
    let port := bits w3 29 24
    let sub := bits w3 23 21
    let s1 := { s with txTurn := (n - 8 + 1) % 8 }
    let clear := word (w3.toNat % 2 ^ 30)
    if 48 ≤ port ∨ s.subports (s.lowerOf port) ≤ sub ∨ len < 60 ∨ s.maxframe port < len + 4 then
      (s1.setDesc n k 3 (word (clear.toNat + 2 ^ 30))).ringAdvance n
    else
      let g : RxFrame := { f with port := Fin.ofNat 48 port, sub := Fin.ofNat 8 sub, len := len + 4, preempt := false, tag := none }
      let s2 := s1.setDesc n k 3 clear
      let s3 := if bit w3 20 then
          let r := s2.lookup g true
          r.1.addFrame g true false false false r.2
        else
          s2.addFrame g true true false false
            (.send (s.lowerOf port) sub (min 11 (bits w3 19 16)) (len + 4) ⟨f.stack, f.etype, f.da, f.sa, none, f.tags⟩ none false)
      s3.ringAdvance n

def execTxRingServe (f : RxFrame) (s : State) : Host.Outcome State Fault Refusal := done s (s.chip.serveTx f)

/-- TABLE_SCRUB (R117): the scrubber reads every entry and meets the upsets that stand. -/
def execTableScrub (hits : List ScrubHit) (s : State) : Host.Outcome State Fault Refusal :=
  done s (hits.foldl Chip.meetUpset s.chip)

end Sys2Proof.Machine
end

