-- ==== Sys2Proof/Machine/Fabric.lean ====
section
/-! DEFINITION. Admission of frames, cells and input stores, the two scheduler replicas with their continuity checker, output slices, limits and the leaked-buffer audit (R62 to R66, R119 to R145). -/

namespace Sys2Proof.Machine

/-! ### Admission (R62 to R66) -/

/-- The level of a flow's bucket is its burst less the distance kept; both in 1/8000 byte. -/
def Chip.bucketHolds (s : Chip) (i bytes : Nat) : Bool :=
  decide (Store.read 0 s.tokens i + bytes * 8000 ≤ flowBurst (s.flowEntry i) * 8000)

/-- Take bytes from a flow's bucket. -/
def Chip.bucketTake (s : Chip) (i bytes : Nat) : Chip :=
  { s with tokens := Store.write 0 s.tokens i (Store.read 0 s.tokens i + bytes * 8000) }

/-- Return bytes to a flow's bucket, capped at its burst. -/
def Chip.bucketReturn (s : Chip) (i bytes : Nat) : Chip :=
  { s with tokens := Store.write 0 s.tokens i (Store.read 0 s.tokens i - bytes * 8000) }

/-- The flow that a frame's lookup matched is still admitted, under the same key and GEN, and binds its output (R56, R61,
R65). An entry marked failed in between (R117) matches no frame (log 37). The frame itself completes under the entry that
it read (R112). -/
def Chip.flowStands (s : Chip) (f : Frame) (i : Nat) : Bool :=
  let e := s.flowEntry i
  flowValid e && !s.failed 2 i && (flowKey e == flowKey f.entry) && (flowGen e == flowGen f.entry)
    && (flowPort f.entry == f.outPort) && (flowSub f.entry == f.outSub)

/-- What is kept of a frame that nothing has accepted. -/
def tailDefault : Tail := ⟨0, 0, 0, false, false⟩

/-- The length of an accepted frame is more than its flow's maxf (R64). -/
def Tail.over (r : Tail) : Bool := decide (flowMaxf r.entry < r.len)

/-- Accept a conforming frame (R62): take maxf + 20, and cut it at maxf (R64), before the cut at the output's MAXFRAME. -/
def Chip.accept (s : Chip) (f : Frame) (i : Nat) : Chip :=
  let e := f.entry
  let excess := f.inLen - flowMaxf e
  let t := (s.bucketTake i (flowMaxf e + 20)).putFrame
    { f with express := true, taken := true, cls := flowClass e, len := min (s.maxframe f.outPort) (f.full - excess),
             bad := f.bad || decide (0 < excess) }
  ({ t with tails := Store.write tailDefault t.tails f.id ⟨i, e, f.inLen, true, false⟩ }).bump
    (F.admSubAccepted f.outPort f.outSub)

/-- Carry a frame without a promise in the class for unadmitted frames (R65). -/
def Chip.unadmit (s : Chip) (f : Frame) : Chip :=
  (s.putFrame { f with taken := true, unadmitted := true, cls := min 11 (s.getN (F.admCtrlUnadmittedClass f.outPort)) }).bump
    (F.admSubUnadmitted f.outPort f.outSub)

/-- FRAME_ADMISSION (R62, R63, R65): the frame passes the admission stage. -/
def Chip.admission (s : Chip) (id : Nat) : Chip :=
  match s.frame id with
  | none => s
  | some f =>
    if f.taken || !s.coresRun then s
    else if f.cls < 12 then s.putFrame { f with taken := true }
    else
      match f.flow with
      | none => s.unadmit f
      | some i =>
        let e := f.entry
        if f.unadmitted || !s.flowStands f i then s.unadmit f
        else if s.bucketHolds i (flowMaxf e + 20) then s.accept f i
        else if flowDrop e then (s.dropFrame f).bump (F.admSubDropped f.outPort f.outSub)
        else (s.putFrame { f with taken := true, cls := flowDemote e }).bump (F.admSubDemoted f.outPort f.outSub)

def execFrameAdmission (id : Nat) (s : State) : Host.Outcome State Fault Refusal := done s (s.chip.admission id)

/-- A frame that is whole but failed at the ingress (R66): it ends at the output with an inverted FCS, its start
is judged as any other (R72), and an accepted frame counts in ABORTED. -/
def Chip.spoil (s : Chip) (f : Frame) : Chip :=
  let t := s.putFrame { f with bad := true }
  if f.express then t.bump (F.admSubAborted f.outPort f.outSub) else t

/-- An accepted frame has proved longer than its flow's maxf (R64): it counts in OVERSIZE, once. -/
def Chip.oversize (s : Chip) (id : Nat) (r : Tail) : Chip :=
  if r.over && !r.counted then
    ({ s with tails := Store.write tailDefault s.tails id { r with counted := true } }).bump
      (F.admSubOversize (flowPort r.entry) (flowSub r.entry))
  else s

/-- An accepted frame's tail at its bucket (R62): one within maxf gives maxf − L back to its flow's bucket, where that
flow still stands; a longer one counts in OVERSIZE (R64). -/
def Chip.tailRecord (s : Chip) (id : Nat) : Chip :=
  match Store.find id s.tails with
  | none => s
  | some r =>
    let t := s.oversize id r
    let u := { t with tails := Store.erase id t.tails }
    if r.live && !r.over then u.bucketReturn r.flow (flowMaxf r.entry - r.len) else u

/-- FRAME_TAIL_ADMISSION (R62, R64, R66): the tail passes the admission stage. -/
def Chip.tailAdmission (s : Chip) (id : Nat) (how : TailEnd) : Chip :=
  if !s.coresRun then s
  else
    let t := s.tailRecord id
    match t.frame id with
    | none => t
    | some f =>
      if !f.taken || f.tailSeen then t
      else
        let g := { f with tailSeen := true }
        let u := t.putFrame g
        match how with
        | .good => u
        | .badFcs => if f.bad then u else u.spoil g
        | .badFec => (u.bump (F.port2FecUncorrectable f.inPort f.inSub)).spoil g

def execFrameTailAdmission (id : Nat) (how : TailEnd) (s : State) : Host.Outcome State Fault Refusal :=
  done s (s.chip.tailAdmission id how)

/-! ### Input stores (R119, R123) -/

/-- A cell enters its input store. The last cell of a frame that is cut at its flow's maxf shows it longer (R64). -/
def Chip.formCell (s : Chip) (f : Frame) : Chip :=
  let t := s.putFrame { f with stored := true, formed := f.formed + 1 }
  let t := match (Store.find f.id t.tails).filter (fun _ => f.formed + 1 == f.cells) with
    | some r => t.oversize f.id r
    | none => t
  { t with fab := { t.fab with inFree := Store.write 2048 t.fab.inFree f.inPort (Store.read 2048 t.fab.inFree f.inPort - 1) } }

/-- CELL_FORM (R119, R123): the next cell of a frame forms; its last one once its tail is there. -/
def Chip.cellForm (s : Chip) (id : Nat) : Chip :=
  match s.frame id with
  | none => s
  | some f =>
    if !s.coresRun || !f.taken || f.ended || f.direct || decide (f.cells ≤ f.formed)
        || (decide (f.formed + 1 = f.cells) && !f.tailSeen && !f.bad) then s
    else if f.express then
      if 256 ≤ s.inputUsed f.inPort true then
        (s.endBroken f (s.breakCause f)).bump (F.port4ExpFull f.inPort)
      else s.formCell f
    else if !f.stored && decide (1792 < s.inputUsed f.inPort false + 24) then
      (s.dropFrame f).bump (F.port4InDrop f.inPort)
    else s.formCell f

def execCellForm (id : Nat) (s : State) : Host.Outcome State Fault Refusal := done s (s.chip.cellForm id)

/-! ### Output slices (R131 to R135) -/

/-- The acting limit of a class (R132). -/
def Chip.actLimit (s : Chip) (o c : Nat) : Nat :=
  let l := s.getN (F.buf0Limit o c)
  if 12 ≤ c then max 256 l else l

/-- Cells of the pool that the limits of a port govern (R132, R135). -/
def Chip.poolSize (s : Chip) (o : Nat) : Nat := if s.fusedLower o then 24576 else 12288

/-- A host write of LIMIT (R132, R135): ignored on an upper member, and where it raises the sum of
the acting limits above the pool. -/
def Chip.limitWrite (s : Chip) (o c v : Nat) : Chip :=
  if s.fusedUpper o then s
  else
    let sum := fun (x : Chip) => ((List.range 16).map (x.actLimit o)).sum
    let t := s.setN (F.buf0Limit o c) v
    if sum s < sum t ∧ s.poolSize o < sum t then
      (s.setB F.buf3StatusLimitRefused true).setN F.buf3StatusLimitPort o
    else t

/-- Set every limit of a port. -/
def Chip.setLimits (s : Chip) (o v : Nat) : Chip :=
  (List.range 16).foldl (fun t c => t.setN (F.buf0Limit o c) v) s

/-- Cells a frame reserves on its slice (R133). -/
def Chip.rsvFor (s : Chip) (o : Nat) : Nat := ceilDiv (s.maxframe o - 4) 384

/-- The slice's answer to a first-cell request (R87, R96, R126, R133). -/
inductive Answer where
  | pass | refuse | down | inReset
  deriving DecidableEq, Repr

/-- An output that discards what is resolved to it (R87, R96): dark, or down after its hold. -/
def Chip.outDown (s : Chip) (p sub : Nat) : Bool :=
  s.memberDark p || (!s.linkUp p sub && (s.link p sub).expired)

/-- The answer to a frame's first-cell request. -/
def Chip.answer (s : Chip) (f : Frame) : Answer :=
  if (s.members f.outPort).any s.portInReset then .inReset
  else if s.outDown f.outPort f.outSub then .down
  else if f.express then .pass
  else if s.sliceCells f.outPort f.cls + s.sliceRsv f.outPort f.cls + s.rsvFor f.outPort ≤ s.actLimit f.outPort f.cls
  then .pass else .refuse

/-- Act on a refused first-cell request: the frame is discarded whole, and counts. -/
def Chip.turnAway (s : Chip) (f : Frame) : Answer → Chip
  | .pass => s
  | .refuse => (s.dropFrame f).bump (F.buf2Drop f.outPort f.cls)
  | .inReset => ((s.dropFrame f).bump (F.buf2Drop f.outPort f.cls)).breakPromise f F.admSubBreakReset
  | .down => ((s.dropFrame f).bump (F.port2DownDiscard f.outPort f.outSub)).breakPromise f F.admSubBreakLink

/-- A cell lands in slice `phys` (R131, R133, R134). The input-store cell that it leaves is free as it is linked (log 35). -/
def Chip.land (s : Chip) (c : Nat × Nat) : Chip :=
  match s.frame c.1 with
  | none => s
  | some f =>
    if f.express && decide (s.actLimit f.outPort f.cls ≤ s.sliceCells f.outPort f.cls + s.sliceRsv f.outPort f.cls) then
      s.endBroken f (s.breakCause f)
    else
      let first := decide (f.crossed = 0)
      let g := { f with
        crossed := f.crossed + 1
        upperCells := f.upperCells + ofBool (c.2 != f.outPort)
        link := if first then s.nextLink else f.link
        linkedAt := if first then s.time.raw else f.linkedAt
        rsv := if f.crossed + 1 = f.cells then 0 else f.rsv - 1 }
      let t := (s.putFrame g).setN (F.buf3Free c.2) (s.getN (F.buf3Free c.2) - 1)
      let free := Store.write 2048 t.fab.inFree f.inPort (Store.read 2048 t.fab.inFree f.inPort + 1)
      { t with
        nextLink := if first then t.nextLink + 1 else t.nextLink
        fab := { t.fab with inFree := if f.direct then t.fab.inFree else free } }

/-! ### The central scheduler (R125) -/

/-- Cells of a frame that cross now. -/
def Chip.inFlight (s : Chip) (id : Nat) : Nat := (s.fab.crossing.filter (fun c => c.1 == id)).length

/-- A frame is the head of its virtual output queue (R123, R139). -/
def Chip.isHead (s : Chip) (f : Frame) : Bool :=
  !s.frames.any (fun g => decide (g.id < f.id) && g.stored && !g.direct && !g.ended
    && decide (g.crossed + s.inFlight g.id < g.cells)
    && g.inPort == f.inPort && g.inSub == f.inSub && g.outPort == f.outPort && g.express == f.express)

/-- A first-cell request. -/
def Chip.isFirst (s : Chip) (f : Frame) : Bool := decide (f.crossed + s.inFlight f.id = 0)

/-- The first-cell request of a fused input's frame is held back (R127, R139): a frame before it in its space has not yet
posted its own, or goes to the same queue and has not been granted it. -/
def Chip.outOfTurn (s : Chip) (f : Frame) : Bool :=
  match f.tag with
  | none => false
  | some t =>
    s.fusedLower (s.lowerOf f.inPort) && s.isFirst f && s.frames.any (fun g =>
      match g.tag with
      | none => false
      | some u =>
        u.express == t.express && decide (g.order < f.order) && !g.waiting && !g.ended && s.isFirst g
          && s.lowerOf g.inPort == s.lowerOf f.inPort
          && (!g.stored || (g.outPort == f.outPort && g.outSub == f.outSub && g.cls == f.cls)))

/-- Frames that post a request in this slot: heads with a formed cell that has not been granted. -/
def Chip.posting (s : Chip) : List Frame :=
  s.frames.filter (fun f => f.stored && !f.direct && !f.ended && !f.waiting
    && decide (f.crossed + s.inFlight f.id < f.formed) && s.isHead f && !s.outOfTurn f)

/-- The level of a frame's request. -/
def Frame.level (f : Frame) : Nat := if f.started then 0 else if f.express then 1 else 2

/-- A request: input, output, level. -/
abbrev Req := Nat × Nat × Nat

/-- The first member of a list at or after a pointer among the 48. -/
def firstFrom (ptr : Nat) : List Nat → Option Nat
  | [] => none
  | x :: l =>
    match firstFrom ptr l with
    | none => some x
    | some y => if (x + 48 - ptr) % 48 ≤ (y + 48 - ptr) % 48 then some x else some y

/-- The grant of one output: level and input. -/
def grantOf (g : Store Nat) (rs : List Req) (o : Nat) : Option (Nat × Nat) :=
  ([0, 1, 2].find? (fun l => rs.any (fun r => r.2.1 == o && r.2.2 == l))).bind (fun l =>
    (firstFrom (Store.read 0 g (o * 3 + l)) ((rs.filter (fun r => r.2.1 == o && r.2.2 == l)).map (fun r => r.1))).map
      (fun i => (l, i)))

/-- The accept of one input among the grants (input, output, level) it holds. -/
def acceptOf (a : Store Nat) (gs : List Req) (i : Nat) : Option Req :=
  ([0, 1, 2].find? (fun l => gs.any (fun r => r.1 == i && r.2.2 == l))).bind (fun l =>
    (firstFrom (Store.read 0 a (i * 3 + l)) ((gs.filter (fun r => r.1 == i && r.2.2 == l)).map (fun r => r.2.1))).map
      (fun o => (i, o, l)))

/-- One iteration: the accepted grants of the requests. -/
def iterate (g a : Store Nat) (rs : List Req) : List Req :=
  let outs := (rs.map (fun r => r.2.1)).eraseDups
  let gs := outs.filterMap (fun o => (grantOf g rs o).map (fun x => (x.2, o, x.1)))
  (gs.map (fun r => r.1)).eraseDups.filterMap (acceptOf a gs)

/-- The matching of a slot: both iterations, and the pointers moved in the first. -/
def matching (g a : Store Nat) (rs : List Req) : List Req × Store Nat × Store Nat :=
  let m := iterate g a rs
  let g' := m.foldl (fun x r => Store.write 0 x (r.2.1 * 3 + r.2.2) ((r.1 + 1) % 48)) g
  let a' := m.foldl (fun x r => Store.write 0 x (r.1 * 3 + r.2.2) ((r.2.1 + 1) % 48)) a
  let left := rs.filter (fun r => !m.any (fun q => q.1 == r.1 || q.2.1 == r.2.1))
  (m ++ iterate g' a' left, g', a')

/-- The requests of the frames that post. -/
def Chip.requests (s : Chip) (fs : List Frame) : List Req :=
  fs.flatMap (fun f => (s.members f.outPort).map (fun o => (f.inPort, o, f.level)))

/-- Send one cell of an accepted grant: the queue of the input's subport next in rotation. -/
def Chip.sendCell (s : Chip) (fs : List Frame) (r : Req) : Chip :=
  let here := fs.filter (fun f => f.inPort == r.1 && f.level == r.2.2 && (s.members f.outPort).contains r.2.1)
  let key := (r.1 * 48 + r.2.1) * 3 + r.2.2
  let at_ := Store.read 0 s.fab.rot key
  match firstFrom at_ (here.map (fun f => f.inSub)) with
  | none => s
  | some sub =>
    match here.find? (fun f => f.inSub == sub) with
    | none => s
    | some f =>
      let t := if s.isFirst f && !f.express then s.putFrame { f with rsv := s.rsvFor f.outPort } else s
      { t with fab := { t.fab with
        crossing := t.fab.crossing ++ [(f.id, r.2.1, 0)]
        rot := Store.write 0 t.fab.rot key ((sub + 1) % 8) } }

/-- The slots of Table 6-2 from a cell's grant (the end of slot 3) to the crossbar (slot 7), and to its link (slot 9). -/
def crossbarAge : Nat := 4
def linkAge : Nat := 6

/-- Frames queued by the host with INJECT = 0 enter slices whose fabric port takes no cell (R137). -/
def Chip.feedDirect (s : Chip) (busy : List Nat) : Chip :=
  (List.range 48).foldl (fun t o =>
    if busy.contains o then t
    else
      match t.frames.find? (fun f => f.direct && f.taken && !f.ended && f.outPort == o && decide (f.crossed < f.cells)) with
      | none => t
      | some f =>
        if f.crossed = 0 then
          (match t.answer f with
           | .pass => (t.putFrame { f with rsv := t.rsvFor o, formed := f.cells }).land (f.id, o)
           | a => t.turnAway f a)
        else t.land (f.id, o)) s

/-- The grants of a slot whose vectors passed: answers of the slices, matching and cells sent. -/
def Chip.grantSlot (s : Chip) : Chip :=
  let fs := s.posting
  let asked := fs.map (fun f => (f, if s.isFirst f then s.answer f else Answer.pass))
  let s1 := asked.foldl (fun t x => t.turnAway x.1 x.2) s
  let ok := (asked.filter (fun x => x.2 == Answer.pass)).map (fun x => x.1)
  let rs := s1.requests ok
  let useB := s1.flag F.fabCcStatusAFenced
  let m := if useB then matching s1.fab.gptrB s1.fab.aptrB rs else matching s1.fab.gptrA s1.fab.aptrA rs
  let mB := matching s1.fab.gptrB s1.fab.aptrB rs
  let bRuns := !s1.flag F.fabCcStatusBFenced
  let s2 := { s1 with fab := { s1.fab with
    gptrA := if useB then s1.fab.gptrA else m.2.1
    aptrA := if useB then s1.fab.aptrA else m.2.2
    gptrB := if bRuns then mB.2.1 else s1.fab.gptrB
    aptrB := if bRuns then mB.2.2 else s1.fab.aptrB } }
  m.1.foldl (fun t r => t.sendCell ok r) s2

/-! ### The leaked-buffer audit (R141, R142) -/

/-- Cells that a store holds: slices 0 to 47, input stores 48 to 95. -/
def Chip.storeHeld (s : Chip) (k : Nat) : Nat :=
  if k < 48 then
    ((s.frames.filter (fun f => f.outPort == k)).map (fun f => f.crossed - f.upperCells)).sum
      + ((s.frames.filter (fun f => f.outPort + 6 == k)).map (fun f => f.upperCells)).sum
  else ((s.frames.filter (fun f => f.inPort + 48 == k && !f.direct)).map (fun f => f.formed - f.crossed)).sum

/-- Cells on the free list of a store. -/
def Chip.storeFree (s : Chip) (k : Nat) : Nat :=
  if k < 48 then s.getN (F.buf3Free k) else Store.read 2048 s.fab.inFree (k - 48)
def Chip.setStoreFree (s : Chip) (k n : Nat) : Chip :=
  if k < 48 then s.setN (F.buf3Free k) n
  else { s with fab := { s.fab with inFree := Store.write 2048 s.fab.inFree (k - 48) n } }

/-- Total cells of a store. -/
def storeTotal (k : Nat) : Nat := if k < 48 then 12288 else 2048

/-- A sweep starts on a store. -/
def Chip.startSweep (s : Chip) (k : Nat) : Chip :=
  let t := { s with fab := { s.fab with sweeps := if s.fab.sweeps.contains k then s.fab.sweeps else s.fab.sweeps ++ [k] } }
  if k < 48 then t.setB F.buf3StatusSweeping true else t

/-- Audit one store that no sweep runs on. -/
def Chip.auditStore (s : Chip) (k : Nat) : Chip :=
  let sum := s.storeFree k + s.storeHeld k
  if s.fab.sweeps.contains k || sum == storeTotal k then s
  else if sum < storeTotal k then
    (if k < 48 then s.bump F.buf3AuditDeficit else s).startSweep k
  else
    (((s.bump (if k < 48 then F.buf3Duplicates else F.port4Duplicates (k - 48))).setB
      F.buf3StatusAuditSurplus true).fault fSched).startSweep k

/-- n cells of a store are lost to its free list, and to no queue. -/
def Chip.leak (s : Chip) (k n : Nat) : Chip :=
  let t := s.setStoreFree k (s.storeFree k - n)
  { t with fab := { t.fab with leaked := Store.write 0 t.fab.leaked k (Store.read 0 t.fab.leaked k + n) } }

/-- n cells of a store are held twice: free, and in a queue. -/
def Chip.double (s : Chip) (k n : Nat) : Chip :=
  let t := s.setStoreFree k (s.storeFree k + n)
  { t with fab := { t.fab with doubled := Store.write 0 t.fab.doubled k (Store.read 0 t.fab.doubled k + n) } }

/-- Drift of a free list by upsets of its entries, which the audit meets. -/
def Chip.driftStore (s : Chip) (d : Fin 96 × Int) : Chip :=
  if d.2 < 0 then s.leak d.1 d.2.natAbs else s.double d.1 d.2.toNat

/-- BUFFER_AUDIT (R141): every slice and input store in one slot; stores under a sweep are skipped. -/
def Chip.audit (s : Chip) (drift : List (Fin 96 × Int)) : Chip :=
  let t := drift.foldl Chip.driftStore s
  let u := (List.range 96).foldl Chip.auditStore t
  if (List.range 96).all (fun k => t.fab.sweeps.contains k) then u else u.bump F.buf3Audits

/-! ### The continuity checker (R128 to R130) -/

/-- Clappers within which the third fence holds a replica (R129). -/
def fenceWindow : Nat := 16000

/-- The fence history with a fence of now, older ones dropped. -/
def fenceNow (h : List Nat) (now : Nat) : List Nat := h.filter (fun c => decide (now < c + fenceWindow)) ++ [now]

/-- Record a mismatch in this slot. -/
def Chip.mismatch (s : Chip) : Chip :=
  ((s.bump F.fabCcMismatch).set F.fabCcLastLo (word (s.time.raw.toNat % 2 ^ 32))).set F.fabCcLastHi
    (word (s.time.raw.toNat / 2 ^ 32))

/-- Fence one replica (Table 6-3); the third fence within 16,000 clappers holds it. -/
def Chip.fence (s : Chip) (isB : Bool) : Chip :=
  let h := fenceNow (if isB then s.fab.fencesB else s.fab.fencesA) s.fab.clapperCount
  let t := ((s.setB (if isB then F.fabCcStatusBFenced else F.fabCcStatusAFenced) true).setB
    F.fabCcStatusSimplex true).setB F.fabCcStatusFenceEvent true
  let u := t.bump (if isB then F.fabCcFenceB else F.fabCcFenceA)
  let v := if 3 ≤ h.length then u.setB F.fabCcStatusHeld true else u
  { v with fab := { v.fab with
    fencesA := if isB then v.fab.fencesA else h
    fencesB := if isB then h else v.fab.fencesB } }

/-- The dual reset (R130, Table 6-4) of slot n: pointers to 0, no grants from it and from the two slots after it, the cells
in the crossbar in slot n + 1 lost and their frames ended, and every store audited once. -/
def Chip.dualReset (s : Chip) : Chip :=
  let lost := s.fab.crossing.filter (fun c => c.2.2 + 1 == crossbarAge)
  let ids := (lost.map (fun c => c.1)).eraseDups
  let s1 := { s with fab := { s.fab with
    crossing := s.fab.crossing.filter (fun c => c.2.2 + 1 != crossbarAge)
    pause := 2
    gptrA := if s.flag F.fabCcStatusAFenced then s.fab.gptrA else []
    aptrA := if s.flag F.fabCcStatusAFenced then s.fab.aptrA else []
    gptrB := if s.flag F.fabCcStatusBFenced then s.fab.gptrB else []
    aptrB := if s.flag F.fabCcStatusBFenced then s.fab.aptrB else [] } }
  let s2 := ids.foldl (fun t id =>
    match t.frame id with
    | some f => t.endBroken f (t.causeOver f F.admSubBreakFabric)
    | none => t) s1
  let s3 := (s2.setB F.fabCcStatusDual true).bump F.fabCcDual
  (((s3.count F.fabCcLostCells lost.length).count F.fabCcCutFrames ids.length).fault fSched).audit []

/-- The frames behind a frame in its virtual output queue (R123). -/
def Chip.behindInput (s : Chip) (f : Frame) : List Frame :=
  s.frames.filter (fun g => decide (f.id < g.id) && g.stored && !g.direct && !g.ended && g.inPort == f.inPort
    && g.inSub == f.inSub && g.outPort == f.outPort && g.express == f.express)

/-- A frame behind a cut queue link is discarded, and its cells in the input store are left to a sweep (R143). -/
def Chip.orphanInput (s : Chip) (f : Frame) : Chip :=
  (s.endBroken f (s.causeOver f F.admSubBreakEcc)).leak (f.inPort + 48) (f.formed - f.crossed)

/-- An error met in an input store as a cell of a frame is read (R143). Where the rule counts in LINK_ECC, the one counter
of that name is BUF.LINK_ECC (log 83). -/
def Chip.inputEcc (s : Chip) (x : StoreHit) : Chip :=
  match s.frame x.frame with
  | none => s
  | some f =>
    match x.ecc, x.place with
    | .clean, _ => s
    | .single, _ => s.bump (F.port4EccCorrected f.inPort)
    | .double, .cell =>
      ((s.endBroken f (s.causeOver f F.admSubBreakEcc)).bump (F.port4EccUncorr f.inPort)).fault fEcc
    | .double, .link =>
      ((((s.behindInput f).foldl Chip.orphanInput s).bump F.buf3LinkEcc).fault fEcc).startSweep (f.inPort + 48)
    | .double, .freeEntry => (s.leak (f.inPort + 48) 1).bump F.buf3LinkEcc

/-- How a slot is settled by the checker (Table 6-3). -/
inductive Settled where
  | pass | fenceA | fenceB | dual
  deriving DecidableEq, Repr

/-- The outcome of the self-checks of this slot (R128, R129). -/
def Chip.settle (s : Chip) (fault : SlotFault) : Settled :=
  let aFenced := s.flag F.fabCcStatusAFenced
  let bFenced := s.flag F.fabCcStatusBFenced
  let aBad := (s.fab.injectA || fault == .replicaA || fault == .both) && !aFenced
  let bBad := (s.fab.injectB || fault == .replicaB || fault == .both) && !bFenced
  if aFenced then (if bBad then .dual else .pass)
  else if bFenced then (if aBad then .dual else .pass)
  else if aBad && bBad || fault == .silent then .dual
  else if aBad then .fenceA
  else if bBad then .fenceB
  else .pass

/-- Every granted cell moves on by one slot of Table 6-2; those at its end are written and linked. -/
def Chip.moveCells (s : Chip) : Chip :=
  let aged := s.fab.crossing.map (fun c => (c.1, c.2.1, c.2.2 + 1))
  let t := { s with fab := { s.fab with crossing := aged.filter (fun c => decide (c.2.2 < linkAge)) } }
  (aged.filter (fun c => decide (linkAge ≤ c.2.2))).foldl (fun u c => u.land (c.1, c.2.1)) t

/-- The replicas' part of a slot: the checker settles their vectors, and the grants go out. -/
def Chip.replicaSlot (s : Chip) (fault : SlotFault) : Chip :=
  let how := s.settle fault
  let t := { s with fab := { s.fab with injectA := false, injectB := false } }
  match how with
  | .dual => t.mismatch.dualReset
  | .fenceA => (t.mismatch.fence false).grantSlot
  | .fenceB => (t.mismatch.fence true).grantSlot
  | .pass => t.grantSlot

/-- SCHEDULER_SLOT (R121, R124 to R131): the cells granted before move on, both replicas match the
requests of this slot, and the checker settles their vectors. In the two slots after a dual reset no matching ends
(Table 6-4). -/
def Chip.schedSlot (s : Chip) (fault : SlotFault) (ecc : List StoreHit) : Chip :=
  if !s.coresRun || s.power.standby then s
  else
    let s1 := ecc.foldl Chip.inputEcc s.moveCells
    let s2 := if 0 < s1.fab.pause then { s1 with fab := { s1.fab with pause := s1.fab.pause - 1 } } else s1.replicaSlot fault
    s2.feedDirect ((s2.fab.crossing.filter (fun c => c.2.2 == crossbarAge)).map (fun c => c.2.1))

def execSchedulerSlot (fault : SlotFault) (ecc : List StoreHit) (s : State) : Host.Outcome State Fault Refusal :=
  done s (s.chip.schedSlot fault ecc)

/-- REPLICA_RELOAD (R129): a fenced replica not held takes the running one's state at the marker. -/
def Chip.reloadReplica (s : Chip) : Chip :=
  if s.flag F.fabCcStatusHeld then s
  else if s.flag F.fabCcStatusAFenced then
    let t := (s.setB F.fabCcStatusAFenced false).setB F.fabCcStatusSimplex false
    { t with fab := { t.fab with gptrA := t.fab.gptrB, aptrA := t.fab.aptrB } }
  else if s.flag F.fabCcStatusBFenced then
    let t := (s.setB F.fabCcStatusBFenced false).setB F.fabCcStatusSimplex false
    { t with fab := { t.fab with gptrB := t.fab.gptrA, aptrB := t.fab.aptrA } }
  else s

/-! ### The audit's rows and fault injection (R141, R142, R145) -/

def execBufferAudit (drift : List (Fin 96 × Int)) (s : State) : Host.Outcome State Fault Refusal :=
  done s (s.chip.audit drift)

/-- BUFFER_SWEEP_DONE (R142): unreferenced cells return to the free list, doubled ones leave it. -/
def Chip.sweepDone (s : Chip) (k : Nat) : Chip :=
  if !s.fab.sweeps.contains k then s
  else
    let t := (s.setStoreFree k (storeTotal k - s.storeHeld k)).count
      (if k < 48 then F.buf3Reclaimed else F.port4Reclaimed (k - 48)) (Store.read 0 s.fab.leaked k)
    let u := { t with fab := { t.fab with
      sweeps := t.fab.sweeps.filter (fun x => x != k), leaked := Store.erase k t.fab.leaked, doubled := Store.erase k t.fab.doubled } }
    u.setB F.buf3StatusSweeping (u.fab.sweeps.any (fun x => decide (x < 48)))

def execBufferSweepDone (store : Fin 96) (s : State) : Host.Outcome State Fault Refusal :=
  done s (s.chip.sweepDone store)

/-- INJECT_A, INJECT_B and INJECT_BOTH act at the next slot (R145). -/
def Chip.inject (s : Chip) (a b : Bool) : Chip :=
  { s with fab := { s.fab with injectA := s.fab.injectA || a, injectB := s.fab.injectB || b } }

end Sys2Proof.Machine
end

