-- ==== Sys2Proof/Machine/Tx.lean ====
section
/-! DEFINITION. Transmission: starts on the wire, the promise judgement, scheduling trees, take gates and cut-overs (R71 to R73, R137, R138, R148 to R163). -/

namespace Sys2Proof.Machine

/-! ### Frames that may start (R137) -/

/-- Units of raw time at which an express frame at its queue's head is too old (R73). -/
def lateHead : Int := 14370734

/-- Units of raw time of the promise (R52). -/
def promiseUnits : Int := 16384000

/-- A frame may start on the wire (R137): its last cell is in the slice, or its ingress is no slower than its egress. An
express frame from a slower ingress is held for the time of R55, whatever its length, by the flow entry that it read
(log 84). -/
def Chip.mayStart (s : Chip) (f : Frame) : Bool :=
  let slower := decide (s.inRate f < s.wireMb f.outPort)
  if f.express && slower then
    decide ((s.hold16 (flowMaxf f.entry) f.inPort f.outPort * 65536 : Nat) ≤ rawDiff f.linkedAt s.time.raw * 16000)
  else decide (f.crossed = f.cells) || (!f.fromHost && !slower)

/-- The frames queued for a subport and class, in the slice (R131). -/
def Chip.queue (s : Chip) (p sub c : Nat) : List Frame :=
  s.frames.filter (fun f => f.outPort == p && f.outSub == sub && f.cls == c && f.link != 0 && !f.started && !f.ended)

/-- The first of some frames in queue order. -/
def firstLinked : List Frame → Option Frame
  | [] => none
  | f :: l =>
    match firstLinked l with
    | none => some f
    | some g => if f.link ≤ g.link then some f else some g

/-- The head of a queue. -/
def Chip.headOf (s : Chip) (p sub c : Nat) : Option Frame := firstLinked (s.queue p sub c)

/-- The head of a queue, where it may start. -/
def Chip.ready1 (s : Chip) (p sub c : Nat) : Option Frame := (s.headOf p sub c).filter s.mayStart

/-- LATE_DISCARD (R73): express heads more than 219.28 ns old are discarded, class by class. -/
def Chip.lateDiscard (s : Chip) (p sub c : Nat) : Nat → Chip
  | 0 => s
  | fuel + 1 =>
    match s.headOf p sub c with
    | none => s
    | some f =>
      if s.flag (F.admCtrlLateAction p) && f.express && decide (lateHead < rawDiff f.rxStamp s.time.raw) then
        ((s.dropFrame f).breakPromise f (s.breakCause f)).lateDiscard p sub c fuel
      else s

/-! ### Trees (R149 to R152) -/

/-- Nodes of a tree that may be valid, ascending. -/
def Tree.candidates (t : Tree) : List Nat :=
  List.range (13 * t.base) ++ (t.nodes.map (fun e => e.1)).filter (fun k => decide (13 * t.base ≤ k))

/-- The valid children of a node. -/
def Tree.children (t : Tree) (k : Nat) : List Nat :=
  t.candidates.filter (fun j => decide (t.base ≤ j) && nodeValid (t.node j) && nodeParent (t.node j) == k)

/-- Committed and peak tests of a node of the tree in force (R150). -/
def Sched.committedTest (t : Sched) (a : Tree) (k : Nat) : Bool :=
  let e := a.node k
  nodeCir e == unlimited || (nodeCir e != 0 && decide (Store.read 0 t.cUsed k < (nodeCbs e * 8000 : Nat)))
def Sched.peakTest (t : Sched) (a : Tree) (k : Nat) : Bool :=
  let e := a.node k
  nodePir e == 0 || decide (Store.read 0 t.pUsed k < (nodePbs e * 8000 : Nat))

/-- The states of R150. -/
inductive NodeState where
  | ineligible | excess | committed
  deriving DecidableEq, Repr

/-- State of a node (R150, R152, R163): `ready` says which classes have a head that may start. -/
def Sched.nodeState (t : Sched) (a : Tree) (mask : BitVec 16) (ready : Nat → Bool) : Nat → Nat → NodeState
  | 0, _ => .ineligible
  | fuel + 1, k =>
    let e := a.node k
    if t.badNodes.contains k || !t.peakTest a k then .ineligible
    else if nodeKind e = 0 then
      if !ready (nodeClass e) || !bit mask (nodeClass e) then .ineligible
      else if t.committedTest a k then .committed else .excess
    else
      let below := (a.children k).map (t.nodeState a mask ready fuel)
      if below.all (fun x => x == .ineligible) then .ineligible
      else if t.committedTest a k && (nodeSealed e || below.any (fun x => x == .committed)) then .committed
      else .excess

/-- A node holds a frame below it: `queued` says which classes have a frame in their queue (R151). -/
def Tree.holds (a : Tree) (queued : Nat → Bool) : Nat → Nat → Bool
  | 0, _ => false
  | fuel + 1, k =>
    let e := a.node k
    if nodeKind e = 0 then queued (nodeClass e) else (a.children k).any (a.holds queued fuel)

/-- The strict choice: lowest PRIO, then lowest number. -/
def Tree.strictPick (t : Tree) : List Nat → Option Nat
  | [] => none
  | k :: l =>
    match t.strictPick l with
    | none => some k
    | some j => if nodePrio (t.node k) ≤ nodePrio (t.node j) then some k else some j

/-- The loop of R151 over the children in turn, from the one that holds the turn. -/
def Sched.dwrr (t : Sched) (a : Tree) (cands : List Nat) (holds : Nat → Bool) : Nat → List Nat → Sched × Option Nat
  | 0, _ => (t, none)
  | _, [] => (t, none)
  | fuel + 1, k :: l =>
    let d := Store.read 0 t.deficit k
    if cands.contains k then
      if 0 < d then (t, some k)
      else
        Sched.dwrr { t with deficit := Store.write 0 t.deficit k (d + (nodeWeight (a.node k) * 64 : Nat)) }
          a cands holds fuel (l ++ [k])
    else if !holds k then Sched.dwrr { t with deficit := Store.write 0 t.deficit k 0 } a cands holds fuel (l ++ [k])
    else t.dwrr a cands holds fuel (l ++ [k])

/-- Turns of the loop that bring every candidate's deficit above 0: a turn round all children adds at least 64. -/
def Sched.dwrrFuel (t : Sched) (cands ch : List Nat) : Nat :=
  ((cands.map (fun k => (- Store.read 0 t.deficit k).toNat)).foldl max 0 / 64 + 3) * ch.length

/-- Children from the one that holds the turn on, wrapping. -/
def turnOrder (turn : Nat) (l : List Nat) : List Nat :=
  l.filter (fun k => decide (turn ≤ k)) ++ l.filter (fun k => decide (k < turn))

/-- Descend from a node to the leaf that the tree chooses (R151). -/
def Sched.descend (t : Sched) (a : Tree) (mask : BitVec 16) (ready queued : Nat → Bool) : Nat → Nat → Sched × Option Nat
  | 0, _ => (t, none)
  | fuel + 1, k =>
    let e := a.node k
    if nodeKind e = 0 then (t, some k)
    else
      let ch := a.children k
      let st := fun j => t.nodeState a mask ready 9 j
      let com := ch.filter (fun j => st j == .committed)
      let cands := if com.isEmpty then ch.filter (fun j => st j == .excess) else com
      if cands.isEmpty then (t, none)
      else if nodeKind e = 1 then
        match a.strictPick cands with
        | none => (t, none)
        | some j => t.descend a mask ready queued fuel j
      else
        let r := t.dwrr a cands (fun j => a.holds queued 9 j) (t.dwrrFuel cands ch) (turnOrder (Store.read 0 t.turn k) ch)
        match r.2 with
        | none => (r.1, none)
        | some j => Sched.descend { r.1 with turn := Store.write 0 r.1.turn k j } a mask ready queued fuel j

/-- A bucket's distance below its new cap, carried over from its old one. -/
def carryUsed (oldCap newCap : Nat) (used : Int) : Int := max 0 ((newCap : Int) * 8000 - ((oldCap : Int) * 8000 - used))

/-- A subport takes the applied tree at its next choice (R153): buckets carry over by node number, capped at the new bursts
(one full at its old burst is not full at a larger new one), those of nodes that were not valid start full, and deficits and
turns start at 0. -/
def Sched.adopt (t : Sched) (sub : Nat) : Sched :=
  match Store.find sub t.prev with
  | none => t
  | some old =>
    let new := t.active
    let mine := fun k => new.rootOf 9 k == some sub
    let keep := fun (l : Store Int) (cap : BitVec 128 → Nat) =>
      (new.candidates.filter (fun k => nodeValid (new.node k) && mine k)).foldl (fun m k =>
        Store.write 0 m k (if nodeValid (old.node k) then carryUsed (cap (old.node k)) (cap (new.node k)) (Store.read 0 l k) else 0)) l
    { t with
      cUsed := keep t.cUsed nodeCbs, pUsed := keep t.pUsed nodePbs
      deficit := t.deficit.filter (fun e => !mine e.1), turn := t.turn.filter (fun e => !mine e.1)
      prev := Store.erase sub t.prev }

/-- The tree's choice for a subport: the scheduler state after it, and the class whose head starts. -/
def Chip.treeChoice (s : Chip) (q sub : Nat) : Sched × Option Nat :=
  let t := s.sched q
  let a := t.active
  let ready := fun c => (s.ready1 q sub c).isSome
  let queued := fun c => !(s.queue q sub c).isEmpty
  if t.nodeState a (s.gate q).mask ready 9 sub = .ineligible then (t, none)
  else
    let r := t.descend a (s.gate q).mask ready queued 9 sub
    (r.1, r.2.map (fun k => nodeClass (a.node k)))

/-- The chain from a node to its root. -/
def Tree.chain (t : Tree) : Nat → Nat → List Nat
  | 0, _ => []
  | fuel + 1, k => if k < t.base then [k] else k :: t.chain fuel (nodeParent (t.node k))

/-- The leaf of a class of a subport. -/
def Tree.leafOf (t : Tree) (sub c : Nat) : Option Nat :=
  t.candidates.find? (fun k => nodeValid (t.node k) && nodeKind (t.node k) == 0 && nodeClass (t.node k) == c
    && t.rootOf 9 k == some sub)

/-- The charge at a frame's tail: L + 20 from both buckets of each node on the chain, and from the
deficit of each child chosen under a DWRR node (R150, R151). -/
def Sched.charge (t : Sched) (sub c bytes : Nat) : Sched :=
  let a := t.treeOf sub
  match a.leafOf sub c with
  | none => t
  | some k =>
    (a.chain 9 k).foldl (fun x j =>
      let y := { x with
        cUsed := Store.write 0 x.cUsed j (Store.read 0 x.cUsed j + (bytes * 8000 : Nat))
        pUsed := Store.write 0 x.pUsed j (Store.read 0 x.pUsed j + (bytes * 8000 : Nat)) }
      if decide (a.base ≤ j) && nodeKind (a.node (nodeParent (a.node j))) == 2
      then { y with deficit := Store.write 0 y.deficit j (Store.read 0 y.deficit j - (bytes : Nat)) } else y) t

/-! ### ECC met at a start (R143, R163) -/

/-- An error met in an active node. -/
def Chip.nodeEcc (s : Chip) (q : Nat) (k : Nat) (e : Ecc) : Chip :=
  match e with
  | .clean => s
  | .single => s.bump (F.schdEccCorrected 0)
  | .double =>
    if (s.sched q).badNodes.contains k then s
    else ((s.setSched q { s.sched q with badNodes := (s.sched q).badNodes ++ [k] }).bump (F.schdEccUncorr 0)).fault fEcc

/-- Discard a queued frame and leave its cells to a sweep. -/
def Chip.orphan (s : Chip) (f : Frame) : Chip :=
  let t := (s.dropFrame f).breakPromise f (s.causeOver f F.admSubBreakEcc)
  let u := t.leak f.outPort (f.crossed - f.upperCells)
  if f.upperCells = 0 then u else u.leak (f.outPort + 6) f.upperCells

/-- An error met in the link behind a frame that starts: the queue is cut there. -/
def Chip.linkEcc (s : Chip) (f : Frame) (e : Ecc) : Chip :=
  match e with
  | .clean => s
  | .single => s.bump F.buf3EccCorrected
  | .double =>
    let behind := (s.queue f.outPort f.outSub f.cls).filter (fun g => decide (f.link < g.link))
    let t := ((behind.foldl Chip.orphan s).bump F.buf3LinkEcc).fault fEcc
    (s.members f.outPort).foldl Chip.startSweep t

/-- An error met in a free-list entry of a member's slice: the entry is dropped, and its cell waits for a sweep. -/
def Chip.freeEcc (s : Chip) (f : Frame) (upper : Bool) (e : Ecc) : Chip :=
  match e with
  | .clean => s
  | .single => s.bump F.buf3EccCorrected
  | .double => (s.leak (if upper && s.fusedLower f.outPort then f.outPort + 6 else f.outPort) 1).bump F.buf3LinkEcc

/-! ### Starting a frame (R72, R92, R148) -/

/-- A member of a port can carry a frame: its link is up and, in a fused port, it is in service. Under far-end loopback the
lanes send back what they receive, and no frame of the port's own (Table 4-3). -/
def Chip.memberUp (s : Chip) (p sub : Nat) : Bool :=
  let q := s.lowerOf p
  s.getBit (F.port0StatusLinkUp p) sub && !s.farLoop q &&
    (!s.fusedLower q || (s.flag (F.port0StatusTsFused q) && (if p = q then (s.fuse q).lowIn else (s.fuse q).upIn)))

/-- The two-shot sequence numbers after a frame of a space has taken its own (R92). -/
def Chip.takeSeq (s : Chip) (q : Nat) (express : Bool) : Chip :=
  if s.fusedLower q then
    let x := s.fuse q
    s.setFuse q (if express then { x with txSeqX := (x.txSeqX + 1) % 2 ^ 20 } else { x with txSeq := (x.txSeq + 1) % 2 ^ 20 })
  else s

/-- PROMISE_JUDGE (R72): an accepted frame at its TX stamp point is kept or late. -/
def Chip.judge (s : Chip) (f : Frame) (stamp : Raw) : Chip :=
  if !f.express then s
  else if promiseUnits < rawDiff f.rxStamp stamp then
    (s.putFrame { f with broken := true }).breakPromise f (s.breakCause f)
  else s.bump (F.admSubKept f.outPort f.outSub)

/-- Put a frame on the wire of member m, stamped there (R175). -/
def Chip.begin (s : Chip) (f : Frame) (m : Nat) (stamp : LineStamp) : Chip :=
  let l := s.link m f.outSub
  let g := { f with started := true, member := m }
  let t := (s.putFrame g).setLink m f.outSub { l with onWire := f.id :: l.onWire }
  ((t.takeSeq f.outPort f.express).bump (F.trafTxFrames m f.outSub f.cls)).judge g (s.txStamp m f.outSub stamp)

/-- The frame on the wire of a subport. -/
def Chip.onWire (s : Chip) (m sub : Nat) : Option Frame :=
  match (s.link m sub).onWire with
  | [] => none
  | id :: _ => s.frame id

/-- The express class that may send: C15 down to C12, gate open, head able to start (R148, step 1). -/
def Chip.expressChoice (s : Chip) (q sub : Nat) : Option Frame :=
  ([15, 14, 13, 12].filter (fun c => bit (s.gate q).mask c)).findSome? (fun c => (s.ready1 q sub c).filter (fun f => f.express))

/-- A chosen frame starts; an error in its cells ends it first (R143). -/
def Chip.launch (s : Chip) (f : Frame) (m : Nat) (stamp : LineStamp) (ecc : TxEcc) : Chip :=
  match ecc.cell with
  | .double => ((s.endBroken f (s.causeOver f F.admSubBreakEcc)).bump F.buf3EccUncorr).fault fEcc
  | .single => (((s.bump F.buf3EccCorrected).begin f m stamp).linkEcc f ecc.link).freeEcc f ecc.upper ecc.freeEntry
  | .clean => ((s.begin f m stamp).linkEcc f ecc.link).freeEcc f ecc.upper ecc.freeEntry

/-- The member that takes the next frame: the lower one where both can start (R92). -/
def Chip.startMember (s : Chip) (p sub : Nat) : Nat :=
  let q := s.lowerOf p
  if s.memberUp q sub && (s.onWire q sub).isNone then q else p

/-- TX_FRAME_START (R148): the take gate, then the tree, choose the frame that starts. Whatever it chooses, the choice is the
subport's next one after an APPLY (R153). -/
def Chip.txStart (s : Chip) (p sub : Nat) (stamp : LineStamp) (ecc : TxEcc) : Chip :=
  let q := s.lowerOf p
  let m := s.startMember p sub
  if !s.coresRun || s.subports q ≤ sub || !s.memberUp m sub then s
  else
    let s1 := match ecc.node with | some x => s.nodeEcc q x.1 x.2 | none => s
    let s2 := [15, 14, 13, 12].foldl (fun t c => t.lateDiscard q sub c t.frames.length) (s1.setSched q ((s1.sched q).adopt sub))
    match s2.onWire m sub with
    | some g =>
      if s2.getBit (F.admStatusMergeActive m) sub && !g.express then
        match s2.expressChoice q sub with
        | some f => (s2.putFrame { g with preempted := true }).launch f m stamp ecc
        | none => s2
      else s2
    | none =>
      match s2.expressChoice q sub with
      | some f => s2.launch f m stamp ecc
      | none =>
        let r := s2.treeChoice q sub
        match r.2.bind (fun c => s2.ready1 q sub c) with
        | some f => (s2.setSched q r.1).launch f m stamp ecc
        | none => s2

def execTxFrameStart (p : Fin 48) (sub : Fin 8) (stamp : LineStamp) (ecc : TxEcc) (s : State) : Host.Outcome State Fault Refusal :=
  done s (s.chip.txStart p sub stamp ecc)

/-- TX_UNDERRUN (R138): a started frame whose next cell is not in the slice ends at once. -/
def Chip.underrun (s : Chip) (p sub : Nat) : Chip :=
  match (s.onWire p sub).filter (fun _ => s.coresRun) with
  | none => s
  | some f =>
    if f.ended || decide (f.cells ≤ f.crossed) then s
    else ((s.endFrame f).bump F.buf3Underruns).setB F.buf3StatusUnderrun true

def execTxUnderrun (p : Fin 48) (sub : Fin 8) (s : State) : Host.Outcome State Fault Refusal := done s (s.chip.underrun p sub)

/-- Bytes of a frame that went out: all of it, or what its cells carried and the inverted FCS. -/
def Frame.sent (f : Frame) : Nat := if f.ended then min f.len (f.crossed * 384 + 4) else f.len

/-- The tail of the frame on the wire has gone: bytes, tree charge, cells and wire. All its cells return to the free lists
here (log 35). -/
def Chip.finishTx (s : Chip) (m sub : Nat) (f : Frame) (sent : Nat) : Chip :=
  let l := s.link m sub
  let t := (((s.dropFrame f).setLink m sub { l with onWire := l.onWire.drop 1 }).addKib (F.trafTxKib m sub) sent).addKib
    (F.trafClassTxKib m f.cls) sent
  let u := if f.cls < 12 then t.setSched f.outPort ((t.sched f.outPort).charge f.outSub f.cls (sent + 20)) else t
  match u.onWire m sub with
  | some g => u.putFrame { g with preempted := false }
  | none => u

/-- The errors met in the cells of a frame after its first, in their order (R143): the state after them, and the cells read
before one that could not be corrected. -/
def Chip.readCells (s : Chip) (n : Nat) : List Ecc → Chip × Option Nat
  | [] => (s, none)
  | .clean :: l => s.readCells (n + 1) l
  | .single :: l => (s.bump F.buf3EccCorrected).readCells (n + 1) l
  | .double :: _ => ((s.bump F.buf3EccUncorr).fault fEcc, some n)

/-- TX_FRAME_END (R143, R150, R151): the tail of the frame leaving passes; an uncorrectable error in one of its later cells
has ended it there, and breaks its promise where nothing has before (log 97). -/
def Chip.txEnd (s : Chip) (p sub : Nat) (cells : List Ecc) : Chip :=
  match (s.onWire p sub).filter (fun _ => s.coresRun) with
  | none => s
  | some f =>
    let r := s.readCells 1 (if f.ended then [] else cells.take (f.crossed - 1))
    match r.2 with
    | some n => (r.1.endBroken f (r.1.causeOver f F.admSubBreakEcc)).finishTx p sub { f with formed := f.crossed }
        (min f.len (n * 384 + 4))
    | none => if f.ended || decide (f.cells ≤ f.crossed) then r.1.finishTx p sub f f.sent else r.1

def execTxFrameEnd (p : Fin 48) (x : WireEnd) (s : State) : Host.Outcome State Fault Refusal :=
  done s (s.chip.txEnd p x.sub x.cells)

/-! ### Takes (R155 to R160) -/

/-- Bring the gate to the entry that network time now runs. -/
def Gate.follow (g : Gate) (net : Nat) : Gate :=
  if g.active.len = 0 then { g with entry := 0, mask := 0xFFFF }
  else
    let i := g.active.entryAt (g.active.position net)
    { g with entry := i, mask := g.active.mask i }

/-- Units of 2^-16 ns that network time has advanced since the TCLK edge before this one. -/
def Chip.edgeStep (s : Chip) : Nat :=
  (s.net + netMod - s.time.cur.netAt (s.time.raw - 65536)) % netMod

/-- This is the TCLK edge at which network time reaches a boundary of a list (R155). -/
def Chip.atBoundary (s : Chip) (g : GateList) : Bool := decide (g.past s.net < s.edgeStep)

/-- TAKE_BOUNDARY (R155): network time reaches a boundary; the list restarts from entry 0. -/
def Chip.takeBoundary (s : Chip) (p : Nat) : Chip :=
  let g := s.gate p
  if g.active.len = 0 ∨ s.atBoundary g.active = false then s
  else (s.setGate p (g.follow s.net)).bump (F.port5Takes p)

def execTakeBoundary (p : Fin 48) (s : State) : Host.Outcome State Fault Refusal := done s (s.chip.takeBoundary p)

/-- GATE_EVENT (R156, R163): the entry that network time has reached begins, and its mask acts. -/
def Chip.gateEvent (s : Chip) (p : Nat) (ecc : Ecc) : Chip :=
  let g := s.gate p
  if g.active.len = 0 then s
  else
    let i := g.active.entryAt (g.active.position s.net)
    match ecc with
    | .clean => s.setGate p (g.follow s.net)
    | .single => (s.setGate p (g.follow s.net)).bump (F.schdEccCorrected 1)
    | .double =>
      if g.active.badEntries.contains i then s.setGate p (g.follow s.net)
      else
        let h := { g with active := { g.active with badEntries := g.active.badEntries ++ [i] } }
        ((s.setGate p (h.follow s.net)).bump (F.schdEccUncorr 1)).fault fEcc

def execGateEvent (p : Fin 48) (ecc : Ecc) (s : State) : Host.Outcome State Fault Refusal := done s (s.chip.gateEvent p ecc)

/-- Bring the take registers of a port up to its gate (Table 7-5); a dark group's keep the values held at entry (R51). -/
def Chip.syncTake (s : Chip) (p : Nat) : Chip :=
  let g := s.gate p
  if s.groupIsDark (p / 6) then s
  else (((s.setB (F.port5TakeStatusPending p) g.pending.isSome).setB (F.port5TakeStatusRunning p) (g.active.len != 0)).setN
    (F.port5TakeStatusLen p) g.active.len).setN (F.port5TakeLenTakeNs p) (if g.active.len = 0 then 0 else g.active.takeNs)

/-- The network time of the boundary last reached of a list. -/
def GateList.boundaryAt (g : GateList) (net : Nat) : Nat := net - g.past net

/-- TAKE_CUTOVER (R158, R159): the new list becomes active and the ledgers take its figures. -/
def Chip.cutOver (s : Chip) (p : Nat) : Chip :=
  let g := s.gate p
  match g.pending with
  | none => s
  | some k =>
    let instant := (g.timer k).boundaryAt s.net
    if !s.atBoundary (g.timer k) || decide (instant < k.at_) then s
    else
      let l := g.newList k
      let h : Gate := ({ active := l, shadow := l, pending := none, entry := 0, mask := 0xFFFF } : Gate).follow s.net
      let g1 := s.setGate p h
      let t := if s.groupIsDark (p / 6) then g1
        else (g1.set (F.port5TakeCutLo p) (word (s.time.raw.toNat % 2 ^ 32))).set (F.port5TakeCutHi p)
          (word (s.time.raw.toNat / 2 ^ 32))
      let u := if l.len ≠ 0 ∧ l.past instant ≠ 0 then t.bump (F.port5Splices p) else t
      (u.syncTake p).reboundPort p

def execTakeCutover (p : Fin 48) (s : State) : Host.Outcome State Fault Refusal := done s (s.chip.cutOver p)

/-- A gate list closes an express class in some entry. -/
def GateList.closesExpress (g : GateList) : Bool :=
  (List.range g.len).any (fun i => [12, 13, 14, 15].any (fun c => !bit (g.mask i) c))

/-- A step of network time on one port's list (R160): from network time `old` to the time now. -/
def Chip.stepGate (s : Chip) (p old : Nat) : Chip :=
  let g := s.gate p
  if g.active.len = 0 then s
  else
    let t := s.setGate p (g.follow s.net)
    if ((s.net : Int) - (old : Int)) % ((g.active.takeNs * 65536 : Nat) : Int) = 0 then t
    else
      let u := t.bump (F.port5Splices p)
      if g.active.closesExpress then u.setB (F.admStatusGateUpset p) true else u

/-! ### Applying a tree (R153) -/

/-- The first failure of a shadow tree: result, node, class. -/
def Tree.firstFailure (t : Tree) (n : Nat) (bad : List Nat) : Option (Nat × Nat × Nat) :=
  let ks := t.candidates
  let valid := fun k => nodeValid (t.node k)
  let leaf := fun k => valid k && nodeKind (t.node k) == 0
  let badKind := fun k => bad.contains k || (valid k && nodeKind (t.node k) == 3)
    || (decide (k < n) && (!valid k || nodeKind (t.node k) == 0)) || (leaf k && decide (11 < nodeClass (t.node k)))
  let badParent := fun k => valid k && decide (n ≤ k) && (!valid (nodeParent (t.node k)) || leaf (nodeParent (t.node k)))
  let depth := fun k => valid k && (t.rootOf 8 k).isNone
  let missing := (List.range n).flatMap (fun x => (List.range 12).filterMap (fun c =>
    if ks.any (fun k => leaf k && nodeClass (t.node k) == c && t.rootOf 8 k == some x) then none else some (4, x, c)))
  let dup := fun k => leaf k && ks.any (fun j => decide (j < k) && leaf j && nodeClass (t.node j) == nodeClass (t.node k)
    && t.rootOf 8 j == t.rootOf 8 k)
  match (List.range 256).find? badKind with
  | some k => some (1, k, 0)
  | none =>
    match ks.find? badParent with
    | some k => some (2, k, 0)
    | none =>
      match ks.find? depth with
      | some k => some (3, k, 0)
      | none =>
        match missing with
        | x :: _ => some x
        | [] => (ks.find? dup).map (fun k => (5, k, nodeClass (t.node k)))

/-- A tree that passed its check becomes active (R153): every subport runs the tree it has until its next choice, and the
shadow is a copy of the new tree. -/
def Sched.applied (t : Sched) (n : Nat) : Sched :=
  { t with
    active := t.shadow, badNodes := [], shadowBad := []
    prev := (List.range n).map (fun sub => (sub, t.treeOf sub)) }

/-- The check reads a shadow node and meets the error that stands there (R163). -/
def Chip.shadowEcc (s : Chip) (p : Nat) (x : Fin 256 × Ecc) : Chip :=
  match x.2 with
  | .clean => s
  | .single => s.bump (F.schdEccCorrected 0)
  | .double =>
    let t := s.sched p
    if t.shadowBad.contains x.1.val then s
    else ((s.setSched p { t with shadowBad := t.shadowBad ++ [x.1.val] }).bump (F.schdEccUncorr 0)).fault fEcc

/-- The outcome of an APPLY check in TREE_STATUS and TREE_APPLIED; a dark group's keep the values held at entry (R51).
BAD_NODE and BAD_CLASS keep those of the last failure when a tree passes (log 116). -/
def Chip.showTree (s : Chip) (p : Nat) (failure : Option (Nat × Nat × Nat)) : Chip :=
  if s.groupIsDark (p / 6) then s
  else
    let t := s.setB (F.port5TreeStatusChecking p) false
    match failure with
    | some x => ((t.setN (F.port5TreeStatusResult p) x.1).setN (F.port5TreeStatusBadNode p) x.2.1).setN
        (F.port5TreeStatusBadClass p) x.2.2
    | none => (t.setN (F.port5TreeStatusResult p) 0).bump (F.port5TreeApplied p)

/-- TREE_CHECK_DONE (R153, R163): the check ends; a tree that passes becomes active. -/
def Chip.treeChecked (s : Chip) (p : Nat) (upsets : List (Fin 256 × Ecc)) : Chip :=
  if !s.checking.contains p then s
  else
    let s1 := upsets.foldl (fun u x => u.shadowEcc p x) s
    let s2 := { s1 with checking := s1.checking.filter (fun k => k != p) }
    let t := s2.sched p
    match t.shadow.firstFailure (s.subports p) t.shadowBad with
    | some x => s2.showTree p (some x)
    | none => (s2.setSched p (t.applied (s.subports p))).showTree p none

def execTreeCheckDone (p : Fin 48) (upsets : List (Fin 256 × Ecc)) (s : State) : Host.Outcome State Fault Refusal :=
  done s (s.chip.treeChecked p upsets)

/-- Trees of a port return to the reset tree, and a running check is abandoned (R154). -/
def Chip.resetTree (s : Chip) (p n : Nat) : Chip :=
  ({ s.setSched p (schedReset n) with checking := s.checking.filter (fun k => k != p) }).showB
    (F.port5TreeStatusChecking p) false

/-- The gate lists of a port are removed and its banks zeroed (R162, R163). -/
def Chip.resetGate (s : Chip) (p : Nat) : Chip := ({ s with gates := Store.erase p s.gates }).syncTake p

end Sys2Proof.Machine
end

