-- ==== Sys2Proof/Machine/Ports.lean ====
section
/-! DEFINITION. Ports, lanes, links, the link-flap hold, MAC Merge, two-shot ports, and how a port stops and starts (R67 to R70, R78 to R96). -/

namespace Sys2Proof.Machine

/-! ### Sessions and modes (R79, R88, R89) -/

/-- Some open session satisfies a test of its configuration word (R79, R89). -/
def Chip.someSession (s : Chip) (test : BitVec 256 → Bool) : Bool := s.sessions.any (fun e => test e.2.cfg)

/-- A session as it opens, or as it restarts, with its configuration word kept (R211). -/
def freshSession (cfg : BitVec 256) : Session :=
  ⟨cfg, cfgPeer cfg, false, false, false, false, 0, none, 257, 0, 0, none, none, 0, 0, 0, 0, 0, [], none, none,
   0xFFFFFF, none, none, none, none, false, [], ⟨0, 0, 0, 0⟩, [], none⟩

/-- Restart the sessions that a test of the configuration word picks (R211). -/
def Chip.restartSessions (s : Chip) (test : BitVec 256 → Bool) : Chip :=
  { s with sessions := s.sessions.map (fun e => if test e.2.cfg then (e.1, freshSession e.2.cfg) else e) }

/-- Record that a write was held (R79, R83, R89, R116). -/
def Chip.modeHeld (s : Chip) (p : Nat) : Chip := s.setB (F.port0StatusModeHeld p) true

/-- The ENABLE bits in force on a member. -/
def Chip.enableOf (s : Chip) (p : Nat) : Nat := s.getN (F.port0CtrlEnable (s.lowerOf p))

/-- IF_TYPE is CR; 2 and 3 act as 0. -/
def Chip.isCr (s : Chip) (p : Nat) : Bool := s.getN (F.port0ModeIfType (s.lowerOf p)) == 1

/-- R89's conditions for a change of TWO_SHOT. -/
def Chip.fuseAllowed (s : Chip) (p split : Nat) : Bool :=
  s.getN (F.port0CtrlEnable p) == 0 && s.getN (F.port0CtrlEnable (p + 6)) == 0
    && s.getN (F.port0ModeSplit p) == 0 && s.getN (F.port0ModeSplit (p + 6)) == 0 && split == 0
    && s.getN (F.admStatusFlows p) == 0 && s.getN (F.admStatusFlows (p + 6)) == 0
    && !s.fusedUpper p && !s.fusedLower (p + 6)
    && !s.someSession (fun c => cfgPort c == p + 6)

/-- The effects of an accepted change of TWO_SHOT (R89, R90, R135, R154, R162). -/
def Chip.changeFuse (s : Chip) (p : Nat) (on : Bool) : Chip :=
  let t := s.setLimits p (if on then 1536 else 768)
  let u := if on then t else t.setLimits (p + 6) 768
  let v := (((u.resetTree p 1).resetTree (p + 6) 1).resetGate p).resetGate (p + 6)
  let w := { v with fuses := Store.erase p v.fuses }
  (((w.showB (F.port0StatusTsNoPeer p) on).showB (F.port0StatusTsFused p) false).showB (F.port0StatusTsSkew p) false).showB
    (F.port0StatusTsDegraded p) false

/-- No mode recorded: SPLIT has two bits. -/
def modeUnset : Nat × Bool := (4, false)

/-- The mode under which a port runs: that of its register, or the one that stood when it went dark (R51, R96). -/
def Chip.modeRun (s : Chip) (p : Nat) : Nat × Bool :=
  (Store.find p s.power.modeRun).getD (s.getN (F.port0ModeSplit p), s.fusedLower p)

/-- What a changed mode of a port that is not dark does: its trees return to the reset tree (R154), and it is fused or
parted (R89). -/
def Chip.applyMode (s : Chip) (p : Nat) (run : Nat × Bool) : Chip :=
  let split := s.getN (F.port0ModeSplit p)
  let u := if split ≠ run.1 then s.resetTree p (2 ^ split) else s
  if s.fusedLower p ≠ run.2 then u.changeFuse p (s.fusedLower p) else u

/-- A dark port's mode takes effect on its wake (R51, R96). -/
def Chip.wakeMode (s : Chip) (p : Nat) : Chip :=
  match Store.find p s.power.modeRun with
  | none => s
  | some run =>
    if (s.members p).any s.memberDark then s
    else ({ s with power := { s.power with modeRun := Store.erase p s.power.modeRun } }).applyMode p run

/-- A write of PORTp.MODE with every field as proposed (R78, R79, R88, R89, R154); on a dark port it takes effect on wake
(R51, R96). -/
def Chip.modeWrite (s : Chip) (p : Nat) (w : Word) : Chip :=
  let split := bits w 1 0
  let ift := bits w 5 4
  let two := bit w 8 && decide (p < 42)
  let oldSplit := s.getN (F.port0ModeSplit p)
  let splits := split != oldSplit
  let types := ift != s.getN (F.port0ModeIfType p)
  let fuses := two != s.fusedLower p
  if s.fusedUpper p then s.modeHeld p
  else if !splits && !types && !fuses then s
  else if s.getN (F.port0CtrlEnable p) != 0 || s.getN (F.admStatusFlows p) != 0
      || (splits && s.someSession (fun c => cfgPort c == p && decide (2 ^ split ≤ cfgSub c)))
      || (splits && two) || (fuses && !s.fuseAllowed p split) then s.modeHeld p
  else
    let run := s.modeRun p
    let t := ((s.setN (F.port0ModeSplit p) split).setN (F.port0ModeIfType p) ift).setB (F.port0ModeTwoShot p) two
    if ((s.members p) ++ (t.members p)).any s.memberDark
    then { t with power := { t.power with modeRun := Store.write modeUnset t.power.modeRun p run } }
    else t.applyMode p run

/-- A write of PORTp.MAXFRAME (R79, R89). -/
def Chip.maxframeWrite (s : Chip) (p : Nat) (w : Word) : Chip :=
  if s.fusedUpper p then s.modeHeld p
  else if s.getN (F.port0Maxframe p) < bits w 13 0 ∧ s.getN (F.admStatusFlows p) ≠ 0 then s.modeHeld p
  else s.setN (F.port0Maxframe p) (bits w 13 0)

/-! ### Lane maps and bring-up (R81, R83, R85) -/

/-- A list of eight lane numbers is a permutation. -/
def isPerm (l : List Nat) : Bool := (List.range 8).all (fun k => l.contains k)

/-- Both lane maps of a port are permutations (R83). -/
def Chip.mapsOk (s : Chip) (p : Nat) : Bool :=
  isPerm ((List.range 8).map (fun k => s.getN (F.port1MapTxPhys p k)))
    && isPerm ((List.range 8).map (fun k => s.getN (F.port1MapRxPhys p k)))

/-- Write of a lane's MAP (R83): while a subport is enabled, a changed PHYS is held. -/
def Chip.mapWrite (s : Chip) (p k : Nat) (w : Word) : Chip :=
  let t := ((((s.setN (F.port1MapPattern p k) (bits w 15 14)).setB (F.port1MapRxPrecode p k) (bit w 12)).setB
    (F.port1MapTxPrecode p k) (bit w 11)).setB (F.port1MapRxInvert p k) (bit w 10)).setB (F.port1MapTxInvert p k) (bit w 9)
  let same := s.getN (F.port1MapRxPhys p k) == bits w 6 4 && s.getN (F.port1MapTxPhys p k) == bits w 2 0
  if s.enableOf p != 0 && !same then t.modeHeld p
  else (t.setN (F.port1MapRxPhys p k) (bits w 6 4)).setN (F.port1MapTxPhys p k) (bits w 2 0)

/-- Where a subport's bring-up starts: negotiation for CR, else waiting for alignment (Table 4-5). -/
def Chip.startPhase (s : Chip) (p : Nat) : LinkPhase := if s.isCr p then .negotiating else .trained

/-- The lane PLL that serves a port is locked (R86, R251). -/
def Chip.laneLocked (s : Chip) (p : Nat) : Bool := s.getBit F.pll0LstatusLocked (p / 6 * 2 + p % 6 / 3)

/-- Where a subport stands when its bring-up begins: it waits while the core setting is IDLE (R247) or its lane PLL has no
lock (R86). -/
def Chip.firstPhase (s : Chip) (p : Nat) : LinkPhase :=
  if s.getN F.pll0CstatusSetting ≠ 0 ∨ s.laneLocked p = false then .coreWait else s.startPhase p

/-- Start one subport of one member at step 1 of Table 4-5. -/
def Chip.startSub (s : Chip) (p sub : Nat) : Chip :=
  s.setLink p sub { s.link p sub with phase := s.firstPhase p, verifying := false }

/-- Start some subports of a port (R83, R85): those of a test that the mode has, on each member whose
lane maps are permutations and that is not dark; otherwise MAP_BAD. -/
def Chip.startSubs (s : Chip) (q : Nat) (which : Nat → Bool) : Chip :=
  if (s.members q).all s.mapsOk then
    ((s.members q).filter (fun m => !s.memberDark m)).foldl (fun t m =>
        ((List.range (t.subports q)).filter which).foldl (fun u sub => u.startSub m sub) t)
      (s.setB (F.port0StatusMapBad q) false)
  else s.setB (F.port0StatusMapBad q) true

/-- Every enabled subport of a port starts, as after a reset or a wake (R95, R96). -/
def Chip.restart (s : Chip) (q : Nat) : Chip :=
  if s.getN (F.port0CtrlEnable q) = 0 then s else s.startSubs q (fun sub => s.getBit (F.port0CtrlEnable q) sub)

/-! ### Preemption (R67, R68) -/

/-- A subport holds flows admitted under preemption. -/
def Chip.underMerge (s : Chip) (q sub : Nat) : Bool := (s.ledgerOf q sub).any (fun f => f.underMerge)

/-- Preemption stops on a member's subport: MERGE_ACTIVE clears, and MERGE_LOST is set where flows
were admitted under it (R68). -/
def Chip.mergeStop (s : Chip) (m sub : Nat) : Chip :=
  let q := s.lowerOf m
  let was := s.getBit (F.admStatusMergeActive m) sub
  let t := (s.setBit (F.admStatusMergeActive m) sub false).setLink m sub { s.link m sub with verifying := false }
  if was && s.underMerge q sub then t.setB (F.admStatusMergeLost q) true else t

/-- Start the verify process where the link is up and MERGE_EN is set (R67): a verify frame goes out. -/
def Chip.mergeStart (s : Chip) (m sub : Nat) : Chip :=
  if s.coresRun && s.flag (F.port0MergeMergeEn (s.lowerOf m)) && s.getBit (F.port0StatusLinkUp m) sub
  then (s.setLink m sub { s.link m sub with verifying := true }).emitMac m sub 0 0 .verify else s

/-- A write of PORTp.MERGE (R67, R89). -/
def Chip.mergeWrite (s : Chip) (p : Nat) (w : Word) : Chip :=
  if s.fusedUpper p then s.modeHeld p
  else
    let was := s.flag (F.port0MergeMergeEn p)
    let t := (s.setB (F.port0MergeMergeEn p) (bit w 0)).setN (F.port0MergeAddFragSize p) (bits w 9 8)
    let each := fun (g : Chip → Nat → Nat → Chip) => (t.members p).foldl (fun u m =>
      (List.range (t.subports p)).foldl (fun v sub => g v m sub) u) t
    if was && !bit w 0 then each Chip.mergeStop
    else if !was && bit w 0 then each (fun u m sub => if t.getBit (F.port0CtrlEnable p) sub then u.mergeStart m sub else u)
    else t

/-- MERGE_VERIFY_DONE (R67, R68): the verify process of a link reports success or failure; a failure ends
preemption. The process stands until the link starts again or MERGE_EN clears, so that it may report again. -/
def Chip.verifyDone (s : Chip) (p sub : Nat) (ok : Bool) : Chip :=
  if !(s.link p sub).verifying then s
  else if ok then s.setBit (F.admStatusMergeActive p) sub true
  else (s.mergeStop p sub).setLink p sub { s.link p sub with verifying := true }

def execMergeVerifyDone (p : Fin 48) (sub : Fin 8) (ok : Bool) (s : State) : Host.Outcome State Fault Refusal :=
  done s (s.chip.verifyDone p sub ok)

/-! ### Two-shot members (R90, R91, R94) -/

/-- Markers of one identity and complementary roles have arrived in 3 clappers on both members (R90). -/
def Fuse.confirmed (x : Fuse) : Bool :=
  decide (3 ≤ x.low.run) && decide (3 ≤ x.up.run) && x.low.identity == x.up.identity && x.low.upperRole != x.up.upperRole

/-- Upper less lower stamp of the last markers, in ps (R91): they carry one number, and arrived in one clapper or in
two that follow each other, since the numbers come again every 16,000 clappers. -/
def Fuse.skewPs (x : Fuse) : Option Int :=
  if x.low.number = x.up.number ∧ x.low.atCount ≤ x.up.atCount + 1 ∧ x.up.atCount ≤ x.low.atCount + 1
  then some (freeDiv .skew (rawDiff x.low.stamp x.up.stamp * 1000) 65536) else none

/-- The queued express frames too old at a link's return are discarded (R87). -/
def Chip.returnFlush (s : Chip) (q sub : Nat) : Chip :=
  s.flush (fun f => f.outPort == q && f.outSub == sub && f.express && f.link != 0 && !f.started
    && decide (lateHead < rawDiff f.rxStamp s.time.raw)) F.admSubBreakLink none

/-- A (sub)port can carry frames again: its hold, if any, ends by return (R87). -/
def Chip.portReturns (s : Chip) (q sub : Nat) : Chip :=
  let held := s.getBit (F.port0StatusHolding q) sub
  let t := s.setLink q sub { s.link q sub with expired := false }
  if held then
    let u := ((t.setBit (F.port0StatusHolding q) sub false).bump (F.port2HoldResumed q sub)).returnFlush q sub
    { u with frames := u.frames.map (fun f => if f.outPort = q ∧ f.outSub = sub then { f with held := true } else f) }
  else t

/-- The hold of a (sub)port expires (R87): its queues are flushed. -/
def Chip.expireHold (s : Chip) (q sub : Nat) : Chip :=
  let t := s.flush (fun f => f.outPort == q && f.outSub == sub && (f.link != 0 || s.inFlight f.id != 0))
    F.admSubBreakLink (some F.port2Flushed)
  ((t.setBit (F.port0StatusHolding q) sub false).bump (F.port2HoldExpired q sub)).setLink q sub { t.link q sub with expired := true }

/-- A (sub)port can carry no frames any more: its hold begins, or expires at once (R87). -/
def Chip.portDrops (s : Chip) (q sub : Nat) : Chip :=
  let t := s.markHeld q sub
  if t.getN (F.port0HoldHoldNs q) = 0 then t.expireHold q sub
  else (t.setBit (F.port0StatusHolding q) sub true).setLink q sub { t.link q sub with downAt := t.time.raw, expired := false }

/-- Members of a fused port in service. -/
def Fuse.inService (x : Fuse) : Nat := ofBool x.lowIn + ofBool x.upIn

/-- The waits of one space for the SEQ values due on a member that leaves end. A member delivers in order, so a missing SEQ
below one that has come on the other member is due on this one; the rest are due on the other (log 117). With no other
member in service every wait ends. -/
def Chip.endSpace (s : Chip) (p gone : Nat) (alone express : Bool) : Chip :=
  let x := s.fuse p
  let n := x.expected express
  let dist := fun (k : Early) => (k.seq + 2 ^ 20 - n.getD k.seq) % 2 ^ 20
  let due := (x.earlyOf express).filter (fun k => alone || k.inPort != gone)
  match due.find? (fun k => due.all (fun j => decide (dist j ≤ dist k))) with
  | some k => s.endWait p express k
  | none => s

/-- Receive waits on a member end: the missing SEQ values are lost (R94). -/
def Chip.endWaits (s : Chip) (p gone : Nat) : Chip :=
  let alone := (s.fuse p).inService == 0
  (s.endSpace p gone alone false).endSpace p gone alone true

/-- A two-shot status bit of a port: it holds its last value while the port is dark (R51, R96). -/
def Chip.showFuse (s : Chip) (p : Nat) (f : Fld) (v : Bool) : Chip := if s.portIsDark p then s else s.showB f v

/-- Put the two-shot status bits of a port as its members in service say (R70, R90, R94). -/
def Chip.fuseStatus (s : Chip) (p : Nat) : Chip :=
  let x := s.fuse p
  let deg := x.inService == 1
  (((s.showFuse p (F.port0StatusTsFused p) (x.inService != 0)).showFuse p (F.port0StatusTsDegraded p) deg).setB
    (F.admStatusDegraded p) deg).showFuse p (F.port0StatusTsNoPeer p) (!x.confirmed)

/-- A member leaves service (R94): the frames of the port now have that in their residence (R70); at the loss of the
second, the port's hold begins. -/
def Chip.memberLeaves (s : Chip) (m : Nat) : Chip :=
  let p := s.lowerOf m
  let x := s.fuse p
  let y := if m = p then { x with lowIn := false } else { x with upIn := false }
  let t := (((s.setFuse p y).fuseStatus p).markHeld p 0).endWaits p m
  if x.inService ≠ 0 ∧ y.inService = 0 then t.portDrops p 0 else t

/-- Members that meet R90 and R91 come into service: the port comes up, or a member rejoins and the
EPOCH rises (R94). The EPOCH rises too when the whole port comes up again after the loss of both (log 87), and a skew
above 5,000 ps asks for the 16 clappers before the first time as well (log 88). -/
def Chip.fuseEval (s : Chip) (p : Nat) : Chip :=
  let x := s.fuse p
  let skewOk := match x.skewPs with
    | some d => if s.flag (F.port0StatusTsSkew p) then decide (16 ≤ x.skewOk) else decide (d.natAbs ≤ 5000)
    | none => false
  if !s.fusedLower p || !x.confirmed || !skewOk || !s.getBit (F.port0StatusLinkUp p) 0
      || !s.getBit (F.port0StatusLinkUp (p + 6)) 0 || x.inService == 2 then s.fuseStatus p
  else
    let y := { x with
      lowIn := true, upIn := true, everUp := true
      txEpoch := if x.everUp then (x.txEpoch + 1) % 256 else x.txEpoch
      txSeq := if x.everUp then 0 else x.txSeq
      txSeqX := if x.everUp then 0 else x.txSeqX }
    let t := ((s.setFuse p y).setB (F.port0StatusTsSkew p) false).fuseStatus p
    if x.inService = 0 then t.portReturns p 0 else t

/-- A fuse marker arrives on a member (R90). -/
def MarkerRun.take (r : MarkerRun) (m : FuseMarker) (stamp : Raw) (count : Nat) : MarkerRun :=
  let goes := r.identity == m.identity && r.upperRole == m.upperRole && decide (r.run ≠ 0)
  ⟨if goes && r.atCount == count then r.run else if goes && r.atCount + 1 == count then r.run + 1 else 1,
   m.identity, m.upperRole, count, m.clapper, stamp⟩

/-- SKEW_PS after a marker, and what it does (R91). A clapper without a matched pair of markers neither counts among the 16
consecutive ones nor begins them again (log 88). -/
def Chip.skewStep (s : Chip) (p : Nat) : Chip :=
  let x := s.fuse p
  match x.skewPs with
  | none => s
  | some d =>
    let t := s.setN (F.port0TsSkewSkewPs p) (twos 16 (clampI (-32767) 32767 d))
    let y := { x with skewOk := if d.natAbs ≤ 4000 then x.skewOk + 1 else 0 }
    let u := t.setFuse p y
    if 5000 < d.natAbs then
      let v := u.setB (F.port0StatusTsSkew p) true
      if y.upIn then v.memberLeaves (p + 6) else v
    else u

/-- FUSE_MARKER_RX (R90, R91, R94). -/
def Chip.markerRx (s : Chip) (m : Nat) (k : FuseMarker) : Chip :=
  let p := s.lowerOf m
  let aligned := (s.link m 0).phase == .aligned || (s.link m 0).phase == .up
  if !s.fusedLower p || !aligned then s
  else
    let x := s.fuse p
    let c := s.fab.clapperCount
    let w := s.rxStamp m 0 k.stamp
    let y := if m = p then { x with low := x.low.take k w c } else { x with up := x.up.take k w c }
    ((s.setFuse p y).skewStep p).fuseEval p

def execFuseMarkerRx (p : Fin 48) (m : FuseMarker) (s : State) : Host.Outcome State Fault Refusal := done s (s.chip.markerRx p m)

/-- At a clapper marker, a member on which no marker came in the clapper begins its run again (R90). A port that is up
already stays in service, and only TS_NO_PEER tells (log 89). -/
def Chip.markerMissed (s : Chip) (p : Nat) : Chip :=
  let x := s.fuse p
  let c := s.fab.clapperCount
  let fix := fun (r : MarkerRun) => if r.atCount < c then { r with run := 0 } else r
  (s.setFuse p { x with low := fix x.low, up := fix x.up }).fuseStatus p

/-- The fuse marker that a member whose PCS is aligned sends at a clapper marker (R90). -/
def Chip.sendMarker (s : Chip) (p m : Nat) : Chip :=
  if s.coresRun && ((s.link m 0).phase == .aligned || (s.link m 0).phase == .up) then
    s.emitMac m 0 peerAddress 0x88B5 (.fuseMarker s.identity (m != p) (s.getN F.time0ClapperNumber))
  else s

/-- A fused port at a clapper marker: both members send at one TCLK instant (R91). -/
def Chip.fuseMarkerTime (s : Chip) (p : Nat) : Chip := ((s.markerMissed p).sendMarker p p).sendMarker p (p + 6)

/-! ### Links (R81, R85 to R87) -/

/-- Frames leaving on a member's subport end with an inverted FCS, and the wire is empty (R86). -/
def Chip.cutWire (s : Chip) (m sub : Nat) : Chip :=
  let ids := (s.link m sub).onWire
  let t := ids.foldl (fun u id =>
    match u.frame id with
    | some f =>
      let v := u.endFrame f
      (match v.frame id with | some g => v.finishTx m sub g g.sent | none => v)
    | none => u) s
  t.setLink m sub { t.link m sub with onWire := [] }

/-- Frames still arriving on a subport fail at the ingress (R66). -/
def Chip.cutArriving (s : Chip) (m sub : Nat) : Chip :=
  (s.frames.filter (fun f => f.inPort == m && f.inSub == sub && !f.fromHost && !f.tailSeen && !f.ended)).foldl
    (fun t f => Chip.abort { t with tails := Store.erase f.id t.tails } f) s

/-- What the loss of a link does on both sides (R66, R68, R86, R211); counters and holds apart. -/
def Chip.linkFalls (s : Chip) (m sub : Nat) (next : LinkPhase) : Chip :=
  let t := ((s.setBit (F.port0StatusLinkUp m) sub false).cutWire m sub).cutArriving m sub
  let u := (t.mergeStop m sub).slotsLoseLink m sub
  let v := u.setLink m sub { u.link m sub with phase := next }
  let q := s.lowerOf m
  if (s.members q).any (fun k => v.getBit (F.port0StatusLinkUp k) sub) then v
  else v.restartSessions (fun c => cfgPort c == q && cfgSub c == sub)

/-- Where a link that is not up stands after a down condition: a local or remote fault leaves an aligned PCS as it is
(Table 4-5, step 6). After any other a CR subport negotiates and trains anew, a C2M one waits for alignment (log 118). -/
def Chip.fallBack (s : Chip) (m : Nat) (faultOnly : Bool) : LinkPhase → LinkPhase
  | .down => .down
  | .coreWait => .coreWait
  | .anWait => .anWait
  | .aligned => if faultOnly then .aligned else s.startPhase m
  | _ => s.startPhase m

/-- LINK_DOWN (R86, R87, R94): a down condition of a link; `faultOnly` says that it is a local or remote fault, under
which the PCS stays aligned. -/
def Chip.linkDown (s : Chip) (m sub : Nat) (faultOnly : Bool) : Chip :=
  if !s.getBit (F.port0StatusLinkUp m) sub then
    s.setLink m sub { s.link m sub with phase := s.fallBack m faultOnly (s.link m sub).phase }
  else
    let p := s.lowerOf m
    let next := if s.getBit (F.port0CtrlEnable p) sub then (if faultOnly then .aligned else s.startPhase m) else .down
    let t := ((s.linkFalls m sub next).bump (F.port2LinkDown m sub)).calUpset 5 (fun k x => k == 4 && x == m * 8 + sub)
    if s.fusedLower p then
      let x := t.fuse p
      let y := if m = p then { x with low := { x.low with run := 0 } } else { x with up := { x.up with run := 0 } }
      let u := t.setFuse p y
      if (if m = p then y.lowIn else y.upIn) then u.memberLeaves m else u.fuseStatus p
    else t.portDrops m sub

def execLinkDown (p : Fin 48) (x : LinkFall) (s : State) : Host.Outcome State Fault Refusal :=
  done s (s.chip.linkDown p x.sub x.faultOnly)

/-- HOLD_EXPIRY (R87): HOLD_NS has passed with the link still down. -/
def Chip.holdExpiry (s : Chip) (p sub : Nat) : Chip :=
  if s.getBit (F.port0StatusHolding p) sub then s.expireHold p sub else s

def execHoldExpiry (p : Fin 48) (sub : Fin 8) (s : State) : Host.Outcome State Fault Refusal := done s (s.chip.holdExpiry p sub)

/-- LINK_UP (R85 step 6, R86, R87, R94): no link comes up while its lane PLL has no lock, or while the transmitters stand
idle (R249, R250). -/
def Chip.linkComesUp (s : Chip) (m sub : Nat) : Chip :=
  if (s.link m sub).phase ≠ .aligned ∨ s.coresRun = false ∨ s.laneLocked m = false then s
  else
    let p := s.lowerOf m
    let t := (s.setLink m sub { s.link m sub with phase := .up }).setBit (F.port0StatusLinkUp m) sub true
    let u := if s.fusedLower p then t.fuseEval p else t.portReturns m sub
    u.mergeStart m sub

def execLinkUp (p : Fin 48) (sub : Fin 8) (s : State) : Host.Outcome State Fault Refusal := done s (s.chip.linkComesUp p sub)

/-- PCS_ALIGNMENT (R85 step 5, R90): the PCS is aligned; a fused member sends fuse markers from now on. -/
def Chip.pcsAligned (s : Chip) (m sub : Nat) : Chip :=
  if (s.link m sub).phase ≠ .trained then s else s.setLink m sub { s.link m sub with phase := .aligned }

def execPcsAlignment (p : Fin 48) (sub : Fin 8) (s : State) : Host.Outcome State Fault Refusal := done s (s.chip.pcsAligned p sub)

/-- The taps that a lane's transmitter drives (R84): a set whose magnitudes sum above 63 is scaled down in proportion. -/
def Chip.drivenTaps (s : Chip) (p k : Nat) : List Int :=
  let l := [signed 6 (s.getN (F.port1TxeqPost1 p k)), (s.getN (F.port1TxeqMain p k) : Int), signed 6 (s.getN (F.port1TxeqPre1 p k)),
    signed 6 (s.getN (F.port1TxeqPre2 p k)), signed 6 (s.getN (F.port1TxeqPre3 p k))]
  let sum := (l.map Int.natAbs).sum
  if sum ≤ 63 then l
  else l.map (fun x => x.sign * freeDiv .tap (63 * x.natAbs : Nat) sum)

/-- The symbol errors that a lane's checker found are counted while the lane carries a pattern; PAT_ERR saturates, and its
increments are events of the probes (R84, R354). -/
def Chip.patternErrors (s : Chip) (p k n : Nat) : Chip :=
  if s.getN (F.port1MapPattern p k) = 0 ∨ s.portIsDark p = true ∨ s.groupIsDark (p / 6) = true ∨ s.portInReset p = true then s
  else s.countSat (F.port1PatErr p k) n

/-- Write the trained values of one logical lane (R81). -/
def Chip.trainLane (s : Chip) (p k : Nat) (l : TrainedLane) : Chip :=
  ((((((s.setN (F.port1TxeqPost1 p k) (bits l.txeq 29 24)).setN (F.port1TxeqMain p k) (bits l.txeq 23 18)).setN
    (F.port1TxeqPre1 p k) (bits l.txeq 17 12)).setN (F.port1TxeqPre2 p k) (bits l.txeq 11 6)).setN
    (F.port1TxeqPre3 p k) (bits l.txeq 5 0)).setB (F.port1MapTxPrecode p k) l.txPrecode).setB
    (F.port1MapRxPrecode p k) l.rxPrecode

/-- LINK_TRAINING_DONE (R81): negotiation and training of a CR subport end. -/
def Chip.trained (s : Chip) (p sub : Nat) (lanes : List TrainedLane) : Chip :=
  if !s.isCr p || (s.link p sub).phase != .negotiating then s
  else
    let n := 8 / s.subports (s.lowerOf p)
    let t := (lanes.take n).zipIdx.foldl (fun u l => u.trainLane p (sub * n + l.2) l.1) s
    t.setLink p sub { t.link p sub with phase := .trained }

def execLinkTrainingDone (p : Fin 48) (sub : Fin 8) (lanes : List TrainedLane) (s : State) : Host.Outcome State Fault Refusal :=
  done s (s.chip.trained p sub lanes)

/-- AN_FAIL (R81): negotiation fails; the subport waits 500 ms. -/
def Chip.anFails (s : Chip) (p sub : Nat) : Chip :=
  if (s.link p sub).phase ≠ .negotiating then s
  else (s.setLink p sub { s.link p sub with phase := .anWait }).bump (F.port2AnFail p sub)

def execAnFail (p : Fin 48) (sub : Fin 8) (s : State) : Host.Outcome State Fault Refusal := done s (s.chip.anFails p sub)

/-- AN_RETRY (R81): negotiation starts again. -/
def Chip.anAgain (s : Chip) (p sub : Nat) : Chip :=
  if (s.link p sub).phase ≠ .anWait then s else s.setLink p sub { s.link p sub with phase := .negotiating }

def execAnRetry (p : Fin 48) (sub : Fin 8) (s : State) : Host.Outcome State Fault Refusal := done s (s.chip.anAgain p sub)

/-! ### CTRL (R83, R85) -/

/-- A subport's link goes down and its bring-up stops. R86 does not name a cleared ENABLE bit among its conditions: the
model takes it as the loss of the link, which counts in LINK_DOWN and begins the hold (log 90). -/
def Chip.stopSub (s : Chip) (m sub : Nat) : Chip :=
  let t := s.linkDown m sub false
  t.setLink m sub { t.link m sub with phase := .down }

/-- LOOPBACK as it acts: 3 acts as 0 (Table 4-3). -/
def loopback (x : Nat) : Nat := x % 3

/-- A member's receivers turn to another source as near-end loopback is switched: they lose the recovery of the old one, so
that a link that is up falls and comes up anew (R86, log 86). -/
def Chip.turnReceivers (s : Chip) (p m : Nat) : Chip :=
  (List.range (s.subports p)).foldl (fun t sub => if (t.link m sub).phase = .down then t else t.linkDown m sub false) s

/-- A write of PORTp.CTRL (R83 to R85, R89). -/
def Chip.ctrlWrite (s : Chip) (p : Nat) (w : Word) : Chip :=
  if s.fusedUpper p then s.modeHeld p
  else
    let old := s.get (F.port0CtrlEnable p)
    let o := (s.setN (F.port0CtrlLoopback p) (bits w 9 8)).setN (F.port0CtrlEnable p) (bits w 7 0)
    let t := if bits w 9 8 ≠ 0 ∨ bits w 7 0 ≠ 0 then o.calUpset 5 (fun k x => k == 1 && (s.members p).contains x) else o
    let was := loopback (s.getN (F.port0CtrlLoopback p))
    let turns := (was == 1) != (loopback (bits w 9 8) == 1)
    let t := if turns then (t.members p).foldl (fun v m => if t.memberDark m then v else v.turnReceivers p m) t else t
    let falls := fun sub => bit old sub && !bit w sub
    let rises := fun sub => bit w sub && (!bit old sub || s.flag (F.port0StatusMapBad p))
    let u := (t.members p).foldl (fun v m => ((List.range (t.subports p)).filter falls).foldl (fun x sub => x.stopSub m sub) v) t
    if (List.range 8).any rises && !(s.members p).all s.memberDark then u.startSubs p rises else u

/-! ### Stopping a port (R95, R96, R144) -/

/-- A frame that a group reset of its ingress cuts: an accepted one breaks its promise where it has not started (R71), and
counts in ABORTED where it has (R66). -/
def Chip.cutByReset (s : Chip) (f : Frame) : Chip :=
  if f.started then s.abort f else s.endBroken f F.admSubBreakReset

/-- Withdraw the frames that one port's input store holds or that still arrive on it (R144), and end them under R137:
`ends` for the stop of a port, which is a failure at the ingress (R66, R95), else for a group reset. -/
def Chip.emptyInput (s : Chip) (p : Nat) (ends : Bool) : Chip :=
  (s.frames.filter (fun f => f.inPort == p && !f.direct && decide (f.crossed < f.cells) && !f.ended)).foldl (fun t f =>
    let u : Chip := { t with tails := Store.erase f.id t.tails }
    if ends then u.abort f else u.cutByReset f) s

/-- Flush the output queues of a port, the frames on their way to it included (R95). -/
def Chip.flushOutputs (s : Chip) (q : Nat) (brk : Nat → Nat → Fld) : Chip :=
  s.flush (fun f => f.outPort == q && !f.started && (f.link != 0 || s.inFlight f.id != 0)) brk (some F.port2Flushed)

/-- Stop one member (R95, R96): links drop with no hold; `count` adds LINK_DOWN for links that were up. A link that was
never up since a reset, or that a port reset dropped, stands as past its hold: frames to it count in DOWN_DISCARD, and
accepted ones under BREAK_LINK (log 91). -/
def Chip.stopMember (s : Chip) (m : Nat) (count : Bool) : Chip :=
  (List.range 8).foldl (fun t sub =>
    let was := t.getBit (F.port0StatusLinkUp m) sub
    let u := t.linkFalls m sub .down
    let v := (u.setBit (F.port0StatusHolding m) sub false).setLink m sub { u.link m sub with expired := true }
    if count && was then v.bump (F.port2LinkDown m sub) else v) s

/-- Stop a whole port named by its lower member. -/
def Chip.stopPort (s : Chip) (q : Nat) (count : Bool) (brk : Nat → Nat → Fld) : Chip :=
  let ms := s.members q
  let t := ms.foldl (fun u m => (u.emptyInput m true).stopMember m count) s
  let v := t.flushOutputs q brk
  if s.fusedLower q then
    let x := v.fuse q
    (v.setFuse q { x with low := { x.low with run := 0 }, up := { x.up with run := 0 }, lowIn := false, upIn := false }).fuseStatus q
  else v

end Sys2Proof.Machine
end

