-- ==== Sys2Proof/Machine/Time.lean ====
section
/-! DEFINITION. Network time, the hardware servo, steps, clapper alignment and conversion (R166 to R187), and the dolly's remaining offset (R227 to R229). -/

namespace Sys2Proof.Machine

/-! ### Settings of the servo (R180, R182, R183) -/

/-- Servo states (Table 8-3). -/
def stFree : Nat := 0
def stTrack : Nat := 1
def stCoast : Nat := 2

/-- The coast limit in clappers (R180). -/
def Chip.coastLimit (s : Chip) : Nat :=
  max 1 (s.getN F.time0ServoCfgCoastClappers) * (if s.flag F.time0ServoCfgCoastX16 then 16 else 1)

/-- JUMP_NS in units of 2^-16 ns. -/
def Chip.jumpLimit (s : Chip) : Nat := clamp 1 1000000000 (s.getN F.time0JumpCfgJumpNs) * 65536

/-- Shifts of R182. -/
def Chip.ishift (s : Chip) : Nat := clamp 8 40 (s.getN F.time0ServoCfgIshift)
def Chip.pshift (s : Chip) : Nat := max 4 (s.getN F.time0ServoCfgPshift)

/-- One rate unit of 2^-48 in the units of `y`. -/
def rateUnit : Nat := 62500 * 2 ^ 40

/-- The bound of y and of RATE (R182), in units of 2^-48. -/
def rateMax : Int := 0x7F800000

/-- RATE for a fractional frequency `v` in the units of `y` (R182). -/
def rateWord (v : Int) : Int := clampI (-rateMax) rateMax (roundTiesZero (-v) rateUnit)

/-- The planes are held: no director pair runs, or safe stop (R14, R249). -/
def Chip.planesHeld (s : Chip) : Bool := s.controlLost || s.safeStop

/-- A 64-bit value in two words. -/
def Chip.setWide (s : Chip) (lo hi : Fld) (v : Nat) : Chip :=
  (s.setN lo (v % 2 ^ 32)).setN hi (v / 2 ^ 32 % 2 ^ 32)

/-- VALID is SET and TRACK (R180). -/
def Chip.refreshValid (s : Chip) : Chip :=
  s.setB F.time0StatusValid (s.flag F.time0StatusSet && s.getN F.time0StatusState == stTrack)

/-- Put the servo in a state. -/
def Chip.servoState (s : Chip) (st : Nat) : Chip := (s.setN F.time0StatusState st).refreshValid

/-! ### The dolly (R227 to R229) -/

/-- Put the dolly's remaining offset, in units of 2^-48 ns, and what reports it (R228). -/
def Chip.setDolly (s : Chip) (d : Int) (held : Bool) : Chip :=
  let t := { s with time := { s.time with dolly := d } }
  ((t.setWide F.ref2DollyLo F.ref2DollyHi (twos 64 (d.tdiv (2 ^ 32)))).setB F.ref2TstatusDolly (d != 0)).setB
    F.ref2TstatusDollyHeld held

/-- One clapper's move of the dolly at slope v ps/s, in units of 2^-48 ns. -/
def dollyStep (v : Nat) : Int := freeDiv .dolly (v * 625 * 2 ^ 48 : Nat) (10 ^ 10)

/-- At a marker D moves toward 0, unless it is held or the dip state or R14 holds it (R228, R230). -/
def Chip.moveDolly (s : Chip) : Chip :=
  if s.flag F.ref2TstatusDollyHeld || s.inDip || s.planesHeld || s.time.dolly == 0 then s
  else
    let m := dollyStep (clamp 10 10000 (s.getN F.ref2TctrlDollyPs))
    let d := s.time.dolly
    s.setDolly (if 0 ≤ d then max 0 (d - m) else min 0 (d + m)) false

/-! ### Sources and results (R181, R183) -/

/-- The source that a time slot names, as TIME.REFUSE.SOURCE writes it (Table 8-5). -/
def Chip.slotSource (s : Chip) (k : Nat) : Nat :=
  if s.flag (F.ref2TslotCfgKind k) then 0x8000 + s.getN (F.ref2TslotCfgIndex k) else s.getN (F.ref2TslotCfgIndex k)

/-- No time slot is selected. -/
def Chip.noTimeSource (s : Chip) : Bool := s.getN F.ref2TstatusTselected == 15

/-- The source that a time slot measures: the one its registers named at the last marker (R221). -/
def Chip.candSource (s : Chip) (k : Nat) : Nat := (s.cand (10 + k)).source

/-- The time source: that of the selected time slot. -/
def Chip.servoSource (s : Chip) : Option Nat :=
  if s.noTimeSource then none else some (s.candSource (s.getN F.ref2TstatusTselected))

/-- The fresh result that a source holds in the time collector in this clapper. A PPSIN offers through
the selected slot, or else through the lowest slot that names it. -/
def Chip.resultOf (s : Chip) (src : Nat) : Option Post :=
  if src < 0x8000 then Store.find src s.posts
  else
    let sel := s.getN F.ref2TstatusTselected
    let names := fun k => s.candSource k == src && (Store.find k s.refs.ppsOffer).isSome
    let slot := if sel < 8 ∧ names sel = true then some sel else (List.range 8).find? names
    match slot with
    | some k => (Store.find k s.refs.ppsOffer).map (fun o => ⟨o.1, o.2⟩)
    | none => none

/-- A result that the servo may take (R181): not in the dip state, nor under R14, nor in the clapper
that begins at a step marker, nor with a stamp before the last step. -/
def Chip.takes (s : Chip) (p : Post) : Bool :=
  !s.inDip && !s.planesHeld && !s.time.stepClapper &&
    (match s.time.stepRaw with | some x => decide (0 ≤ rawDiff x p.stamp) | none => true)

/-- Record an offset and its source in JUMP and REFUSE.SOURCE. -/
def Chip.recordJump (s : Chip) (src : Nat) (e : Int) : Chip :=
  let t := (s.setWide F.time0JumpLo F.time0JumpHi (twos 64 e)).setN F.time0RefuseSource src
  { t with time := { t.time with lastAccepted := false } }

/-- JUMP_REFUSAL (R183). -/
def Chip.refuse (s : Chip) (src : Nat) (e : Int) : Chip :=
  let t := ((s.recordJump src e).setB F.time0StatusJumpRefused true).bump F.time0Refusals
  let run := t.getN F.time0RefuseRun
  if t.time.disq.contains src then t
  else
    let joins := decide (run ≠ 0 ∧ run < 16 ∧ (e - t.time.runFirst).natAbs ≤ t.jumpLimit)
    let r := if joins then run + 1 else 1
    let u := t.setN F.time0RefuseRun r
    let v := if joins then u else { u with time := { u.time with runFirst := e } }
    if r = 16 then
      let w := (v.setB F.time0StatusSrcDisq true).bump F.time0Disqualified
      { w with time := { w.time with disq := w.time.disq ++ [src] } }
    else v

/-- An accepted result (R180, R183, R227, R228): the state, and what the servo is fed in 2^-48 ns. -/
def Chip.acceptResult (s : Chip) (src : Nat) (e : Int) : Chip × Int :=
  let t := (s.setN F.time0RefuseRun 0).setN F.time0OffsetLast (twos 32 (clampI (-2147483647) 2147483647 e))
  let u := { t with time := { t.time with
    accepted := true, coast := 0
    lastAccepted := t.time.lastAccepted || src == t.getN F.time0RefuseSource } }
  let v := if u.getN F.time0StatusState = stCoast then u.servoState stTrack else u
  if v.flag F.ref2TstatusDollyHeld then
    let w := if v.time.reaim then v.bump F.ref2Reaims else v
    let x := w.setDolly (e * 2 ^ 32) false
    ({ x with time := { x.time with reaim := false } }, 0)
  else (v, e * 2 ^ 32 - v.time.dolly)

/-- Check one result (R183, R184): what it leaves, and what the servo is fed if it is accepted. -/
def Chip.checkResult (s : Chip) (src : Nat) (e : Int) : Chip × Option Int :=
  if s.getN F.time0StatusState = stFree then
    let t := s.recordJump src e
    ({ t with time := { t.time with offerHeld := true } }, none)
  else if s.jumpLimit < e.natAbs then (s.refuse src e, none)
  else if s.time.disq.contains src then (s.recordJump src e, none)
  else
    let a := s.acceptResult src e
    (a.1, some a.2)

/-- The equations of R182: from what the servo is fed to y and the rate for the next marker. -/
def Chip.slew (s : Chip) (fed : Option Int) : Chip :=
  match fed with
  | some e =>
    let y := clampI (-(rateMax * rateUnit)) (rateMax * rateUnit) (s.time.y + e * 2 ^ (40 - s.ishift))
    { s with time := { s.time with y := y, nextRate := some (rateWord (y + e * 2 ^ (40 - s.pshift))) } }
  | none => { s with time := { s.time with nextRate := some (rateWord s.time.y) } }

/-- The offset that a time slot's source gave in this clapper. -/
def Chip.slotPost (s : Chip) (k : Nat) : Option Post :=
  let src := s.candSource k
  if src < 0x8000 then Store.find src s.posts
  else (Store.find k s.refs.ppsOffer).map (fun o => ⟨o.1, o.2⟩)

/-- 16 s in raw units. -/
def sixteenSeconds : Int := 16 * 1000000000 * 65536

/-- Every time slot notes the offset that its source gave in this clapper, and forgets those older than 16 s (R219). -/
def Chip.noteOffers (s : Chip) : Chip :=
  (List.range 8).foldl (fun t k =>
    let old := (Store.read [] t.refs.offers k).filter (fun o => decide (rawDiff o.1 t.time.raw ≤ sixteenSeconds))
    let new := match t.slotPost k with
      | some p => old ++ [(p.stamp, p.e)]
      | none => old
    { t with refs := { t.refs with offers := Store.write [] t.refs.offers k new } }) s

/-- The servo goes on checking the results of every source it has disqualified, without applying any (R183). It does
so before it checks the time source, in the order of their disqualification (log 77). -/
def Chip.checkDisqualified (s : Chip) : Chip :=
  s.time.disq.foldl (fun t src =>
    match t.resultOf src with
    | some p => if s.servoSource ≠ some src ∧ t.takes p = true then (t.checkResult src p.e).1 else t
    | none => t) s

/-- SERVO_COMPUTE (R181 to R184), once per clapper: the servo checks the results and computes the rate for the
next marker. -/
def Chip.servo (s : Chip) : Chip :=
  if s.time.nextRate.isSome || !s.time.running || !s.ready then s
  else
    let src := s.servoSource
    let got := match src with
      | some x => (s.resultOf x).map (fun p => (x, p))
      | none => none
    let d := s.noteOffers.checkDisqualified
    let r : Chip × Option Int := match got with
      | some (x, p) => if s.takes p then d.checkResult x p.e else (d, none)
      | none => (d, none)
    let t := r.1
    let last := t.getN F.time0RefuseSource
    let seen := (t.resultOf last).isSome
    let u := { t with
      posts := [], refs := { t.refs with ppsOffer := [] }
      time := { t.time with srcIdle := if seen then 0 else t.time.srcIdle } }
    if s.inDip || s.planesHeld then { u with time := { u.time with nextRate := some u.time.cur.rate } }
    else if s.getN F.time0StatusState = stFree then { u with time := { u.time with nextRate := some 0 } }
    else u.slew r.2

def execServoCompute (s : State) : Host.Outcome State Fault Refusal := done s s.chip.servo

/-- COAST_ENTRY (R180): the limit of clappers without an accepted result is reached, or no time source
is selected, while network time is set. -/
def Chip.coastEntry (s : Chip) : Chip :=
  if s.flag F.time0StatusSet && s.getN F.time0StatusState == stTrack && !s.inDip && !s.planesHeld
      && (decide (s.coastLimit ≤ s.time.coast) || s.noTimeSource)
  then (s.servoState stCoast).bump F.time0Coasts else s

def execCoastEntry (s : State) : Host.Outcome State Fault Refusal := done s s.chip.coastEntry

/-- At a marker, the count of clappers without an accepted result (R180); it pauses in the dip state
and under R14. `dip` says that the clapper that ended was spent in the dip state. -/
def Chip.countCoast (s : Chip) (dip : Bool) : Chip :=
  if dip || s.planesHeld then s
  else { s with time := { s.time with coast := if s.time.accepted then 0 else s.time.coast + 1 } }

/-! ### Parameter sets and the clapper schedule (R170, R172, R173) -/

/-- One clapper of 62,500 ns in raw units. -/
def clapperUnits : Nat := 62500 * 65536

/-- The first TCLK edge after the anchor at which a parameter set reaches a network time `m`, as a raw
value (R170): net time at d reaches m when d (2^48 + rate) ≥ (m - base) 2^48. -/
def ParamSet.reach (q : ParamSet) (m : Nat) : Raw :=
  let k := ceilDiv ((m - q.base) * 2 ^ 48) ((2 ^ 48 + q.rate).toNat * 65536)
  q.anchor + BitVec.ofNat 64 (k * 65536)

/-- The clapper number of a whole multiple of 62,500 ns of network time. -/
def clapperNumber (m : Nat) : Nat := m / 65536 % 1000000000 / 62500

/-- A step marker is remembered while a stamp can be told to precede it: for 2^63 raw units less 2^50, so that no
comparison spans more than R167 allows. -/
def recallStep (marker : Option Raw) (anchor : Raw) : Option Raw :=
  match marker with
  | some x => if rawDiff x anchor < 2 ^ 63 - 2 ^ 50 then some x else none
  | none => none

/-- At a marker the parameters computed for it come into force (R170). RATE keeps its value where the dip state or
R14 holds it, even if a rate was computed before that began (R14, R181). -/
def Chip.switchParams (s : Chip) : Chip :=
  let q := s.time.cur
  let c : ParamSet := { q with
    anchor := s.time.nextAnchor, base := q.netAt s.time.nextAnchor
    rate := if s.inDip || s.planesHeld then q.rate else s.time.nextRate.getD q.rate }
  let t := { s with time := { s.time with
    cur := c, nextRate := none, stepClapper := false, stepRaw := recallStep s.time.stepRaw c.anchor } }
  t.setN F.time0ClapperNumber t.time.nextNumber

/-- The set of this marker enters the history (R187). -/
def Chip.keepParams (s : Chip) : Chip :=
  { s with time := { s.time with hist := (s.time.cur :: s.time.hist).take 256 } }

/-- Place the next marker (R170, R172, R173); `align` says that clappers are aligned at this one. -/
def Chip.placeMarker (s : Chip) (align : Bool) : Chip :=
  let q := s.time.cur
  let put := fun (x : Raw) (n c : Nat) =>
    { s with time := { s.time with nextAnchor := x, nextNumber := n, sinceAlign := c } }
  if align then
    let m := ceilDiv (q.base + clapperUnits) clapperUnits * clapperUnits
    ((put (q.reach m) (clapperNumber m) 0).setB F.time0ClapperAligned true).bump F.time0Realigns
  else if s.flag F.time0ClapperAligned then
    let m := (q.base / clapperUnits + 1) * clapperUnits
    put (q.reach m) (clapperNumber m) (s.time.sinceAlign + 1)
  else put (q.anchor + BitVec.ofNat 64 clapperUnits) ((s.getN F.time0ClapperNumber + 1) % 16000) (s.time.sinceAlign + 1)

/-! ### Steps (R185, R186) -/

/-- A step of network time at the marker now fired (R186 items 1 to 4), but for the servo state and
the clappers, which the marker settles after the selector has run. -/
def Chip.applyStep (s : Chip) (step : Int) : Chip :=
  let q := s.time.cur
  let c : ParamSet := { q with base := (((q.base : Int) + step) % (netMod : Int)).toNat
                               rate := rateWord s.time.y, isSet := true, era := q.era + 1 }
  let t := { s with time := { s.time with
    cur := c, stepClapper := true, stepRaw := some q.anchor, disq := [], coast := 0
    steps := s.time.steps + 1, reaim := false } }
  let u := (((t.setB F.time0StatusSet true).setB F.time0StatusTimeStepped true).bump F.time0Steps).setWide
    F.time0StepLastLo F.time0StepLastHi (twos 64 step)
  ((u.setN F.time0RefuseRun 0).setB F.time0StatusSrcDisq false).setDolly 0 false

/-- Every running gate list takes its place in the stepped time (R160). -/
def Chip.stepGates (s : Chip) (old : Nat) : Chip :=
  (List.range 48).foldl (fun t p => t.stepGate p old) s

/-- At a marker while network time is not valid, GATE_UPSET is set where the running list closes an
express class (R160). -/
def Chip.gateLoss (s : Chip) : Chip :=
  if s.flag F.time0StatusValid then s
  else (List.range 48).foldl (fun t p =>
    let g := (t.gate p).active
    if g.len ≠ 0 ∧ g.closesExpress = true then t.setB (F.admStatusGateUpset p) true else t) s

/-! ### Conversion (R187) -/

/-- CONVERT: capture the raw value, or lose the trigger while BUSY (R43). -/
def Chip.convert (s : Chip) : Chip :=
  if s.convBusy.isSome then s.setB (F.hdrPgStatusTrgLost 0x20) true
  else
    let x : Raw := s.get F.time0ConvRawHi ++ s.get F.time0ConvRawLo
    ({ s with convBusy := some x }).setB F.time0ConvStatusBusy true

/-- The set in force at a raw value: the newest whose marker lies at or before it. -/
def Chip.setAt (s : Chip) (x : Raw) : Option ParamSet :=
  s.time.hist.find? (fun q => decide (0 ≤ rawDiff q.anchor x))

/-- CONVERT_DONE: 0 OK, 1 EXPIRED, 2 NOT_SET. -/
def Chip.convertDone (s : Chip) : Chip :=
  match s.convBusy with
  | none => s
  | some x =>
    let q := s.setAt x
    let res := match q with | none => 1 | some c => if c.isSet then 0 else 2
    let val := match q with | some c => if c.isSet then c.netAt x else 0 | none => 0
    let since := match q with
      | some c => c.era != s.time.cur.era
      | none => (match s.time.stepRaw with | some m => decide (0 < rawDiff x m) | none => false)
    let t := { s with convBusy := none, conv := val }
    ((t.setN F.time0ConvStatusResult res).setB F.time0ConvStatusBusy false).setB F.time0ConvStatusStepSince
      since

def execConvertDone (s : State) : Host.Outcome State Fault Refusal := done s s.chip.convertDone

/-! ### Overruns (R174) -/

/-- Count the overrun of an agent (R174). -/
def Chip.overrun (s : Chip) : Chip := s.bump F.time0Overruns

/-- GAFFER_OVERRUN (R174). -/
def Chip.gafferOverrun (s : Chip) : Chip :=
  if !s.coresRun then s else (s.setB F.time0ClapperOverrunGaffer true).overrun

def execGafferOverrun (s : State) : Host.Outcome State Fault Refusal := done s s.chip.gafferOverrun

end Sys2Proof.Machine
end

