-- ==== Sys2Proof/Machine/Sessions.lean ====
section
/-! DEFINITION. Timing sessions, Speid Phase Link, the grip engines, the session window and ESMC (R189 to R215). -/

namespace Sys2Proof.Machine

/-! ### Sessions -/

/-- The session of a number, if open. -/
def Chip.session (s : Chip) (n : Nat) : Option Session := Store.find n s.sessions

/-- Put an open session. -/
def Chip.putSession (s : Chip) (n : Nat) (x : Session) : Chip := { s with sessions := Store.insert n x s.sessions }

/-- Clappers between messages of one type (R195): 16,000 times 2 to the logMessageInterval. -/
def interval (log : Int) : Nat := if 0 ≤ log then 16000 * 2 ^ log.toNat else 16000 / 2 ^ (-log).toNat

/-- Group whose grip engine runs a session (R189). -/
def Session.group (x : Session) : Nat := cfgPort x.cfg / 6

/-- The port whose ledger entry and lane a session uses: the carrying member's (R208). -/
def Session.carrier (x : Session) : Nat := if x.member then cfgPort x.cfg + 6 else cfgPort x.cfg

/-- Picoseconds in units of 2^-16 ns. -/
def psUnits (ps : Int) : Int := freeDiv .delay (ps * 65536) 1000

/-- A raw value moved by picoseconds (R196). -/
def movedBy (x : Raw) (ps : Int) : Raw := x + BitVec.ofInt 64 (psUnits ps)

/-- ASYM of a session's ledger entry, ps. -/
def Chip.asymOf (s : Chip) (x : Session) : Int := signed 24 (s.getN (F.pers2Asym x.carrier (cfgSub x.cfg)))

/-- Network time of a stamp with the parameters in force at its raw instant (R196). -/
def Chip.stampNet (s : Chip) (x : Raw) : Nat := ((s.setAt x).getD s.time.cur).netAt x

/-- A half exchange is usable while its completion lies within two of its intervals (R197). -/
def Half.usable (h : Half) (log : Int) : Bool := decide (h.age ≤ 2 * interval log)

/-- One-way value of a complete half: later less earlier time less the correction (R197). -/
def Half.oneWay (h : Half) : Int := h.b - h.a - h.corr

/-- The two one-way values of R197, if both pairs are usable. -/
def Session.values (x : Session) : Option (Int × Int) :=
  match x.sync, x.dly with
  | some a, some b =>
    if a.usable (cfgLogSync x.cfg) && b.usable (cfgLogDelay x.cfg) then some (a.oneWay, b.oneWay) else none
  | _, _ => none

/-- Offset of R197 from the one-way values and ASYM in ps. -/
def offset1588 (sIn sOut asym : Int) : Int := freeDiv .offset ((sIn - sOut) * 1000 - 2 * asym * 65536) 2000

/-! ### Speid Phase Link (R199 to R201), in units of 2^-32 / 5 ns -/

/-- The phase clock's period, one unit of 2^-16 ns, one ps thousandth count, and the limits of R201. -/
def speidPeriod : Nat := 32 * 2 ^ 32
def speidUnit : Nat := 5 * 2 ^ 16
def speidNs : Nat := 5 * 2 ^ 32
def slipLimit : Nat := 4 * 2 ^ 32
def pairLimit : Nat := 8 * 2 ^ 32

/-- The clappers since the marker that a TLV reports. -/
def tlvSince (t : SpeidTlv) (k : Nat) : Nat := (k + 16000 - t.clapper % 16000) % 16000

/-- A usable TLV (R200, Table 9-4). -/
def tlvUsable (t : SpeidTlv) (k : Nat) : Bool := t.version == 1 && t.aligned && decide (tlvSince t k ≤ 256)

/-- M of the running clapper (R199): network time less raw time at its marker, modulo the period. -/
def Chip.nearM (s : Chip) : Int := (((s.time.cur.base : Int) - s.time.cur.anchor.toNat) * speidUnit) % speidPeriod

/-- The two phase residues of R200 at the running clapper, from the near phases and the far end's TLV. -/
def Chip.residues (s : Chip) (t : SpeidTlv) (phiTx phiRx : Nat) : Int × Int :=
  let n : Int := tlvSince t (s.getN F.time0ClapperNumber)
  let txFar := (t.phiTx * speidUnit : Nat) + t.dphiTx * 5 * n
  let rxFar := (t.phiRx * speidUnit : Nat) + t.dphiRx * 5 * n
  let mFar := (t.modM * speidUnit : Nat) + freeDiv .farRate (n * 312500 * t.rate) 65536
  let mNear := s.nearM
  ((((phiRx * speidUnit : Nat) : Int) - txFar + mNear - mFar) % speidPeriod,
   (rxFar - ((phiTx * speidUnit : Nat) : Int) - mNear + mFar) % speidPeriod)

/-- The change of a residue closest to zero. -/
def closest (old new : Int) : Int :=
  let d := (new - old) % speidPeriod
  if (speidPeriod : Int) < 2 * d then d - speidPeriod else d

/-- A time of Speid in units of 2^-16 ns (R199, R201). -/
def speidRound (v : Int) : Int := freeDiv .phase v speidUnit

/-- Whole periods of a one-way value over a residue, and what is left between them (R201). -/
def resolve (v w : Int) : Int × Int :=
  let n := roundNear (v * speidUnit - w) speidPeriod
  (n, v * speidUnit - (w + n * speidPeriod))

/-- Speid states of Table 9-8. -/
def spOff : Nat := 0
def spResolving : Nat := 1
def spLocked : Nat := 2
def spHold : Nat := 3

/-- Back to RESOLVING: the counts are unresolved and the run begins again (R201). -/
def Session.toResolving (x : Session) : Session :=
  { x with speid := spResolving, run := 0, nIn := none, nOut := none }

/-- A completed pair tests the counts (R201): RESOLVING counts its run, LOCKED falls back on a failure. -/
def Chip.speidPair (s : Chip) (x : Session) (v : Int × Int) : Chip × Session :=
  let i := resolve v.1 x.wIn
  let o := resolve v.2 x.wOut
  let ok := decide (i.2.natAbs ≤ pairLimit ∧ o.2.natAbs ≤ pairLimit)
  let g := x.group
  if x.tlv.isNone || (x.speid != spResolving && x.speid != spLocked) then (s, x)
  else if x.speid = spLocked then (if ok then (s, x) else (s.bump (F.grp2Residual g), x.toResolving))
  else if !ok then (s.bump (F.grp2Residual g), x.toResolving)
  else
    let run := if x.nIn = some i.1 ∧ x.nOut = some o.1 then x.run + 1 else 1
    let y := { x with run := run, nIn := some i.1, nOut := some o.1 }
    if 4 ≤ run then
      (s, { y with
        speid := spLocked, dIn := speidRound (x.wIn + i.1 * speidPeriod), dOut := speidRound (x.wOut + o.1 * speidPeriod) })
    else (s, y)

/-- A pair of R197 completes, on the upper member or not: one of the member that does not carry the session gives no
fresh offset (R208). -/
def Chip.pairDone (s : Chip) (x : Session) (up : Bool) : Chip × Session :=
  if up ≠ x.member then (s, x)
  else
    let y := { x with newPair := true }
    match y.values with
    | some v => if cfgSpeid y.cfg then s.speidPair y v else (s, y)
    | none => (s, y)

/-- The phases that the bank latched at the running clapper's marker, in each clapper once, whatever its engine does: those
that the command brings, else those of the marker before (log 92). -/
def Session.latch (x : Session) (ph : Option PhaseIn) : Session :=
  let p := match ph with
    | some f => (f.phiTx, f.phiRx)
    | none => x.phases.headD (0, 0)
  { x with phases := (p :: x.phases).take 17 }

/-- The residues of a session at its latest phases. -/
def Chip.sessionResidues (s : Chip) (x : Session) (t : SpeidTlv) : Int × Int :=
  s.residues t (x.phases.headD (0, 0)).1 (x.phases.headD (0, 0)).2

/-- The one-way delays of a LOCKED session advance by the changes of its residues (R201). -/
def Session.advance (x : Session) (w : Int × Int) : Session :=
  { x with
    wIn := w.1, wOut := w.2
    dIn := x.dIn + speidRound (closest x.wIn w.1), dOut := x.dOut + speidRound (closest x.wOut w.2) }

/-- A session's TLV is no longer usable: a LOCKED session holds (R200, R201). -/
def Session.dropTlv (x : Session) : Session := { x with tlv := none, speid := if x.speid = spLocked then spHold else x.speid }

/-- Step 1 of R203: advance a session's Speid phases by those its bank latched (R201). -/
def Chip.scanSpeid (s : Chip) (x : Session) : Chip × Session :=
  let k := s.getN F.time0ClapperNumber
  match x.tlv with
  | none => (s, x)
  | some t =>
    if !tlvUsable t k then (s, x.dropTlv)
    else
      let w := s.sessionResidues x t
      if x.speid = spLocked then
        if slipLimit < (closest x.wIn w.1).natAbs ∨ slipLimit < (closest x.wOut w.2).natAbs then
          (s.bump (F.grp2Slips x.group), { x.toResolving with wIn := w.1, wOut := w.2 })
        else (s, x.advance w)
      else if x.speid = spHold then (s, x)
      else (s, { x with wIn := w.1, wOut := w.2 })

/-- A LOCKED session's residues, moved by less than 0.8 ns across a gap, let it go on (R201, R205). -/
def Session.joins (x : Session) (w : Int × Int) : Bool :=
  decide ((closest x.wIn w.1).natAbs < slipLimit ∧ (closest x.wOut w.2).natAbs < slipLimit)

/-- A usable TLV arrives (R200, R201). -/
def Chip.takeTlv (s : Chip) (x : Session) (t : SpeidTlv) : Chip × Session :=
  if !cfgSpeid x.cfg || !tlvUsable t (s.getN F.time0ClapperNumber) then (s, x)
  else
    let y := { x with tlv := some t, tlvSeen := 0 }
    let w := s.sessionResidues x t
    if x.speid = spOff then (s, { y.toResolving with wIn := w.1, wOut := w.2 })
    else if x.speid = spHold then
      if x.joins w then (s, { y.advance w with speid := spLocked })
      else (s, { y.toResolving with wIn := w.1, wOut := w.2 })
    else if x.speid = spLocked then
      match t.locked, t.nRx with
      | true, some n => if some n = x.nOut then (s, y) else (s.bump (F.grp2AgreeFail x.group), y.toResolving)
      | _, _ => (s, y)
    else (s, { y with wIn := w.1, wOut := w.2 })

/-! ### Messages (R191 to R195, R197, R208) -/

/-- Kinds that a role receives (Table 9-1). -/
def kindFits (master : Bool) : PtpKind → Bool
  | .sync | .followUp | .delayResp | .announce => !master
  | .delayReq => master
  | .signaling => true
  | .unsupported => false

/-- A message matches a session's ingress, transport and domain (R192). -/
def Chip.msgFits (s : Chip) (m : PtpMsg) (x : Session) : Bool :=
  cfgPort x.cfg == s.lowerOf m.port.val && cfgSub x.cfg == m.sub.val && cfgTransport x.cfg == m.transport
    && cfgDomain x.cfg == m.domain.toNat
    && (m.transport != 1 || cfgVid x.cfg == m.vid.toNat)
    && (m.transport != 2 || cfgLabel x.cfg == m.label.toNat)
    && (x.peer == 0 || x.peer == m.source)

/-- Put the depth of a group's queue (Table 9-9). -/
def Chip.setQueue (s : Chip) (g : Nat) (q : List QMsg) : Chip :=
  let t := { s with rxq := Store.write [] s.rxq g q }
  (t.show (F.grp2GripRxqDepth g) q.length).show (F.grp2GripRxqPeak g) (max (t.getN (F.grp2GripRxqPeak g)) q.length)

/-- PTP_MESSAGE_RX (R192, R193, R203): a message that finds the queue full is lost, and its slate with it (R179). -/
def Chip.ptpRx (s : Chip) (m : PtpMsg) : Chip :=
  let p := m.port.val
  let g := s.lowerOf p / 6
  if !s.receives p m.sub.val then s
  else
    let raw := s.rxStamp p m.sub.val m.stamp
    let t := (s.slate 0 (p * 8 + m.sub.val) (s.portFlags p m.stamp) raw).1
    if m.kind = .unsupported ∨ m.badTlv ∨ (m.transport = 2 ∧ ¬ m.labelBottom) then t.bump (F.grp2Unsupported g)
    else
      match t.sessions.find? (fun e => t.msgFits m e.2) with
      | none => t.bump (F.grp2NoSession g)
      | some (n, x) =>
        let q := Store.read [] t.rxq g
        if !kindFits (cfgMaster x.cfg) m.kind then t.bump (F.grp2Unsupported g)
        else if 8192 ≤ q.length then (t.slateIsLost 0 (p * 8 + m.sub.val)).bump (F.grp2RxqDrop g)
        else
          let moved := movedBy raw (-(t.getN (F.pers2ExtExtRx p m.sub.val) : Int))
          let u := (t.bump (F.grp2MsgRx g)).setQueue g (q ++ [⟨n, m, moved, 0⟩])
          if x.peer = 0 then u.putSession n { x with peer := m.source, learned := true } else u

def execPtpMessageRx (m : PtpMsg) (s : State) : Host.Outcome State Fault Refusal := done s (s.chip.ptpRx m)

/-- The carrying member changes (R208). -/
def Chip.memberChange (s : Chip) (x : Session) (up : Bool) : Chip × Session :=
  if x.member = up then (s, x)
  else
    let y := { x with
      member := up, syncPend := none, dlyPend := none, newPair := false, tlv := none, phases := x.phases.take 1 }
    (s.bump (F.grp2MemberChanges x.group), if x.speid = spOff then y else y.toResolving)

/-- The member that carries a session (R92): the lower one while its link is up, else the upper one. -/
def Chip.carriesUpper (s : Chip) (x : Session) : Bool :=
  s.fusedLower (cfgPort x.cfg) && !s.getBit (F.port0StatusLinkUp (cfgPort x.cfg)) 0

/-- Whole nanoseconds of a network time, which a timestamp carries, and its fraction, which correctionField
carries (R195), in units of 2^-16 ns. -/
def wholeNs (t : Nat) : Nat := t / 65536 * 65536
def fracNs (t : Nat) : Nat := t % 65536

/-- The clockClass, clockAccuracy and stepsRemoved that a session has recorded (R194, Table 9-8). -/
def Session.rxClass (x : Session) : BitVec 8 := match x.ann with | some a => a.clockClass | none => 0
def Session.rxAccuracy (x : Session) : BitVec 8 := match x.ann with | some a => a.accuracy | none => 0
def Session.rxSteps (x : Session) : BitVec 16 := match x.ann with | some a => a.steps | none => 0

/-- The effect of one message on its session (R194, R195, R197), at its moved stamp, `age` clappers after it arrived. -/
def Chip.handleMsg (s : Chip) (x : Session) (m : PtpMsg) (stamp : Raw) (age : Nat) (up : Bool) : Chip × Session :=
  match m.kind with
  | .sync =>
    let h : Half := ⟨m.time, s.stampNet stamp, m.corr, m.seqId, up, age, stamp⟩
    if m.twoStep then (s, { x with syncPend := some h })
    else s.pairDone { x with sync := some h, syncPend := none } up
  | .followUp =>
    match x.syncPend with
    | some h =>
      if h.seqId = m.seqId then
        (if h.upper = up then
          s.pairDone { x with sync := some { h with a := m.time, corr := h.corr + m.corr, age := age }, syncPend := none } up
         else (s, { x with syncPend := none }))
      else (s, x)
    | none => (s, x)
  | .delayResp =>
    match x.dlyPend with
    | some h =>
      if m.requester ∧ h.seqId = m.seqId then
        (if h.upper = up then
          s.pairDone { x with dly := some { h with b := m.time, corr := m.corr, age := age }, dlyPend := none } up
         else (s, { x with dlyPend := none }))
      else (s, x)
    | none => (s, x)
  | .delayReq => (s, { x with asked := x.asked ++ [⟨m.seqId, m.source, stamp, m.corr⟩] })
  | .announce => (s, { x with ann := some m.ann, annTimeout := false })
  | .signaling => (s, { x with l1 := match m.l1 with | some t => if t.ope then x.l1 else some t | none => x.l1 })
  | .unsupported => (s, x)

/-- Handle one queued message: one whose session has closed since it arrived matches none (log 119). An Announce of a class above the limit fails the test of the slots that the session
serves (R220). -/
def Chip.handleQueued (s : Chip) (q : QMsg) : Chip :=
  match s.session q.session with
  | none => s.bump (F.grp2NoSession (s.lowerOf q.msg.port / 6))
  | some x =>
    let b := match q.msg.speid with
      | some t => s.takeTlv x t
      | none => (s, x)
    let c := b.1.handleMsg b.2 q.msg q.stamp q.age (s.fusedUpper q.msg.port.val)
    let d := c.1.putSession q.session c.2
    if q.msg.kind = .announce ∧ s.getN F.ref2TqualCfgClassMax < q.msg.ann.clockClass.toNat then d.slotsLoseAnnounce q.session else d

/-! ### What a session sends (R191, R193 to R196, R199) -/

/-- A message of session n is scheduled in clapper c since the last alignment (R195). -/
def isDue (n c : Nat) (log : Int) : Bool := c % interval log == n % interval log

/-- A frame leaves a session's subport on its carrying member (R193, Table 9-2). -/
def Chip.ptpSend (s : Chip) (x : Session) (a : LineStamp) (seqId : BitVec 16) (b : SentBody) : Chip :=
  let c := x.cfg
  let mpls := cfgTransport c == 2
  let dmac := if mpls || cfgDaSel c == 2 then nhDmac (s.tentry 1 (cfgNh c))
    else if cfgDaSel c = 1 then 0x011B19000000 else peerAddress
  (s.emit x.carrier (cfgSub c) a (fun w =>
    ⟨x.carrier, cfgSub c, dmac, if mpls then 0x8847 else 0x88F7,
     if cfgTransport c = 1 then some (BitVec.ofNat 12 (cfgVid c)) else none,
     if mpls then some (labelEntry (cfgLabel c) 7 (cfgTtl c) true) else none, cfgDomain c, seqId, b, w⟩)).bump
    (F.grp2MsgTx x.group)

/-- The moved TX stamp of a frame that a session sends (R196). -/
def Chip.sentStamp (s : Chip) (x : Session) (a : LineStamp) : Raw :=
  movedBy (s.txStamp x.carrier (cfgSub x.cfg) a) (s.getN (F.pers2ExtExtTx x.carrier (cfgSub x.cfg)) : Int)

/-- The slope of a phase over the phases of the last 16 clappers, newest first, in 2^-32 ns per clapper (R199): its
change per clapper where it moves evenly, else a value that the spec leaves open. -/
def phaseSlope (l : List Nat) : Int :=
  let steps := (l.zip l.tail).map (fun x => closest (x.2 * speidUnit) (x.1 * speidUnit))
  match steps with
  | [] => Config.phaseSlope l
  | d :: r => if r.all (fun y => y == d) then freeDiv .phase d 5 else Config.phaseSlope l

/-- The Speid TLV that a session attaches (Table 9-4). -/
def Chip.speidTlv (s : Chip) (x : Session) : Option SpeidTlv :=
  if !cfgSpeid x.cfg then none
  else some {
    version := 1, aligned := s.flag F.time0ClapperAligned, locked := x.speid == spLocked, member := x.member
    clapper := s.getN F.time0ClapperNumber, phiTx := (x.phases.headD (0, 0)).1, phiRx := (x.phases.headD (0, 0)).2
    dphiTx := phaseSlope (x.phases.map (fun p => p.1)), dphiRx := phaseSlope (x.phases.map (fun p => p.2))
    modM := (speidRound s.nearM).toNat, rate := s.time.cur.rate
    nRx := if x.speid = spLocked then x.nIn else none }

/-- The Announce of the time source, where it is a session (R194). -/
def Chip.sourceAnnounce (s : Chip) : Option Announce :=
  match s.servoSource with
  | some n => if n < 0x8000 then (match s.session n with | some y => y.ann | none => none) else none
  | none => none

/-- The ANN fields of a session's entry, with the fields that R194 gives beside them (Table 9-8). -/
def Chip.ownAnnounce (s : Chip) (c : BitVec 256) : Announce :=
  { clockClass := BitVec.ofNat 8 (bits c 79 72), accuracy := BitVec.ofNat 8 (bits c 71 64)
    variance := BitVec.ofNat 16 (bits c 63 48), priority1 := BitVec.ofNat 8 (bits c 47 40)
    priority2 := BitVec.ofNat 8 (bits c 39 32), identity := s.identity, steps := BitVec.ofNat 16 (bits c 31 16)
    utcOffset := 37, flags := (Config.annFlags &&& 0xF3) ||| 0x08, timeSource := BitVec.ofNat 8 (bits c 15 8) }

/-- What a MASTER session sends in an Announce (R194). -/
def Chip.announceOf (s : Chip) (x : Session) : Announce :=
  match (if cfgAnnForce x.cfg then none else s.sourceAnnounce) with
  | some a => { a with steps := a.steps + 1 }
  | none => s.ownAnnounce x.cfg

/-- The messages of each type that a session sends. -/
def Chip.sendSignaling (s : Chip) (x : Session) (a : LineStamp) : Chip × Session :=
  (s.ptpSend x a x.seqs.signaling (.signaling ⟨true, true, true, false⟩),
   { x with seqs := { x.seqs with signaling := x.seqs.signaling + 1 } })
def Chip.sendSync (s : Chip) (x : Session) (a : LineStamp) : Chip × Session :=
  let t := s.stampNet (s.sentStamp x a)
  (s.ptpSend x a x.seqs.sync (.sync (wholeNs t) (fracNs t) (s.speidTlv x)),
   { x with seqs := { x.seqs with sync := x.seqs.sync + 1 } })
def Chip.sendAnnounce (s : Chip) (x : Session) (a : LineStamp) : Chip × Session :=
  (s.ptpSend x a x.seqs.announce (.announce (s.announceOf x)),
   { x with seqs := { x.seqs with announce := x.seqs.announce + 1 } })

/-- A Delay_Req: t3 of the exchange is the originTimestamp as sent, since its fraction comes back in the correctionField
of the Delay_Resp (log 93). -/
def Chip.sendDelayReq (s : Chip) (x : Session) (a : LineStamp) : Chip × Session :=
  let moved := s.sentStamp x a
  let t := s.stampNet moved
  (s.ptpSend x a x.seqs.delay (.delayReq (wholeNs t) (fracNs t) (s.speidTlv x)),
   { x with
     dlyPend := some ⟨wholeNs t, 0, 0, x.seqs.delay, x.member, 0, moved⟩
     seqs := { x.seqs with delay := x.seqs.delay + 1 } })

/-- The answer to a Delay_Req (R195): its correctionField is that of the request less the fraction of t4 (log 93). -/
def Chip.sendDelayResp (s : Chip) (x : Session) (a : LineStamp) (q : Asked) : Chip :=
  let t := s.stampNet q.stamp
  s.ptpSend x a q.seqId (.delayResp (wholeNs t) (q.corr - fracNs t) q.source)

/-- One message, where it is called for. -/
def sendIf (b : Bool) (f : Chip → Session → Chip × Session) (c : Chip × Session) : Chip × Session :=
  if b then f c.1 c.2 else c

/-- What the schedule calls for in one clapper (R195, Table 9-1). -/
def Chip.sendScheduled (n : Nat) (a : LineStamp) (c : Chip × Session) (k : Nat) : Chip × Session :=
  let cfg := c.2.cfg
  let d := sendIf (cfgProfile cfg == 0 && isDue n k (cfgLogAnnounce cfg)) (fun t x => t.sendSignaling x a) c
  if cfgMaster cfg then
    sendIf (isDue n k (cfgLogAnnounce cfg)) (fun t x => t.sendAnnounce x a)
      (sendIf (isDue n k (cfgLogSync cfg)) (fun t x => t.sendSync x a) d)
  else sendIf (isDue n k (cfgLogDelay cfg)) (fun t x => t.sendDelayReq x a) d

/-- Send what a session's schedule and its received Delay_Reqs call for, with the sends that an overrun left (R195,
R205). -/
def Chip.sendDue (s : Chip) (n : Nat) (x : Session) (ph : Option PhaseIn) : Chip × Session :=
  let rest := { x with asked := [], owed := [] }
  if !s.linkUp (cfgPort x.cfg) (cfgSub x.cfg) then (s, rest)
  else
    let a := match ph with | some f => f.tx | none => s.stampNow
    let c := (x.owed ++ [s.time.sinceAlign]).foldl (Chip.sendScheduled n a) (s, rest)
    (x.asked.foldl (fun t q => t.sendDelayResp c.2 a q) c.1, c.2)

/-! ### The grip engine's clapper (R203, R205, R206) -/

/-- The grip engine of a group has its clock and its die: it is not halted, dark or in reset. -/
def Chip.engineHere (s : Chip) (g : Nat) : Bool :=
  s.coresRun && !s.power.standby && !s.groupIsDark g && !s.groupInReset g

/-- The grip engine of a group can work in this clapper. -/
def Chip.gripRuns (s : Chip) (g : Nat) : Bool :=
  s.engineHere g && !s.flag (F.grp2GripStatusRestarting g) && !bit s.cores.gripDone g

/-- The numbers of the open sessions of a group. -/
def Chip.groupSessions (s : Chip) (g : Nat) : List Nat :=
  (s.sessions.filter (fun e => e.2.group == g)).map (fun e => e.1)

/-- The earlier of two stamps. -/
def earlier (a b : Raw) : Raw := if 0 ≤ rawDiff a b then a else b

/-- The fresh result of a session in this clapper, if it has one (R197, R201). -/
def Chip.freshResult (s : Chip) (x : Session) : Option Result :=
  let asym := s.asymOf x
  if cfgMaster x.cfg then none
  else if cfgSpeid x.cfg && x.speid == spLocked then
    some ⟨offset1588 x.dIn x.dOut asym, freeDiv .meanPath (x.dIn + x.dOut) 2, s.time.cur.anchor⟩
  else if x.newPair then
    match x.values, x.sync, x.dly with
    | some v, some a, some b => some ⟨offset1588 v.1 v.2 asym, freeDiv .meanPath (v.1 + v.2) 2, earlier a.stamp b.stamp⟩
    | _, _, _ => none
  else none

/-- Step 3 of R203: a session's result is finished. -/
def Chip.finishResult (s : Chip) (x : Session) : Session :=
  match s.freshResult x with
  | some r => { x with finished := some r, newPair := false }
  | none => { x with newPair := false }

/-- A session that posts nothing fresh grows older (R206). -/
def Session.notFresh (x : Session) : Session := { x with fresh := false, age := min 0xFFFFFF (x.age + 1) }

/-- A session's finished result is posted to the time collector, with FRESH (R205, R206). -/
def Chip.postResult (s : Chip) (n : Nat) (x : Session) : Chip × Session :=
  match x.finished with
  | some r =>
    ({ s with posts := Store.insert n ⟨r.e, r.stamp⟩ s.posts },
     { x with e := r.e, delay := r.delay, fresh := true, age := 0, finished := none })
  | none => (s, x.notFresh)

/-- One session's part of a step of the grip engine. -/
def Chip.eachSession (s : Chip) (ns : List Nat) (f : Chip → Nat → Session → Chip × Session) : Chip :=
  ns.foldl (fun t n =>
    match t.session n with
    | some x => let a := f t n x; a.1.putSession n a.2
    | none => t) s

/-- The first part of a session's clapper: the member that carries it, and its phases (R203, R208). -/
def Chip.scanSession (s : Chip) (x : Session) : Chip × Session :=
  let a := s.memberChange x (s.carriesUpper x)
  if cfgSpeid x.cfg then a.1.scanSpeid a.2 else a

/-- The phases latched for one session. -/
def phasesOf (phases : List PhaseIn) (n : Nat) : Option PhaseIn := phases.find? (fun f => f.session.val == n)

/-- The bank of a group latches the phases of its sessions with SPEID_EN = 1 (R199). -/
def Chip.latchPhases (s : Chip) (g : Nat) (phases : List PhaseIn) : Chip :=
  s.eachSession (s.groupSessions g) (fun t n x => (t, if cfgSpeid x.cfg then x.latch (phasesOf phases n) else x))

/-- The work of a clapper in its order (R203), up to a number of items: each session's scan, each session's sends, at
most 140 messages from the head of the queue, each session's result. -/
def Chip.gripWork (s : Chip) (g : Nat) (phases : List PhaseIn) (items : Nat) : Chip :=
  let ns := s.groupSessions g
  let k := ns.length
  let s1 := s.eachSession (ns.take items) (fun t _ x => t.scanSession x)
  let s2 := s1.eachSession (ns.take (items - k)) (fun t n x => t.sendDue n x (phasesOf phases n))
  let q := Store.read [] s2.rxq g
  let due := min 140 q.length
  let h := min due (items - 2 * k)
  let s3 := (q.take h).foldl (fun t m => t.handleQueued m) (s2.setQueue g (q.drop h))
  s3.eachSession (ns.take (items - 2 * k - due)) (fun t _ x => (t, t.finishResult x))

/-- An engine's work of this clapper is over. -/
def Chip.gripOver (s : Chip) (g : Nat) : Chip := { s with cores := { s.cores with gripDone := setIn s.cores.gripDone g true } }

/-- GRIP_CLAPPER (R203, R206): the whole work of a clapper, then the post. -/
def Chip.gripClapper (s : Chip) (g : Nat) (phases : List PhaseIn) : Chip :=
  if !s.gripRuns g then s
  else
    let ns := s.groupSessions g
    let t := (s.latchPhases g phases).gripWork g phases (3 * ns.length + 140)
    (t.eachSession ns (fun u n x => u.postResult n x)).gripOver g

def execGripClapper (g : Fin 8) (phases : List PhaseIn) (s : State) : Host.Outcome State Fault Refusal :=
  done s (s.chip.gripClapper g phases)

/-- GRIP_OVERRUN (R18, R174, R205): the engine has reached a number of items and posts nothing. Its queue keeps the
messages that it has not handled, the sends that it has not reached are owed, and the results that it has finished
are posted with the next; a restarting engine reaches nothing. -/
def Chip.gripOverrun (s : Chip) (g : Nat) (phases : List PhaseIn) (reached : Nat) : Chip :=
  if !s.engineHere g || bit s.cores.gripDone g then s
  else
    let n := if s.gripRuns g then reached else 0
    let ns := s.groupSessions g
    let t := (((s.setBit F.time0ClapperOverrunGrip g true).overrun).latchPhases g phases).gripWork g phases n
    let u := t.eachSession (ns.drop (n - ns.length)) (fun c _ x => (c, { x with owed := x.owed ++ [c.time.sinceAlign] }))
    (u.eachSession ns (fun c _ x => (c, x.notFresh))).gripOver g

def execGripOverrun (o : Overrun) (s : State) : Host.Outcome State Fault Refusal :=
  done s (s.chip.gripOverrun o.engine o.phases o.reached)

/-- GRIP_FAULT (R205). -/
def Chip.gripFault (s : Chip) (g : Nat) : Chip :=
  if !s.engineHere g || s.flag (F.grp2GripStatusRestarting g) then s
  else ((s.setB (F.grp2GripStatusRestarting g) true).bump (F.grp2Restarts g)).fault fCore

def execGripFault (g : Fin 8) (s : State) : Host.Outcome State Fault Refusal := done s (s.chip.gripFault g)

/-- A LOCKED session resumes: it stays LOCKED if its residues, by a TLV still usable, moved less than 0.8 ns (R200, R205). -/
def Chip.resumeSpeid (s : Chip) (x : Session) (ph : Option PhaseIn) : Session :=
  match x.tlv with
  | some t =>
    let w := s.sessionResidues (x.latch ph) t
    if !tlvUsable t (s.getN F.time0ClapperNumber) then x.dropTlv
    else if x.speid ≠ spLocked then x
    else if x.joins w then x.advance w
    else { x.toResolving with wIn := w.1, wOut := w.2 }
  | none => x

/-- GRIP_RESTART_DONE (R205). -/
def Chip.gripRestarted (s : Chip) (g : Nat) (phases : List PhaseIn) : Chip :=
  if !s.engineHere g || !s.flag (F.grp2GripStatusRestarting g) then s
  else
    (s.setB (F.grp2GripStatusRestarting g) false).eachSession (s.groupSessions g) (fun t n x =>
      (t, if cfgSpeid x.cfg then t.resumeSpeid x (phasesOf phases n) else x))

def execGripRestartDone (g : Fin 8) (phases : List PhaseIn) (s : State) : Host.Outcome State Fault Refusal :=
  done s (s.chip.gripRestarted g phases)

/-- A session grows one clapper older at a marker (R197, R201, R206): `idle` says that its engine posted
nothing in the clapper now ending. -/
def Session.older (x : Session) (idle : Bool) : Session :=
  let up := fun (h : Option Half) => h.map (fun y => { y with age := y.age + 1 })
  { x with
    sync := up x.sync, dly := up x.dly, tlvSeen := min 257 (x.tlvSeen + 1)
    fresh := x.fresh && !idle, age := if idle then min 0xFFFFFF (x.age + 1) else x.age }

/-- At a marker: sessions age, queued messages that wait on count as deferred, and the engines begin
anew (R203, R206). -/
def Chip.gripMarker (s : Chip) : Chip :=
  let t := { s with
    sessions := s.sessions.map (fun e => (e.1, e.2.older (!bit s.cores.gripDone e.2.group)))
    cores := { s.cores with gripDone := 0 } }
  (List.range 8).foldl (fun u g =>
    let q := Store.read [] u.rxq g
    let late := (q.filter (fun m => m.age == 0)).length
    ({ u with rxq := Store.write [] u.rxq g (q.map (fun (m : QMsg) => { m with age := m.age + 1 })) }).count (F.grp2Deferred g) late) t

/-- ANN_TIMEOUT (R194): the session's engine finds it. -/
def Chip.annTimesOut (s : Chip) (n : Nat) : Chip :=
  match s.session n with
  | none => s
  | some x =>
    if cfgMaster x.cfg || x.annTimeout || !s.engineHere x.group || s.flag (F.grp2GripStatusRestarting x.group) then s
    else ((s.putSession n { x with annTimeout := true }).bump (F.grp2AnnTimeouts x.group)).slotsLoseAnnounce n

def execAnnTimeout (n : Fin 16384) (s : State) : Host.Outcome State Fault Refusal := done s (s.chip.annTimesOut n)

/-! ### Opening and closing (R189, R211) -/

/-- Put the count of open sessions of each group (Table 9-9). -/
def Chip.countSessions (s : Chip) : Chip :=
  (List.range 8).foldl (fun t g => t.show (F.grp2GripStatusSessions g) (t.groupSessions g).length) s

/-- Open a session; its word carries OPEN = 1. -/
def Chip.openSession (s : Chip) (n : Nat) (cfg : BitVec 256) : Chip :=
  (s.putSession n (freshSession (setIn cfg 255 true))).countSessions

/-- The number that a queued message holds once its session has closed: no session has it. -/
def closedNumber : Nat := 16384

/-- A queued message after session n has closed: one of its messages belongs to no session from now on. -/
def QMsg.closed (n : Nat) (m : QMsg) : QMsg := if m.session = n then { m with session := closedNumber } else m

/-- Close a session: its queued messages belong to none from now on, whichever session takes its number. -/
def Chip.closeSession (s : Chip) (n : Nat) : Chip :=
  ({ s with
     sessions := Store.erase n s.sessions
     rxq := s.rxq.map (fun (e : Nat × List QMsg) => (e.1, e.2.map (QMsg.closed n))) }).countSessions

/-- The lowest number of no open session. -/
def freeNumber : Nat → Store Session → Nat
  | k, [] => k
  | k, e :: l => if e.1 = k then freeNumber (k + 1) l else k

/-! ### The session window (R212) -/

/-- The state word of a session (Table 9-8). -/
def Session.stateWord (x : Session) : BitVec 256 :=
  let hi := x.speid * 32 + ofBool (decide (x.tlvSeen ≤ 256)) * 16 + ofBool x.learned * 8 + ofBool x.annTimeout * 4
    + ofBool x.member * 2 + ofBool x.fresh
  let mid := (hi * 2 ^ 9) * 2 ^ 64 + twos 64 x.e
  let m2 := ((mid * 2 ^ 48 + twos 48 x.delay) * 2 ^ 32 + twos 32 (x.nIn.getD 0)) * 2 ^ 32 + twos 32 (x.nOut.getD 0)
  BitVec.ofNat 256 (((((m2 * 2 ^ 8 + x.rxClass.toNat) * 2 ^ 8 + x.rxAccuracy.toNat) * 2 ^ 16
    + x.rxSteps.toNat) * 2 ^ 24
    + x.age) * 2 ^ 8)

/-- SESS_READ: a READ trigger of the session window; lost while BUSY (R43). -/
def Chip.sessTrigger (s : Chip) : Chip :=
  if s.sessBusy.isSome then s.setB (F.hdrPgStatusTrgLost 0x21) true
  else ({ s with sessBusy := some (s.getN F.time1SessIndexSession, s.flag F.time1SessIndexWord, none) }).setB F.time1SessStatusBusy true

/-- The error that the READ just triggered meets in the word that it reads; a READ that was lost reads none. -/
def Chip.sessMeets (old t : Chip) (upset : Option (BitVec 256)) : Chip :=
  if old.sessBusy.isSome then t else { t with sessBusy := t.sessBusy.map (fun x => (x.1, x.2.1, upset)) }

/-- Load the eight words of SESS_DATA. -/
def Chip.loadSess (s : Chip) (v : BitVec 256) : Chip :=
  (List.range 8).foldl (fun c i => c.set (F.time1SessData i) (entryWord v i)) s

/-- SESS_READ_DONE (R212): 0 OK, 7 CLOSED; 4 ECC where the word was read with bits changed that cannot be corrected, which
DATA then shows as they were read (log 94). -/
def Chip.sessDone (s : Chip) : Chip :=
  match s.sessBusy with
  | none => s
  | some (n, w, upset) =>
    let t := ({ s with sessBusy := none }).setB F.time1SessStatusBusy false
    match s.session n with
    | none => (t.setN F.time1SessStatusResult 7).loadSess 0
    | some x =>
      let v := if w then x.stateWord else x.cfg
      match upset with
      | none => (t.setN F.time1SessStatusResult 0).loadSess v
      | some b => ((t.setN F.time1SessStatusResult 4).fault fEcc).loadSess (v ^^^ b)

def execSessReadDone (s : State) : Host.Outcome State Fault Refusal := done s s.chip.sessDone

/-! ### A change of the delay ledger (R196, R198) -/

/-- A session's stored times after EXT_TX and EXT_RX of its carrying member change, by the moves of a TX and of an RX
stamp in units of 2^-16 ns: its pairs, its requests and its one-way delays. -/
def Session.moved (x : Session) (tx rx : Int) : Session :=
  { x with
    sync := x.sync.map (fun h => { h with b := h.b - rx, stamp := h.stamp + BitVec.ofInt 64 (-rx) })
    syncPend := x.syncPend.map (fun h => { h with b := h.b - rx, stamp := h.stamp + BitVec.ofInt 64 (-rx) })
    dly := x.dly.map (fun h => { h with a := h.a + tx, stamp := h.stamp + BitVec.ofInt 64 tx })
    dlyPend := x.dlyPend.map (fun h => { h with a := h.a + tx, stamp := h.stamp + BitVec.ofInt 64 tx })
    asked := x.asked.map (fun q => { q with stamp := q.stamp + BitVec.ofInt 64 (-rx) })
    dIn := x.dIn - rx, dOut := x.dOut - tx }

/-- EXT_TX and EXT_RX of a subport change (R198): what its sessions and their queue hold moves with them, so that their
offsets shift by half the difference from this marker on. -/
def Chip.moveLedger (s : Chip) (p sub : Nat) (tx rx : Int) : Chip :=
  let mine := fun (x : Session) => x.carrier == p && cfgSub x.cfg == sub
  { s with
    sessions := s.sessions.map (fun e => (e.1, if mine e.2 then e.2.moved tx rx else e.2))
    rxq := s.rxq.map (fun e => (e.1, e.2.map (fun (m : QMsg) =>
      if m.msg.port.val = p ∧ m.msg.sub.val = sub then { m with stamp := m.stamp + BitVec.ofInt 64 (-rx) } else m))) }

/-! ### ESMC (R210) -/

/-- An unlisted subport's ESMC state. -/
def esmcDefault : EsmcRx := ⟨0, 0, none⟩
def Chip.esmcOf (s : Chip) (p sub : Nat) : EsmcRx := Store.read esmcDefault s.esmc (p * 8 + sub)
def Chip.setEsmc (s : Chip) (p sub : Nat) (x : EsmcRx) : Chip :=
  { s with esmc := Store.write esmcDefault s.esmc (p * 8 + sub) x }

/-- ESMC runs on a subport. -/
def Chip.esmcRuns (s : Chip) (p sub : Nat) : Bool :=
  s.receives p sub && s.getBit (F.port6EsmcCtrlEn p) sub

/-- The subport's recovered clock is the selected frequency reference. -/
def Chip.isSelectedSlot (s : Chip) (p sub : Nat) : Bool :=
  let f := s.getN F.ref0FstatusFselected
  decide (6 ≤ f ∧ f ≤ 9) && s.getN (F.ref1CfgNom f) % 512 == p * 8 + sub

/-- The QL that a subport sends (R210, R245). -/
def Chip.sentQl (s : Chip) (p sub : Nat) : Nat :=
  if s.getN (F.port6EsmcCtrlTxMode p) = 1 then s.getN (F.port6EsmcCtrlForcedSsm p)
  else if s.flag F.pll0MstatusFallback || s.isSelectedSlot p sub then 0xF
  else s.getN F.ref0FstatusSelQl

/-- The enhanced SSM code that a subport sends (R210). -/
def Chip.sentEssm (s : Chip) (p sub : Nat) : BitVec 8 :=
  if s.getN (F.port6EsmcCtrlTxMode p) = 1 then BitVec.ofNat 8 (s.getN (F.port6EsmcCtrlForcedEssm p))
  else Config.enhancedSsm (s.sentQl p sub)

/-- One ESMC PDU leaves a subport, with the extended QL TLV where EXT_TLV is set (R210). -/
def Chip.esmcSend (s : Chip) (p sub : Nat) (isEvent : Bool) (ql : Nat) : Chip :=
  let ext := if s.flag (F.port6EsmcCtrlExtTlv p) then some (s.sentEssm p sub, s.identity) else none
  (s.emitMac p sub 0x0180C2000002 0x8809 (.esmc isEvent ql ext)).bump (F.port6PduTx p)

/-- ESMC_INFO_TX: the QL of now. One that has changed since it was last announced is still due in an event PDU. -/
def Chip.esmcInfo (s : Chip) (p sub : Nat) : Chip :=
  if !s.esmcRuns p sub then s
  else
    let x := s.esmcOf p sub
    let ql := s.sentQl p sub
    (s.esmcSend p sub false ql).setEsmc p sub { x with sentQl := some (x.sentQl.getD ql) }

def execEsmcInfoTx (p : Fin 48) (sub : Fin 8) (s : State) : Host.Outcome State Fault Refusal := done s (s.chip.esmcInfo p sub)

/-- A write of ESMC_CTRL (R210): where EN is cleared, what was last announced is forgotten. -/
def Chip.esmcStops (s : Chip) (p : Nat) : Chip :=
  (List.range 8).foldl (fun t sub =>
    if s.getBit (F.port6EsmcCtrlEn p) sub then t else t.setEsmc p sub { t.esmcOf p sub with sentQl := none }) s

/-- ESMC_EVENT_TX: the QL that the subport sends has changed. -/
def Chip.esmcEvent (s : Chip) (p sub : Nat) : Chip :=
  let x := s.esmcOf p sub
  if !s.esmcRuns p sub then s
  else
    match x.sentQl with
    | none => s
    | some q =>
      if q = s.sentQl p sub then s
      else ((s.esmcSend p sub true (s.sentQl p sub)).bump (F.port6QlChanges p)).setEsmc p sub { x with sentQl := some (s.sentQl p sub) }

def execEsmcEventTx (p : Fin 48) (sub : Fin 8) (s : State) : Host.Outcome State Fault Refusal := done s (s.chip.esmcEvent p sub)

/-- ESMC_PDU_RX. -/
def Chip.esmcRx (s : Chip) (p sub : Nat) (d : EsmcPdu) : Chip :=
  if !s.esmcRuns p sub then s
  else
    let x := s.esmcOf p sub
    let new := decide (x.inSecond = 0) || decide ((1000000000 * 65536 : Int) ≤ rawDiff x.secondFrom s.time.raw)
    let y : EsmcRx := if new then { x with inSecond := 1, secondFrom := s.time.raw } else { x with inSecond := x.inSecond + 1 }
    let t := (s.slate 0 (p * 8 + sub) (s.portFlags p d.stamp) (s.rxStamp p sub d.stamp)).1.setEsmc p sub y
    if !d.wellFormed || decide (10 < y.inSecond) then t.bump (F.port6PduBad p)
    else
      let u := ((t.bump (F.port6PduRx p)).setN (F.port6EsmcRxSsm p sub) d.ssm.toNat).setB (F.port6EsmcRxValid p sub) true
      let v := match d.essm with
        | some k => u.setN (F.port6EsmcRxEssm p sub) k.toNat
        | none => u
      if d.isEvent then v else v.setB (F.port6EsmcRxFailed p sub) false

def execEsmcPduRx (p : Fin 48) (sub : Fin 8) (d : EsmcPdu) (s : State) : Host.Outcome State Fault Refusal :=
  done s (s.chip.esmcRx p sub d)

/-- ESMC_FAILED. -/
def Chip.esmcFails (s : Chip) (p sub : Nat) : Chip :=
  if s.coresRun && s.getBit (F.port6EsmcCtrlEn p) sub && !s.portIsDark p then s.showB (F.port6EsmcRxFailed p sub) true
  else s

def execEsmcFailed (p : Fin 48) (sub : Fin 8) (s : State) : Host.Outcome State Fault Refusal := done s (s.chip.esmcFails p sub)

end Sys2Proof.Machine
end

