-- ==== Sys2Proof/Machine/Refs.lean ====
section
/-! DEFINITION. References: qualification, the two selectors, cuts, acquisition, holdover, the archive and its window, and PPSIN offers (R216 to R240). -/

namespace Sys2Proof.Machine

/-! ### Candidates (R216, Tables 10-1, 10-7, 10-8): 0 to 9 are F0 to F9, 10 to 17 are T0 to T7 -/

/-- The number of a candidate. -/
def candIndex : Cand → Nat
  | .freq i => i.val
  | .time k => 10 + k.val

/-- The status fields of a candidate. -/
def candQualified (c : Nat) : Fld := if c < 10 then F.ref1StatusQualified c else F.ref2TslotStatusQualified (c - 10)
def candActive (c : Nat) : Fld := if c < 10 then F.ref1StatusActive c else F.ref2TslotStatusActive (c - 10)
def candSoft (c : Nat) : Fld := if c < 10 then F.ref1StatusSoftAlarm c else F.ref2TslotStatusSoftAlarm (c - 10)
def candWtr (c : Nat) : Fld := if c < 10 then F.ref1StatusWtrRunning c else F.ref2TslotStatusWtrRunning (c - 10)
def candHoldoff (c : Nat) : Fld := if c < 10 then F.ref1StatusHoldoff c else F.ref2TslotStatusHoldoff (c - 10)
def candCause (c : Nat) : Fld := if c < 10 then F.ref1StatusCause c else F.ref2TslotStatusCause (c - 10)
def candOffset (c : Nat) : Fld := if c < 10 then F.ref1StatusOffset c else F.ref2TslotStatusOffset (c - 10)
def candLosses (c : Nat) : Fld := if c < 10 then F.ref1Disqualified c else F.ref2TslotDisqualified (c - 10)

/-- LOCKOUT, PRIORITY and LIMIT_PPB of a candidate. -/
def Chip.lockedOut (s : Chip) (c : Nat) : Bool :=
  if c < 10 then s.flag (F.ref1QualLockout c) else s.flag (F.ref2TslotCfgLockout (c - 10))
def Chip.priority (s : Chip) (c : Nat) : Nat :=
  if c < 10 then s.getN (F.ref1QualPriority c) else s.getN (F.ref2TslotCfgPriority (c - 10))
def Chip.limitPpb (s : Chip) (c : Nat) : Nat :=
  min 1000000 (if c < 10 then s.getN (F.ref1QualLimitPpb c) else s.getN (F.ref2TslotLimitLimitPpb (c - 10)))

/-- The source that a candidate's registers name (R221). -/
def Chip.sourceOf (s : Chip) (c : Nat) : Nat :=
  if c < 10 then s.getN (F.ref1CfgNom c) else s.slotSource (c - 10)

/-- A SLAVE session can be a time source: open, and fresh within the coast limit (Table 10-2). -/
def Chip.sessionActive (s : Chip) (n : Nat) : Bool :=
  match s.session n with
  | some x => !cfgMaster x.cfg && decide (x.age ≤ s.coastLimit)
  | none => false

/-- The activity test (Table 10-2). -/
def Chip.isActive (s : Chip) (c : Nat) : Bool :=
  let act := (s.cand c).act
  if 6 ≤ c ∧ c < 10 then
    let p := (s.slotPort c).1
    decide (p < 48) && s.getBit (F.port0StatusLinkUp p) (s.slotPort c).2 && !s.portInReset p && !s.portIsDark p
      && !s.groupIsDark (p / 6) && act.getD true
  else if 10 ≤ c ∧ s.candSource (c - 10) < 0x8000 then
    s.sessionActive (s.candSource (c - 10)) && act.getD true
  else act.getD false

/-- The first test of Table 10-2 that fails now, in its order, as CAUSE codes it; `none` when all pass. `lostAct` and
`lostAnn` say that the activity and the Announce test count as failing whatever stands now. -/
def Chip.failingWith (s : Chip) (c : Nat) (lostAct lostAnn : Bool) : Option Nat :=
  let x := s.cand c
  let slot := c - 10
  let sess := decide (10 ≤ c) && decide (s.candSource slot < 0x8000)
  let ql := decide (6 ≤ c ∧ c < 10) && s.flag (F.ref1QualQlEn c)
    && (s.getN (F.port6EsmcRxSsm (s.slotPort c).1 (s.slotPort c).2) == 0xF
      || s.flag (F.port6EsmcRxFailed (s.slotPort c).1 (s.slotPort c).2))
  let ann := sess && (match s.session (s.candSource slot) with
    | some y => y.annTimeout || decide (s.getN F.ref2TqualCfgClassMax < y.rxClass.toNat)
    | none => false)
  if s.limitPpb c = 0 then some 5
  else if lostAct || !s.isActive c then some 1
  else if !x.offsetOk then some 2
  else if !x.driftOk then some 3
  else if ql then some 4
  else if lostAnn || ann then some 7
  else if decide (10 ≤ c) && s.time.disq.contains (s.candSource slot) then some 6
  else none

/-- The first test that fails at this instant. -/
def Chip.failingNow (s : Chip) (c : Nat) : Option Nat := s.failingWith c false false

/-- The first test that fails, or that has failed since the last marker (R220: the activity and Announce tests take
effect at the marker after detection). -/
def Chip.failing (s : Chip) (c : Nat) : Option Nat := s.failingWith c (s.cand c).lostAct (s.cand c).lostAnn

/-- The plane of a candidate makes no qualification change now (R14, R249; R230 for hold-offs). -/
def Chip.planeHeld (s : Chip) (c : Nat) : Bool := decide (10 ≤ c) && (s.planesHeld || s.inDip)

/-! ### Measurement (R219, R220) -/

/-- Publish a frequency offset of a candidate and apply its tests (Table 10-2). The gate of a frequency
candidate is 1 s or 16 nominal periods. -/
def Chip.publish (s : Chip) (c : Nat) (f : Int) : Chip :=
  let x := s.cand c
  let lim := s.limitPpb c
  let a := f.natAbs
  let nom := if c < 6 then max 1 (s.getN (F.ref1CfgNom c)) else 16
  let gate16 := if nom < 16 then nom else 16
  let lo := max 1 (s.getN F.ref0FqualCfgDriftLimit)
  let drifts := match x.f with
    | some g => decide (lo * 16 < (f - g).natAbs * gate16)
    | none => false
  let off := if x.offsetOk then decide (a < lim) else decide (10 * a ≤ 9 * lim)
  let soft := if s.flag (candSoft c) then !decide (100 * a < 75 * lim) else decide (8 * lim ≤ 10 * a)
  let t := (s.setCand c { x with f := some f, fPrev := x.f, offsetOk := off, driftOk := !drifts }).setN (candOffset c)
    (twos 24 (clampI (-8388607) 8388607 f))
  let u := if c < 10 ∧ soft = true ∧ s.flag (candSoft c) = false then t.bump F.ref0SoftAlarms else t
  let v := if c < 10 ∧ drifts = true ∧ x.driftOk = true then u.bump F.ref0DriftFails else u
  v.setB (candSoft c) soft

/-- The slope of a time slot's offsets over the last 16 s, as a numerator and a denominator (R219): that of the line
on which the points lie; one that the spec leaves open where they lie on none; none for fewer than two points. -/
def offsetSlope (pts : List (Raw × Int)) : Option (Int × Int) :=
  match pts.head?, pts.getLast? with
  | some a, some b =>
    let dt := rawDiff a.1 b.1
    let de := b.2 - a.2
    if pts.length < 2 then none
    else if 0 < dt ∧ pts.all (fun p => (p.2 - a.2) * dt == de * rawDiff a.1 p.1) = true then some (de, dt)
    else some (Config.slope (pts.map (fun p => (rawDiff a.1 p.1, p.2 - a.2))), 2 ^ 40)
  | _, _ => none

/-- The frequency offset of a time candidate in ppb: CV + RATE - slope(e) (R219). -/
def Chip.timeOffset (s : Chip) (k : Nat) : Option Int :=
  (offsetSlope (Store.read [] s.refs.offers k)).map (fun r =>
    freeDiv .frequency ((s.refs.cv + s.time.cur.rate) * 1000000000 * r.2 - r.1 * 1000000000 * 2 ^ 48) (2 ^ 48 * r.2))

/-- At a clapper 0 marker, publish every enabled candidate's offset (R219), in the dip state too; while R14 holds the
time plane its registers keep their values. -/
def Chip.publishAll (s : Chip) (m : MarkerIn) : Chip :=
  let t := m.freq.foldl (fun u e => if u.limitPpb e.1.val = 0 then u else u.publish e.1.val e.2) s
  (List.range 8).foldl (fun u k =>
    match u.timeOffset k with
    | some f => if u.limitPpb (10 + k) = 0 || u.planesHeld then u else u.publish (10 + k) f
    | none => u) t

/-! ### Qualification (R220, R221) -/

/-- A changed source makes a new candidate: every measurement of the old source is dropped, and an activity report
that already concerned the new one stays (R221). A disabled candidate has no measurement. -/
def Chip.renewCand (s : Chip) (c : Nat) : Chip :=
  let x := s.cand c
  if x.source ≠ s.sourceOf c then
    let t := s.setCand c { candDefault with
      source := s.sourceOf c
      act := if x.actSource = s.sourceOf c then x.act else none
      actSource := x.actSource }
    let u := if c < 10 then t else { t with refs := { t.refs with offers := Store.erase (c - 10) t.refs.offers } }
    (((u.setB (candQualified c) false).setB (candHoldoff c) false).setB (candSoft c) false).setN (candOffset c) 0
  else if s.limitPpb c = 0 ∧ x.f.isSome = true then s.setCand c { x with f := none, fPrev := none, offsetOk := true, driftOk := true }
  else s

/-- What failed since the last marker has taken its effect. -/
def Chip.clearLost (s : Chip) (c : Nat) : Chip := s.setCand c { s.cand c with lostAct := false, lostAnn := false }

/-- A failing candidate loses its qualification, with the failing test as CAUSE; its hold-off begins again once no
test fails. -/
def Chip.disqualify (s : Chip) (c k : Nat) : Chip :=
  let u := (s.clearLost c).setB (candHoldoff c) ((s.clearLost c).failingNow c == none)
  if s.flag (candQualified c) then
    ((u.setB (candQualified c) false).setN (candCause c) k).bump (candLosses c)
  else u

/-- Update one candidate's qualification at a marker; a source whose disqualification the step of this
marker lifted qualifies at once (R221). -/
def Chip.qualify (s : Chip) (lifted : List Nat) (c : Nat) : Chip :=
  if s.planesHeld && decide (10 ≤ c) then s
  else
    let t := (s.renewCand c).setB (candActive c) ((s.renewCand c).isActive c)
    match t.failing c with
    | some k => t.disqualify c k
    | none =>
      if t.flag (candQualified c) then t
      else if decide (10 ≤ c) && lifted.contains (t.candSource (c - 10)) then
        (t.setB (candQualified c) true).setB (candHoldoff c) false
      else t.setB (candHoldoff c) true

/-- HOLDOFF_EXPIRY (R221): every test has passed for HOLDOFF_S. -/
def Chip.holdoffOver (s : Chip) (c : Nat) : Chip :=
  if s.planeHeld c || !s.flag (candHoldoff c) || (s.failing c).isSome then s
  else (s.setB (candHoldoff c) false).setB (candQualified c) true

def execHoldoffExpiry (c : Cand) (s : State) : Host.Outcome State Fault Refusal := done s (s.chip.holdoffOver (candIndex c))

/-- REF_ACTIVITY_LOSS (R220): ACTIVE clears; the disqualification follows at the next marker, whether or not the test
passes again before it. A report about a source that a write has just named waits for the marker that renews the
candidate (R221). -/
def Chip.activity (s : Chip) (c : Nat) (b : Bool) : Chip :=
  let t := s.setCand c { s.cand c with act := some b, actSource := s.sourceOf c }
  if (s.planesHeld && decide (10 ≤ c)) || decide ((s.cand c).source ≠ s.sourceOf c) then t
  else
    let v := t.setB (candActive c) (t.isActive c)
    let u := v.setCand c { v.cand c with lostAct := (v.cand c).lostAct || !v.isActive c }
    if (u.failingNow c).isSome then u.setB (candHoldoff c) false
    else if u.flag (candQualified c) then u else u.setB (candHoldoff c) true

def execRefActivityLoss (c : Cand) (s : State) : Host.Outcome State Fault Refusal := done s (s.chip.activity (candIndex c) false)

/-- REF_ACTIVITY_RETURN (R220). -/
def execRefActivityReturn (c : Cand) (s : State) : Host.Outcome State Fault Refusal := done s (s.chip.activity (candIndex c) true)

/-! ### The reference loop (R217, R225, R226, R235) -/

/-- Loop states of Table 10-6. -/
def loopFree : Nat := 0
def loopAcquire : Nat := 1
def loopLocked : Nat := 2
def loopHoldover : Nat := 3

/-- 100 ppm in units of 2^-48. -/
def cvMax : Int := 28147497671

/-- Put the control value. -/
def Chip.setCv (s : Chip) (v : Int) : Chip :=
  let w := clampI (-cvMax) cvMax v
  ({ s with refs := { s.refs with cv := w } }).setWide F.ref0CvLo F.ref0CvHi (twos 64 w)

/-- Tracking bandwidth in mHz. -/
def Chip.bwTrack (s : Chip) : Nat := clamp 1 10000 (s.getN F.ref0FctrlBwTrack)

/-- One sixteen-thousandth of a mHz: the unit of an acquisition stage. -/
def stageUnit : Nat := 16384

/-- The largest bandwidth of a candidate, one twentieth of its comparison rate, in stage units (R217, R226). -/
def Chip.bwCap (s : Chip) (c : Nat) : Nat :=
  let nom := if 6 ≤ c then 156250000 else max 1 (s.getN (F.ref1CfgNom c))
  nom * 50 * stageUnit / ceilDiv nom 1000000

/-- Put BW_NOW and SEL_QL as the loop's state gives them (R226, R235). -/
def Chip.showLoop (s : Chip) : Chip :=
  let sel := s.getN F.ref0FstatusFselected
  let st := s.getN F.ref0FstatusLoopState
  let bw := if st = loopAcquire then min s.refs.stage (s.bwCap sel)
    else if st = loopLocked then min (s.bwTrack * stageUnit) (s.bwCap sel) else 0
  let ql := if st ≠ loopLocked then s.getN F.ref0FctrlHoldQl
    else if 6 ≤ sel ∧ sel < 10 then s.getN (F.port6EsmcRxSsm (s.slotPort sel).1 (s.slotPort sel).2)
    else s.getN (F.ref1QualQl sel)
  (s.setN F.ref0FstatusBwNow (bw / stageUnit)).setN F.ref0FstatusSelQl ql

/-- ACQUIRE_STAGE_SETTLE (R226). -/
def Chip.stageSettles (s : Chip) : Chip :=
  if s.getN F.ref0FstatusLoopState ≠ loopAcquire then s
  else
    let bw := s.bwTrack * stageUnit
    if s.refs.stage = bw then (s.setN F.ref0FstatusLoopState loopLocked).showLoop
    else Chip.showLoop { s with refs := { s.refs with stage := max (s.refs.stage / 2) bw } }

def execAcquireStageSettle (s : State) : Host.Outcome State Fault Refusal := done s s.chip.stageSettles

/-! ### Holdover and the archive (R231 to R233) -/

/-- Fields of an archive entry (Table 10-4). -/
def archCv (e : BitVec 128) : Int := signed 64 (bits e 127 64)
def archSecond (e : BitVec 128) : Nat := bits e 63 32
def archValid (e : BitVec 128) : Bool := bit e 25

/-- The archive from its newest entry back. -/
def Chip.archBack (s : Chip) : List (BitVec 128) :=
  (List.range (min 4096 (s.getN F.ref3ArchCount))).map
    (fun k => Store.read 0 s.refs.archive ((s.getN F.ref3ArchNewest + 4096 - k) % 4096))

/-- HOLDOVER_ENTRY (R231, R232). -/
def Chip.enterHoldover (s : Chip) : Chip :=
  let until_ : Int := (s.gaffer.seconds : Int) - min 3600 (s.getN F.ref0HoCfgGuardS)
  let placed := s.archBack.filter (fun e => decide (0 ≤ signed 32 ((until_ - archSecond e) % 2 ^ 32).toNat))
  let chosen := (placed.take (clamp 16 3600 (s.getN F.ref0HoCfgWindowS))).filter archValid
  let n := chosen.length
  let mean := freeDiv .holdover (chosen.map archCv).sum n
  let short := decide (n < 16)
  let cv := if short then (match placed.find? archValid with | some e => archCv e | none => s.refs.cv) else mean
  let t := (s.setCv cv).setWide F.ref0HoCvLo F.ref0HoCvHi (twos 64 cv)
  let u := if short then t.setB F.ref0FstatusHoShort true else t
  ((u.setN F.ref0HoEntries n).setN F.ref0FstatusLoopState loopHoldover).bump F.ref0Holdovers

/-- Write the archive entry of the second just ended (R233). -/
def Chip.archiveEntry (s : Chip) : Chip :=
  let r := s.refs
  let mean := freeDiv .second r.cvSum (max 1 r.cvCount : Nat)
  let st := s.getN F.ref0FstatusLoopState
  let valid := r.lockedAll && !r.cutIn && !r.dipIn
  let flags := (((s.getN F.ref0FstatusFselected * 4 + st) * 2 + ofBool valid) * 2 + ofBool r.cutIn) * 2 + ofBool r.dipIn
  let e := BitVec.ofNat 128 ((twos 64 mean * 2 ^ 32 + s.gaffer.seconds % 2 ^ 32) * 2 ^ 32 + flags * 2 ^ 23)
  let at_ := if s.getN F.ref3ArchCount = 0 then 0 else (s.getN F.ref3ArchNewest + 1) % 4096
  let t := { s with refs := { r with
    archive := Store.write 0 r.archive at_ e
    cvSum := 0, cvCount := 0, lockedAll := st == loopLocked, cutIn := false, dipIn := s.inDip } }
  (t.setN F.ref3ArchNewest at_).addSat F.ref3ArchCount 1

/-- One marker's sample of the control value and of what held in the second (R232, R233). -/
def Chip.sampleCv (s : Chip) : Chip :=
  let r := s.refs
  { s with refs := { r with
    cvSum := r.cvSum + r.cv, cvCount := r.cvCount + 1
    lockedAll := r.lockedAll && s.getN F.ref0FstatusLoopState == loopLocked
    dipIn := r.dipIn || s.inDip } }

/-! ### Selection and cuts (R222 to R229) -/

/-- The candidates of a plane. -/
def planeCands (time : Bool) : List Nat := if time then (List.range 8).map (10 + ·) else List.range 10

/-- A candidate that the selector may choose (R222). -/
def Chip.selectable (s : Chip) (c : Nat) : Bool :=
  s.flag (candQualified c) && !s.lockedOut c && decide (s.priority c < 15)

/-- The selected candidate of a plane, if any. -/
def Chip.selected (s : Chip) (time : Bool) : Option Nat :=
  if time then (if s.noTimeSource then none else some (10 + s.getN F.ref2TstatusTselected))
  else if s.getN F.ref0FstatusFselected = 15 then none else some (s.getN F.ref0FstatusFselected)

/-- The best of some candidates: lowest PRIORITY, then lowest number (R222). -/
def Chip.best (s : Chip) (cs : List Nat) : Option Nat :=
  cs.foldl (fun b c => match b with
    | none => some c
    | some d => if s.priority c < s.priority d then some c else some d) none

/-- Revertive mode and wait-to-restore of a plane. -/
def Chip.revertive (s : Chip) (time : Bool) : Bool := if time then s.flag F.ref2TctrlRevertive else s.flag F.ref0FctrlRevertive
def Chip.wtrSeconds (s : Chip) (time : Bool) : Nat :=
  min 3600 (if time then s.getN F.ref2TctrlWtrS else s.getN F.ref0FctrlWtrS)

/-- Start or end the waits to restore against the selected candidate (R223). -/
def Chip.waits (s : Chip) (time : Bool) (sel : Option Nat) : Chip :=
  (planeCands time).foldl (fun t c =>
    let waiting := t.flag (candWtr c) || t.refs.wtrOver.contains c
    let could := match sel with
      | some d => t.selectable c && decide (t.priority c < t.priority d)
      | none => false
    if !could then
      let u := t.setB (candWtr c) false
      { u with refs := { u.refs with wtrOver := u.refs.wtrOver.filter (fun k => k != c) } }
    else if waiting || !t.revertive time then t
    else if t.wtrSeconds time = 0 then { t with refs := { t.refs with wtrOver := t.refs.wtrOver ++ [c] } }
    else t.setB (candWtr c) true) s

/-- WTR_EXPIRY (R223): the wait is over; the cut falls at the next marker. -/
def Chip.waitOver (s : Chip) (c : Nat) : Chip :=
  if s.planeHeld c || !s.flag (candWtr c) then s
  else
    let t := s.setB (candWtr c) false
    { t with refs := { t.refs with wtrOver := t.refs.wtrOver ++ [c] } }

def execWtrExpiry (c : Cand) (s : State) : Host.Outcome State Fault Refusal := done s (s.chip.waitOver (candIndex c))

/-- The candidate that a selector chooses (R222, R223). -/
def Chip.choose (s : Chip) (time : Bool) : Option Nat :=
  let cs := (planeCands time).filter s.selectable
  match s.selected time with
  | none => s.best cs
  | some d =>
    if !cs.contains d then s.best cs
    else
      match s.best (cs.filter (fun c => s.refs.wtrOver.contains c && decide (s.priority c < s.priority d))) with
      | some c => some c
      | none => some d

/-- A frequency cut (R225, R226, R231). -/
def Chip.freqCut (s : Chip) (old new : Option Nat) : Chip :=
  let t := ((s.setN F.ref0FstatusFselected (new.getD 15)).setB F.ref0FstatusCut true).bump F.ref0Cuts
  let u := { t with refs := { t.refs with cutIn := true } }
  match old, new with
  | some _, none => u.enterHoldover
  | none, some _ =>
    let v := (u.setN F.ref0FstatusLoopState loopAcquire).bump F.ref0Acquires
    { v with refs := { v.refs with stage := 20000 * stageUnit } }
  | _, _ => u

/-- A time cut (R227, R229): D is held, and re-aims if it was not 0. -/
def Chip.timeCut (s : Chip) (new : Option Nat) : Chip :=
  let sel := match new with | some c => c - 10 | none => 15
  let t := ((s.setN F.ref2TstatusTselected sel).setB F.ref2TstatusCut true).bump F.ref2Tcuts
  let u := t.setDolly t.time.dolly true
  { u with time := { u.time with reaim := u.time.reaim || u.time.dolly != 0 } }

/-- One plane's selector at a marker: at most one cut (R222). A source changed at this marker is cut
away from as for a lockout (R221). -/
def Chip.select (s : Chip) (time : Bool) : Chip :=
  if s.planesHeld || (time && s.inDip) then s
  else
    let t := s.waits time (s.selected time)
    let old := t.selected time
    let new := t.choose time
    if old = new then t
    else
      let u := if time then t.timeCut new else t.freqCut old new
      u.waits time new

/-- The selected frequency candidate has failed its activity test since the last marker, whether or not it passes now. -/
def Chip.selectedLost (s : Chip) : Bool :=
  match s.selected false with
  | some c => ((s.renewCand c).cand c).lostAct
  | none => false

/-- Under R14 the loop holds when the selected candidate fails its activity test, now or within the clapper that ends
(`lost`), without a cut. -/
def Chip.heldLoop (s : Chip) (lost : Bool) : Chip :=
  match s.selected false with
  | some c =>
    if s.planesHeld && (lost || !s.isActive c) && s.getN F.ref0FstatusLoopState != loopHoldover then s.enterHoldover else s
  | none => s

/-- The control value that the loop reached in the clapper now ending (R217). -/
def Chip.loopCv (s : Chip) (m : MarkerIn) : Chip :=
  let st := s.getN F.ref0FstatusLoopState
  if st = loopAcquire ∨ st = loopLocked then s.setCv m.cv else s

/-- The reference planes at a marker: measurements, archive, qualification, selection (R219 to R235).
`zero` says that the marker begins clapper 0, `lifted` the sources that its step requalified. -/
def Chip.refMarker (s : Chip) (m : MarkerIn) (zero : Bool) (lifted : List Nat) : Chip :=
  let a := (s.loopCv m).sampleCv
  let b := if zero then a.archiveEntry.publishAll m else a
  let c := (List.range 18).foldl (fun t k => t.qualify lifted k) b
  (((c.select false).heldLoop b.selectedLost).select true).showLoop

/-! ### The archive window (R240) -/

/-- ARCH_READ: lost while BUSY (R43). The entry is taken as it stands at the trigger. -/
def Chip.archTrigger (s : Chip) : Chip :=
  if s.archBusy.isSome then s.setB (F.hdrPgStatusTrgLost 0x33) true
  else ({ s with archBusy := some (Store.read 0 s.refs.archive (s.getN F.ref3ArchIndex)) }).setB F.ref3ArchStatusBusy true

/-- ARCH_READ_DONE. -/
def Chip.archDone (s : Chip) : Chip :=
  match s.archBusy with
  | none => s
  | some e =>
    (List.range 4).foldl (fun c k => c.set (F.ref3ArchData k) (entryWord e k))
      (({ s with archBusy := none }).setB F.ref3ArchStatusBusy false)

def execArchReadDone (s : State) : Host.Outcome State Fault Refusal := done s s.chip.archDone

/-! ### PPSIN (R216) -/

/-- The offer that a pulse gives a time slot: its second and the offset, if the pulse lies within half
a nominal period of a whole second. -/
def ppsOfferOf (net delayPs : Int) (nom : Nat) : Option (Int × Int) :=
  let sec : Int := 1000000000 * 65536
  let t := net - psUnits delayPs
  let n := (2 * t * nom + sec) / (2 * nom * sec)
  let e := t - n * sec
  if 2 * e * nom < sec ∧ -sec ≤ 2 * e * nom then some (n, e) else none

/-- PPSIN_PULSE: slate, activity, and the offers of the slots measured from the ball, the source that their registers
named at the last marker (R221). The first pulse of each second is told for every slot, whether or not it is measured
from the ball now. -/
def Chip.ppsin (s : Chip) (n : Nat) (measured : Raw) : Chip :=
  if !s.ready || !s.time.running then s
  else
    let stamp := s.interpolated measured measured
    let flags := ofBool (s.uncal 9) * 64 + ofBool (s.noInterp stamp) * 32
    let t := ((s.slate 3 n flags stamp).1).activity (4 + n) true
    (List.range 8).foldl (fun u k =>
      let v := if u.slotSource k = 0x8000 + n then u.activity (10 + k) true else u
      match ppsOfferOf (v.stampNet stamp) (signed 32 (v.getN (F.ref2TslotPpsDelay k)))
          (max 1 (v.getN (F.ref1CfgNom (4 + n)))) with
      | none => v
      | some (sec, e) =>
        let tag := twos 49 sec + 1
        if Store.read 0 v.refs.ppsSecond (2 * k + n) = tag then v
        else
          { v with refs := { v.refs with
            ppsSecond := Store.write 0 v.refs.ppsSecond (2 * k + n) tag
            ppsOffer := if v.candSource k = 0x8000 + n then Store.insert k (e, stamp) v.refs.ppsOffer
              else v.refs.ppsOffer } }) t

def execPpsinPulse (n : Fin 2) (stamp : Raw) (s : State) : Host.Outcome State Fault Refusal := done s (s.chip.ppsin n.val stamp)

end Sys2Proof.Machine
end

