-- ==== Sys2Proof/Machine/Clocks.lean ====
section
/-! DEFINITION. The synthesisers, fallback, safe stop, clock outputs and pulse outputs (R241 to R259). -/

namespace Sys2Proof.Machine

/-! ### Clock outputs (R245, R252) -/

/-- Put a clock output's status: in fallback, an enabled output whose DIV is no multiple of 10 is
squelched, and stops at its next falling edge (R245). -/
def Chip.showClk (s : Chip) (n : Nat) : Chip :=
  let en := s.flag (F.pll1ClkoutCfgEn n)
  let sq := en && s.flag F.pll0MstatusFallback && s.clkDiv n % 10 != 0
  let t := if sq && !s.flag (F.pll1ClkoutStatusSquelched n) then s.bump F.pll0Squelches else s
  t.setB (F.pll1ClkoutStatusSquelched n) sq

/-- A write of CLKOUTn.CFG (R252): the divider takes it at its edges. -/
def Chip.clkWrite (s : Chip) (n : Nat) (w : Word) : Chip :=
  ((s.setB (F.pll1ClkoutCfgEn n) (bit w 31)).setN (F.pll1ClkoutCfgDiv n) (bits w 23 0)).showClk n

/-! ### Pulse outputs (R253 to R256) -/

/-- A pulse output that nothing has changed. -/
def pulseDefault : Pulse := ⟨0, 1000000000, 100000000, 0, 0, [], none, none, none⟩
def Chip.pulse (s : Chip) (n : Nat) : Pulse := Store.read pulseDefault s.pulses n
def Chip.setPulse (s : Chip) (n : Nat) (x : Pulse) : Chip :=
  { s with pulses := Store.write pulseDefault s.pulses n x }

/-- Put MISALIGN and ALIGNED (R255). -/
def Chip.showAlign (s : Chip) (n : Nat) : Chip :=
  let a := (s.pulse n).align
  (s.setWide (F.pll1PpsMisalignLo n) (F.pll1PpsMisalignHi n) (twos 64 a)).setB (F.pll1PpsStatusAligned n) (a == 0)

/-- The first edge t_k of the schedule in force at or after the earliest next edge, and after the last
one given (R253). -/
def Pulse.next (x : Pulse) : Int :=
  let p : Int := (x.period * 65536 : Nat)
  let off := x.align - psUnits x.delay
  let lower := match x.lastEdge with | some e => max x.notBefore (e + 1) | none => x.notBefore
  (lower - off + p - 1) / p * p + off

/-- Changes whose time comes before the next edge of the values in force take their place (R254). -/
def Pulse.settle (x : Pulse) : List (Nat × Nat × Int × Int) → Pulse
  | [] => { x with pending := [] }
  | q :: l =>
    if q.2.2.2 ≤ x.next then
      Pulse.settle { x with period := q.1, width := q.2.1, delay := q.2.2.1, notBefore := max x.notBefore q.2.2.2 } l
    else { x with pending := q :: l }

/-- PERIOD_NS is valid (R254). -/
def periodOk (p : Nat) : Bool := decide (62500 ≤ p ∧ p ≤ 1000000000) && 1000000000 % p == 0

/-- One microsecond in units of 2^-16 ns. -/
def microsecond : Int := 1000 * 65536

/-- The configuration of PPSOUTn as its registers hold it: period, width, delay. -/
def Chip.ppsRegs (s : Chip) (n : Nat) : Nat × Nat × Int :=
  (s.getN (F.pll1PpsCfgPeriodNs n), s.getN (F.pll1PpsWidth n), signed 32 (s.getN (F.pll1PpsDelay n)))

/-- PPSOUTn is enabled with a PERIOD_NS that is valid. -/
def Chip.ppsOn (s : Chip) (n : Nat) : Bool := s.flag (F.pll1PpsCfgEn n) && periodOk (s.ppsRegs n).1

/-- What a write to PPSOUTn does once its register holds the new value, where `was` says that the output was
enabled before it (R254). The output starts at its first edge, and RUNNING with it. -/
def Chip.ppsSettle (s : Chip) (n : Nat) (was : Bool) : Chip :=
  let r := s.ppsRegs n
  let ok := periodOk r.1
  let now := s.ppsOn n
  let from_ := (s.net : Int) + microsecond
  let x := s.pulse n
  let y := if now && was then { x with pending := x.pending ++ [(r.1, r.2.1, r.2.2, from_)] }
    else { x with
      period := if ok then r.1 else x.period, width := r.2.1, delay := r.2.2, pending := []
      notBefore := if now then from_ else x.notBefore }
  let t := (s.setPulse n y).setB (F.pll1PpsStatusCfgBad n) (!ok)
  if now && was then t else t.setB (F.pll1PpsStatusRunning n) false

/-- A write of CFG (0), WIDTH (1) or DELAY (2) of PPSOUTn. -/
def Chip.ppsWrite (s : Chip) (n reg : Nat) (w : Word) : Chip :=
  let t := if reg = 0 then (s.setB (F.pll1PpsCfgEn n) (bit w 31)).setN (F.pll1PpsCfgPeriodNs n) (bits w 29 0)
    else if reg = 1 then s.setN (F.pll1PpsWidth n) (bits w 29 0) else s.set (F.pll1PpsDelay n) w
  t.ppsSettle n (s.ppsOn n)

/-- Where an edge due at network time `t` is placed (R253): at the TCLK edge at or before it, and the remaining fraction
through the fine delay, in 1/64 ns. -/
def ParamSet.place (q : ParamSet) (t : Int) : Raw × Int :=
  let after := q.reach t.toNat
  let edge := if (q.netAt after : Int) ≤ t then after else after - 65536
  (edge, freeDiv .fine ((t - q.netAt edge) * 64) 65536)

/-- PPSOUT_PULSE (R253): network time has reached the next edge of an enabled output, which falls WIDTH_NS of network time
later. -/
def Chip.ppsPulse (s : Chip) (n : Nat) : Chip :=
  if !s.ppsOn n || !s.time.running then s
  else
    let x := s.pulse n
    let y := x.settle x.pending
    if (s.net : Int) < y.next then s
    else
      let wide := clamp 8 (y.period - 8) y.width
      ((s.setPulse n { y with
        lastEdge := some y.next
        placed := some (s.time.cur.place y.next)
        falls := some (y.next + (wide * 65536 : Nat)) }).setB (F.pll1PpsStatusRunning n) true).bump (F.pll1PpsPulses n)

def execPpsoutPulse (n : Fin 4) (s : State) : Host.Outcome State Fault Refusal := done s (s.chip.ppsPulse n.val)

/-- A jump of network time adds to A_n of every pulse output, whose edges keep their place in physical
time (R255). -/
def Chip.jumpPulses (s : Chip) (step : Int) : Chip :=
  (List.range 4).foldl (fun t n =>
    let x := t.pulse n
    (t.setPulse n { x with
      align := x.align + step, notBefore := x.notBefore + step
      lastEdge := x.lastEdge.map (· + step)
      falls := x.falls.map (· + step)
      pending := x.pending.map (fun q => (q.1, q.2.1, q.2.2.1, q.2.2.2 + step)) }).showAlign n) s

/-- RESLATE of one output at the marker now fired (R256). -/
def Chip.reslateOne (s : Chip) (n : Nat) : Chip :=
  let x := s.pulse n
  let half : Int := (x.period * 32768 : Nat)
  let after := (s.net : Int) + 1
  let first := match x.lastEdge with | some e => max after (e + half) | none => after
  ((s.setPulse n { x with align := 0, notBefore := max first x.notBefore }).showAlign n).bump (F.pll1PpsReslates n)

/-! ### The event time base at a switch of TCLK (R265) -/

/-- The sampling clock of a calibration that depends on TCLK switches: condition 1. -/
def onTclk (kind target : Nat) : Bool := (kind == 0 && target != 8) || kind == 1 || kind == 2 || kind == 3

/-- The channels leave EVCLK: a loss counts where they were on it. -/
def Chip.leaveEvclk (s : Chip) : Chip :=
  if s.flag F.tdc0TbstatusInUse then
    (((s.setB F.tdc0TbstatusInUse false).setB F.tdc0TbstatusLossEvent true).bump F.tdc0TbLosses).calUpset 1
      (fun k x => k == 0 && x == 8)
  else s

/-! ### The master clock PLL (R241 to R245) -/

/-- What the PLLs wait for: key 0, the master clock PLL waits 10 s after a failed check; key 1, a change of the core
setting runs; key 2, the change to IDLE that a reset called for waits for a standby (R257). -/
def Chip.pllWait (s : Chip) (k : Nat) : Nat := Store.read 0 s.power.pll k
def Chip.setPllWait (s : Chip) (k v : Nat) : Chip :=
  { s with power := { s.power with pll := Store.write 0 s.power.pll k v } }

/-- TCLK has switched its source: slates of its next 8 edges are not interpolated (R245). -/
def Chip.tclkSwitched (s : Chip) : Chip := { s with banks := { s.banks with switched := some s.time.raw } }

/-- FALLBACK_SWITCH (R245). -/
def Chip.toFallback (s : Chip) : Chip :=
  if s.flag F.pll0MstatusFallback then s
  else
    let t := (((s.setB F.pll0MstatusFallback true).bump F.pll0Fallbacks).leaveEvclk.calUpset 1 onTclk).tclkSwitched
    (List.range 8).foldl (fun u n => u.showClk n) t

/-- MASTER_PLL_LOL (R242, R245). -/
def Chip.masterLol (s : Chip) : Chip :=
  if !s.flag F.pll0MstatusLocked || !s.clocked then s
  else
    let t := ((s.setB F.pll0MstatusLocked false).setB F.pll0MstatusLolEvent true).bump F.pll0MasterLol
    ((t.fault fPll).calUpset 7 (fun k _ => k == 0 || k == 2 || k == 3)).toFallback

def execMasterPllLol (s : State) : Host.Outcome State Fault Refusal := done s s.chip.masterLol

/-- φ lies within the window of the check (R243). -/
def Chip.phaseOk (s : Chip) (phi : Nat) : Bool :=
  decide (((phi : Int) - s.getN F.pll0MphaseTargetPs).natAbs ≤ 20)

/-- After every lock each CLKOUT divider is held in reset and released on one VCO edge (R243), at the DIV of its register.
An output that runs from fallback TCLK keeps that divider's place until the return (log 120). -/
def Chip.releaseDividers (s : Chip) : Chip :=
  { s with clk := (List.range 8).foldl (fun l n =>
      let x := Store.read clkDefault l n
      Store.write clkDefault l n
        (if s.flag F.pll0MstatusFallback then { x with own := some (s.clkDiv n, 0) }
         else { x with div := s.clkDiv n, into := 0, own := none })) s.clk }

/-- The outputs run from their own dividers again (R245). -/
def ClkOut.returned (x : ClkOut) : ClkOut :=
  match x.own with
  | some o => { x with div := o.1, into := o.2, own := none }
  | none => x
def Chip.clocksReturn (s : Chip) : Chip := { s with clk := s.clk.map (fun e => (e.1, e.2.returned)) }

/-- Releases of the dividers with the φ that each measured, at most three (R243). A lock meets the target in force, so
PLL_MISMATCH clears (R282). -/
def Chip.phaseCheck (s : Chip) (left : Nat) : List Nat → Chip
  | [] => s
  | phi :: l =>
    let t := s.setN F.pll0MphaseMeasuredPs phi
    if s.phaseOk phi then (t.setB F.pll0MstatusLocked true).setB F.cal0StatusPllMismatch false
    else if left ≤ 1 then ((t.setB F.pll0MstatusPhaseFail true).fault fPll).setPllWait 0 1
    else Chip.phaseCheck (t.bump F.pll0PhaseRetries) (left - 1) l

/-- Step 5 of Table 14-4: the raw counter is released at 0, and clapper 0 begins (R166, R172); both core
PLLs have locked at IDLE in step 4. -/
def Chip.releaseCounter (s : Chip) : Chip :=
  let q : ParamSet := ⟨0, 0, 0, false, 0⟩
  let t := { s with
    time := { s.time with raw := 0, running := true, cur := q, hist := [q]
                          nextAnchor := BitVec.ofNat 64 clapperUnits, nextNumber := 1 }
    power := { s.power with phase := .boot } }
  ((t.setB F.pll0CstatusALocked true).setB F.pll0CstatusBLocked true).setB F.pll0CstatusStandbyReady true

/-- MASTER_PLL_LOCK (R241, R243, R244): in a cold reset a passed check releases the counter. -/
def Chip.masterLock (s : Chip) (band : Nat) (phis : List Nat) : Chip :=
  if s.flag F.pll0MstatusLocked || s.pllWait 0 != 0 || (!s.clocked && s.power.phase != .rails) then s
  else
    let t := (s.releaseDividers.setN F.pll0MstatusBand band).phaseCheck 3 phis
    if t.power.phase = .rails ∧ t.flag F.pll0MstatusLocked = true then t.releaseCounter else t

def execMasterPllLock (band : BitVec 4) (phis : List Nat) (s : State) : Host.Outcome State Fault Refusal :=
  done s (s.chip.masterLock band.toNat phis)

/-- MASTER_PLL_RETRY (R243): 10 s after PHASE_FAIL a new lock and check start. -/
def execMasterPllRetry (s : State) : Host.Outcome State Fault Refusal := done s (s.chip.setPllWait 0 0)

/-- FALLBACK_RETURN (R245). -/
def Chip.fallbackEnds (s : Chip) : Chip :=
  if !s.flag F.pll0MstatusFallback || !s.flag F.pll0MstatusLocked then s
  else
    let t := ((s.clocksReturn.setB F.pll0MstatusFallback false).leaveEvclk.calUpset 1 onTclk).tclkSwitched
    (List.range 8).foldl (fun u n => u.showClk n) t

def execFallbackReturn (s : State) : Host.Outcome State Fault Refusal := done s s.chip.fallbackEnds

/-! ### The core PLLs and safe stop (R246 to R249) -/

/-- Enter safe stop (R249). -/
def Chip.enterSafeStop (s : Chip) : Chip := s.setB F.pll0CstatusSafeStop true

/-- The setting that R246 calls for: 0 RUN, 1 IDLE. -/
def Chip.wantedSetting (s : Chip) : Nat :=
  if s.ready && !s.power.standby && (List.range 48).any (fun p => !s.portInReset p && !s.portIsDark p && !s.groupIsDark (p / 6))
  then 0 else 1

/-- Put the lock bit of a core PLL: 0 A, 1 B. -/
def Chip.setCoreLocked (s : Chip) (pll : Nat) (v : Bool) : Chip :=
  s.setB (if pll = 0 then F.pll0CstatusALocked else F.pll0CstatusBLocked) v

/-- The outputs move to the other core PLL. -/
def Chip.swapCore (s : Chip) : Chip := s.setN F.pll0CstatusActive (1 - s.getN F.pll0CstatusActive)

/-- CORE_PLL_LOL (R248, R249). -/
def Chip.coreLol (s : Chip) (pll : Nat) : Chip :=
  let lock := if pll = 0 then s.flag F.pll0CstatusALocked else s.flag F.pll0CstatusBLocked
  if !lock || !s.clocked then s
  else
    let t := ((s.setCoreLocked pll false).setB F.pll0CstatusStandbyReady false).fault fPll
    if s.getN F.pll0CstatusActive ≠ pll then t
    else if s.flag F.pll0CstatusStandbyReady then
      ((t.swapCore.setB F.pll0CstatusSwapEvent true).bump (if pll = 0 then F.pll0CoreLolA else F.pll0CoreLolB))
    else t.enterSafeStop

def execCorePllLol (pllB : Bool) (s : State) : Host.Outcome State Fault Refusal := done s (s.chip.coreLol (ofBool pllB))

/-- CORE_SETTING_CHANGE (R246, R247 step 1): the standby relocks at the new setting. -/
def Chip.coreChange (s : Chip) : Chip :=
  if s.wantedSetting = s.getN F.pll0CstatusSetting || !s.flag F.pll0CstatusStandbyReady || s.pllWait 1 != 0 || s.safeStop then s
  else ((s.setCoreLocked (1 - s.getN F.pll0CstatusActive) false).setB F.pll0CstatusStandbyReady false).setPllWait 1 1

def execCoreSettingChange (s : State) : Host.Outcome State Fault Refusal := done s s.chip.coreChange

/-- The core setting is RUN: the subports that waited for it start at step 1 of Table 4-5 (R247), those whose lane PLL is
locked (R86). -/
def Chip.coreRuns (s : Chip) : Chip :=
  if s.getN F.pll0CstatusSetting ≠ 0 then s
  else { s with links := s.links.map (fun e =>
    (e.1, if e.2.phase = .coreWait then { e.2 with phase := s.firstPhase (e.1 / 8) } else e.2)) }

/-- CORE_STANDBY_LOCKED (R247 steps 2 and 3, R248): in a change the outputs swap to the standby and the
former active relocks at the new setting; otherwise the standby is ready again. The change to IDLE that a reset found
no standby for is made by the same swap once one has locked (R257). -/
def Chip.standbyLocks (s : Chip) : Chip :=
  if s.flag F.pll0CstatusStandbyReady || s.safeStop then s
  else
    let t := s.setCoreLocked (1 - s.getN F.pll0CstatusActive) true
    if s.pllWait 1 = 1 ∨ s.pllWait 2 = 1 then
      let set := if s.pllWait 2 = 1 then 1 else 1 - t.getN F.pll0CstatusSetting
      let u := (((t.swapCore.setN F.pll0CstatusSetting set).bump F.pll0Swaps).setPllWait 1 0).setPllWait 2 0
      (u.setCoreLocked (1 - u.getN F.pll0CstatusActive) false).coreRuns
    else t.setB F.pll0CstatusStandbyReady true

def execCoreStandbyLocked (s : State) : Host.Outcome State Fault Refusal := done s s.chip.standbyLocks

/-! ### Lane PLLs (R251) -/

/-- The ports that a lane PLL serves. -/
def lanePorts (g k : Nat) : List Nat := (List.range 3).map (fun i => 6 * g + 3 * k + i)

/-- LANE_PLL_LOL: the links of its three ports drop; their bring-up waits for the relock. -/
def Chip.laneLol (s : Chip) (g k : Nat) : Chip :=
  if !s.getBit F.pll0LstatusLocked (2 * g + k) then s
  else
    let t := (((s.setBit F.pll0LstatusLocked (2 * g + k) false).bump F.pll0LaneLol).fault fPll)
    (lanePorts g k).foldl (fun u p => (List.range 8).foldl (fun v sub => v.stopSub p sub) u) t

def execLanePllLol (g : Fin 8) (k : Fin 2) (s : State) : Host.Outcome State Fault Refusal := done s (s.chip.laneLol g.val k.val)

/-- A member's enabled subports start at step 1 of Table 4-5. -/
def Chip.startEnabled (s : Chip) (p : Nat) : Chip :=
  let q := s.lowerOf p
  if (s.members q).all s.mapsOk then
    ((List.range (s.subports q)).filter (fun sub => s.getBit (F.port0CtrlEnable q) sub)).foldl (fun t sub => t.startSub p sub) s
  else if s.getN (F.port0CtrlEnable q) = 0 then s else s.setB (F.port0StatusMapBad q) true

/-- LANE_PLL_RELOCK. -/
def Chip.laneRelock (s : Chip) (g k : Nat) : Chip :=
  if s.getBit F.pll0LstatusLocked (2 * g + k) || s.groupIsDark g || s.groupInReset g || !s.ready then s
  else
    (lanePorts g k).foldl (fun t p => if t.portIsDark p || t.portInReset p then t else t.startEnabled p)
      (s.setBit F.pll0LstatusLocked (2 * g + k) true)

def execLanePllRelock (g : Fin 8) (k : Fin 2) (s : State) : Host.Outcome State Fault Refusal := done s (s.chip.laneRelock g.val k.val)

end Sys2Proof.Machine
end

