-- ==== Sys2Proof/Machine/Events.lean ====
section
/-! DEFINITION. Event inputs, reels, their DMA and the event time base (R260 to R274). -/

namespace Sys2Proof.Machine

/-- A channel that nothing has stamped. -/
def channelDefault : Channel := ⟨[], [], none, false, none⟩
def Chip.channel (s : Chip) (e : Nat) : Channel := Store.read channelDefault s.tdc e

/-- Put a channel, and LEVEL and PEAK with it (Table 12-3). -/
def Chip.setChannel (s : Chip) (e : Nat) (x : Channel) : Chip :=
  (({ s with tdc := Store.write channelDefault s.tdc e x }).setN (F.evStatusLevel e) x.reel.length).setMax
    (F.evStatusPeak e) x.reel.length

/-- The slate source of a channel in the SEQ store (R179). -/
def eventSource (e : Nat) : Nat := 2 * 4096 + e

/-- SEQ of the next slate of a channel. -/
def Chip.nextSeq (s : Chip) (e : Nat) : Word := Store.read 0 s.slateSeq (eventSource e)

/-- Use up one SEQ value of a channel. -/
def Chip.useSeq (s : Chip) (e : Nat) : Chip :=
  { s with slateSeq := Store.write 0 s.slateSeq (eventSource e) (s.nextSeq e + 1) }

/-- MODE and EDGE_SEL as they act: 3 acts as 0. -/
def Chip.evMode (s : Chip) (e : Nat) : Nat := s.getN (F.evCtrlMode e) % 3
def Chip.edgeSelected (s : Chip) (e : Nat) (rising : Bool) : Bool :=
  let k := s.getN (F.evCtrlEdgeSel e) % 3
  k == 2 || (k == 0 && rising) || (k == 1 && !rising)

/-- Bits of a slate that an edge sets later: MERGED (Table 8-2). -/
def slateMerged : BitVec 128 := BitVec.ofNat 128 (2 ^ 44)

/-! ### Sampling (R262 to R265) -/

/-- The term that an edge which passed j taps of event channel e takes off its sampling instant, in units of 2^-16 ns: G(i)
of the common grid once CAL_TDC has made it (R264), else W(j) + w(j) / 2 + D_e (R262). -/
def Chip.tapTerm (s : Chip) (e j : Nat) : Int :=
  let own := s.lineReach 8 e j * 2 ^ 9 + Config.ballDelay e
  let grid := if s.getBit F.cal0StatusTdcDone 8 && (s.exchanged 8).isNone
    then (match (Store.read [] s.banks.intervals e)[j]? with | some i => s.banks.grid[i]? | none => none) else none
  roundNear (grid.getD own : Nat) 65536

/-- raw(c) of a sampling edge (R262, R263): the map of EVCLK for an edge by its number, or the raw value of a TCLK edge. -/
def Chip.edgeRaw (s : Chip) (edge : Nat) : Raw :=
  if s.flag F.tdc0TbstatusInUse then
    s.banks.mapRaw + BitVec.ofInt 64 (roundNear (((edge : Int) - s.banks.mapEdge) * 65536 * (2 ^ 40 + s.banks.mapRho)) (2 ^ 40))
  else BitVec.ofNat 64 edge

/-- An edge without interpolation (R245, R265): sampled in the switch of its clock, or soon after one of TCLK. -/
def Chip.edgeBare (s : Chip) (edge : Nat) (inSwitch : Bool) : Bool :=
  inSwitch || (!s.flag F.tdc0TbstatusInUse && s.noInterp (BitVec.ofNat 64 edge))

/-- The raw value of an edge's slate (R262 to R265): an edge sampled in a switch stands at the TCLK edge before it. -/
def Chip.edgeStamp (s : Chip) (e edge j : Nat) (inSwitch : Bool) : Raw :=
  if inSwitch then BitVec.ofNat 64 (((s.edgeRaw edge - 1).toNat) / 65536 * 65536)
  else if s.edgeBare edge inSwitch then BitVec.ofNat 64 ((s.edgeRaw edge).toNat / 65536 * 65536)
  else s.edgeRaw edge - BitVec.ofInt 64 (s.tapTerm e j)

/-! ### Edges and slates -/

/-- A slate of a channel as its edge opens it (R262, R266): UNCAL, NO_INTERP, BASE, GAP, EDGE, STEPPED. A line trimmed by
the run now going on is calibrated (R278). -/
def Chip.openSlate (s : Chip) (e : Nat) (rising : Bool) (stamp : Raw) (bare gap : Bool) : BitVec 128 :=
  let flags := ofBool (s.uncal 8) * 64 + ofBool bare * 32 + ofBool (!s.flag F.tdc0TbstatusInUse) * 16
    + ofBool gap * 4 + ofBool rising * 2
  let w := ((((stamp.toNat * 16 + 2) * 4096 + e) * 128 + flags) * 2 + ofBool (s.stepped (eventSource e))) * 2 ^ 8
  BitVec.ofNat 128 (w * 2 ^ 32 + (s.nextSeq e).toNat)

/-- EVENT_EDGE (R262, R265, R266): an edge sampled at a clock edge, having passed some taps; `inSwitch` says that it fell in
the switch of its sampling clock. -/
def Chip.eventEdge (s : Chip) (e : Nat) (rising : Bool) (edge tap : Nat) (inSwitch : Bool) : Chip :=
  if s.evMode e == 0 || !s.edgeSelected e rising || !s.time.running || !s.ready then s
  else
    let x := s.channel e
    match x.openSlate with
    | some w =>
      ((s.setChannel e { x with openSlate := some (w ||| slateMerged), gap := true }).bump (F.evMergedLost e)).useSeq e
    | none =>
      let t := s.setChannel e { x with openSlate := some (s.openSlate e rising (s.edgeStamp e edge tap inSwitch) (s.edgeBare edge inSwitch) x.gap), gap := false }
      { t with slateStep := Store.write 0 t.slateStep (eventSource e) (t.time.steps + 1) }

def execEventEdge (e : Fin 8) (rising : Bool) (place : EdgeAt) (inSwitch : Bool) (s : State) : Host.Outcome State Fault Refusal :=
  done s (s.chip.eventEdge e.val rising place.edge place.tap.val inSwitch)

/-- DEAD_TIME_END (R266): the slate enters the reel; nothing moves while TCLK is stopped (R250). -/
def Chip.deadTimeEnd (s : Chip) (e : Nat) : Chip :=
  let x := s.channel e
  match x.openSlate with
  | none => s
  | some w =>
    if !s.time.running then s
    else if 4096 ≤ x.reel.length then
      (((s.setChannel e { x with openSlate := none, gap := true }).bump (F.evOverflowLost e)).setB (F.evStatusOvf e) true).useSeq e
    else
      ((s.setChannel e { x with openSlate := none, reel := x.reel ++ [w], entered := x.entered ++ [s.time.raw] }).bump
        (F.evStamped e)).useSeq e

def execDeadTimeEnd (e : Fin 8) (s : State) : Host.Outcome State Fault Refusal := done s (s.chip.deadTimeEnd e.val)

/-- A read of EVe.SLATE_W0 (R269): the head slate, removed; zero in DMA mode and on an empty reel. -/
def Chip.popSlate (s : Chip) (e : Nat) : Chip × BitVec 128 :=
  let x := s.channel e
  match x.reel with
  | [] => (s, 0)
  | w :: l => if s.evMode e = 2 then (s, 0) else (s.setChannel e { x with reel := l, entered := x.entered.drop 1 }, w)

/-! ### DMA (R270, R272) -/

/-- Entries of a channel's host ring. -/
def Chip.dmaSize (s : Chip) (e : Nat) : Nat := 2 ^ clamp 8 20 (s.getN (F.evDmaCfgSize e))

/-- Ring entries that a channel may write before it meets DMA_RD: a DMA_RD outside the ring is never met. -/
def Chip.dmaRoom (s : Chip) (e : Nat) : Nat :=
  let n := s.dmaSize e
  let rd := s.getN (F.evDmaRd e)
  if n ≤ rd then n else (rd + n - s.getN (F.evDmaWr e) % n + n - 1) % n

/-- FLUSH_US in raw units. -/
def Chip.flushTime (s : Chip) (e : Nat) : Int := (max 1 (s.getN (F.evDmaCfgFlushUs e)) : Nat) * microsecond

/-- DMA_STALL reads 1 while the host ring is full (R270). -/
def Chip.showStall (s : Chip) (e : Nat) : Chip := s.setB (F.evStatusDmaStall e) (s.evMode e == 2 && s.dmaRoom e == 0)

/-- A batch is due: 32 slates wait, or the oldest has waited FLUSH_US (R270). -/
def Chip.batchDue (s : Chip) (e : Nat) : Bool :=
  let x := s.channel e
  decide (32 ≤ x.reel.length) || (match x.entered with
    | t :: _ => decide (s.flushTime e ≤ rawDiff t s.time.raw)
    | [] => false)

/-- DMA_BATCH_WRITE (R270): up to 32 slates go to the host ring and DMA_WR advances. -/
def Chip.dmaBatch (s : Chip) (e : Nat) : Chip :=
  let x := s.channel e
  let k := min (min 32 x.reel.length) (s.dmaRoom e)
  if s.evMode e != 2 || !s.ready || s.safeStop || !s.power.linkUp || !s.batchDue e || k == 0 then s.showStall e
  else
    let n := s.dmaSize e
    let base := s.getN (F.evDmaBaseHiAddr e) * 2 ^ 32 + s.getN (F.evDmaBaseLoAddr e) * 4096
    let wr := s.getN (F.evDmaWr e)
    let out := (x.reel.take k).zipIdx.map (fun w => ((base + (wr + w.2) % n * 16) % 2 ^ 64, w.1))
    let irq := s.flag (F.evCtrlIrqEn e) && (match x.lastIrq with
      | some t => decide (s.flushTime e ≤ rawDiff t s.time.raw)
      | none => true)
    let t := ({ s with dmaOut := out }).setChannel e { x with
      reel := x.reel.drop k, entered := x.entered.drop k
      lastIrq := if irq then some s.time.raw else x.lastIrq }
    let u := (t.setN (F.evDmaWr e) ((wr + k) % n)).showStall e
    if irq then u.raise (16 + e) else u

def execDmaBatchWrite (e : Fin 8) (s : State) : Host.Outcome State Fault Refusal := done s (s.chip.dmaBatch e.val)

/-- A write of EVe.CTRL (R272): reels and DMA_WR stand as they are. -/
def Chip.evCtrlWrite (s : Chip) (e : Nat) (w : Word) : Chip :=
  (((s.setN (F.evCtrlEdgeSel e) (bits w 9 8)).setB (F.evCtrlIrqEn e) (bit w 4)).setN (F.evCtrlMode e) (bits w 1 0)).showStall e

/-- A write of DMA_BASE or DMA_CFG while MODE is not 2 begins the ring anew (R272). -/
def Chip.dmaRestart (s : Chip) (e : Nat) : Chip := (s.setN (F.evDmaWr e) 0).setN (F.evDmaRd e) 0

/-! ### The time base (R261, R265) -/

/-- TBIN_LOSS: TBIN goes absent, or the multiplier unlocks. -/
def Chip.tbLoss (s : Chip) (multiplier : Bool) : Chip :=
  let t := if multiplier then s else s.setB F.tdc0TbstatusPresent false
  (t.setB F.tdc0TbstatusLocked false).leaveEvclk

def execTbinLoss (multiplier : Bool) (s : State) : Host.Outcome State Fault Refusal := done s (s.chip.tbLoss multiplier)

/-- TBIN_PRESENT. -/
def execTbinPresent (s : State) : Host.Outcome State Fault Refusal := done s (s.chip.setB F.tdc0TbstatusPresent true)

/-- MULTIPLIER_LOCK: within 1 ms of TBIN's arrival; the 1 s return hold starts. -/
def Chip.tbLock (s : Chip) : Chip :=
  if s.flag F.tdc0TbstatusPresent then s.setB F.tdc0TbstatusLocked true else s

def execMultiplierLock (s : State) : Host.Outcome State Fault Refusal := done s s.chip.tbLock

/-- TBIN_RETURN: the marker after 1 s of presence and lock. -/
def Chip.tbReturn (s : Chip) : Chip :=
  if s.flag F.tdc0TbstatusPresent && s.flag F.tdc0TbstatusLocked && !s.flag F.tdc0TbcfgForceTclk
      && !s.flag F.tdc0TbstatusInUse && s.time.running && s.ready
  then ((s.setB F.tdc0TbstatusInUse true).bump F.tdc0TbReturns).calUpset 1 (fun k x => k == 0 && x == 8) else s

def execTbinReturn (s : State) : Host.Outcome State Fault Refusal := done s s.chip.tbReturn

/-- A write of TDC.TBCFG: FORCE_TCLK moves the channels to TCLK, which is no loss (R261). -/
def Chip.tbCfgWrite (s : Chip) (w : Word) : Chip :=
  let t := (s.setB F.tdc0TbcfgForceTclk (bit w 1)).setN F.tdc0TbcfgFreq (bits w 0 0)
  if bit w 1 && s.flag F.tdc0TbstatusInUse then
    (t.setB F.tdc0TbstatusInUse false).calUpset 1 (fun k x => k == 0 && x == 8)
  else t

/-- At a marker the map is fitted and the frequency test, ±100 ppm against TCLK, applies (R263, R265). -/
def Chip.tbMarker (s : Chip) (m : MarkerIn) : Chip :=
  if !s.flag F.tdc0TbstatusPresent then s
  else if 2 ^ 40 < m.tbFreq.natAbs * 10000 then s.tbLoss false
  else if s.flag F.tdc0TbstatusLocked then
    ({ s with banks := { s.banks with mapRaw := m.mapRaw, mapEdge := m.mapEdge, mapRho := m.rho } }).setN F.tdc0TbOffset
      (twos 32 m.rho)
  else s

end Sys2Proof.Machine
end

