-- ==== Sys2Proof/Machine/Persist.lean ====
section
/-! DEFINITION. Persistent storage: the commit queue, wear, the two MRAM copies and their load at a cold reset (R313 to R317). -/

namespace Sys2Proof.Machine

/-- The byte address of a persistent word from its index (R315). -/
def persAddr (i : Nat) : Nat := 0x00010000 + 4 * i

/-- Commit the head of the queue to both copies (R313, R315). -/
def Chip.commitHead (s : Chip) : Chip :=
  match s.power.commits with
  | [] => s
  | (i, v) :: l =>
    let m := Store.read mramDefault s.power.mram i
    let n : Mram := { m with
      a := v, b := v, stampA := s.power.stamp + 1, stampB := s.power.stamp + 1, okA := true, okB := true
      wear := min 2000000 (m.wear + 1) }
    Chip.bump { s with power := { s.power with
      mram := Store.write mramDefault s.power.mram i n, commits := l, stamp := s.power.stamp + 1 } } F.pers0Commits

/-- The domains that commit are powered and clocked. -/
def Chip.powered (s : Chip) : Bool :=
  decide (s.power.phase ≠ .off ∧ s.power.phase ≠ .rails ∧ s.power.phase ≠ .failed ∧ s.power.phase ≠ .stopped
    ∧ s.power.phase ≠ .xoLost)

/-- The always-on domain works: VDD_AUX and XO_IN are present (R250, R303). -/
def Chip.alwaysOn (s : Chip) : Bool := decide (s.power.phase ≠ .off ∧ s.power.phase ≠ .xoLost)

/-- PERS_COMMIT (R313, R314): deferred in the dip state. -/
def Chip.persCommit (s : Chip) : Chip := if !s.powered || s.inDip then s else s.commitHead

def execPersCommit (s : State) : Host.Outcome State Fault Refusal := done s s.chip.persCommit

/-- Queue the commit of a persistent word as its register now stands; a full queue outside the dip state
first commits a word (R314). -/
def Chip.persistWord (s : Chip) (i : Nat) : Chip :=
  let t := if 64 ≤ s.power.commits.length ∧ s.inDip = false then s.commitHead else s
  t.queueCommit i (t.wordAt (persAddr i))

/-- Queue several words in order. -/
def Chip.persistWords (s : Chip) (is : List Nat) : Chip := is.foldl Chip.persistWord s

/-- The first worn word of some, if any (R315). -/
def Chip.firstWorn (s : Chip) (is : List Nat) : Option Nat := is.find? s.worn

/-- The index of PERS.STRAP_OVR. -/
def strapIndex : Nat := persIndex 0x00011040

/-- A host write of PERS.STRAP_OVR with every field as proposed (R314, R315, R316). -/
def Chip.strapWrite (s : Chip) (w : Word) : Chip :=
  if s.worn strapIndex then s.markWorn strapIndex
  else if s.inDip && decide (64 ≤ s.power.commits.length) then s.setB F.pers0StatusDeferFull true
  else ((s.setN F.pers1StrapOvrMask (bits w 31 16)).setN F.pers1StrapOvrValue (bits w 15 0)).persistWord strapIndex

/-- The copy that a load takes, if one holds, and whether the other is rewritten (R313). -/
def Mram.load (m : Mram) : Option Word × Bool :=
  if m.okA && m.okB then (some (if m.stampA < m.stampB then m.b else m.a), m.stampA != m.stampB || m.a != m.b)
  else if m.okA then (some m.a, true)
  else if m.okB then (some m.b, true)
  else (none, false)

/-- Put a persistent word in its register: the fields that survive a cold reset. -/
def Chip.putWord (s : Chip) (i : Nat) (w : Word) : Chip :=
  ((fieldsAt (persAddr i)).filter (fun f => (f.keep &&& kC) != 0)).foldl
    (fun t f => t.setN (f.at (persAddr i)) (bits w (f.lsb + f.width - 1) f.lsb)) s

/-- The ROM value of a persistent word: its fields' Reset values (R243, R313). -/
def romWord (i : Nat) : Word := (fieldsAt (persAddr i)).foldl (fun w f => w ||| (f.reset <<< f.lsb)) 0

/-- Load one word at a cold reset. -/
def Chip.loadWord (s : Chip) (e : Nat × Mram) : Chip :=
  match e.2.load with
  | (some w, fix) =>
    let t := s.putWord e.1 w
    if fix then
      let n := max e.2.stampA e.2.stampB
      let m : Mram := { e.2 with a := w, b := w, stampA := n, stampB := n, okA := true, okB := true }
      (({ t with power := { t.power with mram := Store.write mramDefault t.power.mram e.1 m } }).setB
        F.pers0StatusRepaired true).bump F.pers0Repairs
    else t
  | (none, _) => ((s.putWord e.1 (romWord e.1)).setB F.pers0StatusLost true).fault fPers

/-- A word is persistent: some field of it survives a cold reset. -/
def persistent (i : Nat) : Bool := (fieldsAt (persAddr i)).any (fun f => (f.keep &&& kC) != 0)

/-- What both copies of a word hold that nothing has committed: its production value, which for STRAP_OVR, the one word
that the host writes, is its Reset value. -/
def Chip.production (s : Chip) (i : Nat) : Word := if i = strapIndex then romWord i else s.wordAt (persAddr i)

/-- The two copies of a persistent word. -/
def Chip.copies (s : Chip) (i : Nat) : Mram :=
  match Store.find i s.power.mram with
  | some m => m
  | none => { mramDefault with a := s.production i, b := s.production i }

/-- A word is loaded again with copies that fail their check (R313). -/
def Chip.loadBad (s : Chip) (u : MramUpset) : Chip :=
  if !persistent u.index then s
  else
    let c := s.copies u.index
    let m : Mram := { c with okA := c.okA && !u.copyA, okB := c.okB && !u.copyB }
    Chip.loadWord { s with power := { s.power with mram := Store.write mramDefault s.power.mram u.index m } } (u.index, m)

/-- A commit that the loss of supply cut after its copy A: that copy is the newer (R313). -/
def Chip.tear (s : Chip) : Chip :=
  match s.power.cut with
  | none => s
  | some (i, v) =>
    let c := s.copies i
    let m : Mram := { c with a := v, stampA := s.power.stamp + 1, okA := true, wear := min 2000000 (c.wear + 1) }
    Chip.loadWord { s with power := { s.power with
      mram := Store.write mramDefault s.power.mram i m, stamp := s.power.stamp + 1 } } (i, m)

/-- What a cold reset finds beside the words as they were committed: a commit cut short, and bad copies. -/
def Chip.loadCut (s : Chip) (x : PowerUp) : Chip :=
  let t := x.mram.foldl Chip.loadBad (if x.torn then s.tear else s)
  { t with power := { t.power with cut := none } }

/-- MRAM load of a cold reset: writes still queued are lost, and every committed word is loaded; STRAP_OVR takes the value
of its copies, whatever has struck its register. -/
def Chip.loadMram (s : Chip) : Chip :=
  let lost := (strapIndex :: s.power.commits.map (fun c => c.1)).foldl (fun t i => t.putWord i (romWord i)) s
  s.power.mram.foldl Chip.loadWord { lost with power := { lost.power with commits := [] } }

end Sys2Proof.Machine
end

