-- ==== Sys2Proof/Machine/Ageing.lean ====
section
/-! DEFINITION. The gaffer pair: VDD_CORE and AVSBus, telemetry, temperatures, sensors, plans, the oscillator estimate and the dailies (R285 to R292, R295 to R297, R301). -/

namespace Sys2Proof.Machine

/-- The gaffer pair works (R290). -/
def Chip.gafferRuns (s : Chip) : Bool := s.coresRun && !s.cores.gafferDown && !s.flag F.cal0StatusGafferHalted

/-! ### The VDD_CORE set point (R297) -/

/-- The set point that a plan compares with: the target of a change in progress, or the one in force. -/
def Chip.setPoint (s : Chip) : Nat := match s.power.avs with | some a => a.target | none => s.getN F.pwrAvsSetMv

/-- Begin or redirect a change of VDD_CORE. -/
def Chip.startAvs (s : Chip) (target : Nat) : Chip :=
  let now := s.getN F.pwrAvsSetMv
  match s.power.avs with
  | some a => { s with power := { s.power with avs := some { a with target := target } } }
  | none => if target = now then s else { s with power := { s.power with avs := some ⟨target, now, now, now, 0⟩ } }

/-- A readback reaches a step to within 5 mV. -/
def reaches (readMv step : Nat) : Bool := decide (readMv ≤ step + 5 ∧ step ≤ readMv + 5)

/-- A step has been read back: the change goes on or ends. -/
def Chip.avsReached (s : Chip) (a : AvsChange) : Chip :=
  { s with power := { s.power with avs := if a.step = a.target then none else some { a with old := a.step, misses := 0 } } }

/-- AVS_STEP: the next step of at most 5 mV, once the last has been read back. -/
def Chip.avsStep (s : Chip) (readMv : Nat) : Chip :=
  match s.power.avs with
  | none => s
  | some a =>
    if !s.gafferRuns || a.old != a.step then s
    else
      let next := if a.step < a.target then min a.target (a.step + 5) else max a.target (a.step - 5)
      let t := ((s.setN F.pwrAvsSetMv next).setN F.pwrAvsReadMv readMv).bump F.pwrAvsWrites
      let b : AvsChange := { a with step := next, misses := 0 }
      if reaches readMv next then t.avsReached b else { t with power := { t.power with avs := some b } }

def execAvsStep (readMv : Nat) (s : State) : Host.Outcome State Fault Refusal := done s (s.chip.avsStep readMv)

/-- AVS_READBACK_TIMEOUT: a step is sent again twice; the third miss holds the last set point read back. -/
def Chip.avsMiss (s : Chip) (readMv : Nat) : Chip :=
  match s.power.avs with
  | none => s
  | some a =>
    if !s.gafferRuns || a.old == a.step then s
    else
      let t := s.setN F.pwrAvsReadMv readMv
      if reaches readMv a.step then t.avsReached a
      else if 2 ≤ a.misses then
        let u := (((t.setB F.pwrStatusAvsFail true).fault fAvs).bump F.pwrAvsFails).setN F.pwrAvsSetMv a.old
        { u with power := { u.power with avs := none } }
      else Chip.bump { t with power := { t.power with avs := some { a with misses := a.misses + 1 } } } F.pwrAvsWrites

def execAvsReadbackTimeout (readMv : Nat) (s : State) : Host.Outcome State Fault Refusal := done s (s.chip.avsMiss readMv)

/-! ### Telemetry and temperatures (R296, R301, R379) -/

/-- A nonzero STATUS_WORD (R296). -/
def Chip.regStatus (s : Chip) (w : BitVec 16) : Chip := if w = 0 then s else (s.fault fReg).bump F.pwrRegFaults

/-- TELEMETRY_POLL: the PMBus host works with the always-on domain, in a cold reset too (Table 14-4, step 3). -/
def Chip.telemetry (s : Chip) (ts : List RegTelem) : Chip :=
  if !s.alwaysOn then s
  else ts.zipIdx.foldl (fun t x =>
    (((t.setN (F.pwrTelemVoutMv x.2) x.1.vout.toNat).setN (F.pwrTelemIout x.2) x.1.iout.toNat).regStatus x.1.status)) s

def execTelemetryPoll (t0 t1 t2 : RegTelem) (s : State) : Host.Outcome State Fault Refusal := done s (s.chip.telemetry [t0, t1, t2])

/-- PMB_ALERT (R379). -/
def Chip.pmbAlert (s : Chip) (ws : List (BitVec 16)) : Chip := if !s.alwaysOn then s else ws.foldl Chip.regStatus s

def execPmbAlert (s0 s1 s2 : BitVec 16) (s : State) : Host.Outcome State Fault Refusal := done s (s.chip.pmbAlert [s0, s1, s2])

/-- A die reports its temperature: not while it is dark (R301). Dies are numbered as HLTH.TEMPd. -/
def Chip.dieReports (s : Chip) (d : Nat) : Bool :=
  d == 9 || (!s.power.standby && (d == 0 || !s.groupIsDark (d - 1)))

/-- Temperature in force of a die, 1/8 °C. -/
def Chip.tempNow (s : Chip) (d : Nat) : Int := signed 16 (s.getN (F.hlthTempNow d))

/-- Dies that a calibration involves (Table 13-2). -/
def dieInvolved (d kind target : Nat) : Bool :=
  d == 9 || kind == 2 || (kind == 0 && target + 1 == d && decide (target < 8))
    || (kind == 1 && target / 6 + 1 == d) || (kind == 4 && target / 48 + 1 == d)

/-- One die's reading (R301); a move of more than 2 °C since its start fails a calibration (R276). -/
def Chip.oneTemp (s : Chip) (d : Nat) (v : Int) : Chip :=
  if !s.dieReports d then s
  else
    let t := s.setN (F.hlthTempNow d) (twos 16 v)
    let u := if signed 16 (t.getN (F.hlthTempMax d)) < v then t.setN (F.hlthTempMax d) (twos 16 v) else t
    let start := match u.calRun with | some r => r.temps.getD d v | none => v
    if 16 < (v - start).natAbs then u.calUpset 2 (dieInvolved d) else u

/-- TEMP_READING: THERM_WARN at 105 °C, THERM_LIMIT at 110 °C. -/
def Chip.temps (s : Chip) (l : List (Fin 10 × Int)) : Chip :=
  if !s.powered then s
  else
    let t := l.foldl (fun u x => u.oneTemp x.1.val x.2) s
    let hot := (l.filter (fun x => s.dieReports x.1.val)).map (fun x => x.2)
    let u := if hot.any (fun v => decide (840 ≤ v)) then t.fault fThermWarn else t
    if hot.any (fun v => decide (880 ≤ v)) then u.fault fThermLimit else u

def execTempReading (l : List (Fin 10 × Int)) (s : State) : Host.Outcome State Fault Refusal := done s (s.chip.temps l)

/-- Some die reads 100 °C or more (R302). -/
def Chip.stillHot (s : Chip) : Bool := (List.range 10).any (fun d => decide (800 ≤ s.tempNow d))

/-- A warm reset that RST_N asserts is held after a thermal trip (R302). -/
def Chip.holdHot (s : Chip) : Chip :=
  if s.power.phase = .warmHeld ∧ s.power.rstLow = true ∧ s.power.tripped = true ∧ s.stillHot = true
  then s.setB F.rstStatusHeldThermal true else s

/-- THERMAL_TRIP: a junction stands at or above 120 °C for 100 µs. One that falls while RST_N is low holds that reset. -/
def Chip.thermalTrip (s : Chip) : Chip :=
  if !s.powered then s
  else
    let t := s.fault fThermTrip
    (Chip.enterSafeStop { t with power := { t.power with tripped := true } }).holdHot

def execThermalTrip (s : State) : Host.Outcome State Fault Refusal := done s s.chip.thermalTrip

/-! ### Sensors and need (R285, R288, R289) -/

/-- The die of a sensor, numbered as HLTH.TEMPd. -/
def sensorDie (k : Nat) : Nat := if k < 12 then 0 else if k < 52 then (k - 12) / 5 + 1 else 9

/-- A sensor is read unless its die is in reset, dark or STANDBY. -/
def Chip.sensorRead (s : Chip) (k : Nat) : Bool :=
  s.dieReports (sensorDie k) && (decide (sensorDie k = 0 ∨ sensorDie k = 9) || !s.groupInReset (sensorDie k - 1))

/-- Degradation of a sensor in 0.001 %, from its corrected frequency (R285). -/
def Chip.degradation (s : Chip) (k khz : Nat) : Nat :=
  let prod := s.getN (F.pers0Sensor k)
  if prod = 0 then 0 else min 65535 (freeDiv .degradation ((prod - khz) * 100000 : Nat) prod).toNat

/-- Worst degradation on a die. -/
def Chip.worstOn (s : Chip) (d : Nat) : Nat :=
  (((List.range 64).filter (fun k => sensorDie k == d)).map (fun k => Store.read 0 s.gaffer.degrade k)).foldl max 0

/-- need of R288 in 1/40 mV: the worst die's production minimum plus 2.5 mV per 0.1 %. -/
def Chip.need40 (s : Chip) : Nat :=
  ((List.range 10).map (fun d => s.getN (F.pers0Vmin d) * 40 + s.worstOn d)).foldl max 0

/-- need + 15 mV, rounded up to a multiple of 5 mV. -/
def Chip.target (s : Chip) : Nat := ceilDiv (s.need40 + 600) 200 * 5

/-- need + 15 mV exceeds 820 mV. -/
def Chip.exhausted (s : Chip) : Bool := decide (820 * 40 < s.need40 + 600)

/-- SENSOR_READING (R285, R289): the raise that it calls for, to 820 mV where need + 15 exceeds it, is released at the next
marker. -/
def Chip.sensors (s : Chip) (khz : List (Fin 64 × Nat)) : Chip :=
  if !s.gafferRuns then s
  else
    let d := (khz.filter (fun x => s.sensorRead x.1.val)).foldl
      (fun st x => Store.write 0 st x.1.val (s.degradation x.1.val x.2)) s.gaffer.degrade
    let t := { s with gaffer := { s.gaffer with degrade := d } }
    if t.exhausted || decide (t.setPoint * 40 < t.need40 + 200)
    then { t with gaffer := { t.gaffer with raise := some (min 820 t.target, t.exhausted) } } else t

def execSensorReading (khz : List (Fin 64 × Nat)) (s : State) : Host.Outcome State Fault Refusal := done s (s.chip.sensors khz)

/-- At a marker a staged raise goes out; one that found the margin exhausted raises its fault, and the next publication
says so (R289, R290). -/
def Chip.releaseRaise (s : Chip) : Chip :=
  match s.gaffer.raise with
  | none => s
  | some (v, full) =>
    let t := { s with gaffer := { s.gaffer with raise := none } }
    if !t.gafferRuns then t
    else
      let u := if full then Chip.fault { t with gaffer := { t.gaffer with exhausted := true } } fAvs else t
      if u.setPoint < v then (u.startAvs v).bump F.cal0Raises else u

/-- DRIFT_MEASURE (R286). -/
def Chip.drift (s : Chip) (taps : List (Fin 10 × Nat)) : Chip :=
  if !s.gafferRuns then s
  else { s with gaffer := { s.gaffer with
    tdcNow := taps.foldl (fun st x => Store.write 0 st x.1.val x.2) s.gaffer.tdcNow } }

def execDriftMeasure (taps : List (Fin 10 × Nat)) (s : State) : Host.Outcome State Fault Refusal := done s (s.chip.drift taps)

/-! ### The oscillator estimate (R287) -/

/-- REF of an archive entry (Table 10-4). -/
def archRef (e : BitVec 128) : Nat := bits e 31 28

/-- The hourly mean of x = -CV over the hour's entries that are usable and keep the newest one's REF;
kept where at least 1,800 exist. -/
def Chip.hourMean (s : Chip) : Option Int :=
  let l := s.archBack.take 3600
  let ref := match l.head? with | some e => archRef e | none => 15
  let use_ := l.filter (fun e => archValid e && archRef e == ref)
  if use_.length < 1800 then none else some (-(freeDiv .hour (use_.map archCv).sum use_.length))

/-- OSC_HOURLY: kept hours of the last 7 days. -/
def Chip.oscHour (s : Chip) : Chip :=
  if !s.gafferRuns then s
  else
    let old := s.gaffer.oscHours.filter (fun h => decide (s.gaffer.seconds < h.1 + 604800))
    { s with gaffer := { s.gaffer with
      oscHours := match s.hourMean with | some x => old ++ [(s.gaffer.seconds, x)] | none => old } }

def execOscHourly (s : State) : Host.Outcome State Fault Refusal := done s s.chip.oscHour

/-- Least-squares slope of points (t, x), times a scale, rounded; 0 for fewer than two times. -/
def slopeOf (pts : List (Int × Int)) (scale : Int) (div : Nat) : Int :=
  let n : Int := pts.length
  let st := (pts.map (fun p => p.1)).sum
  let sx := (pts.map (fun p => p.2)).sum
  let stt := (pts.map (fun p => p.1 * p.1)).sum
  let stx := (pts.map (fun p => p.1 * p.2)).sum
  let den := n * stt - st * st
  if den ≤ 0 then 0 else freeDiv .slope ((n * stx - st * sx) * scale) (den * div)

/-- The estimate is valid from 48 kept hours spanning 3 days. -/
def Chip.oscValid (s : Chip) : Bool :=
  let l := s.gaffer.oscHours
  match l.head?, l.getLast? with
  | some a, some b => decide (48 ≤ l.length ∧ 3 * 86400 ≤ b.1 - a.1)
  | _, _ => false

/-- Until the estimate is valid again after a cold reset, the trend resumes from the model in PERS (R291). -/
def Chip.fromPers (s : Chip) : Bool := !s.oscValid && decide (s.getN F.pers3OscSec ≠ 0)

/-- Ageing in 0.001 ppb per day, and x in 0.001 ppb. -/
def Chip.oscAge (s : Chip) : Int :=
  if s.fromPers then signed 32 (s.getN F.pers3OscAge)
  else slopeOf (s.gaffer.oscHours.map (fun h => ((h.1 : Int), h.2))) (86400 * 10 ^ 12) (2 ^ 48)
def Chip.oscX (s : Chip) : Int :=
  if s.fromPers then signed 32 (s.getN F.pers3OscX)
  else match s.gaffer.oscHours.getLast? with | some h => freeDiv .oscillator (h.2 * 10 ^ 12) (2 ^ 48) | none => 0

/-! ### Plans and the dailies (R288, R291, R292) -/

/-- Estimated stamp error of a bank in ps (R286), where a reference and a count exist. -/
def Chip.tdcError (s : Chip) (b : Nat) : Nat :=
  match Store.find b s.gaffer.tdcNow with
  | some n => (freeDiv .stampError (((n : Int) - s.getN (F.pers3TdcRef b)).natAbs * 26 : Nat) 2560).toNat
  | none => 0

/-- Recommendations (Table 13-5). -/
def Chip.recommend (s : Chip) (linkMoved : Bool) : Nat :=
  let r0 := (List.range 10).any (fun b => !s.getBit F.cal0StatusTdcDone b
    || (match Store.find b s.gaffer.tdcNow with
        | some n => decide (5 * 2560 < ((n : Int) - s.getN (F.pers3TdcRef b)).natAbs * 26)
        | none => false)
    || decide (30 * 86400 < s.gaffer.seconds - Store.read 0 s.gaffer.lastCal b))
  let laneDone := fun p => if p < 32 then s.getBit F.cal0LaneDoneLo p else s.getBit F.cal0LaneDoneHi (p - 32)
  let r1 := (List.range 48).any (fun p => s.enableOf p != 0
    && (!laneDone p || decide (500 < s.worstOn (p / 6 + 1) - Store.read 0 s.gaffer.atLaneCal p)))
  let r2 := s.getN (F.pers3KindCount 2) == 0 || linkMoved
  let r3 := s.getN (F.pers3KindCount 3) == 0 || s.flag F.cal0StatusPllMismatch
    || decide (10 < ((s.getN F.pll0MphaseMeasuredPs : Int) - s.getN F.pll0MphaseTargetPs).natAbs)
  let r4 := (List.range 8).any (fun k => match s.session (s.slotSource k) with
    | some x => !cfgMaster x.cfg && s.getN (F.pers2AsymSource (cfgPort x.cfg) (cfgSub x.cfg)) == 0
    | none => false)
  ofBool r0 + ofBool r1 * 2 + ofBool r2 * 4 + ofBool r3 * 8 + ofBool r4 * 16

/-- Words that the gaffer pair has written: each is an access of the firmware (R355). -/
def gafferWrites (addrs : List Nat) (s : Chip) : Chip := addrs.foldl (fun c a => c.access 1 2 5 a) s

/-- The addresses of the dailies (Table 13-7). -/
def dailyAddrs : List Nat := (List.range 16).map (fun i => 0x62040 + 4 * i) ++ (List.range 64).map (fun k => 0x62100 + 4 * k)

/-- The AVS history takes the day's record (R288, Table 14-8). -/
def Chip.recordAvs (s : Chip) (set need day : Nat) : Chip :=
  let newest := s.getN F.pers1AvsNewest
  let k := if s.getN (F.pers1AvsHistSetMv newest) = 0 then newest else (newest + 1) % 32
  let ix := [persIndex (0x00011080 + k * 4), persIndex 0x00011044]
  match s.firstWorn ix with
  | some i => s.markWorn i
  | none =>
    gafferWrites (ix.map persAddr) <| ((((s.setN (F.pers1AvsHistSetMv k) set).setN (F.pers1AvsHistNeedMv k) need).setN (F.pers1AvsHistDay k) (day % 4096)).setN
      F.pers1AvsNewest k).persistWords ix

/-- The oscillator model in PERS is rewritten once the estimate is valid (R291). -/
def Chip.recordOsc (s : Chip) : Chip :=
  let ix := [persIndex 0x000131C0, persIndex 0x000131C4, persIndex 0x000131C8]
  if !s.oscValid then s
  else match s.firstWorn ix with
    | some i => s.markWorn i
    | none => gafferWrites (ix.map persAddr) <| (((s.setN F.pers3OscX (twos 32 s.oscX)).setN F.pers3OscAge (twos 32 s.oscAge)).setN
        F.pers3OscSec (netSec s.net % 2 ^ 32)).persistWords ix

/-- Slope of a sensor's degradation over the last 7 days, 0.0001 % per day. -/
def Chip.trend (s : Chip) (k : Nat) : Int :=
  slopeOf (s.gaffer.history.map (fun h => ((h.1 : Int), ((h.2.getD k 0 : Nat) : Int)))) 10 1

/-- The plan of R288 with the publication of R291, at one marker. -/
def Chip.plan (s : Chip) (linkMoved : Bool) : Chip :=
  let need := (freeDiv .need s.need40 40).toNat
  let target := clamp 680 820 s.target
  let set := if target < s.setPoint then max target (s.setPoint - 10) else target
  let t := if s.exhausted then s.fault fAvs else s
  let u := t.startAvs set
  let seq := u.getN F.cal2Seq + 1
  let day := u.gaffer.seconds / 86400
  let v : Chip := { u with gaffer := { u.gaffer with
    exhausted := false
    history := (u.gaffer.history.filter (fun (h : Nat × List Nat) => decide (day < h.1 + 7))) ++
      [(day, (List.range 64).map (fun k => Store.read 0 u.gaffer.degrade k))] } }
  let a := (((v.setN F.cal2Seq seq).setN F.cal2Second v.gaffer.seconds).setN F.cal2VddSetMv set).setN F.cal2VddNeedMv need
  let b := (((a.setB F.cal2FlagsMarginExhausted (s.exhausted || s.gaffer.exhausted)).setB F.cal2FlagsOscValid s.oscValid).setN F.cal2FlagsRec
    (s.recommend linkMoved)).setN F.cal2OscAge (twos 32 s.oscAge)
  let c := b.setN F.cal2OscX (twos 32 s.oscX)
  let d := (List.range 10).foldl (fun x k => x.setN (F.cal2TdcDriftErrorPs k) (min 65535 (s.tdcError k))) c
  let e := (List.range 64).foldl (fun x k => (x.setN (F.cal2SensorDegrade k) (Store.read 0 v.gaffer.degrade k)).setN
    (F.cal2SensorTrend k) (twos 16 (clampI (-32768) 32767 (v.trend k)))) d
  ((gafferWrites dailyAddrs e).recordAvs set need seq).recordOsc

/-- DAILY_PLAN (R288, R290): the plan is due; it is released at the next marker, after the dip state ends,
or at the first clapper 0 after a restart of the pair. -/
def Chip.planFalls (s : Chip) (linkMoved : Bool) : Chip :=
  if !s.coresRun || s.flag F.cal0StatusGafferHalted then s
  else { s with cores := { s.cores with planDue := some (linkMoved, s.cores.gafferDown) } }

def execDailyPlan (linkMoved : Bool) (s : State) : Host.Outcome State Fault Refusal := done s (s.chip.planFalls linkMoved)

/-- At a marker, the plan that is due. -/
def Chip.releasePlan (s : Chip) (zero : Bool) : Chip :=
  match s.cores.planDue with
  | none => s
  | some (linkMoved, atZero) =>
    if !s.gafferRuns || s.inDip || (atZero && !zero) then s
    else Chip.plan { s with cores := { s.cores with planDue := none } } linkMoved

/-! ### The pair itself (R290) -/

/-- VDD_CORE stays at the last set point read back: a step on its way is taken back (R290). -/
def Chip.holdAvs (s : Chip) : Chip :=
  match s.power.avs with
  | none => s
  | some a => Chip.setN { s with power := { s.power with avs := some { a with step := a.old, misses := 0 } } } F.pwrAvsSetMv a.old

/-- GAFFER_MISMATCH: what the pair staged in this clapper is discarded, and it restarts. -/
def Chip.gafferFails (s : Chip) : Chip :=
  if !s.gafferRuns then s
  else
    let t := ((s.fault fCore).bump F.cal0GafferRestarts).holdAvs
    { t with
      cores := { t.cores with gafferDown := true, gafferBack := false, planDue := t.cores.planDue.map (fun p => (p.1, true)) }
      gaffer := { t.gaffer with raise := none } }

def execGafferMismatch (s : State) : Host.Outcome State Fault Refusal := done s s.chip.gafferFails

/-- GAFFER_SELFTEST_DONE: a pair that passed resumes at the next marker. -/
def Chip.gafferTested (s : Chip) (pass : Bool) : Chip :=
  if !s.cores.gafferDown then s
  else if pass then { s with cores := { s.cores with gafferBack := true } }
  else Chip.setB { s with cores := { s.cores with gafferDown := false, gafferBack := false } } F.cal0StatusGafferHalted true

/-- At a marker, the pair whose self-test passed resumes from its histories. -/
def Chip.gafferResumes (s : Chip) : Chip :=
  if s.cores.gafferBack then { s with cores := { s.cores with gafferDown := false, gafferBack := false } } else s

def execGafferSelftestDone (pass : Bool) (s : State) : Host.Outcome State Fault Refusal := done s (s.chip.gafferTested pass)

end Sys2Proof.Machine
end

