-- ==== Sys2Proof/Machine/Power.lean ====
section
/-! DEFINITION. Power and reset: slots that end, the dip, cold, warm and soft resets, group and port resets, low-power states, PCIe link events and the TAP (R25, R95, R96, R144, R295 to R312, R375, R380). -/

namespace Sys2Proof.Machine

/-! ### Slots that end (R324, R343) -/

/-- A slot in which nothing runs. -/
def slotDefault : Slot := ⟨.idle, 0, 0, false, [], 0, []⟩
def Chip.slot (s : Chip) (n : Nat) : Slot := Store.read slotDefault s.mail.slots n
def Chip.setSlot (s : Chip) (n : Nat) (x : Slot) : Chip :=
  { s with mail := { s.mail with slots := Store.write slotDefault s.mail.slots n x } }

/-- The bit of MASTER_MASK of the active director pair (R355). -/
def Chip.directorMaster (s : Chip) : Nat := 3 + s.getN F.sysDirectorActive

/-- A mailbox word that the active director pair releases; its write counts as a FIRMWARE access (R355). -/
def Chip.firmwareWord (s : Chip) (f : Fld) (v : Word) : Chip := (s.set f v).access 1 2 s.directorMaster f.addr

/-- Register words that the active director pair writes at a release: FIRMWARE accesses (R11, R355). -/
def Chip.directorWrites (s : Chip) (addrs : List Nat) : Chip := addrs.foldl (fun c a => c.access 1 2 s.directorMaster a) s

/-- Complete a slot: status, results, CMD.DONE and the interrupt, in one cycle (R324). -/
def Chip.complete (s : Chip) (n status : Nat) (results : List Word) : Chip :=
  let t := (s.setN (F.cmdSlotStatusStatus n) status).setB (F.cmdSlotStatusDone n) true
  let u := results.zipIdx.foldl (fun c r => c.firmwareWord (F.cmdSlotResult n r.2) r.1) t
  let v := (u.access 1 2 u.directorMaster (F.cmdSlotStatusDone n).addr).setBit F.cmd0Done n true
  let w := if (s.slot n).irq then v.raise (40 + n) else v
  w.setSlot n slotDefault

/-- The STATUS code ABORTED (Table 15-2). -/
def stAborted : Nat := 8

/-- Every command that waits or runs, but one slot's if given, completes ABORTED (R340, R343). -/
def Chip.abortSlots (s : Chip) (but : Option Nat) : Chip :=
  s.mail.slots.foldl (fun t e => if but = some e.1 then t else t.complete e.1 stAborted []) s

/-- A running command's work has ended; its slot completes at the next marker with these results. -/
def Chip.slotEnds (s : Chip) (test : Slot → Bool) (snap : List Word) : Chip :=
  { s with mail := { s.mail with slots := s.mail.slots.map (fun e =>
      if e.2.phase = .running ∧ test e.2 = true then (e.1, { e.2 with phase := .ending, snap := snap }) else e) } }

/-- Microseconds from a raw value to another. -/
def microsBetween (a b : Raw) : Nat := (freeDiv .micros (rawDiff a b) (65536 * 1000)).toNat

/-! ### The dip (R299, R300) -/

/-- The set point of a rail in mV (R295); during a change of VDD_CORE the lower of the old and the new (R297). -/
def Chip.railSet (s : Chip) (rail : Nat) : Nat :=
  if rail = 0 then
    (match s.power.avs with
     | some a => min a.origin a.target
     | none => s.getN F.pwrAvsSetMv)
  else if rail = 1 then 800 else if rail = 2 then 1200 else if rail = 3 then 1800 else 3300

/-- The rail that fell lower relative to its set point. -/
def Chip.lower (s : Chip) (d : Dip) (rail minMv : Nat) : Dip :=
  if minMv * s.railSet d.rail < d.minMv * s.railSet rail then { d with rail := rail, minMv := minMv } else d

/-- PWR.DIP_LOG (R300). -/
def Chip.logDip (s : Chip) (d : Dip) (us : Nat) : Chip :=
  ((s.setN F.pwrDipLogRail d.rail).setN F.pwrDipLogMinMv d.minMv).setN F.pwrDipLogDurationUs (min us 65535)

/-- What entry to the dip state does (R299). -/
def Chip.enterDip (s : Chip) (rail minMv : Nat) : Chip :=
  let t := (((s.setB F.pwrStatusDip true).setB F.pwrStatusDipEvent true).fault fDip).bump F.pwrDips
  let u := ((t.setB F.time0StatusDipCoast true).setB F.pwrStatusDeferred (!t.power.commits.isEmpty)).calUpset 3 (fun _ _ => true)
  { u with
    power := { u.power with dip := some ⟨u.time.raw, rail, minMv, none⟩ }
    refs := { u.refs with dipIn := true } }

/-- A rail that the monitors watch (R295, R304): the board's two whenever the always-on domain works, the three
controlled ones from the steps on that turn them on until they are turned off. -/
def Chip.railStands (s : Chip) (rail : Nat) : Bool :=
  s.powered || s.power.phase == .rails || (decide (3 ≤ rail) && (s.power.phase == .failed || s.power.phase == .stopped))

/-- DIP_ENTRY: a rail has stood below its warning level for more than 2 µs. Rails that dip together make
one dip; one after the end condition makes another. -/
def Chip.dipEntry (s : Chip) (rail minMv : Nat) : Chip :=
  if !s.railStands rail || decide (s.railSet rail * 93 ≤ minMv * 100) then s
  else
    match s.power.dip with
    | none => s.enterDip rail minMv
    | some d =>
      match d.ended with
      | none => { s with power := { s.power with dip := some (s.lower d rail minMv) } }
      | some us => (s.logDip d us).enterDip rail minMv

def execDipEntry (rail : Fin 5) (minMv : Nat) (s : State) : Host.Outcome State Fault Refusal := done s (s.chip.dipEntry rail.val minMv)

/-- The dip state is over; deferred commits then go on in order. -/
def Chip.endDip (s : Chip) (d : Dip) (us : Nat) : Chip :=
  let t := (((s.logDip d us).setB F.pwrStatusDip false).setB F.pwrStatusDeferred false).setB F.time0StatusDipCoast false
  { t with power := { t.power with dip := none } }

/-- DIP_END_CONDITION: the dip state ends at the next marker; before READY, where the model steps no marker, at once
(log 25). -/
def Chip.dipEnds (s : Chip) : Chip :=
  match s.power.dip with
  | some d =>
    if d.ended.isSome || !s.alwaysOn then s
    else
      let us := microsBetween d.entered s.time.raw
      if s.ready then { s with power := { s.power with dip := some { d with ended := some us } } } else s.endDip d us
  | none => s

def execDipEndCondition (s : State) : Host.Outcome State Fault Refusal := done s s.chip.dipEnds

/-- At a marker, a dip whose end condition is met is over. -/
def Chip.leaveDip (s : Chip) : Chip :=
  match s.power.dip with
  | none => s
  | some d =>
    match d.ended with
    | none => s
    | some us => s.endDip d us

/-! ### Cold reset (R304, Table 14-4) -/

/-- Codes of RST.CAUSE (Table 14-7). -/
def causePowerOn : Nat := 0
def causeSupply : Nat := 1
def causeDipTimeout : Nat := 2
def causeSequence : Nat := 3
def causeRstN : Nat := 4
def causeDeviceReset : Nat := 5
def causeXoLoss : Nat := 6

/-- Load RST.CAUSE and RAIL. -/
def Chip.setCause (s : Chip) (cause rail : Nat) : Chip := (s.setN F.rstCause cause).setN F.rstCauseRail rail

/-- What a cold reset leaves: persistent words alone, loaded from MRAM, and the pins (R312). -/
def Chip.coldClear (s : Chip) : Chip :=
  let r := s.resetPages kC (fun _ => true)
  let p := s.power
  Chip.loadMram { Chip.zero with
    regs := r.regs, badParity := r.badParity
    power := { Chip.zero.power with
      straps := p.straps, rstLow := p.rstLow, perstLow := p.perstLow, tap := p.tap, trstLow := p.trstLow, boundary := p.boundary
      mram := p.mram, commits := p.commits, stamp := p.stamp, cold := true
      cut := if p.commits.isEmpty then p.cut else p.commits.head? } }

/-- The first set point after a cold reset (R297): the newest history entry plus 10 mV, or 800 mV. -/
def Chip.firstSet (s : Chip) : Chip :=
  let mv := s.getN (F.pers1AvsHistSetMv (s.getN F.pers1AvsNewest))
  s.setN F.pwrAvsSetMv (if mv = 0 then 800 else min 820 (mv + 10))

/-- A cold reset that begins at step 2 with the controlled rails turned off for 100 ms. -/
def Chip.coldReset (s : Chip) (cause rail : Nat) : Chip :=
  let t := s.coldClear.setCause cause rail
  { t with power := { t.power with phase := .failed } }

/-- Straps as sampled, with PERS.STRAP_OVR applied (R317, R376). -/
def Chip.sampleStraps (s : Chip) (straps : BitVec 16) : Chip :=
  let m := BitVec.ofNat 16 (s.getN F.pers1StrapOvrMask)
  let v := BitVec.ofNat 16 (s.getN F.pers1StrapOvrValue)
  { s with power := { s.power with straps := (straps &&& ~~~m) ||| (v &&& m) } }

/-- Steps 2 to 4 of Table 14-4, with the persistent words whose copies are found bad (R313). -/
def Chip.sequence (s : Chip) (x : PowerUp) : Chip :=
  let t := (s.loadCut x).firstSet.sampleStraps x.straps
  { t with power := { t.power with phase := .rails } }

/-- POWER_ON: VDD_AUX and VDD_IO stand with XO_IN present. -/
def Chip.powersOn (s : Chip) (x : PowerUp) : Chip :=
  if s.power.phase ≠ .off then s else (s.coldClear.setCause causePowerOn 7).sequence x

def execPowerOn (x : PowerUp) (s : State) : Host.Outcome State Fault Refusal := done s (s.chip.powersOn x)

/-- SEQUENCE_RAIL_TIMEOUT: the rails go off for 100 ms; after the third failure the sequencer stops. -/
def Chip.railTimeout (s : Chip) (rail : Nat) : Chip :=
  if s.power.phase ≠ .rails then s
  else
    let n := s.power.railFails + 1
    let t := if n < 3 then s else s.setCause causeSequence rail
    { t with power := { t.power with railFails := n, phase := if n < 3 then .failed else .stopped } }

def execSequenceRailTimeout (rail : Fin 3) (s : State) : Host.Outcome State Fault Refusal := done s (s.chip.railTimeout rail.val)

/-- SEQUENCE_RESTART: the sequence restarts from step 2, 100 ms after the rails have gone off, and where a regulator has
started its rail by itself (R296). -/
def Chip.sequenceAgain (s : Chip) (x : PowerUp) : Chip :=
  if s.power.phase = .failed ∨ s.power.phase = .rails then s.sequence x else s

def execSequenceRestart (x : PowerUp) (s : State) : Host.Outcome State Fault Refusal := done s (s.chip.sequenceAgain x)

/-- MASTER_LOCK_TIMEOUT (R244): the counter is released on fallback. -/
def Chip.lockTimeout (s : Chip) : Chip :=
  if s.power.phase ≠ .rails then s else (s.setB F.pll0MstatusFallback true).releaseCounter

def execMasterLockTimeout (s : State) : Host.Outcome State Fault Refusal := done s s.chip.lockTimeout

/-- RAIL_RESET_LEVEL (R300). A sequencer that has stopped stays so (R304). -/
def Chip.railFalls (s : Chip) (rail : Nat) : Chip :=
  if s.railStands rail && s.power.phase != .stopped
  then s.coldReset causeSupply rail else s

def execRailResetLevel (rail : Fin 5) (s : State) : Host.Outcome State Fault Refusal := done s (s.chip.railFalls rail.val)

/-- DIP_TIMEOUT (R300). -/
def Chip.dipTimeout (s : Chip) : Chip :=
  match s.power.dip with
  | some d => if d.ended.isSome || !s.alwaysOn || s.power.phase == .stopped then s else s.coldReset causeDipTimeout d.rail
  | none => s

def execDipTimeout (s : State) : Host.Outcome State Fault Refusal := done s s.chip.dipTimeout

/-- The clock and pulse outputs are driven low, and no further edge leaves a ball (R250). -/
def Chip.outputsLow (s : Chip) : Chip :=
  let t := (List.range 8).foldl (fun u n => u.setB (F.pll1ClkoutStatusRunning n) false) s
  let u := (List.range 4).foldl (fun v n => v.setB (F.pll1PpsStatusRunning n) false) t
  { u with
    clk := (List.range 8).foldl (fun l n => Store.write clkDefault l n { Store.read clkDefault l n with running := false }) u.clk
    pulses := u.pulses.map (fun e => (e.1, { e.2 with falls := none })) }

/-- XO_LOSS (R250): every clock stops, the outputs are driven low and nothing is served. -/
def Chip.xoLost (s : Chip) : Chip :=
  if s.power.phase = .off ∨ s.power.phase = .stopped ∨ s.power.phase = .xoLost then s
  else
    let t := (s.setB F.rstStatusReady false).outputsLow
    { t with
      time := { t.time with running := false }
      power := { t.power with phase := .xoLost } }

def execXoLoss (s : State) : Host.Outcome State Fault Refusal := done s s.chip.xoLost

/-- XO_RETURN (R250, R304). -/
def Chip.xoBack (s : Chip) : Chip := if s.power.phase = .xoLost then s.coldReset causeXoLoss 7 else s

def execXoReturn (s : State) : Host.Outcome State Fault Refusal := done s s.chip.xoBack

/-- VDD_AUX_REMOVAL: the part is without power; its persistent memory stays. -/
def Chip.unpower (s : Chip) : Chip :=
  let t := s.coldClear
  { t with power := { t.power with phase := .off, cold := false } }

def execVddAuxRemoval (s : State) : Host.Outcome State Fault Refusal := done s s.chip.unpower

/-! ### The PCIe function (R25, R375) -/

/-- What a Function Level Reset or a link-down resets: the configuration space, the MSI-X table and its vectors, and the
BAR2 rings (R25). -/
def Chip.resetRings (s : Chip) : Chip :=
  { s with
    regs := s.regs.filter (fun e => decide (e.1 / 32 < 0x05000000))
    ringMem := [], hostTokens := 0, ringTokens := [], txTurn := 0 }
def Chip.functionReset (s : Chip) : Chip := { s.resetRings with msix := 0, pcie := Chip.zero.pcie }

/-- PCIE_FLR. -/
def Chip.flr (s : Chip) : Chip := if s.power.linkUp then s.functionReset else s

def execPcieFlr (s : State) : Host.Outcome State Fault Refusal := done s s.chip.flr

/-- PCIE_LINK_DOWN, by PERST_N or otherwise. -/
def Chip.pcieDown (s : Chip) (perst : Bool) : Chip :=
  let t := if s.power.linkUp then s.functionReset else s
  { t with power := { t.power with linkUp := false, perstLow := perst || t.power.perstLow } }

def execPcieLinkDown (perst : Bool) (s : State) : Host.Outcome State Fault Refusal := done s (s.chip.pcieDown perst)

/-- The TAP instruction holds a warm reset (R380). -/
def tapHolds : TapInstr → Bool
  | .extest | .clamp | .highz | .extestPulse | .extestTrain => true
  | .bypass | .idcode | .samplePreload => false

/-- RST_N or the TAP holds the reset. -/
def Chip.resetHeld (s : Chip) : Bool := s.power.rstLow || tapHolds s.power.tap

/-- PCIE_LINK_UP: with PERST_N high the link trains, from step 6 of Table 14-4 on, which RST_N can hold back (R375). -/
def Chip.pcieUp (s : Chip) : Chip :=
  { s with power := { s.power with
      perstLow := false
      linkUp := s.power.linkUp || s.power.phase == .run || (s.power.phase == .boot && !s.resetHeld) } }

def execPcieLinkUp (s : State) : Host.Outcome State Fault Refusal := done s s.chip.pcieUp

/-! ### Warm and soft resets (R305, R306, R312) -/

/-- The core setting follows R246 through the reset: the standby relocks at IDLE, and the swap of R247 waits for its lock
(R257). -/
def Chip.idleCore (s : Chip) : Chip :=
  if s.getN F.pll0CstatusSetting ≠ 0 then s.setPllWait 2 (s.pllWait 2)
  else if s.flag F.pll0CstatusStandbyReady then
    ((s.setCoreLocked (1 - s.getN F.pll0CstatusActive) false).setB F.pll0CstatusStandbyReady false).setPllWait 2 1
  else s.setPllWait 2 1

/-- What a warm or soft reset does to every page and store (Table 14-5); network time jumps to raw time,
and pulse outputs keep their place (R169, R255). -/
def Chip.deviceReset (s : Chip) (mask : Nat) : Chip :=
  let o := s.idleCore
  let q : ParamSet := ⟨0, 0, 0, false, s.time.cur.era + 1⟩
  let j := (o.jumpPulses ((q.netAt s.time.raw : Int) - s.net)).resetPages mask (fun _ => true)
  let t := { Chip.zero with
    regs := j.regs, badParity := j.badParity
    shadow := j.shadow, reply := s.reply, msix := s.msix, pcie := s.pcie
    smbHeld := s.smbHeld, nextFrame := s.nextFrame, nextLink := s.nextLink, pulses := j.pulses
    clk := s.clk, banks := { s.banks with loaded := 0xFF }
    lOut := s.lOut, linkTrim := s.linkTrim
    time := { Chip.zero.time with
      raw := s.time.raw, running := s.time.running, hist := s.time.hist, cur := q, stepRaw := some s.time.raw }
    refs := { Chip.zero.refs with archive := s.refs.archive, dipIn := s.inDip }
    gaffer := { s.gaffer with raise := none }
    power := { s.power with
      portDark := 0, groupDark := 0, groupReset := 0, portReset := 0, standby := false, inReset := []
      resetFrom := [], pll := Store.erase 1 o.power.pll } }
  (t.setB F.time0StatusDipCoast s.inDip)

/-- A soft reset, at the marker that ends DEVICE_RESET's step (R306, R340). -/
def Chip.softReset (s : Chip) : Chip :=
  let t := ((s.deviceReset kS).setCause causeDeviceReset 7).bump F.rstSoftResets
  { t with power := { t.power with phase := .boot } }

/-- A warm reset begins (R305): from the running state, or from the end of a soft reset. -/
def Chip.warmBegins (s : Chip) : Chip :=
  if s.power.phase = .run ∨ (s.power.phase = .boot ∧ s.power.cold = false) then
    let t := ((((s.abortSlots none).deviceReset kW).setCause causeRstN 7).bump F.rstWarmResets).functionReset
    { t with power := { t.power with phase := .warmHeld, linkUp := false, sampled := none } }
  else s

/-- WARM_RESET_ASSERT. -/
def Chip.rstFalls (s : Chip) : Chip :=
  let t := { s with power := { s.power with rstLow := true } }
  t.warmBegins.holdHot

def execWarmResetAssert (s : State) : Host.Outcome State Fault Refusal := done s s.chip.rstFalls

/-- Step 4 of Table 14-4 after a warm reset: straps, as the release of RST_N found the balls or else as they stand now,
and the core PLLs where the reset ends safe stop. -/
def Chip.warmGoes (s : Chip) (straps : BitVec 16) : Chip :=
  if s.power.phase ≠ .warmHeld ∨ s.resetHeld = true ∨ s.flag F.rstStatusHeldThermal = true then s
  else
    let t := s.sampleStraps (s.power.sampled.getD straps)
    let u := if t.flag F.pll0CstatusALocked || t.flag F.pll0CstatusBLocked then t
      else (((t.setB F.pll0CstatusALocked true).setB F.pll0CstatusBLocked true).setB F.pll0CstatusStandbyReady true).setPllWait 2 0
    { u with power := { u.power with phase := .boot, tripped := false, sampled := none } }

/-- WARM_RESET_RELEASE: the straps are sampled at the release, whatever holds the reset on (R376). -/
def Chip.rstRises (s : Chip) (straps : BitVec 16) : Chip :=
  Chip.warmGoes { s with power := { s.power with
    rstLow := false, sampled := if s.power.phase = .warmHeld then some straps else s.power.sampled } } straps

def execWarmResetRelease (straps : BitVec 16) (s : State) : Host.Outcome State Fault Refusal := done s (s.chip.rstRises straps)

/-- THERMAL_HOLD_RELEASE (R302): every die reads below 100 °C. -/
def Chip.coolEnough (s : Chip) (straps : BitVec 16) : Chip :=
  if !s.flag F.rstStatusHeldThermal || s.stillHot then s
  else (s.setB F.rstStatusHeldThermal false).warmGoes straps

def execThermalHoldRelease (straps : BitVec 16) (s : State) : Host.Outcome State Fault Refusal := done s (s.chip.coolEnough straps)

/-- What the TAP shifts out under the instruction that stands: IDCODE reads 0x1487_674F (R380). -/
def Chip.tapReads (s : Chip) : Option Word := if s.power.tap = .idcode then some 0x1487674F else none

/-- The instructions under which the boundary register is shifted and updated (R380). -/
def tapShiftsBoundary : TapInstr → Bool
  | .samplePreload | .extest | .extestPulse | .extestTrain => true
  | .bypass | .idcode | .clamp | .highz => false

/-- The levels that the boundary register drives at the signal balls: under EXTEST and CLAMP. -/
def Chip.ballsDriven (s : Chip) : Option (List Bool) :=
  if s.power.tap = .extest ∨ s.power.tap = .clamp then some s.power.boundary else none

/-- An instruction takes its place in the instruction register: one that holds begins a warm reset, leaving it lets the
warm reset go on (R380). -/
def Chip.tapTakes (s : Chip) (i : TapInstr) (straps : BitVec 16) : Chip :=
  let was := tapHolds s.power.tap
  let t := { s with power := { s.power with tap := i } }
  if tapHolds i then (if was then t else t.warmBegins)
  else if was then t.warmGoes straps else t

/-- JTAG_INSTRUCTION (R380): nothing moves the TAP out of Test-Logic-Reset while TRST_N is low; there IDCODE stands. -/
def Chip.tapMoves (s : Chip) (x : TapEvent) : Chip :=
  if s.power.phase = .off then s
  else match x.move with
    | .trst low =>
      let t := { s with power := { s.power with trstLow := low } }
      if low then t.tapTakes .idcode x.straps else t
    | .testLogicReset => s.tapTakes .idcode x.straps
    | .load i => if s.power.trstLow then s else s.tapTakes i x.straps
    | .boundary cells =>
      if s.power.trstLow || !tapShiftsBoundary s.power.tap then s
      else { s with power := { s.power with boundary := cells } }

def execJtagInstruction (x : TapEvent) (s : State) : Host.Outcome State Fault Refusal := done s (s.chip.tapMoves x)

/-- The director pairs after their self-tests (R13): one that fails stays fenced until the next reset. -/
def Chip.testPairs (s : Chip) (pass0 pass1 : Bool) : Chip :=
  let t := ((((s.setB F.sysDirectorActive (!pass0 && pass1)).setB F.sysDirectorStandbyReady (pass0 && pass1)).setB
    F.sysDirectorStandbyFenced (!(pass0 && pass1))).setB F.sysDirectorControlLost (!pass0 && !pass1))
  let u := { t with cores := { t.cores with pairFailed := !(pass0 && pass1) } }
  if pass0 && pass1 then u else u.fault fCore

/-- The parameter set of marker k after a cold reset, before any step (R169, R172). -/
def coldSet (k : Nat) : ParamSet := ⟨BitVec.ofNat 64 (k * clapperUnits), k * clapperUnits, 0, false, 0⟩

/-- The first marker after a reset (R172): at the next TCLK edge after a warm or soft one; after a cold one markers
have fallen every 0xF4240000 raw units since the release of the counter, and their sets stand in the history. -/
def Chip.startClappers (s : Chip) : Chip :=
  if s.power.cold then
    let k := s.time.raw.toNat / clapperUnits
    let t := s.setN F.time0ClapperNumber (k % 16000)
    { t with
      time := { t.time with
        cur := coldSet k, hist := (List.range (min 256 (k + 1))).map (fun i => coldSet (k - i))
        nextAnchor := BitVec.ofNat 64 ((k + 1) * clapperUnits), nextNumber := (k + 1) % 16000, sinceAlign := k }
      gaffer := { t.gaffer with seconds := t.gaffer.seconds + k / 16000 } }
  else { s with time := { s.time with nextAnchor := s.time.raw + 65536, nextNumber := 0 } }

/-- RESET_READY: steps 6 and 7 have ended; every page is reachable. While RST_N is low in a cold reset the
sequence holds at the end of step 5 (R375). -/
def Chip.resetEnds (s : Chip) (pass0 pass1 gafferPass : Bool) : Chip :=
  if s.power.phase ≠ .boot ∨ s.resetHeld = true then s
  else
    let t := ((s.testPairs pass0 pass1).setB F.cal0StatusGafferHalted (!gafferPass)).startClappers
    let u := (t.setN F.pll0LstatusLocked 0xFFFF).setB F.rstStatusReady true
    { u with power := { u.power with phase := .run, cold := false, linkUp := u.power.linkUp || !u.power.perstLow } }

def execResetReady (pass0 pass1 gafferPass : Bool) (s : State) : Host.Outcome State Fault Refusal :=
  done s (s.chip.resetEnds pass0 pass1 gafferPass)

/-! ### Group and port resets (R50, R95, R144, R211, R307, R308) -/

/-- The raw counts of slates of a port's frames begin again (R179). -/
def Chip.forgetSlates (s : Chip) (p : Nat) : Chip :=
  let other := fun (k : Nat) => decide (2 ≤ k / 4096) || decide (k % 4096 / 8 ≠ p)
  { s with slateSeq := s.slateSeq.filter (fun e => other e.1), slateLost := s.slateLost.filter other }

/-- ESMC state of a port is gone. -/
def Chip.forgetEsmc (s : Chip) (p : Nat) : Chip := { s with esmc := s.esmc.filter (fun e => decide (e.1 / 8 ≠ p)) }

/-- Pages enter reset. -/
def Chip.pagesFall (s : Chip) (pgs : List Nat) : Chip :=
  { s with power := { s.power with inReset := (s.power.inReset.filter (fun k => !pgs.contains k)) ++ pgs } }

/-- A fused port's member leaves service for a reset of its group: no hold begins (R95). -/
def Chip.memberFalls (s : Chip) (m : Nat) : Chip :=
  let q := s.lowerOf m
  let x := s.fuse q
  let y := if m = q then { x with low := { x.low with run := 0 }, lowIn := false }
    else { x with up := { x.up with run := 0 }, upIn := false }
  let t := (((s.setFuse q y).fuseStatus q).markHeld q 0).endWaits q m
  if y.inService = 0 then (t.setBit (F.port0StatusHolding q) 0 false).setLink q 0 { t.link q 0 with expired := true } else t

/-- A frame has cells in the slice of one member, or on their way to it. -/
def Chip.usesSlice (s : Chip) (m : Nat) (f : Frame) : Bool :=
  f.outPort == s.lowerOf m &&
    (decide ((if m = f.outPort then f.crossed - f.upperCells else f.upperCells) ≠ 0) ||
      s.fab.crossing.any (fun c => c.1 == f.id && c.2.1 == m))

/-- What a group reset does to one of its ports: input store, links, and the slice with the frames that lie in it, those
that another member is sending included (R144). -/
def Chip.stopForGroup (s : Chip) (m : Nat) : Chip :=
  let q := s.lowerOf m
  let t := (s.emptyInput m false).stopMember m false
  let w := t.flush (fun f => t.usesSlice m f && !f.started) F.admSubBreakReset (some F.port2Flushed)
  let u := (w.frames.filter (fun f => w.usesSlice m f && f.started && !f.ended)).foldl Chip.endFrame w
  if s.fusedLower q then u.memberFalls m else u

/-- The lock bits of a group's lane PLLs. -/
def Chip.laneLocks (s : Chip) (g : Nat) (v : Bool) : Chip :=
  (s.setBit F.pll0LstatusLocked (2 * g) v).setBit F.pll0LstatusLocked (2 * g + 1) v

/-- A group die out of reset and not dark loads its raw copy and its bank trims, and its lane PLLs lock (R166, R284). -/
def Chip.loadDie (s : Chip) (g : Nat) : Chip :=
  if s.groupInReset g || s.groupIsDark g then s
  else
    let t := s.laneLocks g true
    { t with banks := { t.banks with loaded := setIn t.banks.loaded g true } }

/-- A group die loses its raw copy and its bank trims, and its lane PLLs stop. -/
def Chip.unloadDie (s : Chip) (g : Nat) : Chip :=
  let t := s.laneLocks g false
  { t with banks := { t.banks with loaded := setIn t.banks.loaded g false } }

/-- A die's snapshot words are gone (R348). -/
def Chip.dropDie (s : Chip) (d : Nat) : Chip := s.setBit F.pcnt0SnapDies d false

/-- Ports of a group. -/
def groupPorts (g : Nat) : List Nat := (List.range 6).map (fun i => 6 * g + i)

/-- A group reset of Gg begins (R308 steps 1 and 2). -/
def Chip.beginGroupReset (s : Chip) (g : Nat) : Chip :=
  let t := (groupPorts g).foldl Chip.stopForGroup (s.calUpset 4 (groupInvolved g))
  let u := (groupPorts g).foldl (fun x p => (x.forgetSlates p).forgetEsmc p) (t.resetPages kG (groupActs g))
  let v := (((u.restartSessions (fun c => cfgPort c / 6 == g)).pagesFall (groupPages g)).unloadDie g).dropDie (g + 1)
  Chip.bump { v with
    rxq := Store.erase g v.rxq
    power := { v.power with
      groupReset := setIn v.power.groupReset g true
      resetFrom := Store.write 0 v.power.resetFrom (64 + g) v.time.raw } } F.rstGroupResets

/-- GROUP_FAULT (R307): the third within 10 s leaves the group held. -/
def Chip.groupFault (s : Chip) (g : Nat) : Chip :=
  if s.power.phase ≠ .run ∨ s.groupIsDark g = true ∨ s.power.standby = true then s
  else
    let now := s.time.raw
    let old := (Store.read [] s.power.faultTimes g).filter (fun t => decide (rawDiff t now < 10000000000 * 65536))
    let t := ((s.fault fGroup).bump F.rstGroupFaults).beginGroupReset g
    let u := { t with power := { t.power with faultTimes := Store.write [] t.power.faultTimes g (old ++ [now]) } }
    if 2 ≤ old.length then u.setBit F.rstStatusGroupHeld g true else u

def execGroupFault (g : Fin 8) (s : State) : Host.Outcome State Fault Refusal := done s (s.chip.groupFault g.val)

/-- What a port's page tells of its trees and its take gate is current again after a dark state (R51). -/
def Chip.syncPort (s : Chip) (p : Nat) : Chip :=
  (s.syncTake p).setB (F.port5TreeStatusChecking p) (s.checking.contains p)

/-- The fields of a GRPg page that do not survive GROUP_DARK take their Reset values at wake (R51); the
header, which no dark state acts on, keeps its words (R29). -/
def Chip.wakeFields (s : Chip) (g : Nat) : Chip :=
  { s with regs := s.regs.filter (fun e =>
      e.1 / 32 / 4096 != 0x3002 + g * 16 || decide (e.1 / 32 % 4096 < 0x40) || (keepOf e.1 &&& kGroupDark) != 0) }

/-- The modes written while a port, or the fused port whose upper member it is or was, stood dark take effect (R51). -/
def Chip.wakeModes (s : Chip) (p : Nat) : Chip := (s.wakeMode p).wakeMode (p - 6)

/-- The wake of a group begins (R310): its die has power and is held in reset, step 2 of R308. -/
def Chip.beginWakeGroup (s : Chip) (g : Nat) : Chip :=
  { s with power := { s.power with groupReset := setIn s.power.groupReset g true } }

/-- A waking group's die holds its configuration, the end of step 3 (R308, R310): DARK reads 0, the lane PLLs lock, and
the pages wait for their handshakes. Ports taken dark by their own command stay dark. -/
def Chip.wakeGroup (s : Chip) (g : Nat) : Chip :=
  let t := { s with power := { s.power with
    groupDark := setIn s.power.groupDark g false, groupReset := setIn s.power.groupReset g false } }
  let v := (((t.wakeFields g).restartSessions (fun c => cfgPort c / 6 == g)).loadDie g).pagesFall (groupPages g)
  (groupPorts g).foldl (fun u p => (u.syncPort p).wakeModes p) v

/-- GROUP_RESET_READY (R308 steps 3 and 4): the die is released, holds its configuration, and its lane PLLs
lock; the handshakes of its pages follow. A group that wakes takes the same steps (R310). -/
def Chip.groupReady (s : Chip) (g : Nat) : Chip :=
  if !s.groupInReset g || s.getBit F.rstStatusGroupHeld g || !s.ready then s
  else if s.groupIsDark g then s.wakeGroup g
  else
    Chip.loadDie { s with power := { s.power with groupReset := setIn s.power.groupReset g false } } g

def execGroupResetReady (g : Fin 8) (s : State) : Host.Outcome State Fault Refusal := done s (s.chip.groupReady g.val)

/-- A port reset of the port named by its lower member begins (R95). -/
def Chip.beginPortReset (s : Chip) (q : Nat) : Chip :=
  let ms := s.members q
  let t := (ms.foldl (fun x p => x.calUpset 4 (portInvolved p)) s).stopPort q false F.admSubBreakReset
  let u := ms.foldl (fun x p => ((x.resetPages kT (portActs p)).forgetSlates p).forgetEsmc p) t
  let v := (u.restartSessions (fun c => cfgPort c == q)).pagesFall (ms.flatMap portPages)
  { v with power := { v.power with
      portReset := ms.foldl (fun w p => setIn w p true) v.power.portReset
      resetFrom := Store.write 0 v.power.resetFrom q v.time.raw } }

/-- Some page of a list is in reset. -/
def Chip.anyInReset (s : Chip) (pgs : List Nat) : Bool := pgs.any (fun k => s.power.inReset.contains k)

/-- A port whose pages are all back: its enabled subports start (R95, R308 step 5). -/
def Chip.portBack (s : Chip) (p : Nat) : Chip :=
  if s.anyInReset (portPages p) then s
  else
    let t := { s with power := { s.power with portReset := setIn s.power.portReset p false } }
    if t.portIsDark p || t.groupIsDark (p / 6) || !t.getBit F.pll0LstatusLocked (2 * (p / 6) + p % 6 / 3) then t
    else t.startEnabled p

/-- The port that a PORT_RESET slot names, and the group of a GROUP_RESET slot. -/
def Slot.param (x : Slot) (i : Nat) : Word := x.params.getD i 0
def Slot.namesPort (x : Slot) (p : Nat) : Bool := x.opcode == 0x42 && bits (x.param 0) 5 0 == p
def Slot.namesGroup (x : Slot) (g : Nat) : Bool := x.opcode == 0x41 && bits (x.param 0) 2 0 == g

/-- Microseconds since a reset began, as the commands report them. -/
def Chip.resetMicros (s : Chip) (key : Nat) : List Word := [word (microsBetween (Store.read 0 s.power.resetFrom key) s.time.raw)]

/-- HANDSHAKE_COMPLETE (R50): a page is back; with its last page a port restarts, and a reset command ends. -/
def Chip.handshake (s : Chip) (pg : Nat) : Chip :=
  let g := (groupOfPage pg).getD 8
  if !s.power.inReset.contains pg || s.groupInReset g || !s.ready then s
  else
    let t := { s with power := { s.power with inReset := s.power.inReset.filter (fun k => k != pg) } }
    let u := match portOfPage pg with | some p => t.portBack p | none => t
    let v := match portOfPage pg with
      | some p =>
        let q := u.lowerOf p
        if u.anyInReset ((u.members q).flatMap portPages) then u
        else u.slotEnds (fun x => x.namesPort q) (u.resetMicros q)
      | none => u
    if v.anyInReset (groupPages g) then v else v.slotEnds (fun x => x.namesGroup g) (v.resetMicros (64 + g))

def execHandshakeComplete (page : BitVec 14) (s : State) : Host.Outcome State Fault Refusal := done s (s.chip.handshake page.toNat)

/-! ### Low-power states (R96, R309 to R311) -/

/-- Set the dark bits of a port's members. -/
def Chip.darkBits (s : Chip) (q : Nat) (v : Bool) : Chip :=
  { s with power := { s.power with portDark := (s.members q).foldl (fun w p => setIn w p v) s.power.portDark } }

/-- Take a port dark (R96). -/
def Chip.darkPort (s : Chip) (q : Nat) : Chip :=
  (((s.members q).foldl (fun x p => x.calUpset 4 (portInvolved p)) s).stopPort q true F.admSubBreakLink).darkBits q true

/-- Bring a port out of PORT_DARK (R96, R211): a mode written while it was dark takes effect (R51). -/
def Chip.wakePort (s : Chip) (q : Nat) : Chip :=
  (((s.darkBits q false).restartSessions (fun c => cfgPort c == q)).wakeMode q).restart q

/-- Take a group dark (R310); a reset of its die that still runs ends with the die's power. -/
def Chip.darkGroup (s : Chip) (g : Nat) : Chip :=
  let t := ((groupPorts g).filter (fun p => !s.portIsDark p)).foldl (fun x p => x.stopPort p true F.admSubBreakLink)
    (s.calUpset 4 (groupInvolved g))
  let u := ((t.restartSessions (fun c => cfgPort c / 6 == g)).unloadDie g).dropDie (g + 1)
  { u with
    rxq := Store.erase g u.rxq
    power := { u.power with groupDark := setIn u.power.groupDark g true, groupReset := setIn u.power.groupReset g false } }

/-- Enter STANDBY (R311): every group goes dark, every session closes, and the fabric die loses its state. -/
def Chip.enterStandby (s : Chip) : Chip :=
  let t := ((List.range 8).filter (fun g => !s.groupIsDark g)).foldl Chip.darkGroup s
  let u := ((t.resetPages kStandby standbyActs).resetRings).setN F.pcnt0SnapDies (t.getN F.pcnt0SnapDies / 512 * 512)
  let z := Chip.zero
  { u with
    windows := z.windows, checking := z.checking, path := z.path, nh := z.nh, flow := z.flow, dn := z.dn
    stage := z.stage, stageTgt := z.stageTgt, eccMarked := z.eccMarked, tokens := z.tokens, tails := z.tails
    ledger := z.ledger, frames := z.frames, frameNos := z.frameNos, links := z.links, fuses := z.fuses, fab := z.fab
    scheds := z.scheds, gates := z.gates, esmc := z.esmc, rxq := z.rxq, sessions := z.sessions, kib := z.kib
    slateSeq := u.slateSeq.filter (fun e => decide (2 ≤ e.1 / 4096))
    power := { u.power with standby := true, portDark := 0 } }

/-- The wake from STANDBY begins: the tables' zeroing runs, and their pages read IN_RESET (R118, R311). -/
def Chip.beginWake (s : Chip) : Chip := s.pagesFall ((List.range 5).map (fun k => 0x200 + k))

/-- Wake from STANDBY: the fabric die and every group are back, at their Reset values (R311). -/
def Chip.leaveStandby (s : Chip) : Chip :=
  (List.range 8).foldl Chip.loadDie { s with power := { s.power with
    standby := false, groupDark := 0, inReset := s.power.inReset.filter (fun k => !tablePage k) } }

end Sys2Proof.Machine
end

