-- ==== Sys2Proof/Machine/Counters.lean ====
section
/-! DEFINITION. Snapshots, the snapshot bank and the user window (R346 to R353). -/

namespace Sys2Proof.Machine

/-! ### The bank's layout (Table 16-3) -/

/-- Device slot of a page (Table 16-3). -/
def deviceSlot (pg : Nat) : Option Nat :=
  if pg = 0x20 then some 0
  else if 0x3000 ≤ pg ∧ pg < 0x3080 ∧ pg % 16 = 2 then some (1 + (pg / 16 - 0x300))
  else if 0x30 ≤ pg ∧ pg ≤ 0x32 then some (9 + (pg - 0x30))
  else if pg = 0x40 ∨ pg = 0x41 then some (12 + (pg - 0x40))
  else if 0x50 ≤ pg ∧ pg ≤ 0x58 then some (14 + (pg - 0x50))
  else if pg = 0x60 then some 23 else if pg = 1 then some 24 else if pg = 2 then some 25
  else if pg = 0x10 then some 26 else if pg = 0x100 then some 27 else if pg = 0x123 then some 28
  else if 0x200 ≤ pg ∧ pg ≤ 0x204 then some (29 + (pg - 0x200))
  else if pg = 0x110 ∨ pg = 0x111 then some (34 + (pg - 0x110))
  else if pg = 0x80 then some 37 else none

/-- A range of a page copied to a bank offset. -/
def bankPart (o lo hi base : Nat) : Option Nat := if lo ≤ o ∧ o ≤ hi then some (base + (o - lo)) else none

/-- Offset in the port block of a port's page k. -/
def portPart (k o : Nat) : Option Nat :=
  if k = 1 then bankPart o 0x40 0x9F 0x600 else if k = 2 then bankPart o 0x40 0x23F 0x400
  else if k = 3 then bankPart o 0x50 0x7B 0x680 else if k = 4 then bankPart o 0x44 0x5B 0x6C0
  else if k = 5 then bankPart o 0x58 0x63 0x6E0 else if k = 6 then bankPart o 0x64 0x73 0x6F0 else none

/-- Base of the port block of Pp. -/
def portBlock (p : Nat) : Nat := 0x1000 + p * 0x1000

/-- The bank offset of the counter at an address, if the bank holds it. -/
def bankOffset (addr : Nat) : Option Nat :=
  let pg := addr / 4096
  let o := addr % 4096
  if 0x05000000 ≤ addr then
    let n := (addr - 0x05000000) / 0x100000
    some (0x31000 + (38 + (if n < 6 then n else n - 2)) * 0x200 + (addr % 0x80000 - 0x10))
  else if addr = 0x4C44 then some (0x31000 + 36 * 0x200)
  else if pg = 0x81 then (if 0x40 ≤ o then some (0x38000 + (o - 0x40) / 0x20 * 4) else none)
  else if 0x140 ≤ pg ∧ pg < 0x170 then (bankPart o 0x100 0x4FF 0).map (portBlock (pg - 0x140) + ·)
  else if 0x82 ≤ pg ∧ pg ≤ 0xB1 then (bankPart o 0x40 0x2DF 0x700).map (portBlock (pg - 0x82) + ·)
  else if pg = 0x122 then (if 0x40 ≤ o then some (portBlock ((o - 0x40) / 64) + 0xA00 + (o - 0x40) % 64) else none)
  else if 0x2000 ≤ pg ∧ pg < 0x2300 then (portPart (pg % 16) o).map (portBlock (pg / 16 - 0x200) + ·)
  else match deviceSlot pg with
    | some t => (bankPart o 0x40 0x23F 0).map (0x31000 + t * 0x200 + ·)
    | none => none

/-- The die whose capture registers hold a bank offset, numbered as HLTH.TEMPd (R348). The host packet rings
lie with the fabric die. -/
def bankDie (off : Nat) : Nat :=
  if 0x1000 ≤ off ∧ off < 0x31000 then
    let p := (off - 0x1000) / 0x1000
    let o := off % 0x1000
    if 0x400 ≤ o ∧ o < 0x700 then p / 6 + 1 else 0
  else if 0x31000 ≤ off ∧ off < 0x38000 then
    let t := (off - 0x31000) / 0x200
    if 1 ≤ t ∧ t ≤ 8 then t else if (27 ≤ t ∧ t ≤ 35) ∨ (38 ≤ t ∧ t ≤ 51) then 0 else 9
  else 9

/-! ### Words that read zero -/

/-- A word that reads zero because its port is the upper member of a fused one: BUF.LIMIT (R135), and page 5 of
PORTp but for its header (R165). -/
def Chip.upperReadsZero (s : Chip) (addr : Nat) : Bool :=
  let pg := addr / 4096
  let o := addr % 4096
  if pg = 0x120 ∧ 0x40 ≤ o ∧ o < 0xC40 then s.fusedUpper ((o - 0x40) / 64)
  else if 0x2000 ≤ pg ∧ pg < 0x2300 ∧ pg % 16 = 5 ∧ 0x40 ≤ o then s.fusedUpper (pg / 16 - 0x200)
  else false

/-- The port and subport of a word that exists per subport, on the ledger, link counter and traffic pages. -/
def subOf (addr : Nat) : Option (Nat × Nat) :=
  let pg := addr / 4096
  let o := addr % 4096
  if 0x140 ≤ pg ∧ pg < 0x170 ∧ 0x100 ≤ o ∧ o < 0x500 then some (pg - 0x140, (o - 0x100) / 0x80)
  else if 0x82 ≤ pg ∧ pg ≤ 0xB1 ∧ 0x40 ≤ o ∧ o < 0x240 then some (pg - 0x82, (o - 0x40) / 0x40)
  else if 0x82 ≤ pg ∧ pg ≤ 0xB1 ∧ 0x240 ≤ o ∧ o < 0x2A0 then some (pg - 0x82, (o - 0x240) / 12)
  else if 0x2000 ≤ pg ∧ pg < 0x2300 ∧ pg % 16 = 2 ∧ 0x40 ≤ o ∧ o < 0x240 then some (pg / 16 - 0x200, (o - 0x40) / 0x40)
  else none

/-- The word belongs to a subport that the port's mode does not have: it reads zero (R75, Table 4-8, R346). -/
def Chip.beyondMode (s : Chip) (addr : Nat) : Bool :=
  match subOf addr with
  | some (p, sub) => decide (s.subports p ≤ sub)
  | none => false

/-- A register word that is an event counter or a probe's COUNT. -/
def isCounter (key : Nat) : Bool := (fieldsAt (key / 32)).any (fun f => f.lsb == key % 32 && f.acc == .ctr)

/-- The dies that a snapshot captures: not those dark, in reset or without power. -/
def Chip.captured (s : Chip) : Nat :=
  ((List.range 8).map (fun g => if s.groupIsDark g || s.groupInReset g || s.power.standby then 0 else 2 ^ (g + 1))).sum
    + ofBool (!s.power.standby) + 2 ^ 9

/-- Freeze the counters as they stood in `c` into the bank, as a read would return them (R347, R348), at the marker of a
number. -/
def Chip.freeze (s c : Chip) (number : Nat) (at_ : Raw) : Chip :=
  let words : Store Word := c.regs.foldl (fun b e =>
    if isCounter e.1 && !c.beyondMode (e.1 / 32) && !c.upperReadsZero (e.1 / 32) then
      match bankOffset (e.1 / 32) with
      | some off => Store.write 0 b (off / 4) e.2
      | none => b
    else b) []
  let t := (((({ s with bank := words }).setN F.pcnt0SnapSeq (s.getN F.pcnt0SnapSeq + 1)).setN
    F.pcnt0SnapClapperNumber number).setB F.pcnt0SnapClapperTaken true).setN F.pcnt0SnapDies s.captured
  t.setWide F.pcnt0SnapRawLo F.pcnt0SnapRawHi at_.toNat

/-- Bank word i (R348, R349): words of a die that is not current read zero. -/
def Chip.bankWord (s : Chip) (i : Nat) : Word :=
  if i = 0 then s.get F.pcnt0SnapSeq
  else if i = 1 then s.wordAt F.pcnt0SnapClapperNumber.addr
  else if i = 2 then s.get F.pcnt0SnapRawLo
  else if i = 3 then s.get F.pcnt0SnapRawHi
  else if i = 4 then s.get F.pcnt0SnapDies
  else if i = 5 then 1
  else if s.getBit F.pcnt0SnapDies (bankDie (i * 4)) then Store.read 0 s.bank i else 0

/-! ### The user window (R352, R355) -/

/-- The byte address of a BAR4 offset in the space of R355. -/
def bar4Addr (offset : Nat) : Nat := 0x04000000 + offset

/-- Answer a host request. -/
def Chip.answer1 (s : Chip) (data : List Word) (unsupported nack : Bool) : Chip := { s with reply := ⟨data, unsupported, nack⟩ }

/-- Complete a request with Unsupported Request, which AER logs (R23, R24). -/
def Chip.unsupported (s : Chip) : Chip := { s with reply := ⟨[], true, false⟩, pcie := { s.pcie with urLogged := true } }

/-- The PCIe endpoint answers memory requests (R303 to R306): after a cold or warm reset only from READY on. -/
def Chip.pcieAnswers (s : Chip) : Bool := s.power.linkUp && (s.ready || s.getN F.rstCause == causeDeviceReset)

/-- The endpoint completes every memory request with Unsupported Request: XO_IN is lost (R250), or the function
stands in D3hot (R24). -/
def Chip.pcieRefuses (s : Chip) : Bool := s.power.linkUp && (decide (s.power.phase = .xoLost) || (s.pcie.d3hot && s.pcieAnswers))

/-- The answer to a request that reaches no register: refused, or none. -/
def Chip.unanswered (s : Chip) : Chip := if s.pcieRefuses then s.unsupported else s.answer1 [] false false

/-- Memory requests are served. -/
def Chip.pcieServes (s : Chip) : Bool := s.pcieAnswers && decide (s.power.phase ≠ .xoLost) && !s.pcie.d3hot

/-- BAR4_READ: `count` words from an offset; blocked while USER_READ = 0. -/
def Chip.bar4Read (s : Chip) (offset count : Nat) : Chip :=
  if !s.pcieServes then s.unanswered
  else
    let ks := List.range count
    let t := ks.foldl (fun c k => c.access 0 0 1 (bar4Addr (offset + 4 * k))) s
    if !s.ready || s.safeStop then s.answer1 (ks.map (fun _ => (0 : Word))) false false
    else if s.flag F.sysCtrlUserRead then t.answer1 (ks.map (fun k => s.bankWord (offset / 4 + k))) false false
    else (t.bump F.pcnt0UserBlocked).answer1 (ks.map (fun _ => (0 : Word))) false false

def execBar4Read (offset : BitVec 20) (count : Nat) (s : State) : Host.Outcome State Fault Refusal :=
  done s (s.chip.bar4Read offset.toNat count)

/-- BAR4_WRITE (R23): discarded, and logged as an Unsupported Request. -/
def Chip.bar4Write (s : Chip) (offset : Nat) : Chip :=
  if !s.pcieServes then s.unanswered else (s.access 2 0 1 (bar4Addr offset)).unsupported

def execBar4Write (offset : BitVec 20) (_data : Word) (s : State) : Host.Outcome State Fault Refusal :=
  done s (s.chip.bar4Write offset.toNat)

end Sys2Proof.Machine
end

