-- ==== Sys2Proof/Machine/Windows.lean ====
section
/-! DEFINITION. The TBL windows and the SCHD node and gate windows: triggers, checks and completion (R110 to R117, R153, R159, R162 to R164). -/

namespace Sys2Proof.Machine

/-! ### Triggers. Windows 0 to 4 are the TBL windows, 5 and 6 the node and gate windows. -/

/-- The page of a window. -/
def windowPage (k : Nat) : Nat := if k < 5 then 0x200 + k else 0x110 + (k - 5)

/-- BUSY and RESULT of a window. -/
def windowBusy (k : Nat) : Fld := if k < 5 then F.tblStatusBusy k else F.schdStatusBusy (k - 5)
def windowResult (k : Nat) : Fld := if k < 5 then F.tblStatusResult k else F.schdStatusResult (k - 5)
def windowData (k i : Nat) : Fld := if k < 5 then F.tblData k i else F.schdData (k - 5) i

/-- The DATA words of a window as one entry. -/
def Chip.windowEntry (s : Chip) (k : Nat) : BitVec 128 :=
  entry128 (s.get (windowData k 0)) (s.get (windowData k 1)) (s.get (windowData k 2)) (s.get (windowData k 3))

/-- Port and entry that an INDEX of the node or gate window names; bits [15:14] are ignored in the node window. -/
def schdPort (k idx : Nat) : Nat := if k = 5 then idx % 2 ^ 14 / 256 else idx / 1024
def schdEntry (k idx : Nat) : Nat := if k = 5 then idx % 256 else idx % 1024

/-- A write through the node or gate window to a port is refused HELD (R153, R159, R162). -/
def Chip.windowHeld (s : Chip) (k p : Nat) : Bool :=
  s.fusedUpper p || (if k = 5 then s.checking.contains p else (s.gate p).pending.isSome)

/-- The operation that a trigger captures (R110, R164). For a SCHD window `target` records a refusal HELD. -/
def Chip.capture (s : Chip) (k : Nat) (read write : Bool) : WinOp :=
  if k < 5 then
    ⟨read, write, s.getN (F.tblIndex k), false, s.windowEntry k, s.flag (F.tblCmdCheckGen k),
      BitVec.ofNat 8 (s.getN (F.tblCmdExpectGen k)),
      if k = 4 then s.getN F.tblstageTargetTable * 2 ^ 20 + s.getN F.tblstageTargetEntry else 0⟩
  else
    let idx := s.getN (F.schdIndex (k - 5))
    ⟨read, write, idx, s.flag (F.schdIndexBank (k - 5)), s.windowEntry k, false, 0, ofBool (s.windowHeld k (schdPort k idx))⟩

/-- A trigger of READ, WRITE or both: it is lost while BUSY (R43). -/
def Chip.windowTrigger (s : Chip) (k : Nat) (read write : Bool) : Chip :=
  if !read && !write then s
  else if (Store.find k s.windows).isSome then s.setB (F.hdrPgStatusTrgLost (windowPage k)) true
  else ({ s with windows := Store.insert k (s.capture k read write) s.windows }).setB (windowBusy k) true

/-! ### The TBL windows (R111 to R114, R117) -/

/-- Result codes (Table 5-10, Table 7-4). -/
def winOk : Nat := 0
def winGen : Nat := 1
def winReadOnly : Nat := 2
def winRange : Nat := 3
def winEcc : Nat := 4
def winBadField : Nat := 5
def winHeld : Nat := 6

/-- R114's refusal of an entry for table `t` (0 path, 1 next hop). -/
def entryBad (t : Nat) (e : BitVec 128) : Bool := if t = 0 then pathBad e else nhBad e

/-- R114 and R115's test of a staging slot with its target. -/
def stageBad (target : Nat) (e : BitVec 128) : Bool :=
  (decide (2 ^ 20 ≤ target) && decide (262143 < target % 2 ^ 20)) || entryBad (target / 2 ^ 20) e

/-- Result of the WRITE of a TBL window: range, read-only, fields, then GEN. -/
def Chip.tblWriteResult (s : Chip) (w : Nat) (o : WinOp) : Nat :=
  if tableSize w ≤ o.index then winRange
  else if w = 2 ∨ w = 3 then winReadOnly
  else if (if w = 4 then stageBad o.target o.data else entryBad w o.data) then winBadField
  else if o.checkGen && bits (s.tentry w o.index) 126 119 != o.expectGen.toNat then winGen
  else winOk

/-- Write an accepted entry; a staging slot stores its target with it. -/
def Chip.tblPut (s : Chip) (w : Nat) (o : WinOp) : Chip :=
  let t := s.putEntry w o.index o.data
  if w = 4 then { t with stageTgt := Store.write 0 t.stageTgt o.index o.target } else t

/-- The READ of a TBL window: DATA and the result. -/
def Chip.tblGet (s : Chip) (w : Nat) (o : WinOp) : Chip × Nat :=
  if tableSize w ≤ o.index then (s, winRange)
  else
    let e := s.tentry w o.index
    ((List.range 4).foldl (fun c i => c.set (F.tblData w i) (entryWord e i)) s,
      if s.failed w o.index then winEcc else winOk)

/-- A window operation ends: RESULT is set and BUSY clears. -/
def Chip.windowEnds (s : Chip) (k result : Nat) : Chip :=
  (({ s with windows := Store.erase k s.windows }).setN (windowResult k) result).setB (windowBusy k) false

/-- The operation reads the entry as it stood before: a READ, or the GEN that CHECK_GEN compares, but not after a WRITE that
takes it unseen. -/
def Chip.tblReads (s : Chip) (w : Nat) (o : WinOp) : Bool :=
  (o.read && (!o.write || s.tblWriteResult w o != winOk)) || (o.write && o.checkGen)

/-- TBL_OP_DONE: the WRITE, then the READ of the same INDEX (R110); what stands wrong in an entry is met as it is
read (R117). -/
def Chip.tblDone (old : Chip) (w : Nat) (upset : Option (BitVec 128 × Bool)) : Chip :=
  match Store.find w old.windows with
  | none => old
  | some o =>
    let s := match upset with
      | some u => if old.tblReads w o then old.meetUpset ⟨Fin.ofNat 5 w, o.index, u.1, u.2⟩ else old
      | none => old
    let r := if o.write then s.tblWriteResult w o else winOk
    let t := if o.write && r == winOk then s.tblPut w o else s
    let g := if o.read then t.tblGet w o else (t, winOk)
    g.1.windowEnds w (if r = winOk then g.2 else r)

def execTblOpDone (e : TblEnd) (s : State) : Host.Outcome State Fault Refusal :=
  done s (s.chip.tblDone e.window.val e.upset)

/-! ### The node and gate windows (R163, R164) -/

/-- An entry of the node window, or of the gate window, in a bank: 1 active, 0 shadow. -/
def Chip.schdEntryOf (s : Chip) (k p e : Nat) (active : Bool) : BitVec 128 :=
  if k = 5 then (if active then (s.sched p).active.node e else (s.sched p).shadow.node e)
  else
    let l := if active then (s.gate p).active else (s.gate p).shadow
    BitVec.ofNat 128 (Store.read 0 l.entries e).toNat

/-- Write a shadow node or gate entry with right ECC. -/
def Chip.schdPut (s : Chip) (k p e : Nat) (v : BitVec 128) : Chip :=
  if k = 5 then
    let t := s.sched p
    s.setSched p { t with shadow := t.shadow.setNode e v, shadowBad := t.shadowBad.filter (fun j => j != e) }
  else
    let g := s.gate p
    s.setGate p { g with shadow := { g.shadow with
      entries := Store.write 0 g.shadow.entries e (BitVec.ofNat 64 v.toNat)
      badEntries := g.shadow.badEntries.filter (fun j => j != e) } }

/-- The entry is known to hold an uncorrectable error. -/
def Chip.schdBad (s : Chip) (k p e : Nat) (active : Bool) : Bool :=
  if k = 5 then (if active then (s.sched p).badNodes else (s.sched p).shadowBad).contains e
  else (if active then (s.gate p).active else (s.gate p).shadow).badEntries.contains e

/-- Mark an uncorrectable error of an entry; the mask of a running gate entry acts as 0xFFFF at once (R163). -/
def Chip.markSchd (s : Chip) (k p e : Nat) (active : Bool) : Chip :=
  if k = 5 then
    let t := s.sched p
    s.setSched p (if active then { t with badNodes := t.badNodes ++ [e] } else { t with shadowBad := t.shadowBad ++ [e] })
  else
    let g := s.gate p
    let add := fun (l : GateList) => { l with badEntries := l.badEntries ++ [e] }
    s.setGate p (if active then { g with active := add g.active, mask := if g.entry = e then 0xFFFF else g.mask }
      else { g with shadow := add g.shadow })

/-- The READ of a SCHD window, with what its SECDED check meets. -/
def Chip.schdGet (s : Chip) (k : Nat) (o : WinOp) (ecc : Ecc) : Chip × Nat :=
  let p := schdPort k o.index
  let e := schdEntry k o.index
  if 48 ≤ p then (s, winRange)
  else
    let v := s.schdEntryOf k p e o.bank
    let n := if k = 5 then 4 else 2
    let t := (List.range n).foldl (fun c i => c.set (F.schdData (k - 5) i) (entryWord v i)) s
    if s.schdBad k p e o.bank then (t, winEcc)
    else match ecc with
      | .clean => (t, winOk)
      | .single => (t.bump (F.schdEccCorrected (k - 5)), winOk)
      | .double => (((t.markSchd k p e o.bank).bump (F.schdEccUncorr (k - 5))).fault fEcc, winEcc)

/-- SCHD_OP_DONE: the WRITE to the shadow entry, then the READ at BANK and INDEX. -/
def Chip.schdDone (s : Chip) (k : Nat) (ecc : Ecc) : Chip :=
  match Store.find k s.windows with
  | none => s
  | some o =>
    let p := schdPort k o.index
    let r := if !o.write then winOk else if 48 ≤ p then winRange else if o.bank then winReadOnly
      else if o.target = 0 then winOk else winHeld
    let t := if o.write && r == winOk then s.schdPut k p (schdEntry k o.index) o.data else s
    let g := if o.read then t.schdGet k o ecc else (t, winOk)
    g.1.windowEnds k (if r = winOk then g.2 else r)

def execSchdOpDone (w : Fin 2) (ecc : Ecc) (s : State) : Host.Outcome State Fault Refusal :=
  done s (s.chip.schdDone (5 + w.val) ecc)

end Sys2Proof.Machine
end

