-- ==== Sys2Proof/Machine/Mail.lean ====
section
/-! DEFINITION. The mailbox: the GO write, the order and the objects of command steps, the step of each Aqvan command, what the steps stage and what is released at a marker, calibrations, and the director pairs (R11 to R14, R19, R158, R185, R198, R275 to R283, R322 to R343). -/

namespace Sys2Proof.Machine

/-! ### Status codes and reasons (Tables 15-2 and 15-3) -/

def stBusy : Nat := 1
def stOk : Nat := 2
def stRefused : Nat := 3
def stInput : Nat := 4
def stWorn : Nat := 5
def stNoResource : Nat := 6
def stConflict : Nat := 7
def reOpcode : Nat := 1
def reRange : Nat := 2
def reState : Nat := 3
def reFused : Nat := 4
def reNotFound : Nat := 5
def reDuplicate : Nat := 6
def reTable : Nat := 7
def reOutOfRange : Nat := 8
def reGuard : Nat := 9

/-- What a step ends with: its effect, status and results. -/
abbrev StepEnd := Effect × Nat × List Word

/-- A REFUSED step: the reason, and the parameter word at fault (R325). -/
def refused (reason at_ : Nat) : StepEnd := (.none, stRefused, [word reason, word at_])

/-- No single word is at fault (R325). -/
def noWord : Nat := 0xFF

/-- Refused while the device is in STANDBY (R342). -/
def inStandby : StepEnd := refused reState noWord

/-! ### The GO write (R323) -/

/-- The slot holds a command that has not completed. -/
def Chip.slotHeld (s : Chip) (n : Nat) : Bool := (s.slot n).phase != .idle

/-- A slot word written while the slot is busy: ignored and counted. -/
def Chip.slotIgnored (s : Chip) : Chip := s.bump F.cmd0Ignored

/-- A GO write that is not accepted: ignored, and the trigger is lost (R323). -/
def Chip.goLost (s : Chip) (n : Nat) : Chip := s.slotIgnored.setB (F.hdrPgStatusTrgLost (4 + n / 4)) true

/-- An accepted GO: the command word and the parameters, as they now stand, are latched. -/
def Chip.goLatch (s : Chip) (n : Nat) : Chip :=
  let tag := s.getN (F.cmdSlotCmdTag n)
  let op := s.getN (F.cmdSlotCmdOpcode n)
  let x : Slot := ⟨.waiting, op, tag, s.flag (F.cmdSlotCmdIrq n), (List.range 56).map (fun i => s.get (F.cmdSlotParam n i)), 0, []⟩
  let t := (((s.setB (F.cmdSlotStatusDone n) false).setN (F.cmdSlotStatusTag n) tag).setN (F.cmdSlotStatusOpcode n) op).setN
    (F.cmdSlotStatusStatus n) stBusy
  let u := (List.range 56).foldl (fun c i => c.set (F.cmdSlotResult n i) 0) t
  (u.setBit F.cmd0Done n false).setSlot n x

/-- A write that sets GO, its word already in the slot's fields. -/
def Chip.go (s : Chip) (n : Nat) : Chip := if s.slotHeld n || s.controlLost then s.goLost n else s.goLatch n

/-! ### Costs and objects (R326, R327, Table 15-4) -/

/-- The kind of a calibration opcode. -/
def calKind (op : Nat) : Option Nat := if 0x20 ≤ op ∧ op ≤ 0x24 then some (op - 0x20) else none

/-- The opcodes of Table 15-4. -/
def opcodes : List Nat :=
  [0x01, 0x02, 0x03, 0x04, 0x10, 0x11, 0x12, 0x13, 0x14, 0x20, 0x21, 0x22, 0x23, 0x24, 0x30, 0x31, 0x40, 0x41, 0x42, 0x43]

/-- Step cost in director-clock cycles; an undefined opcode costs none. -/
def Slot.cost (x : Slot) : Nat :=
  if x.opcode = 0x01 then 2400
  else if x.opcode = 0x02 then 1200
  else if x.opcode = 0x03 then 2000 + (if bit (x.param 0) 31 then 0 else 8 * bits (x.param 1) 10 0)
  else if x.opcode = 0x04 then 400 + 4 * bits (x.param 1) 10 0
  else if x.opcode = 0x10 then 600
  else if x.opcode = 0x11 then 300
  else if x.opcode = 0x12 then 800
  else if x.opcode = 0x13 then 1500
  else if x.opcode = 0x14 then 600
  else if 0x20 ≤ x.opcode ∧ x.opcode ≤ 0x24 then 3000
  else if x.opcode = 0x30 then 200
  else if x.opcode = 0x31 then 900
  else if x.opcode = 0x40 then 200
  else if x.opcode = 0x41 then 1000
  else if x.opcode = 0x42 then 600
  else if x.opcode = 0x43 then 1500
  else 0

/-- Commands that wait in the dip state (Table 15-4). -/
def Slot.waitsInDip (x : Slot) : Bool := x.opcode == 0x01 || x.opcode == 0x10 || x.opcode == 0x12 || (calKind x.opcode).isSome

/-- Objects: a port by its number, a group from 64 on, the device 80, the calibration engine 81. -/
def objGroup (g : Nat) : Nat := 64 + g
def objDevice : Nat := 80
def objEngine : Nat := 81

/-- What a command acts on, fused members together (Table 15-4). -/
def Chip.objects (s : Chip) (x : Slot) : List Nat :=
  let port := fun (p : Nat) => if p < 48 then s.members (s.lowerOf p) else []
  if x.opcode = 0x12 ∨ x.opcode = 0x42 then port (bits (x.param 0) 5 0)
  else if x.opcode = 0x41 then [objGroup (bits (x.param 0) 2 0)]
  else if x.opcode = 0x43 then
    let scope := bits (x.param 0) 9 8
    let i := bits (x.param 0) 5 0
    if scope = 0 then port i else if scope = 1 then (if i < 8 then [objGroup i] else []) else if scope = 2 then [objDevice] else []
  else if x.opcode = 0x21 ∨ x.opcode = 0x24 then objEngine :: port (bits (x.param 0) 5 0)
  else if (calKind x.opcode).isSome then [objEngine]
  else []

/-- Two objects are the same, or one contains the other. -/
def objMeets (a b : Nat) : Bool :=
  a == b || a == objDevice || b == objDevice
    || (decide (a < 48) && b == objGroup (a / 6)) || (decide (b < 48) && a == objGroup (b / 6))

/-- Objects held by the running commands of other slots. -/
def Chip.heldObjects (s : Chip) (n : Nat) : List Nat :=
  (s.mail.slots.filter (fun e => e.1 != n && (e.2.phase == .running || e.2.phase == .ending))).flatMap (fun e => s.objects e.2)

/-- A command that begins finds its object taken, or the device held (R327). -/
def Chip.objectTaken (s : Chip) (n : Nat) (x : Slot) (taken : List Nat) : Bool :=
  let held := s.heldObjects n ++ taken
  x.opcode != 0x40 && (held.contains objDevice || (s.objects x).any (fun a => held.any (objMeets a)))

/-- The director pair runs command steps: not before READY, nor under R14 or in safe stop. -/
def Chip.directorRuns (s : Chip) : Bool := s.coresRun && !s.controlLost

/-! ### ADMIT_FLOW and RELEASE_FLOW (R58 to R61, R329 to R331) -/

/-- A sub port that the port's mode does not have, or a port that does not exist. -/
def Chip.noSub (s : Chip) (p sub : Nat) : Bool := decide (48 ≤ p) || decide (s.subports p ≤ sub)

/-- A free way of a flow set, the lowest. -/
def Chip.freeWay (s : Chip) (set : Nat) : Option Nat :=
  ((List.range 4).map (fun w => set * 4 + w)).find?
    (fun i => !s.ledger.any (fun f => f.index == i) && (!flowValid (s.flowEntry i) || s.failed 2 i))

/-- First word of ADMIT_FLOW out of its range, in the order of R325. -/
def Chip.admitRange (s : Chip) (x : Slot) : Option Nat :=
  let p2 := x.param 2
  let out := bits p2 21 16
  let sub := bits p2 10 8
  let rate := bits (x.param 3) 21 0
  let burst := bits (x.param 4) 19 0
  let maxf := bits (x.param 5) 13 0
  if !bit (x.param 0) 31 && bits (x.param 1) 19 0 != 0 then some 1
  else if s.noSub out sub || decide (bits p2 7 4 < 12) || decide (11 < bits p2 3 0) then some 2
  else if rate = 0 ∨ s.rateMb out < rate then some 3
  else if maxf < 64 ∨ 9216 < maxf then some 5
  else if burst < maxf + 20 then some 4
  else if s.noSub (bits (x.param 6) 21 16) (bits (x.param 6) 10 8) then some 6
  else none

/-- The key of the flow that a slot's parameters name (R104). -/
def Slot.flowKey (x : Slot) : Nat := flowKeyOf (bit (x.param 0) 31) (bits (x.param 0) 19 0) (bits (x.param 1) 19 0)

/-- Preemption is active towards the output (R68). -/
def Chip.preempts (s : Chip) (p sub : Nat) : Bool := (s.members p).all (fun m => s.getBit (F.admStatusMergeActive m) sub)

/-- The flow of an ADMIT_FLOW as its ledger holds it. -/
def Chip.newFlow (s : Chip) (x : Slot) (index gen : Nat) : LFlow :=
  let out := bits (x.param 2) 21 16
  let sub := bits (x.param 2) 10 8
  ⟨index, x.flowKey, gen, out, sub, bits (x.param 2) 7 4, bits (x.param 3) 21 0, bits (x.param 4) 19 0, bits (x.param 5) 13 0,
    bits (x.param 6) 21 16, bits (x.param 6) 10 8,
    s.hold16 (bits (x.param 5) 13 0) (bits (x.param 6) 21 16) out,
    decide (bits (x.param 6) 21 16 < 48) && s.fusedLower (s.lowerOf (bits (x.param 6) 21 16)), s.preempts out sub⟩

/-- The flow entry written for a flow (Table 5-5). -/
def newEntry (x : Slot) (f : LFlow) : BitVec 128 :=
  BitVec.ofNat 128 (2 ^ 127 + f.gen * 2 ^ 119 + f.key * 2 ^ 78 + f.port * 2 ^ 72 + f.sub * 2 ^ 69 + f.cls * 2 ^ 65
    + bits (x.param 2) 3 0 * 2 ^ 61 + ofBool (bit (x.param 2) 31) * 2 ^ 60 + f.rate * 2 ^ 38 + f.burst * 2 ^ 18
    + f.maxf * 2 ^ 4 + bits (x.param 2) 25 24 * 2 ^ 2)

/-- The step of ADMIT_FLOW (R329). -/
def Chip.admitStep (s : Chip) (x : Slot) : StepEnd :=
  if s.power.standby then inStandby
  else match s.admitRange x with
  | some i => refused reRange i
  | none =>
    if s.fusedUpper (bits (x.param 2) 21 16) then refused reFused 2
    else if s.ledger.any (fun f => f.key == x.flowKey) then refused reDuplicate noWord
    else match s.admitCheck (s.newFlow x 0 0) with
    | .noResource => (.none, stNoResource, [1])
    | .conflict c d => (.none, stConflict, [word (bits (x.param 2) 10 8 * 256 + c), word d])
    | .ok bounds =>
      match s.freeWay (flowSet (bit (x.param 0) 31) (bits (x.param 0) 19 0) (bits (x.param 1) 19 0)) with
      | none => (.none, stNoResource, [2])
      | some i =>
        let gen := (flowGen (s.flowEntry i) + 1) % 256
        let f := s.newFlow x i gen
        (.addFlow f (newEntry x f) bounds, stOk, word (gen * 2 ^ 16 + i) :: bounds.map word)

/-- The entry becomes valid and the ledger takes the flow (R62, R105, R329). -/
def Chip.admitFlow (s : Chip) (f : LFlow) (entry : BitVec 128) (bounds : List Nat) : Chip :=
  let t := (s.putEntry 2 f.index entry).putEntry 3 f.index 0
  let u := { t with tokens := Store.erase f.index t.tokens, ledger := t.ledger ++ [f] }
  (u.syncLedger f.port f.sub).setBounds f.port f.sub bounds

/-- The step of RELEASE_FLOW (R331). -/
def Chip.releaseStep (s : Chip) (x : Slot) : StepEnd :=
  let i := bits (x.param 0) 15 0
  if s.power.standby then inStandby
  else match s.ledger.find? (fun f => f.index == i) with
  | none => refused reNotFound 0
  | some f =>
    if !s.failed 2 i && flowGen (s.flowEntry i) != bits (x.param 1) 7 0 then refused reNotFound 1
    else (.release i, stOk, [word ((s.ledgerOf f.port f.sub).length - 1)])

/-- The entry is invalid and the ledger gives the flow up (R61, R331): what its accepted frames return goes to no bucket
any more (R62). -/
def Chip.releaseFlow (s : Chip) (i : Nat) : Chip :=
  match s.ledger.find? (fun f => f.index == i) with
  | none => s
  | some f =>
    let t := s.putEntry 2 i (BitVec.ofNat 128 (f.gen * 2 ^ 119))
    let u := { t with
      tokens := Store.erase i t.tokens, ledger := t.ledger.filter (fun g => g.index != i)
      tails := t.tails.map (fun (e : Nat × Tail) => (e.1, if e.2.flow = i then { e.2 with live := false } else e.2)) }
    (u.syncLedger f.port f.sub).rebound f.port f.sub

/-! ### SET_TAKE (R158, R159, R332) -/

/-- The network time in three parameter words (Table 15-5). -/
def Slot.time (x : Slot) (i : Nat) : Nat := netTime (bits (x.param (i + 1)) 15 0 * 2 ^ 32 + (x.param i).toNat) (x.param (i + 2)).toNat

/-- Nanoseconds of a time that are no nanoseconds. -/
def Slot.badNs (x : Slot) (i : Nat) : Bool := decide (1000000000 ≤ (x.param i).toNat)

/-- First subport of a port whose ledger fails the check under new figures (R158). -/
def Chip.takeConflict (s : Chip) (p : Nat) (fig : Nat → Nat × Nat × Nat) : List Nat → Option (Nat × Nat × Nat)
  | [] => none
  | sub :: l =>
    let fl := s.ledgerOf p sub
    if fl.isEmpty then s.takeConflict p fig l
    else match s.checkClasses p sub fl fig [15, 14, 13, 12] with
      | .conflict c d => some (sub, c, d)
      | _ => s.takeConflict p fig l

/-- First entry of the new list that R158 does not take. Of the entries of the shadow bank with an uncorrectable error only
those below LEN count (log 109). -/
def GateList.badEntry (l : GateList) : Option Nat :=
  (List.range l.len).find? (fun i => decide (l.dur i < 16) || decide (1048576 < l.dur i) || l.badEntries.contains i)

/-- A time as three result words. -/
def timeWords (t : Nat) : List Word := (netWords t).drop 2 ++ [word (netNs t)]

/-- The step of SET_TAKE. -/
def Chip.takeStep (s : Chip) (x : Slot) : StepEnd :=
  let p := bits (x.param 0) 5 0
  let len := bits (x.param 1) 10 0
  let ns := bits (x.param 2) 20 0
  let g := s.gate p
  if s.power.standby then inStandby
  else if 48 ≤ p then refused reRange 0
  else if s.fusedUpper p then refused reFused 0
  else if bit (x.param 0) 31 then ((if g.pending.isSome then .cancel p else .none), stOk, [])
  else if 1024 < len then refused reRange 1
  else if len ≠ 0 ∧ (ns < 1024 ∨ 1048576 < ns) then refused reRange 2
  else if x.badNs 5 then refused reRange 5
  else if x.badNs 8 then refused reRange 8
  else
    let k : CutOver := ⟨len, ns, x.time 3, x.time 6, []⟩
    let l := g.newList k
    match l.badEntry with
    | some i => (.none, stRefused, [word reRange, word noWord, word i])
    | none =>
      if len ≠ 0 ∧ ((List.range len).map l.dur).sum ≠ ns then (.none, stRefused, [word reRange, word noWord, 0xFFFFFFFF])
      else if g.pending.isSome then (.none, stBusy, [])
      else if len = 0 ∧ g.active.len = 0 then (.none, stOk, [0, 0, 0])
      else
        let instant := g.cutInstant k s.net
        let splice := spliceClosure g.active l (l.position instant)
        let fig := fun (c : Nat) => let f := l.figures c; (f.1, f.2.1, max f.2.2 (splice.getD c 0))
        match s.takeConflict p fig (List.range 8) with
        | some (sub, c, d) => (.none, stConflict, [word (sub * 256 + c), word d])
        | none => (.take p { k with spliceG := splice }, stOk, timeWords instant)

/-- A cut-over becomes pending, or is withdrawn; the ledgers take the figures in force. -/
def Chip.pendCut (s : Chip) (p : Nat) (k : Option CutOver) : Chip :=
  ((s.setGate p { s.gate p with pending := k }).syncTake p).reboundPort p

/-! ### TABLE_COMMIT (R115, R333) -/

/-- The step of TABLE_COMMIT. -/
def Chip.commitStep (s : Chip) (x : Slot) : StepEnd :=
  let first := bits (x.param 0) 9 0
  let count := bits (x.param 1) 10 0
  if s.power.standby then inStandby
  else if count = 0 ∨ 1024 < first + count then refused reRange 1
  else match ((List.range count).map (first + ·)).find?
      (fun i => s.failed 4 i || stageBad (Store.read 0 s.stageTgt i) (s.tentry 4 i)) with
    | some i => refused reTable i
    | none => (.commit first count, stOk, [])

/-- The run of staging slots is written in ascending order. -/
def Chip.commitRun (s : Chip) (first count : Nat) : Chip :=
  (List.range count).foldl (fun t i =>
    let target := Store.read 0 t.stageTgt (first + i)
    t.putEntry (target / 2 ^ 20) (target % 2 ^ 20) (t.tentry 4 (first + i))) s

/-! ### ACCEPT_STEP and RESLATE (R185, R186, R256, R335, R336) -/

/-- ACCEPT_STEP at marker m, with the parameters of m in force: refused, or the step to take. -/
def Chip.stepAtMarker (s : Chip) (x : Slot) : StepEnd × Option Int :=
  let a := s.time.cur.anchor
  let xr : Raw := x.param 2 ++ x.param 1
  if bit (x.param 0) 0 then
    if (2 ^ 63 : Nat) < (rawDiff a xr).natAbs then (refused reRange 2, none)
    else if x.badNs 5 then (refused reRange 5, none)
    else if s.time.stepClapper then ((.none, stBusy, []), none)
    else
      let d := rawDiff a xr
      let at_ : Int := (s.time.cur.base : Int) + d + d * rateWord s.time.y / (2 ^ 48 : Int)
      let target : Int := (x.time 3 + bits (x.param 6) 15 0 : Nat)
      ((.none, stOk, []), some (target - at_))
  else if s.time.stepClapper then ((.none, stBusy, []), none)
  else if 16 ≤ s.time.srcIdle then ((.none, stInput, [1]), none)
  else if s.time.lastAccepted then ((.none, stInput, [2]), none)
  else if !s.flag F.time0StatusSet && !s.time.offerHeld then ((.none, stInput, [3]), none)
  else ((.none, stOk, []), some (-(signed 64 ((s.get F.time0JumpHi ++ s.get F.time0JumpLo : Raw).toNat))))

/-- The step takes effect (R186): its results are the step and the raw value of m. -/
def Chip.takeStepNow (s : Chip) (step : Int) : Chip × List Word :=
  let a := s.time.cur.anchor.toNat
  let j := twos 64 step
  ((s.applyStep step).jumpPulses step, [word (j % 2 ^ 32), word (j / 2 ^ 32), word (a % 2 ^ 32), word (a / 2 ^ 32)])

/-- RESLATE at the marker that ends its step: outputs whose A_n was not 0. -/
def Chip.reslate (s : Chip) (x : Slot) : Chip × List Word :=
  let ns := (List.range 4).filter (fun n => bit (x.param 0) n)
  (ns.foldl Chip.reslateOne s, [word ((ns.filter (fun n => (s.pulse n).align != 0)).map (fun n => 2 ^ n)).sum])

/-! ### SET_ASYM (R198, R336) -/

/-- The words of a ledger entry. -/
def ledgerWords (p sub : Nat) : List Nat := [persIndex (F.pers2ExtExtTx p sub).addr, persIndex (F.pers2Asym p sub).addr]

/-- The step of SET_ASYM; the result is the shift of the subport's offsets in ps. -/
def Chip.asymStep (s : Chip) (x : Slot) : StepEnd :=
  let p := bits (x.param 0) 5 0
  let sub := bits (x.param 0) 10 8
  let tx := bits (x.param 1) 31 16
  let rx := bits (x.param 1) 15 0
  let a := signed 24 (bits (x.param 2) 23 0)
  if 48 ≤ p then refused reRange 0
  else if x.param 2 ≠ word (twos 32 a) then refused reRange 2
  else match s.firstWorn (ledgerWords p sub) with
    | some i => (.worn i, stWorn, [])
    | none =>
      let dTx : Int := (tx : Int) - s.getN (F.pers2ExtExtTx p sub)
      let dRx : Int := (rx : Int) - s.getN (F.pers2ExtExtRx p sub)
      let dA : Int := a - signed 24 (s.getN (F.pers2Asym p sub))
      (.asym p sub (x.param 1) (x.param 2), stOk, [word (twos 32 ((dTx - dRx - 2 * dA) / 2))])

/-- The ledger entry takes the host's values, what its sessions hold moves with them (R198), and both words are
committed. -/
def Chip.putAsym (s : Chip) (p sub : Nat) (ext asymWord : Word) : Chip :=
  let t := s.moveLedger p sub (psUnits (bits ext 31 16) - psUnits (s.getN (F.pers2ExtExtTx p sub)))
    (psUnits (bits ext 15 0) - psUnits (s.getN (F.pers2ExtExtRx p sub)))
  ((((t.setN (F.pers2ExtExtTx p sub) (bits ext 31 16)).setN (F.pers2ExtExtRx p sub) (bits ext 15 0)).setN
    (F.pers2Asym p sub) (bits asymWord 23 0)).setN (F.pers2AsymSource p sub) 1).persistWords (ledgerWords p sub)

/-- The register words that a staged effect writes as it is released, mailbox words apart (R11, R355). -/
def Effect.writes : Effect → List Nat
  | .asym p sub _ _ => (ledgerWords p sub).map persAddr
  | _ => []

/-! ### SESSION_OPEN and SESSION_CLOSE (R189, R337) -/

/-- The configuration word of a SESSION_OPEN. -/
def Slot.config (x : Slot) : BitVec 256 := entry256 (x.params.take 8)

/-- Message intervals in range (Table 9-2). -/
def logOk (lo v : Int) : Bool := decide (lo ≤ v ∧ v ≤ 4)

/-- First refusal of a session's configuration, words in ascending order (R325, R337). -/
def Chip.openRefused (s : Chip) (c : BitVec 256) : Option StepEnd :=
  if cfgDaSel c = 3 ∨ logOk (-3) (cfgLogAnnounce c) = false then some (refused reRange 6)
  else if s.noSub (cfgPort c) (cfgSub c) || decide (2 ≤ cfgProfile c) || cfgTransport c == 3
      || !logOk (-7) (cfgLogSync c) || !logOk (-7) (cfgLogDelay c)
      || (cfgProfile c == 1 && (cfgLogSync c != -4 || cfgLogDelay c != -4)) then some (refused reRange 7)
  else if cfgProfile c = 1 ∧ cfgLogAnnounce c ≠ -3 then some (refused reRange 6)
  else if s.fusedUpper (cfgPort c) then some (refused reFused 7)
  else none

/-- The step of SESSION_OPEN. -/
def Chip.openStep (s : Chip) (x : Slot) : StepEnd :=
  let c := x.config
  let g := cfgPort c / 6
  if s.power.standby then inStandby
  else match s.openRefused c with
    | some r => r
    | none =>
      if 16384 ≤ s.sessions.length then (.none, stNoResource, [word (256 + g)])
      else if 4096 ≤ (s.groupSessions g).length then (.none, stNoResource, [word g])
      else
        let n := freeNumber 0 s.sessions
        (.openSession n c, stOk, [word n])

/-- The step of SESSION_CLOSE. -/
def Chip.closeStep (s : Chip) (x : Slot) : StepEnd :=
  let n := bits (x.param 0) 13 0
  if s.power.standby then inStandby
  else if (s.session n).isNone then refused reNotFound 0
  else (.closeSession n, stOk, [])

/-! ### SNAPSHOT, READ_DAILIES and DEVICE_RESET (R339, R340) -/

/-- The step of SNAPSHOT; its results are those of the freeze at the ending marker. -/
def Chip.snapshotStep (s : Chip) : StepEnd := if s.power.standby then inStandby else (.snapshot, stOk, [])

/-- The step of READ_DAILIES (Table 15-5). -/
def Chip.dailiesStep (s : Chip) (x : Slot) : StepEnd :=
  let part := bits (x.param 0) 1 0
  let at_ := fun (o : Nat) => s.wordAt (0x00062000 + o)
  if part = 3 then refused reRange 0
  else if part = 0 then (.none, stOk, (List.range 16).map (fun i => at_ (0x40 + 4 * i)))
  else (.none, stOk, at_ 0x40 :: (List.range 32).map (fun i => at_ (0x100 + 4 * (32 * (part - 1) + i))))

/-- The step of DEVICE_RESET. -/
def guardStep (x : Slot) : StepEnd := if x.param 0 = 0xA5 then (.deviceReset, stOk, []) else refused reGuard 0

/-! ### GROUP_RESET, PORT_RESET and SET_POWER_STATE (R309, R341, R342) -/

/-- The first step of GROUP_RESET. -/
def Chip.groupStep (s : Chip) (x : Slot) : StepEnd :=
  let g := bits (x.param 0) 2 0
  if s.power.standby || s.groupIsDark g then refused reState noWord else (.groupReset g, stOk, [])

/-- The first step of PORT_RESET. -/
def Chip.portStep (s : Chip) (x : Slot) : StepEnd :=
  let p := bits (x.param 0) 5 0
  if s.power.standby then inStandby
  else if 48 ≤ p then refused reRange 0
  else if s.fusedUpper p then refused reFused 0
  else if s.portIsDark p || (s.members p).any (fun m => s.groupIsDark (m / 6)) then refused reState noWord
  else (.portReset p, stOk, [])

/-- A group holds a member of a fused port that is not in PORT_DARK (R309). -/
def Chip.groupFused (s : Chip) (g : Nat) : Bool :=
  (groupPorts g).any (fun p => (s.fusedLower p || s.fusedUpper p) && !s.portIsDark p)

/-- The target of SET_POWER_STATE is in the state asked for: 0 AWAKE, 1 DARK, 2 STANDBY. -/
def Chip.inState (s : Chip) (scope i st : Nat) : Bool :=
  let dark := if scope = 0 then s.portIsDark i else if scope = 1 then s.groupIsDark i else s.power.standby
  dark == (st != 0)

/-- The first step of SET_POWER_STATE. -/
def Chip.powerStep (s : Chip) (x : Slot) : StepEnd :=
  let st := bits (x.param 0) 17 16
  let scope := bits (x.param 0) 9 8
  let i := bits (x.param 0) 5 0
  let pairOk := (scope == 0 && decide (st ≤ 1 ∧ i < 48)) || (scope == 1 && decide (st ≤ 1 ∧ i < 8)) || (scope == 2 && (st == 0 || st == 2))
  if !pairOk then refused reRange 0
  else if s.power.standby && scope != 2 then refused reState noWord
  else if (scope == 0 && s.fusedUpper i) || (scope == 1 && s.groupFused i) then refused reFused 0
  else if scope == 0 && st == 0 && (s.members i).any (fun m => s.groupIsDark (m / 6) || (s.portIsDark m && s.portInReset m)) then refused reState noWord
  else if s.inState scope i st then (.none, stOk, [0])
  else (.power scope i st, stOk, [])

/-- A power transition begins at the marker: an entry acts now, the wake of a port when it ends; that of a group goes
through the steps of R308, and that of the device zeroes the tables until it ends. -/
def Chip.powerBegins (s : Chip) (scope i st : Nat) : Chip :=
  if st = 0 then (if scope = 2 then s.beginWake else if scope = 1 then s.beginWakeGroup i else s) else if scope = 0 then s.darkPort i else if scope = 1 then s.darkGroup i else s.enterStandby

/-- What a wake leaves when it ends. -/
def Chip.powerEnds (s : Chip) (scope i st : Nat) : Chip :=
  if st ≠ 0 ∨ scope = 1 then s else if scope = 0 then s.wakePort i else s.leaveStandby

/-! ### One step (R325, R326, R328) -/

/-- The step of a slot's command on what it sees. -/
def Chip.stepOf (s : Chip) (x : Slot) : StepEnd :=
  if x.opcode = 0x01 then s.admitStep x
  else if x.opcode = 0x02 then s.releaseStep x
  else if x.opcode = 0x03 then s.takeStep x
  else if x.opcode = 0x04 then s.commitStep x
  else if x.opcode = 0x10 then (.step, stOk, [])
  else if x.opcode = 0x11 then (if bits (x.param 0) 3 0 = 0 then refused reRange 0 else (.reslate, stOk, []))
  else if x.opcode = 0x12 then s.asymStep x
  else if x.opcode = 0x13 then s.openStep x
  else if x.opcode = 0x14 then s.closeStep x
  else if x.opcode = 0x30 then s.snapshotStep
  else if x.opcode = 0x31 then s.dailiesStep x
  else if x.opcode = 0x40 then guardStep x
  else if x.opcode = 0x41 then s.groupStep x
  else if x.opcode = 0x42 then s.portStep x
  else if x.opcode = 0x43 then s.powerStep x
  else refused reOpcode noWord

/-- The effects that later steps of the same clapper see, and that the ending marker releases. -/
def Chip.enact (s : Chip) : Effect → Chip
  | .addFlow f e b => s.admitFlow f e b
  | .release i => s.releaseFlow i
  | .take p k => s.pendCut p (some k)
  | .cancel p => s.pendCut p none
  | .commit f n => s.commitRun f n
  | .asym p sub e a => s.putAsym p sub e a
  | .openSession n c => s.openSession n c
  | .closeSession n => s.closeSession n
  | .worn i => s.markWorn i
  | .none | .step | .reslate | .cal _ _ _ | .snapshot | .deviceReset | .groupReset _ | .portReset _ | .power _ _ _ => s

/-- The chip as the next step of this clapper sees it (R326). -/
def Chip.view (s : Chip) : Chip := s.mail.staged.foldl (fun t x => t.enact x.effect) s

/-- Stage what a step ends with, and mark its slot as run. -/
def Chip.stage1 (s : Chip) (n : Nat) (e : StepEnd) : Chip :=
  let t := s.setSlot n { s.slot n with phase := .ran }
  { t with mail := { t.mail with staged := t.mail.staged ++ [⟨n, e.1, e.2.1, e.2.2⟩] } }

/-- Run the step of a slot: BUSY where its object is taken, else as its rules say. -/
def Chip.runSlot (s : Chip) (n : Nat) : Chip :=
  let x := s.slot n
  let t := { s with mail := { s.mail with left := s.mail.left.filter (fun k => k != n) } }
  if s.objectTaken n x s.mail.taken then t.stage1 n (.none, stBusy, [])
  else Chip.stage1 { t with mail := { t.mail with taken := t.mail.taken ++ s.objects x } } n (s.view.stepOf x)

/-- A director row: the step of a slot, if its command is of that kind and next in order. -/
def Chip.directorStep (s : Chip) (op n : Nat) : Chip :=
  if s.directorRuns && !s.mail.voided && (s.slot n).opcode == op && s.mail.left.head? == some n then s.runSlot n else s

def execAdmitFlow (slot : Fin 16) (s : State) : Host.Outcome State Fault Refusal := done s (s.chip.directorStep 0x01 slot.val)
def execReleaseFlow (slot : Fin 16) (s : State) : Host.Outcome State Fault Refusal := done s (s.chip.directorStep 0x02 slot.val)

/-- A row's step runs now. -/
def Chip.runsNow (s : Chip) (op n : Nat) : Bool :=
  s.directorRuns && !s.mail.voided && (s.slot n).opcode == op && s.mail.left.head? == some n

/-- The check of SET_TAKE reads the entries of the new list (R158). -/
def Chip.takeReads (s : Chip) (x : Slot) : Bool :=
  let p := bits (x.param 0) 5 0
  !s.power.standby && decide (p < 48) && !s.fusedUpper p && !bit (x.param 0) 31 && decide (bits (x.param 1) 10 0 ≤ 1024)
    && (bits (x.param 1) 10 0 == 0 || decide (1024 ≤ bits (x.param 2) 20 0 ∧ bits (x.param 2) 20 0 ≤ 1048576))
    && !x.badNs 5 && !x.badNs 8

/-- One entry of a shadow gate list is read, with what its SECDED check meets (R163). -/
def Chip.meetGate (s : Chip) (p : Nat) (u : Fin 1024 × Ecc) : Chip :=
  if s.schdBad 6 p u.1 false then s
  else match u.2 with
    | .clean => s
    | .single => s.bump (F.schdEccCorrected 1)
    | .double => ((s.markSchd 6 p u.1 false).bump (F.schdEccUncorr 1)).fault fEcc

/-- The step of SET_TAKE, with what its reads of the shadow list meet. -/
def Chip.takeRow (s : Chip) (n : Nat) (upsets : List (Fin 1024 × Ecc)) : Chip :=
  let x := s.slot n
  let t := if s.runsNow 0x03 n && s.takeReads x
    then (upsets.filter (fun u => decide (u.1.val < bits (x.param 1) 10 0))).foldl (fun c u => c.meetGate (bits (x.param 0) 5 0) u) s
    else s
  t.directorStep 0x03 n

/-- The step of TABLE_COMMIT, with what its reads of the staging slots meet (R117). -/
def Chip.commitRow (s : Chip) (n : Nat) (upsets : List ScrubHit) : Chip :=
  let x := s.slot n
  let first := bits (x.param 0) 9 0
  let count := bits (x.param 1) 10 0
  let t := if s.runsNow 0x04 n && !s.power.standby && decide (first + count ≤ 1024)
    then (upsets.filter (fun h => h.table.val == 4 && decide (first ≤ h.index ∧ h.index < first + count))).foldl Chip.meetUpset s
    else s
  t.directorStep 0x04 n

def execSetTake (check : TakeCheck) (s : State) : Host.Outcome State Fault Refusal :=
  done s (s.chip.takeRow check.slot.val check.upsets)
def execTableCommit (check : CommitCheck) (s : State) : Host.Outcome State Fault Refusal :=
  done s (s.chip.commitRow check.slot.val check.upsets)
def execAcceptStep (slot : Fin 16) (s : State) : Host.Outcome State Fault Refusal := done s (s.chip.directorStep 0x10 slot.val)
def execReslate (slot : Fin 16) (s : State) : Host.Outcome State Fault Refusal := done s (s.chip.directorStep 0x11 slot.val)
def execSetAsym (slot : Fin 16) (s : State) : Host.Outcome State Fault Refusal := done s (s.chip.directorStep 0x12 slot.val)
def execSessionOpen (slot : Fin 16) (s : State) : Host.Outcome State Fault Refusal := done s (s.chip.directorStep 0x13 slot.val)
def execSessionClose (slot : Fin 16) (s : State) : Host.Outcome State Fault Refusal := done s (s.chip.directorStep 0x14 slot.val)
def execSnapshot (slot : Fin 16) (s : State) : Host.Outcome State Fault Refusal := done s (s.chip.directorStep 0x30 slot.val)
def execReadDailies (slot : Fin 16) (s : State) : Host.Outcome State Fault Refusal := done s (s.chip.directorStep 0x31 slot.val)
def execDeviceReset (slot : Fin 16) (s : State) : Host.Outcome State Fault Refusal := done s (s.chip.directorStep 0x40 slot.val)
def execGroupReset (slot : Fin 16) (s : State) : Host.Outcome State Fault Refusal := done s (s.chip.directorStep 0x41 slot.val)
def execPortReset (slot : Fin 16) (s : State) : Host.Outcome State Fault Refusal := done s (s.chip.directorStep 0x42 slot.val)
def execSetPowerState (slot : Fin 16) (s : State) : Host.Outcome State Fault Refusal := done s (s.chip.directorStep 0x43 slot.val)

/-- The wake of a group has not ended: the group is dark, or one of its pages reads IN_RESET (R308, R310). -/
def Chip.stillWakes (s : Chip) (x : Slot) : Bool :=
  let g := bits (x.param 0) 5 0
  bits (x.param 0) 9 8 == 1 && bits (x.param 0) 17 16 == 0 && (s.groupIsDark g || s.anyInReset (groupPages g))

/-- POWER_TRANSITION_DONE (R342): the transition has ended. That of a group's wake has ended once its pages are back. -/
def Chip.transitionDone (s : Chip) (n : Nat) : Chip :=
  let x := s.slot n
  if x.phase ≠ .running ∨ x.opcode ≠ 0x43 ∨ s.stillWakes x = true then s
  else
    let t := s.powerEnds (bits (x.param 0) 9 8) (bits (x.param 0) 5 0) (bits (x.param 0) 17 16)
    t.setSlot n { t.slot n with phase := .ending, snap := [word (microsBetween x.began t.time.raw)] }

def execPowerTransitionDone (slot : Fin 16) (s : State) : Host.Outcome State Fault Refusal := done s (s.chip.transitionDone slot.val)

/-! ### Calibrations (R275 to R283) -/

/-- Target of a calibration as CAL.CAUSE gives it: bank, port, or p × 8 + s. -/
def Slot.calTarget (x : Slot) (kind : Nat) : Nat :=
  if kind = 0 then bits (x.param 0) 3 0
  else if kind = 1 then bits (x.param 0) 5 0
  else if kind = 4 then bits (x.param 0) 5 0 * 8 + bits (x.param 0) 10 8
  else 0

/-- Leg IN of CAL_ASYM. -/
def Slot.legIn (x : Slot) : Bool := bit (x.param 0) 16

/-- A calibration target outside Table 13-1, or refused in STANDBY (R338, R342). -/
def Chip.calRefused (s : Chip) (x : Slot) (kind : Nat) : Option StepEnd :=
  let t := x.calTarget kind
  if s.power.standby && ((kind == 0 && decide (t < 8)) || kind == 1 || kind == 2 || kind == 4) then some inStandby
  else if (kind = 0 ∧ 9 < t) ∨ (kind = 1 ∧ 48 ≤ t) ∨ (kind = 4 ∧ s.noSub (t / 8) (t % 8) = true) then some (refused reRange 0)
  else none

/-- Conditions 4, 5, 7 and 8 of Table 13-2 as they stand, the first that fails; 0 for none. -/
def Chip.calCondition (s : Chip) (x : Slot) (kind target : Nat) : Nat :=
  let away := fun (p : Nat) => s.portInReset p || s.portIsDark p || s.groupIsDark (p / 6)
  let die := (kind == 0 && decide (target < 8) && (s.groupInReset target || s.groupIsDark target))
    || (kind == 1 && away target) || (kind == 4 && away (target / 8))
  let link := (kind == 1 && (s.enableOf target != 0 || s.getN (F.port0CtrlLoopback (s.lowerOf target)) != 0))
    || (kind == 4 && !s.getBit (F.port0StatusLinkUp (target / 8)) (target % 8))
  let leg := match Store.find target s.lOut with
    | some h => decide (rawDiff h.2 s.time.raw ≤ 3600000000000 * 65536)
    | none => false
  if die then 4
  else if link then 5
  else if (kind = 0 ∨ kind = 2 ∨ kind = 3) ∧ s.flag F.pll0MstatusLocked = false then 7
  else if (kind = 3 ∧ s.getBit F.cal0StatusTdcDone 9 = false) ∨ (kind = 4 ∧ x.legIn = true ∧ leg = false) then 8
  else 0

/-- A command that begins ends BUSY: its object is taken, or the calibration engine still works (R327). -/
def Chip.beginsBusy (s : Chip) (n : Nat) (x : Slot) (before : List Nat) : Bool :=
  s.objectTaken n x before || ((calKind x.opcode).isSome && (s.calRun.isSome || !s.linkTrim.isEmpty))

/-- A calibration begins at the marker (R275, R276); a refused one has taken its objects all the same (log 29). -/
def Chip.calBegins (s : Chip) (n : Nat) (x : Slot) (kind : Nat) (before : List Nat) : Chip :=
  if s.beginsBusy n x before then s.stage1 n (.none, stBusy, [])
  else match s.calRefused x kind with
    | some r => Chip.stage1 { s with mail := { s.mail with taken := s.mail.taken ++ s.objects x } } n r
    | none =>
      let t := x.calTarget kind
      let run : CalRun := ⟨n, kind, t, (List.range 10).map s.tempNow, s.calCondition x kind t, none, 0⟩
      let u := s.setSlot n { x with phase := .running, began := s.time.raw }
      (({ u with calRun := some run }).setB F.cal0StatusRunning true).setN F.cal0StatusRunKind kind

/-- At a marker a leg OUT that completed more than 3,600 s ago is gone (R276, R283). -/
def Chip.expireLegs (s : Chip) : Chip :=
  { s with lOut := s.lOut.filter (fun e => decide (rawDiff e.2.2 s.time.raw ≤ 3600000000000 * 65536)) }

/-- At every marker the running calibration's conditions are checked again (R276). -/
def Chip.calCheck (s : Chip) : Chip :=
  match s.calRun with
  | none => s
  | some r =>
    let c := s.calCondition (s.slot r.slot) r.kind r.target
    if c = 0 then s else s.calUpset c (fun _ _ => true)

/-- A calibration's measurements arrive: they are staged for the marker that completes it, unless the budget has moved its
step (R326). -/
def Chip.calData (s : Chip) (n kind : Nat) (data : CalIn) : Chip :=
  match s.calRun with
  | none => s
  | some r =>
    if s.directorRuns && !s.mail.voided && r.slot == n && r.kind == kind && r.cause == 0
        && !s.mail.moved.contains n && !s.mail.staged.any (fun e => e.slot == n)
    then { s with mail := { s.mail with staged := s.mail.staged ++ [⟨n, .cal kind r.target data, stOk, []⟩] } }
    else s

def execCalTdc (slot : Fin 16) (lines : List (List TdcPass)) (grid : TdcGrid) (s : State) : Host.Outcome State Fault Refusal :=
  done s (s.chip.calData slot.val 0 (.tdc lines grid))
def execCalLaneDelay (slot : Fin 16) (tx rx : List Nat) (s : State) : Host.Outcome State Fault Refusal :=
  done s (s.chip.calData slot.val 1 (.lanes tx rx))
def execCalDieLink (slot : Fin 16) (delays : List Nat) (s : State) : Host.Outcome State Fault Refusal :=
  done s (s.chip.calData slot.val 2 (.links delays))
def execCalPllPhase (slot : Fin 16) (d : Int) (s : State) : Host.Outcome State Fault Refusal :=
  done s (s.chip.calData slot.val 3 (.phase d))
def execCalAsym (slot : Fin 16) (loop : Nat) (probesOk : Bool) (s : State) : Host.Outcome State Fault Refusal :=
  done s (s.chip.calData slot.val 4 (.asym loop probesOk))

/-- Links that CAL_DIE_LINK measures: both dies out of reset and not dark. -/
def Chip.linkMeasured (s : Chip) (n : Nat) : Bool := n == 16 || (!s.groupInReset (n % 8) && !s.groupIsDark (n % 8))
def Chip.linksMeasured (s : Chip) : List Nat := (List.range 17).filter s.linkMeasured

/-- ASYM of a leg IN, ps (R283). -/
def Chip.asymResult (s : Chip) (target loop : Nat) : Int :=
  freeDiv .loop ((loop : Int) - ((Store.read ((0, 0) : Nat × Raw) s.lOut target).1 : Int)) 4

/-- The target φ for a measured d: the one release whose TCLK edge falls from d to d + 100 ps (R282). -/
def Chip.phaseTarget (s : Chip) (d : Int) : Nat := ((d + ((s.getN F.pll0MphaseMeasuredPs : Int) - d) % 100) % 1000).toNat

/-- The passes of a run over line k of its bank; a line that it did not reach has none. -/
def passesOf (lines : List (List TdcPass)) (k : Nat) : List TdcPass := lines.getD k []

/-- Two places in units of 2^-32 ns lie within 0.5 ps of each other. -/
def near (a b : Nat) : Bool := decide (2000 * ((a : Int) - (b : Int)).natAbs ≤ 2 ^ 32)

/-- A tap from `lo` to `hi` with the term `mid` agrees with interval i of a grid: both boundaries and the term, each to
within 0.5 ps (R264, R279). -/
def gridHolds (g : TdcGrid) (i lo mid hi : Nat) : Bool :=
  match g.bounds[i]?, g.bounds[i + 1]?, g.terms[i]? with
  | some a, some b, some t => near a lo && near b hi && near t mid
  | _, _, _ => false

/-- Every tap with hits of event channel e, whose stamping line collected h, agrees with its interval of the grid, the delay
D_e from the ball included. -/
def gridFits (g : TdcGrid) (e : Nat) (h : List Nat) : Bool :=
  (List.range 384).all (fun j => h.getD j 0 == 0 ||
    (match (g.intervals.getD e [])[j]? with
     | some i =>
       let d := Config.ballDelay e
       let lo := (h.take j).sum
       gridHolds g i (lo * 2 ^ 10 + d) (hitsReach h j * 2 ^ 9 + d) ((lo + h.getD j 0) * 2 ^ 10 + d)
     | none => false))

/-- The lines of a CAL_TDC are out of range: one that no pass reached, one out of range after its passes, or an event
channel off the common grid of bank 8 (R278, R279). -/
def Chip.tdcOut (s : Chip) (target : Nat) (lines : List (List TdcPass)) (grid : TdcGrid) : Bool :=
  (List.range (2 * bankChannels target)).any (fun k =>
    (passesOf lines k).isEmpty || (s.trimmed target k (passesOf lines k)).outOfRange)
    || (target == 8 && (List.range 8).any (fun e => !gridFits grid e (s.trimmed 8 (2 * e) (passesOf lines (2 * e))).hits))

/-- A measured value outside the range its command states (R278 to R283). -/
def Chip.calOut (s : Chip) (x : Slot) (target : Nat) : CalIn → Bool
  | .tdc lines grid => s.tdcOut target lines grid
  | .lanes tx rx => (tx ++ rx).any (fun v => decide (v < 3200 ∨ 40000 < v))
  | .links ds => s.linksMeasured.any (fun n => decide (6400 < ((ds.getD n 0 : Int) - Config.romLinkDelay n).natAbs))
  | .phase d => decide (d < 0 ∨ 1000 < d)
  | .asym loop _ => x.legIn && decide (10000 < (s.asymResult target loop).natAbs)

/-- The four words that record a success of a kind (R277). -/
def kindWords (kind : Nat) : List Nat := (List.range 4).map (fun i => persIndex ((F.pers3KindCount kind).addr + 4 * i))

/-- The persistent words a run writes; CAL_ASYM leg OUT writes none. -/
def Chip.calWords (s : Chip) (x : Slot) (kind target : Nat) : List Nat :=
  if kind = 4 ∧ x.legIn = false then []
  else
    (if kind = 0 then [persIndex (F.pers3TdcRef target).addr]
     else if kind = 2 then s.linksMeasured.map (fun n => persIndex (F.pers3LinkDelay n).addr)
     else if kind = 3 then [persIndex F.pll0MphaseTargetPs.addr]
     else if kind = 4 then [persIndex (F.pers2Asym (target / 8) (target % 8)).addr]
     else []) ++ kindWords kind

/-- The delay in force of a die link: from ROM until CAL_DIE_LINK has measured it once (R9, R281); a stored word of zero is
that of a link that no run has measured. -/
def Chip.linkDelay (s : Chip) (n : Nat) : Nat :=
  if s.getN (F.pers3KindCount 2) = 0 ∨ s.getN (F.pers3LinkDelay n) = 0 then Config.romLinkDelay n else s.getN (F.pers3LinkDelay n)

/-- A measured delay replaces the old one; the trim moves to it from marker to marker. -/
def Chip.putLink (s : Chip) (ds : List Nat) (n : Nat) : Chip :=
  let v := ds.getD n 0
  { s.setN (F.pers3LinkDelay n) v with
    linkTrim := Store.write 0 s.linkTrim n ((v : Int) - (s.linkDelay n : Int)).natAbs }

/-- The taps of a sampling cycle in 1/256 tap: those with hits, the last of them by its share of hits (R279). -/
def tapsPerCycle (h : List Nat) : Nat := 256 * ((h.filter (fun x => x != 0)).length - 1) + min 256 (Config.lastTap h)

/-- What a successful run leaves, and its results. A bank's taps per sampling cycle are those of its channel 0 (log 110). -/
def Chip.calPut (s : Chip) (x : Slot) (target : Nat) : CalIn → Chip × List Word
  | .tdc lines grid =>
    let taps := tapsPerCycle (s.trimmed target 0 (passesOf lines 0)).hits
    let t := (s.setBit F.cal0StatusTdcDone target true).setN (F.pers3TdcRef target) taps
    let b := { t.banks with
      lines := (List.range (2 * bankChannels target)).foldl (fun m k =>
        Store.write ⟨[], [], []⟩ m (lineOf target 0 + k) (s.trimmed target k (passesOf lines k))) t.banks.lines }
    let c := if target = 8 then { b with
        grid := grid.terms, intervals := grid.intervals.zipIdx.foldl (fun m l => Store.write [] m l.2 l.1) [] } else b
    ({ t with banks := c, gaffer := { t.gaffer with
       tdcNow := Store.erase target t.gaffer.tdcNow
       lastCal := Store.write 0 t.gaffer.lastCal target t.gaffer.seconds } }, [word taps])
  | .lanes tx rx =>
    let t := (List.range 8).foldl (fun c i =>
      (c.setN (F.cal1Tx (target * 8 + i)) (tx.getD i 0)).setN (F.cal1Rx (target * 8 + i)) (rx.getD i 0)) s
    let u := if target < 32 then t.setBit F.cal0LaneDoneLo target true else t.setBit F.cal0LaneDoneHi (target - 32) true
    ({ u with gaffer := { u.gaffer with
       atLaneCal := Store.write 0 u.gaffer.atLaneCal target (u.worstOn (target / 6 + 1)) } }, [])
  | .links ds => (s.linksMeasured.foldl (fun c n => c.putLink ds n) s, [word (s.linksMeasured.map (fun n => 2 ^ n)).sum])
  | .phase d =>
    let v := s.phaseTarget d
    let off := decide (20 < ((s.getN F.pll0MphaseMeasuredPs : Int) - v).natAbs)
    (((s.setN F.pll0MphaseTargetPs v).setB F.cal0StatusPllMismatch off), [word (ofBool off * 2 ^ 16 + v)])
  | .asym loop _ =>
    if x.legIn then
      let a := s.asymResult target loop
      ((s.setN (F.pers2Asym (target / 8) (target % 8)) (twos 24 a)).setN (F.pers2AsymSource (target / 8) (target % 8)) 2,
        [word loop, word (twos 32 a)])
    else ({ s with lOut := Store.insert target (loop, s.time.raw) s.lOut }, [word loop])

/-- The success of a kind is recorded with the network time of the marker (R277). -/
def Chip.recordCal (s : Chip) (kind : Nat) : Chip :=
  let n := s.net
  ((((s.addSat (F.pers3KindCount kind) 1).setN (F.pers3KindSecLo kind) (netSec n % 2 ^ 32)).setN
    (F.pers3KindSecHiSecHi kind) (netSec n / 2 ^ 32)).setB (F.pers3KindSecHiNtValid kind) (s.flag F.time0StatusValid)).setN
    (F.pers3KindNs kind) (netNs n)

/-- The register words beside the persistent ones that a successful run writes: CAL.STATUS, or the lanes' words. -/
def calWrites (target : Nat) : CalIn → List Nat
  | .tdc _ _ => [F.cal0StatusTdcDone.addr]
  | .lanes _ _ => (List.range 8).flatMap (fun i => [(F.cal1Tx (target * 8 + i)).addr, (F.cal1Rx (target * 8 + i)).addr])
      ++ [if target < 32 then F.cal0LaneDoneLo.addr else F.cal0LaneDoneHi.addr]
  | .links _ | .phase _ | .asym _ _ => []

/-- The calibration engine is idle again; LAST_RESULT tells how its run ended. -/
def Chip.calIdle (s : Chip) (result : Nat) : Chip :=
  (({ s with calRun := none }).setB F.cal0StatusRunning false).setN F.cal0StatusLastResult result

/-- A run fails: INPUT_STATE with its cause (R276). -/
def Chip.calFails (s : Chip) (r : CalRun) (cause : Nat) : Chip :=
  ((((s.calIdle 1).setN F.cal0Cause cause).setN F.cal0CauseTarget (r.target % 256)).bump F.cal0InputStates).complete
    r.slot stInput [word cause]

/-- A run completes (R276, R277). -/
def Chip.calDone (s : Chip) (n kind target : Nat) (data : CalIn) : Chip :=
  let x := s.slot n
  if s.calOut x target data then
    (((s.calIdle 2).bump F.cal0OutOfRange).fault fCal).complete n stRefused [word reOutOfRange, word noWord]
  else
    let ws := s.calWords x kind target
    match s.firstWorn ws with
    | some i => ((s.calIdle 3).markWorn i).complete n stWorn []
    | none =>
      let t := s.calPut x target data
      let u := if ws.isEmpty then t.1 else (t.1.recordCal kind).persistWords ws
      ((u.directorWrites (calWrites target data ++ ws.map persAddr)).calIdle 0).complete n stOk t.2

/-- A CAL_TDC whose lines are in range first exchanges the roles of the two lines of every channel (R278). -/
def Chip.exchanges (s : Chip) (r : CalRun) (d : CalIn) : Bool := r.kind == 0 && r.half.isNone && !s.calOut (s.slot r.slot) r.target d

/-- The spare lines, newly trimmed, stamp from this marker on; at the next the run completes and the roles are exchanged
back. -/
def Chip.exchange (s : Chip) (r : CalRun) (d : CalIn) : Chip :=
  { s with
    calRun := some { r with half := some d }
    mail := { s.mail with staged := s.mail.staged ++ [⟨r.slot, .cal r.kind r.target d, stOk, []⟩] } }

/-- The probe that a CAL_ASYM sends in each clapper, 1,024 in all (R283). -/
def Chip.sendProbe (s : Chip) : Chip :=
  match s.calRun with
  | some r =>
    if r.kind = 4 ∧ r.probes < 1024 ∧ s.coresRun = true then
      ({ s with calRun := some { r with probes := r.probes + 1 } }).emitMac (r.target / 8) (r.target % 8) peerAddress 0x88B5
        (.probe s.identity r.probes)
    else s
  | none => s

/-- At a marker: a run whose condition failed ends; one whose measurements are in completes (R276). A run whose step the
budget moved stands one clapper longer (R326). -/
def Chip.calMarker (s : Chip) (data : Option CalIn) : Chip :=
  match s.calRun with
  | none => s
  | some r =>
    if s.mail.moved.contains r.slot then s
    else if r.cause ≠ 0 then s.calFails r r.cause
    else match data with
      | none => s
      | some (.asym l ok) => if ok then s.calDone r.slot r.kind r.target (.asym l ok) else s.calFails r 6
      | some d => if s.exchanges r d then s.exchange r d else s.calDone r.slot r.kind r.target d

/-- At a marker each die link's trim moves by at most 1 ps (R281). -/
def Chip.trimLinks (s : Chip) : Chip :=
  { s with linkTrim := (s.linkTrim.map (fun e => (e.1, e.2 - 16))).filter (fun e => e.2 != 0) }

/-! ### The order of a clapper's steps (R19, R326) -/

/-- Fill the budget of a clapper in order: the slots whose steps run, and those moved behind the first that
does not fit. -/
def Chip.fill (s : Chip) (spent : Nat) : List Nat → List Nat × List Nat
  | [] => ([], [])
  | n :: l =>
    let c := spent + (s.slot n).cost
    if 60000 < c then ([], n :: l)
    else
      let r := s.fill c l
      (n :: r.1, r.2)

/-- Begin one slot's command: a calibration runs from this marker, an undefined opcode is refused. -/
def Chip.beginSlot (s : Chip) (before : List Nat) (n : Nat) : Chip :=
  let x := s.slot n
  if x.phase ≠ .due then s
  else match calKind x.opcode with
    | some k => s.calBegins n x k before
    | none => if opcodes.contains x.opcode then s else s.stage1 n (refused reOpcode noWord)

/-- Begin the commands of a clapper in order, each after the objects that those before it take: a BUSY one takes none. -/
def Chip.beginAll (s : Chip) (before : List Nat) : List Nat → Chip
  | [] => s
  | n :: l =>
    let mine := if (s.slot n).phase = .due ∧ s.beginsBusy n (s.slot n) before = false then s.objects (s.slot n) else []
    (s.beginSlot before n).beginAll (before ++ mine) l

/-- Commands that begin at this marker become due; those marked Waits stay in the dip state, and one that the budget moved
before it began waits there too (R19, R59, R343). -/
def Chip.makeDue (s : Chip) : Chip :=
  let held := fun (x : Slot) => s.inDip && x.waitsInDip
  { s with mail := { s.mail with slots := s.mail.slots.map (fun e =>
      if e.2.phase == .waiting && !held e.2 then (e.1, { e.2 with phase := .due })
      else if e.2.phase == .due && held e.2 && s.mail.moved.contains e.1 then (e.1, { e.2 with phase := .waiting }) else e) } }

/-- Slots with a step in this clapper, beside those carried over, ascending. -/
def Chip.dueSlots (s : Chip) : List Nat :=
  (s.mail.slots.filter (fun e => (e.2.phase == .due || e.2.phase == .running || e.2.phase == .ending)
    && !s.mail.moved.contains e.1)).map (fun e => e.1)

/-- A marker begins a clapper's steps: those carried over first, then those due in slot order. -/
def Chip.beginClapper (s : Chip) : Chip :=
  let t := s.makeDue
  let live := t.mail.moved.filter (fun n => t.slotHeld n && (t.slot n).phase != .waiting)
  let r := t.fill 0 (live ++ t.dueSlots)
  let u := { t with mail := { t.mail with order := r.1, moved := r.2, moveSeen := false, taken := [] } }
  let v := u.beginAll [] r.1
  { v with mail := { v.mail with left := r.1.filter (fun n => (v.slot n).phase == .due) } }

/-- The steps moved behind the budget are reported once (R174, R326). -/
def Chip.reportMove (s : Chip) : Chip :=
  if s.mail.moved.isEmpty || s.mail.moveSeen then s
  else
    let t := { s with mail := { s.mail with moveSeen := true } }
    (t.setB F.time0ClapperOverrunDirector true).overrun

/-- The first step of this clapper that has not run, and every step behind it, move whole to the next clapper (R18, R326). -/
def Chip.moveRest (s : Chip) : Chip :=
  match s.mail.left with
  | [] => s
  | n :: _ => { s with mail := { s.mail with
      order := s.mail.order.takeWhile (fun k => k != n)
      moved := s.mail.order.dropWhile (fun k => k != n) ++ s.mail.moved
      left := [] } }

/-- DIRECTOR_OVERRUN (R18, R174): the pair's work of this clapper does not fit its budget; it is told once. -/
def Chip.directorOverrun (s : Chip) : Chip :=
  if !s.directorRuns || s.mail.voided || s.mail.moveSeen then s
  else
    let t := { s.moveRest with mail := { s.moveRest.mail with moveSeen := true } }
    (t.setB F.time0ClapperOverrunDirector true).overrun

def execDirectorOverrun (s : State) : Host.Outcome State Fault Refusal := done s s.chip.directorOverrun

/-- Whatever of the clapper's steps no row has run yet runs before its marker. -/
def Chip.settleSteps (s : Chip) : Chip := (s.mail.left.foldl Chip.runSlot s).reportMove

/-! ### Release at the marker (R11, R324, R339 to R342) -/

/-- A multi-step command whose first step has ended runs on. -/
def Chip.runsOn (s : Chip) (n : Nat) : Chip := s.setSlot n { s.slot n with phase := .running, began := s.time.raw }

/-- Results of a SNAPSHOT: the freeze of this marker. -/
def Chip.snapWords (s : Chip) : List Word := [s.get F.pcnt0SnapClapperNumber, s.get F.pcnt0SnapRawLo, s.get F.pcnt0SnapRawHi]

/-- Release one staged step; an ACCEPT_STEP whose marker falls in the dip state stays staged (R185), and a
RESLATE is released after every step (R256). -/
def Chip.releaseOne (s : Chip) (e : Staged) : Chip :=
  let keep := { s with mail := { s.mail with staged := s.mail.staged ++ [e] } }
  match e.effect with
  | .step =>
    if s.inDip then keep
    else
      let r := s.stepAtMarker (s.slot e.slot)
      (match r.2 with
       | none => s.complete e.slot r.1.2.1 r.1.2.2
       | some j => let t := s.takeStepNow j; t.1.complete e.slot stOk t.2)
  | .reslate => keep
  | .snapshot => s.complete e.slot stOk s.snapWords
  | .cal _ _ d => if s.mail.moved.contains e.slot then keep else s.calMarker (some d)
  | .groupReset g => ((s.setBit F.rstStatusGroupHeld g false).beginGroupReset g).runsOn e.slot
  | .portReset p => (s.beginPortReset p).runsOn e.slot
  | .power scope i st => (s.powerBegins scope i st).runsOn e.slot
  | .deviceReset => s
  | .none | .addFlow _ _ _ | .release _ | .take _ _ | .cancel _ | .commit _ _ | .worn _ | .asym _ _ _ _ | .openSession _ _ | .closeSession _ =>
    ((s.enact e.effect).directorWrites e.effect.writes).complete e.slot e.status e.results

/-- Release the RESLATEs that the steps of this marker have gone before. -/
def Chip.releaseLate (s : Chip) (e : Staged) : Chip :=
  if e.effect = .reslate then
    let r := s.reslate (s.slot e.slot)
    r.1.complete e.slot stOk r.2
  else { s with mail := { s.mail with staged := s.mail.staged ++ [e] } }

/-- A page that a slot's reset acted on reads IN_RESET, again or still (R341). -/
def Chip.stillReset (s : Chip) (x : Slot) : Bool :=
  if x.opcode = 0x41 then s.anyInReset (groupPages (bits (x.param 0) 2 0))
  else x.opcode == 0x42 && s.anyInReset ((s.members (bits (x.param 0) 5 0)).flatMap portPages)

/-- Multi-step commands whose work has ended complete, unless their step was moved or a reset has begun again. -/
def Chip.releaseEnded (s : Chip) : Chip :=
  (s.mail.slots.filter (fun e => e.2.phase == .ending && !s.mail.moved.contains e.1 && !s.stillReset e.2)).foldl
    (fun t e => t.complete e.1 stOk e.2.snap) s

/-- The lowest slot whose DEVICE_RESET ends at this marker. -/
def Chip.resetSlot (s : Chip) : Option Nat :=
  (s.mail.slots.map (fun e => e.1)).find? (fun n => s.mail.staged.any (fun e => e.slot == n && e.effect == .deviceReset))

/-- DEVICE_RESET at its ending marker (R340): every other command is ABORTED and a soft reset begins. -/
def Chip.deviceResets (s : Chip) (n : Nat) : Chip := ((s.abortSlots (some n)).complete n stOk []).softReset

/-- Release what the clapper's steps staged (R11). -/
def Chip.releaseAll (s : Chip) : Chip :=
  let st := s.mail.staged
  let t := { s.releaseEnded with mail := { s.releaseEnded.mail with staged := [] } }
  let u := (st.foldl Chip.releaseOne t).calMarker none
  let late := u.mail.staged
  late.foldl Chip.releaseLate { u with mail := { u.mail with staged := [] } }

/-- After a mismatch the new pair repeats the discarded clapper's work; commands not yet begun wait (R12, R343). -/
def Chip.repeatClapper (s : Chip) : Chip :=
  let t := { s.setN F.sysDirectorActive (1 - s.getN F.sysDirectorActive) with mail := { s.mail with voided := false } }
  let u := t.beginAll [] t.mail.order
  { u with mail := { u.mail with left := u.mail.order.filter (fun n => (u.slot n).phase == .due) } }

/-! ### The director pairs (R12 to R14) -/

/-- What the active pair staged in this clapper is discarded. -/
def Chip.discardStaged (s : Chip) : Chip :=
  let again := fun (x : Slot) => if x.phase = .ran then { x with phase := .due } else x
  { s with mail := { s.mail with
    staged := [], taken := [], left := [], voided := true
    slots := s.mail.slots.map (fun e => (e.1, again e.2)) } }

/-- DIRECTOR_MISMATCH. -/
def Chip.directorFails (s : Chip) : Chip :=
  if !s.directorRuns || s.mail.voided then s
  else if s.flag F.sysDirectorStandbyReady then
    ((((s.discardStaged.fault fCore).setB F.sysDirectorSwapped true).addSat F.sysDirectorSwapCount 1).setB
      F.sysDirectorStandbyReady false).setB F.sysDirectorStandbyFenced true
  else (s.discardStaged.fault fCore).setB F.sysDirectorControlLost true

def execDirectorMismatch (s : State) : Host.Outcome State Fault Refusal := done s s.chip.directorFails

/-- STANDBY_PAIR_MISMATCH (R13). -/
def Chip.standbyFails (s : Chip) : Chip :=
  if !s.directorRuns || s.mail.voided || !s.flag F.sysDirectorStandbyReady then s
  else (s.setB F.sysDirectorStandbyReady false).setB F.sysDirectorStandbyFenced true

def execStandbyPairMismatch (s : State) : Host.Outcome State Fault Refusal := done s s.chip.standbyFails

/-- DIRECTOR_SELFTEST_DONE of the pair that restarts; one that fails stays fenced until the next reset (R13). -/
def Chip.pairTested (s : Chip) (pass : Bool) : Chip :=
  if !s.coresRun || !s.flag F.sysDirectorStandbyFenced || s.controlLost || s.cores.pairFailed then s
  else { s with cores := { s.cores with selfTestOk := pass, pairFailed := !pass } }

def execDirectorSelftestDone (pass : Bool) (s : State) : Host.Outcome State Fault Refusal := done s (s.chip.pairTested pass)

/-- At a clapper 0 marker a tested pair rejoins as standby. -/
def Chip.rejoin (s : Chip) (zero : Bool) : Chip :=
  if zero && s.cores.selfTestOk && !s.cores.pairFailed && !s.controlLost then
    let t := { s with cores := { s.cores with selfTestOk := false } }
    (t.setB F.sysDirectorStandbyReady true).setB F.sysDirectorStandbyFenced false
  else s

end Sys2Proof.Machine
end

