-- ==== Sys2Proof/Machine/Marker.lean ====
section
/-! DEFINITION. The clapper marker: what every die and every agent does at it, in order (R11, R17, R18, R170 to R174, R186, R300, R324, R347). -/

namespace Sys2Proof.Machine

/-- Raw time runs up to the marker. -/
def Chip.toMarker (s : Chip) : Chip :=
  let d := rawDiff s.time.raw s.time.nextAnchor
  if d ≤ 0 then s else s.elapse (d / 65536).toNat

/-- A snapshot is taken at this marker: asked for by a SNAPSHOT that ends at it, or by AUTO at clapper 0 (R347). -/
def Chip.wantsSnapshot (s : Chip) (zero released : Bool) : Bool :=
  (released && s.mail.staged.any (fun e => e.effect == .snapshot)) || (zero && s.flag F.pcnt0CtrlAuto)

/-- The servo's state after a step (R180): TRACK with a time source selected, else COAST, whose entry COASTS counts. -/
def Chip.stepState (s : Chip) : Chip :=
  if !s.noTimeSource then s.servoState stTrack
  else if s.getN F.time0StatusState = stCoast then s
  else (s.servoState stCoast).bump F.time0Coasts

/-- The time plane, once the selector has run: a step settles the servo's state, splices the lists and
aligns the clappers; otherwise the coast count goes on (R160, R173, R180, R186). -/
def Chip.settleTime (s : Chip) (old : Nat) (dip : Bool) : Chip :=
  let t := if s.time.stepClapper then s.stepState.refreshValid.stepGates old
    else (s.countCoast dip).coastEntry
  (t.moveDolly.gateLoss.placeMarker t.time.stepClapper).keepParams

/-- The clappers without a result of the source in REFUSE.SOURCE, the marks of the clapper that ended, and the
reload of a fenced scheduler replica. -/
def Chip.newClapper (s : Chip) : Chip :=
  let t := { s with
    time := { s.time with srcIdle := min 16 (s.time.srcIdle + 1), accepted := false }
    fab := { s.fab with clapperCount := s.fab.clapperCount + 1 } }
  if t.safeStop || t.power.standby then t else t.reloadReplica

/-- What the agents beside the director and the time plane do at a marker. -/
def Chip.agentsMarker (s : Chip) (m : MarkerIn) (zero : Bool) : Chip :=
  let t := s.tbMarker m
  if t.coresRun then
    let u := ((List.range 42).filter t.fusedLower).foldl Chip.fuseMarkerTime t.gripMarker
    let v := m.patErr.foldl (fun c e => c.patternErrors e.1.1 e.1.2 e.2) u.sendProbe
    (v.gafferResumes.releaseRaise.releasePlan zero).rejoin zero
  else t

/-- A second of the gaffer's count ends at each clapper 0 marker (R288). -/
def Chip.countSecond (s : Chip) (zero : Bool) : Chip :=
  if zero then { s with gaffer := { s.gaffer with seconds := s.gaffer.seconds + 1 } } else s

/-- The marker after the director's releases: references, time, agents, and the steps of the clapper it begins. The
references run at every marker, at one whose clapper is voided too: whether the selectors' work is discarded and
repeated with the rest of such a clapper the spec leaves open (R12, R222), and this is the model's choice (log 76). -/
def Chip.afterRelease (s : Chip) (m : MarkerIn) (zero repeating : Bool) (lifted : List Nat) (old : Nat) (dip : Bool) : Chip :=
  let a := (s.countSecond zero).refMarker m zero lifted
  let b := (a.settleTime old dip).agentsMarker m zero
  let c := b.newClapper
  if c.directorRuns && !repeating then c.beginClapper else c

/-- CLAPPER_MARKER. -/
def Chip.marker (s : Chip) (m : MarkerIn) : Chip :=
  if !s.time.running || !s.ready || decide (s.power.phase ≠ .run) then s
  else
    let zero := s.time.nextNumber == 0
    let repeating := s.directorRuns && s.mail.voided
    let released := s.directorRuns && !s.mail.voided
    let c := ({ s.toMarker with out := [] }).servo
    let c := if released then c.settleSteps else c
    let t := c.switchParams.leaveDip.expireLegs.calCheck.trimLinks
    let u := if t.wantsSnapshot zero released then t.freeze c (t.getN F.time0ClapperNumber) t.time.cur.anchor else t
    match (if released then u.resetSlot else none) with
    | some n => u.deviceResets n
    | none =>
      let v := if released then u.releaseAll else if repeating then u.repeatClapper else u
      v.afterRelease m zero repeating (if v.time.stepClapper then t.time.disq else []) (t.time.cur.netAt t.time.cur.anchor)
        c.inDip

def execClapperMarker (m : MarkerIn) (s : State) : Host.Outcome State Fault Refusal := done s (s.chip.marker m)

end Sys2Proof.Machine
end

