-- ==== Sys2Proof/Machine/Flags.lean ====
section
/-! DEFINITION. Status words that hardware works out at a read: PAGE_ID, PAGE_STATUS, the blocking charge, buffer occupancy, the words of the time plane, and the wide values of R365. -/

namespace Sys2Proof.Machine

/-! ### Page headers (R50, R51, R361, R362) -/

/-- STANDBY has taken the page's die from power (R311); the tables' pages are back in reset while a wake zeroes them. -/
def Chip.unpowered (s : Chip) (pg : Nat) : Bool :=
  s.power.standby && standbyActs pg && !(tablePage pg && s.power.inReset.contains pg)

/-- A group die's configuration shadow serves the page (R51). -/
def Chip.groupShadow (s : Chip) (pg : Nat) : Bool :=
  match groupOfPage pg with
  | some g => s.groupIsDark g
  | none => false

/-- Its far side is in reset; a page of a dark group or an unpowered die does not say so (R50, R51, R311). -/
def Chip.unreachable (s : Chip) (pg : Nat) : Bool := s.pageInReset pg && !s.groupShadow pg && !s.unpowered pg

/-- PAGE_STATUS as a read returns it (R50, R51). -/
def Chip.pageStatus (s : Chip) (pg : Nat) : Word :=
  s.wordAt (pg * 4096 + 4) ||| word (ofBool (s.pageDark pg) * 0x40 + ofBool (s.unreachable pg) * 0x80)

/-- The page answers as one in safe stop does outside the SLOWCLK path (R249). -/
def Chip.stopped (s : Chip) (pg : Nat) : Bool := s.safeStop && !slowPage pg

/-! ### Wide values (R33, R34, R365) -/

/-- The wide values of a page: offset of the lowest word and number of words. NOW_RAW loads with NOW (R171). -/
def widesOf (pg : Nat) : List (Nat × Nat) :=
  if pg = 0x20 then [(0x40, 2), (0x48, 6), (0x60, 2), (0x68, 4), (0x88, 2), (0x98, 2), (0xA8, 2), (0xB8, 4)]
  else if pg = 0x13 then [(0x44, 2), (0x54, 2), (0x64, 2), (0x74, 2), (0x84, 2)]
  else if pg = 0x30 then [(0x50, 2), (0x58, 2)]
  else if pg = 0x32 then [(0x4C, 2)]
  else if pg = 0x41 then [(0x90, 2), (0xB0, 2), (0xD0, 2), (0xF0, 2)]
  else if 0x51 ≤ pg ∧ pg ≤ 0x58 then [(0x48, 4), (0x58, 2)]
  else if pg = 0x60 then [(0x44, 2)]
  else if pg = 0x80 then [(0x4C, 2)]
  else if pg = 0x81 then (List.range 64).map (fun k => (0x48 + k * 0x20, 2))
  else if pg = 0x100 then [(0x60, 2)]
  else if 0x2000 ≤ pg ∧ pg < 0x2300 ∧ pg % 16 = 3 then [(0x48, 2)]
  else if 0x2000 ≤ pg ∧ pg < 0x2300 ∧ pg % 16 = 5 then [(0x50, 2)]
  else []

/-- The address of the lowest word, and the number of words, of the wide value that holds an address. -/
def wideAt (addr : Nat) : Option (Nat × Nat) :=
  ((widesOf (addr / 4096)).find? (fun r => decide (r.1 ≤ addr % 4096 ∧ addr % 4096 < r.1 + 4 * r.2))).map
    (fun r => (addr / 4096 * 4096 + r.1, r.2))

/-- The words of a 64-bit value. -/
def rawWords (x : Raw) : List Word := [word (x.toNat % 2 ^ 32), word (x.toNat / 2 ^ 32)]

/-- The set in force at a sample of raw time: the current one, or one before it where the sample precedes its marker. -/
def Chip.setOf (s : Chip) (x : Raw) : ParamSet :=
  if s.time.cur.isZero || decide (0 ≤ rawDiff s.time.cur.anchor x) then s.time.cur else (s.setAt x).getD s.time.cur

/-- NOW and NOW_RAW for a sample of raw time some nanoseconds old (R171). -/
def Chip.nowWords (s : Chip) (lag : Nat) : List Word :=
  let x : Raw := s.time.raw - BitVec.ofNat 64 (lag * 65536)
  netWords ((s.setOf x).netAt x) ++ rawWords x

/-- The words of a wide value as they stand, lowest first. -/
def Chip.wideWords (s : Chip) (base n lag : Nat) : List Word :=
  if base = 0x20040 then rawWords s.time.raw
  else if base = 0x20048 then s.nowWords lag
  else if base = 0x20060 then rawWords s.time.cur.anchor
  else if base = 0x20068 then netWords s.time.cur.base
  else if base = 0x200B8 then netWords s.conv
  else if s.upperReadsZero base then (List.range n).map (fun _ => 0)
  else (List.range n).map (fun i => s.wordAt (base + 4 * i))

/-! ### Other words without storage of their own -/

/-- A register word as it reads, wide values and reads with effects apart. -/
def Chip.plainWord (s : Chip) (addr : Nat) : Word :=
  let pg := addr / 4096
  let o := addr % 4096
  if o = 0 then pageId pg
  else if o = 4 then s.pageStatus pg
  else if s.beyondMode addr || s.upperReadsZero addr then 0
  else if addr = 0x20078 then word (twos 32 s.time.cur.rate)
  else if addr = 0x1005C then word (s.wear (s.getN F.pers0WearAddr))
  else if 0x140 ≤ pg ∧ pg < 0x170 ∧ 0x100 ≤ o ∧ o < 0x500 ∧ o % 0x80 = 0x0C then
    word (s.blockCharge (pg - 0x140) ((o - 0x100) / 0x80))
  else if pg = 0x121 ∧ 0x40 ≤ o ∧ o < 0xC40 then
    let p := (o - 0x40) / 64
    let c := (o - 0x40) / 4 % 16
    word (s.sliceRsv p c % 2 ^ 15 * 2 ^ 16 + s.sliceCells p c % 2 ^ 15)
  else if 0x2000 ≤ pg ∧ pg < 0x2300 ∧ pg % 16 = 4 ∧ o = 0x40 then
    let p := pg / 16 - 0x200
    word (s.inputUsed p true % 2 ^ 9 * 2 ^ 16 + s.inputUsed p false % 2 ^ 11)
  else s.wordAt addr

end Sys2Proof.Machine
end

