-- ==== Sys2Proof/Machine/Host.lean ====
section
/-! DEFINITION. The host's side of the block: register reads and writes on both access paths (R23 to R51), wide values, the registers whose writes act, the packet rings of BAR2, PCIe and SMBus requests (R26, R27, R377, R378), voting and parity. -/

namespace Sys2Proof.Machine

/-! ### Access paths -/

/-- Shadow and hold of a path: 0 PCIe, 1 SMBus (R33, R34). -/
def pathNo : Path → Nat
  | .pcie => 0
  | .smbus => 1

/-- Bit number of a path's master (R355). -/
def pathMaster : Path → Nat
  | .pcie => 0
  | .smbus => 2

/-- An access of the path reaches the register bus. -/
def Chip.reaches (s : Chip) : Path → Bool
  | .pcie => s.pcieServes
  | .smbus => s.alwaysOn

/-! ### Parity and voting (R39 to R41) -/

/-- A word that carries a parity bit: one with an RW or RWP field, counters included. -/
def carriesParity (addr : Nat) : Bool := (fieldsAt addr).any (fun f => f.acc == .rw || f.acc == .rwp || f.acc == .ctr)

/-- Report a parity mismatch of a word (R40, steps 1 to 4). -/
def Chip.parityFault (s : Chip) (addr : Nat) : Chip :=
  let pg := addr / 4096
  let t := s.addSat (F.hdrPgParityCount pg) 1
  let u := if s.flag (F.hdrPgStatusParity pg) then t else t.setN (F.hdrPgParityWord pg) (addr % 4096 / 4)
  (u.setB (F.hdrPgStatusParity pg) true).pageFault fParity pg

/-- The check of a word at a read. -/
def Chip.parityCheck (s : Chip) (addr : Nat) : Chip := if s.badParity.contains addr then s.parityFault addr else s

/-- A whole-word host write restores the parity of a word. -/
def Chip.parityRestored (s : Chip) (addr : Nat) (be : BitVec 4) : Chip :=
  if be = 0xF then { s with badParity := s.badParity.filter (fun a => a != addr) } else s

/-- Bitwise majority of three copies. -/
def majority (a b c : Word) : Word := (a &&& b) ||| (a &&& c) ||| (b &&& c)

/-- One voted field whose copies differ from the stored value by the flips given (R39). -/
def Chip.voteField (s : Chip) (addr : Nat) (a b c : Word) (f : FieldRow) : Chip :=
  let g := f.at addr
  let cut := fun (x : Word) => word (bits x (f.lsb + f.width - 1) f.lsb)
  let t := s.set g (s.get g ^^^ majority (cut a) (cut b) (cut c))
  if cut a = cut b ∧ cut b = cut c then t
  else
    let pg := addr / 4096
    let u := (t.setN (F.hdrPgVote pg) ((t.getN (F.hdrPgVote pg) + 1) % 2 ^ 32)).setB (F.hdrPgStatusVote pg) true
    if s.flag (F.hdrPgCtrlVoteReport pg) then u.pageFault fVote pg else u

/-- VOTE_REPAIR: the comparison of a word's copies at a SLOWCLK edge or a read. -/
def Chip.voteRepair (s : Chip) (addr : Nat) (a b c : Word) : Chip :=
  let pg := addr / 4096
  if !s.powered || !occupied pg || s.unpowered pg || s.unreachable pg then s
  else ((fieldsAt addr).filter (fun f => f.acc == .rwv)).foldl (fun t f => t.voteField addr a b c f) s

def execVoteRepair (addr : BitVec 26) (flipA flipB flipC : Word) (s : State) : Host.Outcome State Fault Refusal :=
  done s (s.chip.voteRepair (addr.toNat / 4 * 4) flipA flipB flipC)

/-! ### Reads -/

/-- Latch the higher words of a wide value into the path's shadow (R33). -/
def Chip.latch (s : Chip) (path : Path) (base : Nat) (ws : List Word) : Chip :=
  { s with shadow := (List.range (ws.length - 1)).foldl (fun m i =>
      Store.write 0 m ((base + 4 * (i + 1)) * 2 + pathNo path) (nth ws (i + 1))) s.shadow }

/-- A read of the lowest word of a wide value; SLATE_W0 also removes the slate (R269). -/
def Chip.wideRead (s : Chip) (path : Path) (base n lag : Nat) : Word × Chip :=
  if 0x51000 ≤ base ∧ base < 0x59000 ∧ base % 4096 = 0x48 then
    let r := s.popSlate (base / 4096 - 0x51)
    let ws := (List.range 4).map (entryWord r.2)
    (nth ws 0, r.1.latch path base ws)
  else
    let ws := s.wideWords base n lag
    (nth ws 0, s.latch path base ws)

/-- The probe whose word at some offset within it stands at an address. -/
def probeAt (addr o : Nat) : Option Nat :=
  if 0x81040 + o ≤ addr ∧ addr < 0x81840 ∧ (addr - 0x81040 - o) % 0x20 = 0 then some ((addr - 0x81040 - o) / 0x20) else none

/-- Latch the counts of the chain above probe k (R357). -/
def Chip.latchChain (s : Chip) (path : Path) (k : Nat) : Chip :=
  let run := ((List.range (63 - k)).map (fun i => k + 1 + i)).takeWhile (fun j => s.getN (F.pcnt1CfgSource j) == 2)
  { s with shadow := run.foldl (fun m j =>
      Store.write 0 m ((0x81054 + j * 0x20) * 2 + pathNo path) (s.get (F.pcnt1Count j))) s.shadow }

/-- The address of PCNT.BANK_DATA. -/
def bankDataAddr : Nat := 0x8005C

/-- A served read of a register: the word, and what the read changes. -/
def Chip.readReg (s : Chip) (path : Path) (addr lag : Nat) : Word × Chip :=
  match wideAt addr with
  | some (base, n) =>
    if addr = base then s.wideRead path base n lag
    else (if s.upperReadsZero addr then 0 else Store.read 0 s.shadow (addr * 2 + pathNo path), s)
  | none =>
    if addr = bankDataAddr then
      (s.bankWord (s.getN F.pcnt0BankIndex), s.setN F.pcnt0BankIndex ((s.getN F.pcnt0BankIndex + 1) % 2 ^ 18))
    else
      match probeAt addr 0x10, probeAt addr 0x14 with
      | some k, _ => (s.get (F.pcnt1Count k), s.latchChain path k)
      | none, some _ => (Store.read 0 s.shadow (addr * 2 + pathNo path), s)
      | none, none => (s.plainWord addr, s)

/-- A 32-bit read of BAR0 as the page serves it (R32, R50, R51, R249, R311). -/
def Chip.pageRead (s : Chip) (path : Path) (addr lag : Nat) : Word × Chip :=
  let pg := addr / 4096
  let o := addr % 4096
  if !occupied pg || s.stopped pg then (0, s)
  else if s.unpowered pg then (if o = 0 then pageId pg else if o = 4 then 0x40 else 0, s)
  else if s.unreachable pg then (if o = 0 then pageId pg else if o = 4 then s.pageStatus pg else 0, s)
  else
    let r := s.readReg path addr lag
    (r.1, r.2.parityCheck addr)

/-- A 32-bit read of BAR0, counted by the ACCESS probes (R354). -/
def Chip.busRead (s : Chip) (path : Path) (addr lag : Nat) : Word × Chip :=
  let r := s.pageRead path addr lag
  (r.1, r.2.access 0 1 (pathMaster path) addr)

/-! ### Writes of plain fields (R30, R36, R37, R42) -/

/-- The enabled bits of a write that fall in a field. -/
def FieldRow.enabled (f : FieldRow) (be : BitVec 4) : Word := word (bits (beMask be) (f.lsb + f.width - 1) f.lsb)

/-- A word with the enabled bytes of another. -/
def mergeWord (old new : Word) (be : BitVec 4) : Word := (old &&& ~~~beMask be) ||| (new &&& beMask be)

/-- A host write of one field under its access code. `before` is the block before the cycle: the events
of the cycle are added to what a counter is written with (R43). -/
def Chip.putField (s before : Chip) (addr : Nat) (be : BitVec 4) (w : Word) (f : FieldRow) : Chip :=
  let g := f.at addr
  let m := f.enabled be
  let x := word (bits w (f.lsb + f.width - 1) f.lsb)
  match f.acc with
  | .rw | .rwv | .rwp => s.set g ((s.get g &&& ~~~m) ||| (x &&& m))
  | .w1c => s.set g (s.get g &&& ~~~(x &&& m))
  | .w1s => s.set g (s.get g ||| (x &&& m))
  | .ctr => s.set g (((before.get g &&& ~~~m) ||| (x &&& m)) + (s.get g - before.get g))
  | .ro | .ros | .trg => s

/-- A host write of the fields of a word that a test allows. -/
def Chip.putFields (s before : Chip) (addr : Nat) (be : BitVec 4) (w : Word) (allow : Access → Bool) : Chip :=
  ((fieldsAt addr).filter (fun f => allow f.acc)).foldl (fun t f => t.putField before addr be w f) s

/-- Codes whose writes PAGE_LOCK refuses (R42). -/
def lockable : Access → Bool
  | .rw | .rwv | .rwp | .trg => true
  | .ro | .ros | .w1c | .w1s | .ctr => false

/-- Codes of configuration: those that a dark group's shadow takes (R51). -/
def configures : Access → Bool
  | .rw | .rwv => true
  | .ro | .ros | .w1c | .w1s | .trg | .rwp | .ctr => false

/-- The write reaches a field that PAGE_LOCK guards. -/
def Chip.locked (s : Chip) (addr : Nat) (be : BitVec 4) : Bool :=
  s.flag (F.hdrPgLockLock (addr / 4096)) && (fieldsAt addr).any (fun f => lockable f.acc && f.enabled be != 0)

/-- Count a refused access (R42). -/
def Chip.lockRefuse (s : Chip) (pg : Nat) : Chip :=
  let t := (s.addSat (F.hdrPgLockRefused pg) 1).setB (F.hdrPgStatusLockHit pg) true
  if s.flag (F.hdrPgCtrlLockReport pg) then t.pageFault fLock pg else t

/-! ### Writes of wide values (R34) -/

/-- A wide value that the host writes: CONV_RAW, DMA_BASE, MAC, and ADDR of a probe, which R365 makes one by its names
(log 74). -/
def writableWide (base : Nat) : Bool :=
  base == 0x200A8 || (decide (0x81000 ≤ base ∧ base < 0x82000)) || (decide (0x51000 ≤ base ∧ base < 0x59000) && base % 4096 == 0x58)
    || (decide (0x02000000 ≤ base) && base % 4096 == 0x48 && base / 4096 % 16 == 3)

/-- Put a word of a wide value. -/
def Chip.writeWord (s : Chip) (addr : Nat) (be : BitVec 4) (w : Word) : Chip :=
  (s.putFields s addr be w lockable).parityRestored addr be

/-- A write of a 64-bit value's word: the low word is held, the high word applies both. -/
def Chip.wideWrite (s : Chip) (path : Path) (base addr : Nat) (be : BitVec 4) (w : Word) : Chip :=
  let k := base * 2 + pathNo path
  if addr = base then { s with held := Store.write (0, 0) s.held k (be, w) }
  else
    let l := Store.read (0, 0) s.held k
    let t := (s.writeWord base l.1 l.2).writeWord addr be w
    { t with held := Store.write (0, 0) t.held k (0, 0) }

/-! ### Registers whose writes act -/

/-- A write of ADMo.SUBs.SHARE (R57, R69). On a subport that the port's mode does not have, the model stores it: it reads
zero until SPLIT gives the subport and stands then, which the spec leaves open (log 96). -/
def Chip.shareWrite (s : Chip) (o sub : Nat) (w : Word) : Chip :=
  if s.fusedUpper o then s
  else if s.getN (F.admSubFlows o sub) ≠ 0 then s.setB (F.admStatusShareHeld o) true
  else s.setN (F.admSubShare o sub) (bits w 8 0)

/-- A TRG write that finds its action running, or that acts on no engine, is lost (R43). -/
def Chip.trgLost (s : Chip) (pg : Nat) : Chip := s.setB (F.hdrPgStatusTrgLost pg) true

/-- APPLY (R153, R162). -/
def Chip.applyTree (s : Chip) (p : Nat) : Chip :=
  if s.fusedUpper p || s.checking.contains p then s.trgLost (0x2005 + p * 16)
  else ({ s with checking := s.checking ++ [p] }).setB (F.port5TreeStatusChecking p) true

/-- A write of FAB.CC_CTRL (R145): an injection that still waits for its slot is lost. -/
def Chip.injectWrite (s : Chip) (a b : Bool) : Chip :=
  let t := s.inject a b
  if (a && s.fab.injectA) || (b && s.fab.injectB) then t.trgLost 0x100 else t

/-- The mailbox slot and the offset in it that an address names (R322). -/
def slotAt (addr : Nat) : Option (Nat × Nat) :=
  let o := addr % 4096
  if 0x4000 ≤ addr ∧ addr < 0x8000 ∧ 0x40 ≤ o ∧ o < 0xC40
  then some ((addr / 4096 - 4) * 4 + (o - 0x40) / 0x300, (o - 0x40) % 0x300) else none

/-- A write of a slot word that R323 ignores: the slot is busy, or GO while control is lost. -/
def Chip.slotRefuses (s : Chip) (addr : Nat) (t : Word) : Option (Nat × Bool) :=
  match slotAt addr with
  | none => none
  | some (n, o) =>
    let isGo := o == 0 && bit t 31
    if decide (o ≤ 0xE0) && (s.slotHeld n || (isGo && s.controlLost)) then some (n, isGo) else none

/-- Registers of a PORTp page whose writes act: `p` the proposed word, `t` the bits written as 1. -/
def Chip.portWrite (s : Chip) (q page o : Nat) (p t : Word) : Option Chip :=
  if page = 0 ∧ o = 0x40 then some (s.modeWrite q p)
  else if page = 0 ∧ o = 0x44 then some (s.ctrlWrite q p)
  else if page = 0 ∧ o = 0x4C then some (s.maxframeWrite q p)
  else if page = 0 ∧ o = 0x50 ∧ s.fusedUpper q = true then some (s.modeHeld q)
  else if page = 0 ∧ o = 0x54 then some (s.mergeWrite q p)
  else if page = 1 ∧ 0x40 ≤ o ∧ o < 0xA0 ∧ (o - 0x40) % 12 = 0 then some (s.mapWrite q ((o - 0x40) / 12) p)
  else if page = 3 ∧ 0x40 ≤ o ∧ o < 0x50 ∧ s.fusedUpper q = true then some (s.modeHeld q)
  else if page = 5 ∧ o = 0x40 then some (if bit t 0 then s.applyTree q else s)
  else if page = 6 ∧ o = 0x40 then
    some ((s.putFields s (F.port6EsmcCtrlEn q).addr 0xF p lockable).esmcStops q)
  else none

/-- Registers of an event channel's page whose writes act (R272). -/
def Chip.eventWrite (s : Chip) (e o : Nat) (be : BitVec 4) (p w : Word) : Option Chip :=
  if o = 0x40 then some (s.evCtrlWrite e p)
  else if o = 0x58 ∨ o = 0x5C ∨ o = 0x60 then
    if s.getN (F.evCtrlMode e) = 2 then some s
    else if o = 0x60 then some ((s.writeWord (0x51060 + e * 0x1000) be w).dmaRestart e)
    else none
  else if o = 0x68 then some ((s.writeWord (0x51068 + e * 0x1000) be w).showStall e)
  else none

/-- The register words whose writes act, elsewhere. -/
def Chip.actingWrite (s : Chip) (addr : Nat) (be : BitVec 4) (p t w : Word) : Option Chip :=
  let pg := addr / 4096
  let o := addr % 4096
  if 0x2000 ≤ pg ∧ pg < 0x2300 then s.portWrite (pg / 16 - 0x200) (pg % 16) o p t
  else if 0x51 ≤ pg ∧ pg ≤ 0x58 then s.eventWrite (pg - 0x51) o be p w
  else if 0x140 ≤ pg ∧ pg < 0x170 ∧ 0x100 ≤ o ∧ o < 0x500 ∧ o % 0x80 = 0 then
    some (s.shareWrite (pg - 0x140) ((o - 0x100) / 0x80) p)
  else if pg = 0x120 ∧ 0x40 ≤ o ∧ o < 0xC40 then some (s.limitWrite ((o - 0x40) / 64) ((o - 0x40) / 4 % 16) (bits p 14 0))
  else if pg = 0x41 ∧ 0x40 ≤ o ∧ o < 0x80 ∧ o % 8 = 0 then some (s.clkWrite ((o - 0x40) / 8) p)
  else if pg = 0x41 ∧ 0x80 ≤ o ∧ o < 0x100 ∧ o % 0x20 < 0x0C then some (s.ppsWrite ((o - 0x80) / 0x20) (o % 0x20 / 4) p)
  else if addr = 0x50040 then some (s.tbCfgWrite p)
  else if addr = 0x11040 then some (s.strapWrite p)
  else if addr = 0x100040 then some (s.injectWrite (bit t 0 || bit t 2) (bit t 1 || bit t 2))
  else if 0x200 ≤ pg ∧ pg ≤ 0x204 ∧ o = 0x54 then
    some ((s.writeWord addr be w).windowTrigger (pg - 0x200) (bit t 17) (bit t 16))
  else if (pg = 0x110 ∨ pg = 0x111) ∧ o = 0x54 then some (s.windowTrigger (pg - 0x110 + 5) (bit t 17) (bit t 16))
  else if addr = 0x200B0 then some (if bit t 0 then s.convert else s)
  else if addr = 0x21044 then some (if bit t 0 then s.sessTrigger else s)
  else if addr = 0x33044 then some (if bit t 0 then s.archTrigger else s)
  else match slotAt addr with
    | some (n, 0) => some (if bit t 31 then (s.writeWord addr be w).go n else s.writeWord addr be w)
    | _ => none

/-- The register's write is ignored whole (R89, R116, R272, R314, R315): its parity bit stands as it is. -/
def Chip.ignores (s : Chip) (addr : Nat) : Bool :=
  let pg := addr / 4096
  let o := addr % 4096
  if 0x2000 ≤ pg ∧ pg < 0x2300 then
    (pg % 16 == 0 || (pg % 16 == 3 && decide (o < 0x50))) && s.fusedUpper (pg / 16 - 0x200)
  else if 0x51 ≤ pg ∧ pg ≤ 0x58 ∧ 0x58 ≤ o ∧ o ≤ 0x60 then s.getN (F.evCtrlMode (pg - 0x51)) == 2
  else addr == 0x11040 && (s.worn strapIndex || (s.inDip && decide (64 ≤ s.power.commits.length)))

/-! ### Upsets of stored words (R40) -/

/-- A word and its parity bit differ by one bit more than before. -/
def Chip.toggleParity (s : Chip) (addr : Nat) : Chip :=
  { s with badParity := if s.badParity.contains addr then s.badParity.filter (fun a => a != addr)
                        else s.badParity ++ [addr] }

/-- The registers on whose stored bits the hardware acts at the change itself: CTRL and MERGE of a port, CLKOUTn.CFG,
the words of PPSOUTn, EVe.CTRL and TBCFG. Every other word is acted on where it is read. -/
def Chip.obeyed (s : Chip) (addr : Nat) : Bool :=
  let pg := addr / 4096
  let o := addr % 4096
  !s.unpowered pg && !s.unreachable pg && !s.pageDark pg &&
    ((decide (0x2000 ≤ pg ∧ pg < 0x2300) && pg % 16 == 0 && (o == 0x44 || o == 0x54) && !s.fusedUpper (pg / 16 - 0x200))
      || (pg == 0x41 && (decide (0x40 ≤ o ∧ o < 0x80) || decide (0x80 ≤ o ∧ o < 0x100)))
      || (decide (0x51 ≤ pg ∧ pg ≤ 0x58) && o == 0x40) || addr == 0x50040)

/-- DMA_STALL follows the words of an event channel's host ring as they stand (R270). -/
def Chip.ringSeen (s : Chip) (addr : Nat) : Chip :=
  let pg := addr / 4096
  if 0x51 ≤ pg ∧ pg ≤ 0x58 ∧ (addr % 4096 = 0x60 ∨ addr % 4096 = 0x68) then s.showStall (pg - 0x51) else s

/-- One stored bit of a word flips, and its parity bit does not; bit 32 is the parity bit itself. The word keeps the
wrong bit and the hardware acts on it. -/
def Chip.upsetBit (s : Chip) (addr k : Nat) : Chip :=
  if !occupied (addr / 4096) || !carriesParity addr then s
  else if k = 32 then s.toggleParity addr
  else
    match (fieldsAt addr).find? (fun f => decide (f.lsb ≤ k ∧ k < f.lsb + f.width)) with
    | some f =>
      let g := f.at addr
      let t := s.set g (s.get g ^^^ word (2 ^ (k - f.lsb)))
      let w := t.wordAt addr
      let acts := if s.obeyed addr then s.actingWrite addr 0xF w w w else none
      ((acts.getD t).ringSeen addr).toggleParity addr
    | none => s

/-- PARITY_SCAN (R40): upsets that have struck, then every mismatch of a powered page reported. The spec does not say
which of several mismatches of one page the scan finds first: the model takes those that already stood, then the new
ones in the order of the command's list (log 95). -/
def Chip.parityScan (s : Chip) (upsets : List (BitVec 26 × Fin 33)) : Chip :=
  if !s.powered then s
  else
    let t := upsets.foldl (fun u x => u.upsetBit (x.1.toNat / 4 * 4) x.2.val) s
    (t.badParity.filter (fun a => !t.unpowered (a / 4096) && !t.unreachable (a / 4096))).foldl Chip.parityFault t

def execParityScan (upsets : List (BitVec 26 × Fin 33)) (s : State) : Host.Outcome State Fault Refusal :=
  done s (s.chip.parityScan upsets)

/-- A write that its page accepts. -/
def Chip.writeReg (s before : Chip) (path : Path) (addr : Nat) (be : BitVec 4) (w : Word) : Chip :=
  match s.actingWrite addr be (mergeWord (s.wordAt addr) w be) (w &&& beMask be) w with
  | some c => if s.ignores addr then c else c.parityRestored addr be
  | none =>
    match wideAt addr with
    | some (base, _) =>
      if writableWide base then
        let t := s.wideWrite path base addr be w
        if base / 4096 ≤ 0x58 ∧ 0x51 ≤ base / 4096 then t.dmaRestart (base / 4096 - 0x51) else t
      else s
    | none => (s.putFields before addr be w (fun _ => true)).parityRestored addr be

/-- The word has a TRG field that the write sets. -/
def trgSet (addr : Nat) (t : Word) : Bool := (fieldsAt addr).any (fun f => f.acc == .trg && bit t f.lsb)

/-- How the page takes a 32-bit write: whether it is discarded whole (R355), and what it changes. -/
def Chip.pageWrite (s before : Chip) (path : Path) (addr : Nat) (be : BitVec 4) (w : Word) : Chip :=
  let pg := addr / 4096
  let t := w &&& beMask be
  if s.locked addr be then (s.lockRefuse pg).putFields before addr be w (fun a => !lockable a)
  else match s.slotRefuses addr t with
    | some (n, isGo) => if isGo then s.goLost n else s.slotIgnored
    | none =>
      if addr % 4096 < 0x40 then (s.putFields before addr be w (fun _ => true)).parityRestored addr be
      else if s.pageDark pg && trgSet addr t then s.trgLost pg
      else if s.groupShadow pg && (fieldsAt addr).all (fun f => !configures f.acc) then s
      else s.writeReg before path addr be w

/-- The write is discarded whole (R355). -/
def Chip.discards (s : Chip) (addr : Nat) (be : BitVec 4) (w : Word) : Bool :=
  let pg := addr / 4096
  let t := w &&& beMask be
  s.unpowered pg || s.unreachable pg || s.stopped pg
    || (s.locked addr be && (fieldsAt addr).all (fun f => lockable f.acc || f.acc == .ro || f.acc == .ros))
    || (s.slotRefuses addr t).isSome || (s.pageDark pg && trgSet addr t)

/-- A 32-bit write of BAR0. The probes see it under the settings before it (R354). -/
def Chip.busWrite (s : Chip) (path : Path) (addr : Nat) (be : BitVec 4) (w : Word) : Chip :=
  let pg := addr / 4096
  let t := s.access (if s.discards addr be w then 2 else 1) 1 (pathMaster path) addr
  if !occupied pg || s.stopped pg || s.unpowered pg || s.unreachable pg then t
  else t.pageWrite s path addr be w

/-! ### The packet rings of BAR2 (Table 5-7) -/

/-- The ring and the offset in it of a BAR2 address; rings 6 and 7 are not implemented. -/
def ringAt (addr : Nat) : Option (Nat × Nat) :=
  let n := (addr - 0x05000000) / 0x100000
  if 0x05000000 ≤ addr ∧ n < 16 ∧ n ≠ 6 ∧ n ≠ 7 then some (n, (addr - 0x05000000) % 0x100000) else none

/-- A 32-bit read of BAR2: zero in safe stop, where no ring is served (R249). -/
def Chip.ringRead (s : Chip) (addr : Nat) : Word :=
  if s.safeStop then 0
  else match ringAt addr with
  | some (n, o) => if o < 0x80000 then s.desc n (o / 16) (o / 4 % 4) else s.wordAt addr
  | none => 0

/-- A 32-bit write of BAR2, discarded in safe stop (R249). -/
def Chip.ringWrite (s : Chip) (addr : Nat) (be : BitVec 4) (w : Word) : Chip :=
  if s.safeStop then s
  else match ringAt addr with
  | some (n, o) =>
    if o < 0x80000 then s.setDesc n (o / 16) (o / 4 % 4) (mergeWord (s.desc n (o / 16) (o / 4 % 4)) w be)
    else s.putFields s addr be w (fun _ => true)
  | none => s

/-! ### One access of a row -/

/-- What an access is answered with that does not reach the register bus. -/
def Chip.notReached (s : Chip) : Path → Chip
  | .pcie => s.unanswered
  | .smbus => s.answer1 [] false true

/-- The byte enables of an access: all four over SMBus (R27). -/
def pathEnables : Path → BitVec 4 → BitVec 4
  | .pcie, be => be
  | .smbus, _ => 0xF

/-- A 32-bit write that arrives on a path. -/
def Chip.hostWrite (s : Chip) (path : Path) (addr : Nat) (be : BitVec 4) (w : Word) : Chip :=
  if !s.reaches path then s.notReached path
  else if addr < 0x04000000 then (s.busWrite path (addr / 4 * 4) (pathEnables path be) w).answer1 [] false false
  else if path = .pcie then (s.ringWrite (addr / 4 * 4) be w).answer1 [] false false
  else s.answer1 [] false true

/-- A 32-bit read that arrives on a path, its data in the reply. -/
def Chip.hostRead (s : Chip) (path : Path) (addr lag : Nat) : Chip :=
  if !s.reaches path then s.notReached path
  else
    let r := s.busRead path (addr / 4 * 4) lag
    r.2.answer1 [r.1] false false

/-- REGISTER_WRITE (R30). -/
def execRegisterWrite (path : Path) (addr : BitVec 27) (be : BitVec 4) (data : Word) (s : State) : Host.Outcome State Fault Refusal :=
  done s (s.chip.hostWrite path addr.toNat be data)

/-- WIDE_LOW_READ (R33). -/
def execWideLowRead (path : Path) (addr : BitVec 26) (s : State) : Host.Outcome State Fault Refusal :=
  done s (s.chip.hostRead path addr.toNat 0)

/-- WIDE_WRITE (R34). -/
def execWideWrite (path : Path) (addr : BitVec 26) (be : BitVec 4) (data : Word) (s : State) : Host.Outcome State Fault Refusal :=
  done s (s.chip.hostWrite path addr.toNat be data)

/-- NOW_READ (R171): the sample lags the read by up to three nanoseconds. -/
def execNowRead (path : Path) (lag : Fin 4) (s : State) : Host.Outcome State Fault Refusal :=
  done s (s.chip.hostRead path 0x20048 lag.val)

/-- CONVERT (R187). -/
def execConvert (path : Path) (s : State) : Host.Outcome State Fault Refusal :=
  done s (s.chip.hostWrite path F.time0ConvCtrlConvert.addr 0xF 1)

/-- TBL_READ (R110): the other bits of CMD as given. -/
def execTblRead (path : Path) (w : Fin 5) (data : Word) (s : State) : Host.Outcome State Fault Refusal :=
  done s (s.chip.hostWrite path (F.tblCmdRead w.val).addr 0xF (data ||| 0x20000))

/-- TBL_WRITE (R110). -/
def execTblWrite (path : Path) (w : Fin 5) (data : Word) (s : State) : Host.Outcome State Fault Refusal :=
  done s (s.chip.hostWrite path (F.tblCmdRead w.val).addr 0xF (data ||| 0x10000))

/-- SCHD_READ (R164). -/
def execSchdRead (path : Path) (w : Fin 2) (s : State) : Host.Outcome State Fault Refusal :=
  done s (s.chip.hostWrite path (F.schdCmdRead w.val).addr 0xF 0x20000)

/-- SCHD_WRITE (R164). -/
def execSchdWrite (path : Path) (w : Fin 2) (andRead : Bool) (s : State) : Host.Outcome State Fault Refusal :=
  done s (s.chip.hostWrite path (F.schdCmdRead w.val).addr 0xF (if andRead then 0x30000 else 0x10000))

/-- SESS_READ (R212). -/
def execSessRead (ask : SessAsk) (s : State) : Host.Outcome State Fault Refusal :=
  done s (s.chip.sessMeets (s.chip.hostWrite ask.path F.time1SessCmdRead.addr 0xF 1) ask.upset)

/-- ARCH_READ (R240). -/
def execArchRead (path : Path) (s : State) : Host.Outcome State Fault Refusal :=
  done s (s.chip.hostWrite path F.ref3ArchCmdRead.addr 0xF 1)

/-- APPLY (R153). -/
def execApply (path : Path) (p : Fin 48) (s : State) : Host.Outcome State Fault Refusal :=
  done s (s.chip.hostWrite path (F.port5TreeCtrlApply p.val).addr 0xF 1)

/-- INJECT_A, INJECT_B and INJECT_BOTH (R145). -/
def execInjectA (path : Path) (s : State) : Host.Outcome State Fault Refusal :=
  done s (s.chip.hostWrite path F.fabCcCtrlInjectA.addr 0xF 1)
def execInjectB (path : Path) (s : State) : Host.Outcome State Fault Refusal :=
  done s (s.chip.hostWrite path F.fabCcCtrlInjectB.addr 0xF 2)
def execInjectBoth (path : Path) (s : State) : Host.Outcome State Fault Refusal :=
  done s (s.chip.hostWrite path F.fabCcCtrlInjectBoth.addr 0xF 4)

/-- SLATE_W0_READ (R269). -/
def execSlateW0Read (path : Path) (e : Fin 8) (s : State) : Host.Outcome State Fault Refusal :=
  done s (s.chip.hostRead path (0x51048 + e.val * 0x1000) 0)

/-- BANK_DATA_READ (R350). -/
def execBankDataRead (path : Path) (s : State) : Host.Outcome State Fault Refusal :=
  done s (s.chip.hostRead path bankDataAddr 0)

/-- PROBE_COUNT_READ (R357). -/
def execProbeCountRead (path : Path) (k : Fin 64) (s : State) : Host.Outcome State Fault Refusal :=
  done s (s.chip.hostRead path (F.pcnt1Count k.val).addr 0)

/-- PORT_MODE_WRITE (R79): a write of MODE, or of MAXFRAME. -/
def execPortModeWrite (path : Path) (p : Fin 48) (maxframe : Bool) (be : BitVec 4) (data : Word) (s : State) :
    Host.Outcome State Fault Refusal :=
  done s (s.chip.hostWrite path (if maxframe then (F.port0Maxframe p.val).addr else (F.port0ModeSplit p.val).addr) be data)

/-- TWO_SHOT_WRITE (R89). -/
def execTwoShotWrite (path : Path) (p : Fin 48) (be : BitVec 4) (data : Word) (s : State) : Host.Outcome State Fault Refusal :=
  done s (s.chip.hostWrite path (F.port0ModeTwoShot p.val).addr be data)

/-- ENABLE_WRITE (R85). -/
def execEnableWrite (path : Path) (p : Fin 48) (be : BitVec 4) (data : Word) (s : State) : Host.Outcome State Fault Refusal :=
  done s (s.chip.hostWrite path (F.port0CtrlEnable p.val).addr be data)

/-- MERGE_EN_WRITE (R67). -/
def execMergeEnWrite (path : Path) (p : Fin 48) (be : BitVec 4) (data : Word) (s : State) : Host.Outcome State Fault Refusal :=
  done s (s.chip.hostWrite path (F.port0MergeMergeEn p.val).addr be data)

/-- CLKOUT_CFG_WRITE (R252). -/
def execClkoutCfgWrite (path : Path) (n : Fin 8) (be : BitVec 4) (data : Word) (s : State) : Host.Outcome State Fault Refusal :=
  done s (s.chip.hostWrite path (F.pll1ClkoutCfgEn n.val).addr be data)

/-- PPSOUT_CFG_WRITE (R254): register 0 CFG, 1 WIDTH, 2 DELAY. -/
def execPpsoutCfgWrite (path : Path) (n : Fin 4) (reg : Fin 3) (be : BitVec 4) (data : Word) (s : State) :
    Host.Outcome State Fault Refusal :=
  done s (s.chip.hostWrite path ((F.pll1PpsCfgEn n.val).addr + 4 * reg.val) be data)

/-- EV_MODE_WRITE (R272). -/
def execEvModeWrite (path : Path) (e : Fin 8) (be : BitVec 4) (data : Word) (s : State) : Host.Outcome State Fault Refusal :=
  done s (s.chip.hostWrite path (F.evCtrlMode e.val).addr be data)

/-- RWP_WRITE (R314): a write of PERS.STRAP_OVR, the one register with RWP fields. -/
def execRwpWrite (path : Path) (be : BitVec 4) (data : Word) (s : State) : Host.Outcome State Fault Refusal :=
  done s (s.chip.hostWrite path F.pers1StrapOvrMask.addr be data)

/-- GO (R323): a write of SLOT_CMD with GO set. -/
def execGo (path : Path) (slot : Fin 16) (tag opcode : BitVec 8) (irq : Bool) (s : State) : Host.Outcome State Fault Refusal :=
  done s (s.chip.hostWrite path (F.cmdSlotCmdGo slot.val).addr 0xF
    (word (2 ^ 31 + ofBool irq * 2 ^ 30 + tag.toNat * 2 ^ 16 + opcode.toNat)))

/-! ### PCIe requests (R26, R38) -/

/-- The byte enables of DW k of a request of some DWs. -/
def dwEnables (firstBe lastBe : BitVec 4) (count k : Nat) : BitVec 4 :=
  if k = 0 then firstBe else if k + 1 = count then lastBe else 0xF

/-- A memory write of BAR0 or BAR2, as 32-bit accesses in ascending order, `n` of them performed. -/
def Chip.memWrites (s : Chip) (a n : Nat) (be : Nat → BitVec 4) (data : List Word) : Chip :=
  (List.range n).foldl (fun t k =>
    if a < 0x04000000 then t.busWrite .pcie (a + 4 * k) (be k) (nth data k)
    else t.ringWrite (a + 4 * k) (be k) (nth data k)) s

/-- A memory read of BAR0 or BAR2, as 32-bit accesses in ascending order, `n` of them performed. -/
def Chip.memReads (s : Chip) (a n : Nat) : List Word × Chip :=
  (List.range n).foldl (fun (x : List Word × Chip) k =>
    if a < 0x04000000 then
      let y := x.2.busRead .pcie (a + 4 * k) 0
      (x.1 ++ [y.1], y.2)
    else (x.1 ++ [x.2.ringRead (a + 4 * k)], x.2)) (([] : List Word), s)

/-- The accesses of a request that are performed: all, or those before the reset that cuts it (R25, R305). -/
def performed (cut : Option Nat) (count : Nat) : Nat := min (cut.getD count) count

/-- The default of a word of the MSI-X table: every vector's control word masks it (log 71). -/
def msixDefault (k : Nat) : Word := if k % 4 = 3 then 1 else 0

/-- A word of the MSI-X table. -/
def Chip.msixWord (s : Chip) (k : Nat) : Word := (Store.find k s.pcie.table).getD (msixDefault k)

/-- Write a word of the MSI-X table. -/
def Chip.putMsix (s : Chip) (k : Nat) (w : Word) : Chip :=
  { s with pcie := { s.pcie with
      table := if w = msixDefault k then Store.erase k s.pcie.table else Store.insert k w s.pcie.table } }

/-- The vectors raised whose message the host has: a masked one pends until its mask clears (R24, log 71). -/
def Chip.messages (s : Chip) : BitVec 64 :=
  BitVec.ofNat 64 ((List.range 64).map (fun v => if bit s.msix v && !bit (s.msixWord (4 * v + 3)) 0 then 2 ^ v else 0)).sum

/-- A memory request that the endpoint serves (R26, R38); one that a reset cuts has no completion (R305). -/
def Chip.memServed (s : Chip) (isWrite : Bool) (cut : Option Nat) (a : Nat) (be : Nat → BitVec 4) (count : Nat)
    (data : List Word) : Chip :=
  if a < 0x04000000 ∧ (16 < count ∨ 4096 < a % 4096 + 4 * count) then (s.access 3 1 0 a).unsupported
  else if isWrite then (s.memWrites a (performed cut count) be data).answer1 [] false false
  else
    let r := s.memReads a (performed cut count)
    r.2.answer1 (if cut.isSome then [] else r.1) false false

/-- A request that reaches the PCIe function. A configuration write is taken in D3hot too. -/
def Chip.memRequest (s : Chip) (op : PcieOp) (addr : Nat) (firstBe lastBe : BitVec 4) (count : Nat) (data : List Word) : Chip :=
  let a := addr / 4 * 4
  let be := dwEnables firstBe lastBe count
  match op with
  | .powerState d =>
    if !s.pcieAnswers then s.answer1 [] false false
    else ({ s with pcie := { s.pcie with d3hot := d } }).answer1 [] false false
  | .tableWrite k => if !s.pcieServes then s.unanswered else (s.putMsix k.toNat (nth data 0)).answer1 [] false false
  | .write cut => if !s.pcieServes then s.unanswered else s.memServed true cut a be count data
  | .read cut => if !s.pcieServes then s.unanswered else s.memServed false cut a be count data

/-- PCIE_MEM_REQUEST. -/
def execPcieMemRequest (op : PcieOp) (addr : BitVec 27) (firstBe lastBe : BitVec 4) (count : Nat) (data : List Word)
    (s : State) : Host.Outcome State Fault Refusal :=
  done s (s.chip.memRequest op addr.toNat firstBe lastBe count data)

/-! ### SMBus transactions (R377, R378) -/

/-- SMB_PEC: a PEC byte is required on every transaction (Table 18-9). -/
def Chip.pecRequired (s : Chip) : Bool := bit s.power.straps 4

/-- The target's own address: 0x58 + SMB_ADDR, the straps in force (R377). -/
def Chip.smbAddress (s : Chip) : Nat := 0x58 + bits s.power.straps 1 0

/-- The Alert Response Address of SMBus. -/
def alertResponse : Nat := 0x0C

/-- SMB_ALERT_N is low: some fault bit whose FAULT_EN bit is 1 reads 1 (R378). -/
def Chip.alertLow (s : Chip) : Bool := (s.getN F.hlthFault).land (s.getN F.hlthFaultEn) != 0

/-- The target does not acknowledge the transaction: its address, its command, its count or its offset. -/
def Chip.smbusNacks (s : Chip) (head : SmbHead) (count want : Nat) (n : Nat) (offset : Word) : Bool :=
  !s.alwaysOn || head.addr.toNat != s.smbAddress || head.cmd.toNat != want || count != n || offset.toNat % 4 != 0
    || decide (0x04000000 ≤ offset.toNat)

/-- A Block Write: made after a right PEC byte, or at the stop where none is needed. One cut short is not made;
what it brought waits until the bus goes on or times out. -/
def Chip.blockWrite (s : Chip) (head : SmbHead) (count : Nat) (offset data : Word) (pec : Pec) : Chip :=
  let t := { s with smbHeld := none }
  if s.smbusNacks head count 1 8 offset then t.answer1 [] false true
  else
    match pec with
    | .cut => ({ t with smbHeld := some (offset.toNat, data) }).answer1 [] false false
    | .bad => t.answer1 [] false true
    | .good => (t.busWrite .smbus offset.toNat 0xF data).answer1 [] false false
    | .none => if s.pecRequired then t.answer1 [] false false
               else (t.busWrite .smbus offset.toNat 0xF data).answer1 [] false false

/-- SMBUS_BLOCK_WRITE. -/
def execSmbusBlockWrite (head : SmbHead) (count : BitVec 8) (offset data : Word) (pec : Pec) (s : State) :
    Host.Outcome State Fault Refusal :=
  done s (s.chip.blockWrite head count.toNat offset data pec)

/-- One bit step of the packet error code, a CRC-8 of polynomial x^8 + x^2 + x + 1 (log 121). -/
def pecBit (c : Nat) : Nat := if 128 ≤ c then (c * 2 % 256).xor 7 else c * 2

/-- The packet error code of the bytes of a transaction. -/
def pecOf (bytes : List Nat) : Nat := bytes.foldl (fun c b => (List.range 8).foldl (fun x _ => pecBit x) (c.xor b)) 0

/-- The bytes of a word, least significant first. -/
def wordBytes (w : Word) : List Nat := (List.range 4).map (fun i => bits w (8 * i + 7) (8 * i))

/-- The PEC byte of a Process Call that returns a word: over every byte from the first address on. -/
def readPec (head : SmbHead) (offset data : Word) : Word :=
  word (pecOf ([head.addr.toNat * 2, head.cmd.toNat, 4] ++ wordBytes offset ++ [head.addr.toNat * 2 + 1, 4] ++ wordBytes data))

/-- A Process Call: one 32-bit read, and the PEC byte where the host acknowledges the last data byte (R378). To the Alert
Response Address the target answers with its own address while SMB_ALERT_N is low. -/
def Chip.processCall (s : Chip) (head : SmbHead) (count : Nat) (offset : Word) : Chip :=
  let t := { s with smbHeld := none }
  if s.alwaysOn ∧ head.addr.toNat = alertResponse ∧ s.alertLow = true then t.answer1 [word (s.smbAddress * 2)] false false
  else if s.smbusNacks head count 2 4 offset then t.answer1 [] false true
  else
    let r := t.busRead .smbus offset.toNat 0
    r.2.answer1 (if head.ack then [r.1, readPec head offset r.1] else [r.1]) false false

/-- SMBUS_PROCESS_CALL. -/
def execSmbusProcessCall (head : SmbHead) (count : BitVec 8) (offset : Word) (s : State) : Host.Outcome State Fault Refusal :=
  done s (s.chip.processCall head count.toNat offset)

/-- SMBUS_TIMEOUT: the interface is reset and an access not yet made is discarded. -/
def execSmbusTimeout (s : State) : Host.Outcome State Fault Refusal := done s { s.chip with smbHeld := none }

end Sys2Proof.Machine
end

