-- ==== Sys2Proof/Machine/Dispatch.lean ====
section
/-! DEFINITION. One arm per command: each calls the meaning of its own. -/

namespace Sys2Proof.Machine

/-- The effect of a command on everything but the queue. -/
def exec (i : Instr) (s : State) : Host.Outcome State Fault Refusal :=
  match i with
  | .registerWrite path addr be data => Sys2Proof.Machine.execRegisterWrite path addr be data s
  | .wideLowRead path addr => Sys2Proof.Machine.execWideLowRead path addr s
  | .wideWrite path addr be data => Sys2Proof.Machine.execWideWrite path addr be data s
  | .nowRead path lag => Sys2Proof.Machine.execNowRead path lag s
  | .convert path => Sys2Proof.Machine.execConvert path s
  | .convertDone => Sys2Proof.Machine.execConvertDone s
  | .tblRead path w data => Sys2Proof.Machine.execTblRead path w data s
  | .tblWrite path w data => Sys2Proof.Machine.execTblWrite path w data s
  | .tblOpDone e => Sys2Proof.Machine.execTblOpDone e s
  | .schdRead path w => Sys2Proof.Machine.execSchdRead path w s
  | .schdWrite path w andRead => Sys2Proof.Machine.execSchdWrite path w andRead s
  | .schdOpDone w ecc => Sys2Proof.Machine.execSchdOpDone w ecc s
  | .sessRead ask => Sys2Proof.Machine.execSessRead ask s
  | .sessReadDone => Sys2Proof.Machine.execSessReadDone s
  | .archRead path => Sys2Proof.Machine.execArchRead path s
  | .archReadDone => Sys2Proof.Machine.execArchReadDone s
  | .apply path p => Sys2Proof.Machine.execApply path p s
  | .treeCheckDone p upsets => Sys2Proof.Machine.execTreeCheckDone p upsets s
  | .injectA path => Sys2Proof.Machine.execInjectA path s
  | .injectB path => Sys2Proof.Machine.execInjectB path s
  | .injectBoth path => Sys2Proof.Machine.execInjectBoth path s
  | .slateW0Read path e => Sys2Proof.Machine.execSlateW0Read path e s
  | .bankDataRead path => Sys2Proof.Machine.execBankDataRead path s
  | .probeCountRead path k => Sys2Proof.Machine.execProbeCountRead path k s
  | .bar4Read offset count => Sys2Proof.Machine.execBar4Read offset count s
  | .bar4Write offset data => Sys2Proof.Machine.execBar4Write offset data s
  | .pcieMemRequest op addr firstBe lastBe count data => Sys2Proof.Machine.execPcieMemRequest op addr firstBe lastBe count data s
  | .smbusBlockWrite head count offset data pec => Sys2Proof.Machine.execSmbusBlockWrite head count offset data pec s
  | .smbusProcessCall head count offset => Sys2Proof.Machine.execSmbusProcessCall head count offset s
  | .smbusTimeout => Sys2Proof.Machine.execSmbusTimeout s
  | .go path slot tag opcode irq => Sys2Proof.Machine.execGo path slot tag opcode irq s
  | .admitFlow slot => Sys2Proof.Machine.execAdmitFlow slot s
  | .releaseFlow slot => Sys2Proof.Machine.execReleaseFlow slot s
  | .setTake check => Sys2Proof.Machine.execSetTake check s
  | .tableCommit check => Sys2Proof.Machine.execTableCommit check s
  | .acceptStep slot => Sys2Proof.Machine.execAcceptStep slot s
  | .reslate slot => Sys2Proof.Machine.execReslate slot s
  | .setAsym slot => Sys2Proof.Machine.execSetAsym slot s
  | .sessionOpen slot => Sys2Proof.Machine.execSessionOpen slot s
  | .sessionClose slot => Sys2Proof.Machine.execSessionClose slot s
  | .calTdc slot lines grid => Sys2Proof.Machine.execCalTdc slot lines grid s
  | .calLaneDelay slot tx rx => Sys2Proof.Machine.execCalLaneDelay slot tx rx s
  | .calDieLink slot delays => Sys2Proof.Machine.execCalDieLink slot delays s
  | .calPllPhase slot d => Sys2Proof.Machine.execCalPllPhase slot d s
  | .calAsym slot loop probesOk => Sys2Proof.Machine.execCalAsym slot loop probesOk s
  | .snapshot slot => Sys2Proof.Machine.execSnapshot slot s
  | .readDailies slot => Sys2Proof.Machine.execReadDailies slot s
  | .deviceReset slot => Sys2Proof.Machine.execDeviceReset slot s
  | .groupReset slot => Sys2Proof.Machine.execGroupReset slot s
  | .portReset slot => Sys2Proof.Machine.execPortReset slot s
  | .setPowerState slot => Sys2Proof.Machine.execSetPowerState slot s
  | .powerTransitionDone slot => Sys2Proof.Machine.execPowerTransitionDone slot s
  | .portModeWrite path p maxframe be data => Sys2Proof.Machine.execPortModeWrite path p maxframe be data s
  | .twoShotWrite path p be data => Sys2Proof.Machine.execTwoShotWrite path p be data s
  | .enableWrite path p be data => Sys2Proof.Machine.execEnableWrite path p be data s
  | .mergeEnWrite path p be data => Sys2Proof.Machine.execMergeEnWrite path p be data s
  | .clkoutCfgWrite path n be data => Sys2Proof.Machine.execClkoutCfgWrite path n be data s
  | .ppsoutCfgWrite path n reg be data => Sys2Proof.Machine.execPpsoutCfgWrite path n reg be data s
  | .evModeWrite path e be data => Sys2Proof.Machine.execEvModeWrite path e be data s
  | .rwpWrite path be data => Sys2Proof.Machine.execRwpWrite path be data s
  | .persCommit => Sys2Proof.Machine.execPersCommit s
  | .dmaBatchWrite e => Sys2Proof.Machine.execDmaBatchWrite e s
  | .clapperMarker m => Sys2Proof.Machine.execClapperMarker m s
  | .gripClapper g phases => Sys2Proof.Machine.execGripClapper g phases s
  | .gripOverrun o => Sys2Proof.Machine.execGripOverrun o s
  | .directorOverrun => Sys2Proof.Machine.execDirectorOverrun s
  | .servoCompute => Sys2Proof.Machine.execServoCompute s
  | .coastEntry => Sys2Proof.Machine.execCoastEntry s
  | .directorMismatch => Sys2Proof.Machine.execDirectorMismatch s
  | .directorSelftestDone pass => Sys2Proof.Machine.execDirectorSelftestDone pass s
  | .gafferMismatch => Sys2Proof.Machine.execGafferMismatch s
  | .gafferSelftestDone pass => Sys2Proof.Machine.execGafferSelftestDone pass s
  | .sensorReading khz => Sys2Proof.Machine.execSensorReading khz s
  | .driftMeasure taps => Sys2Proof.Machine.execDriftMeasure taps s
  | .oscHourly => Sys2Proof.Machine.execOscHourly s
  | .dailyPlan linkMoved => Sys2Proof.Machine.execDailyPlan linkMoved s
  | .avsStep readMv => Sys2Proof.Machine.execAvsStep readMv s
  | .avsReadbackTimeout readMv => Sys2Proof.Machine.execAvsReadbackTimeout readMv s
  | .telemetryPoll t0 t1 t2 => Sys2Proof.Machine.execTelemetryPoll t0 t1 t2 s
  | .pmbAlert s0 s1 s2 => Sys2Proof.Machine.execPmbAlert s0 s1 s2 s
  | .tempReading temps => Sys2Proof.Machine.execTempReading temps s
  | .thermalTrip => Sys2Proof.Machine.execThermalTrip s
  | .dipEntry rail minMv => Sys2Proof.Machine.execDipEntry rail minMv s
  | .dipEndCondition => Sys2Proof.Machine.execDipEndCondition s
  | .dipTimeout => Sys2Proof.Machine.execDipTimeout s
  | .railResetLevel rail => Sys2Proof.Machine.execRailResetLevel rail s
  | .powerOn x => Sys2Proof.Machine.execPowerOn x s
  | .sequenceRailTimeout rail => Sys2Proof.Machine.execSequenceRailTimeout rail s
  | .sequenceRestart x => Sys2Proof.Machine.execSequenceRestart x s
  | .masterLockTimeout => Sys2Proof.Machine.execMasterLockTimeout s
  | .resetReady pass0 pass1 gafferPass => Sys2Proof.Machine.execResetReady pass0 pass1 gafferPass s
  | .warmResetAssert => Sys2Proof.Machine.execWarmResetAssert s
  | .warmResetRelease straps => Sys2Proof.Machine.execWarmResetRelease straps s
  | .thermalHoldRelease straps => Sys2Proof.Machine.execThermalHoldRelease straps s
  | .xoLoss => Sys2Proof.Machine.execXoLoss s
  | .xoReturn => Sys2Proof.Machine.execXoReturn s
  | .groupFault g => Sys2Proof.Machine.execGroupFault g s
  | .groupResetReady g => Sys2Proof.Machine.execGroupResetReady g s
  | .handshakeComplete page => Sys2Proof.Machine.execHandshakeComplete page s
  | .pcieFlr => Sys2Proof.Machine.execPcieFlr s
  | .pcieLinkDown perst => Sys2Proof.Machine.execPcieLinkDown perst s
  | .masterPllLol => Sys2Proof.Machine.execMasterPllLol s
  | .masterPllLock band phis => Sys2Proof.Machine.execMasterPllLock band phis s
  | .masterPllRetry => Sys2Proof.Machine.execMasterPllRetry s
  | .fallbackReturn => Sys2Proof.Machine.execFallbackReturn s
  | .corePllLol pllB => Sys2Proof.Machine.execCorePllLol pllB s
  | .coreSettingChange => Sys2Proof.Machine.execCoreSettingChange s
  | .coreStandbyLocked => Sys2Proof.Machine.execCoreStandbyLocked s
  | .lanePllLol g k => Sys2Proof.Machine.execLanePllLol g k s
  | .lanePllRelock g k => Sys2Proof.Machine.execLanePllRelock g k s
  | .ppsoutPulse n => Sys2Proof.Machine.execPpsoutPulse n s
  | .tbinLoss multiplier => Sys2Proof.Machine.execTbinLoss multiplier s
  | .tbinReturn => Sys2Proof.Machine.execTbinReturn s
  | .eventEdge e rising place inSwitch => Sys2Proof.Machine.execEventEdge e rising place inSwitch s
  | .deadTimeEnd e => Sys2Proof.Machine.execDeadTimeEnd e s
  | .frameReceive f => Sys2Proof.Machine.execFrameReceive f s
  | .frameAdmission id => Sys2Proof.Machine.execFrameAdmission id s
  | .frameTailAdmission id how => Sys2Proof.Machine.execFrameTailAdmission id how s
  | .cellForm id => Sys2Proof.Machine.execCellForm id s
  | .schedulerSlot fault ecc => Sys2Proof.Machine.execSchedulerSlot fault ecc s
  | .bufferAudit drift => Sys2Proof.Machine.execBufferAudit drift s
  | .bufferSweepDone store => Sys2Proof.Machine.execBufferSweepDone store s
  | .txFrameStart p sub stamp ecc => Sys2Proof.Machine.execTxFrameStart p sub stamp ecc s
  | .txUnderrun p sub => Sys2Proof.Machine.execTxUnderrun p sub s
  | .txFrameEnd p x => Sys2Proof.Machine.execTxFrameEnd p x s
  | .seqWaitExpiry id => Sys2Proof.Machine.execSeqWaitExpiry id s
  | .fuseMarkerRx p m => Sys2Proof.Machine.execFuseMarkerRx p m s
  | .linkDown p x => Sys2Proof.Machine.execLinkDown p x s
  | .holdExpiry p sub => Sys2Proof.Machine.execHoldExpiry p sub s
  | .linkUp p sub => Sys2Proof.Machine.execLinkUp p sub s
  | .linkTrainingDone p sub lanes => Sys2Proof.Machine.execLinkTrainingDone p sub lanes s
  | .anFail p sub => Sys2Proof.Machine.execAnFail p sub s
  | .anRetry p sub => Sys2Proof.Machine.execAnRetry p sub s
  | .mergeVerifyDone p sub ok => Sys2Proof.Machine.execMergeVerifyDone p sub ok s
  | .tableScrub hits => Sys2Proof.Machine.execTableScrub hits s
  | .parityScan upsets => Sys2Proof.Machine.execParityScan upsets s
  | .voteRepair addr flipA flipB flipC => Sys2Proof.Machine.execVoteRepair addr flipA flipB flipC s
  | .takeBoundary p => Sys2Proof.Machine.execTakeBoundary p s
  | .gateEvent p ecc => Sys2Proof.Machine.execGateEvent p ecc s
  | .takeCutover p => Sys2Proof.Machine.execTakeCutover p s
  | .txRingServe f => Sys2Proof.Machine.execTxRingServe f s
  | .esmcInfoTx p sub => Sys2Proof.Machine.execEsmcInfoTx p sub s
  | .esmcEventTx p sub => Sys2Proof.Machine.execEsmcEventTx p sub s
  | .esmcPduRx p sub pdu => Sys2Proof.Machine.execEsmcPduRx p sub pdu s
  | .esmcFailed p sub => Sys2Proof.Machine.execEsmcFailed p sub s
  | .ptpMessageRx m => Sys2Proof.Machine.execPtpMessageRx m s
  | .annTimeout n => Sys2Proof.Machine.execAnnTimeout n s
  | .gripFault g => Sys2Proof.Machine.execGripFault g s
  | .gripRestartDone g phases => Sys2Proof.Machine.execGripRestartDone g phases s
  | .ppsinPulse n stamp => Sys2Proof.Machine.execPpsinPulse n stamp s
  | .holdoffExpiry c => Sys2Proof.Machine.execHoldoffExpiry c s
  | .wtrExpiry c => Sys2Proof.Machine.execWtrExpiry c s
  | .refActivityLoss c => Sys2Proof.Machine.execRefActivityLoss c s
  | .acquireStageSettle => Sys2Proof.Machine.execAcquireStageSettle s
  | .jtagInstruction x => Sys2Proof.Machine.execJtagInstruction x s
  | .pcsAlignment p sub => Sys2Proof.Machine.execPcsAlignment p sub s
  | .standbyPairMismatch => Sys2Proof.Machine.execStandbyPairMismatch s
  | .gafferOverrun => Sys2Proof.Machine.execGafferOverrun s
  | .tbinPresent => Sys2Proof.Machine.execTbinPresent s
  | .multiplierLock => Sys2Proof.Machine.execMultiplierLock s
  | .refActivityReturn c => Sys2Proof.Machine.execRefActivityReturn c s
  | .vddAuxRemoval => Sys2Proof.Machine.execVddAuxRemoval s
  | .pcieLinkUp => Sys2Proof.Machine.execPcieLinkUp s

end Sys2Proof.Machine
end

