-- ==== Sys2Proof/Safety.lean ====
section
/-! DEFINITION. The terms statements are made in: a step that goes on, a command that runs to a state, the registers that
an effect leaves alone, a page that serves the host, and the invariant that every step keeps. -/

namespace Sys2Proof.Machine

/-- A step that goes on: neither a fault nor a refusal. -/
def Safe (s : State) : Prop := ∃ t, step s = .next t

/-- The command runs, its queue untouched, and leaves a block of which P holds. -/
def Runs (c : Instr) (s : State) (P : Chip → Prop) : Prop :=
  ∃ t : Chip, exec c s = .next { s with chip := t } ∧ P t

/-- What the register store lists is the same in `t` as in `s`, but for the fields named and for PCNT page 1, whose
probes may count any event (R354). -/
def Chip.keeps (s t : Chip) (changed : List Fld) : Prop :=
  ∀ k : Nat, k / 131072 ≠ 0x81 → (∀ g ∈ changed, k ≠ g.key) → Store.find k t.regs = Store.find k s.regs

/-- What the register store lists is the same in `t` as in `s` outside the pages named, PCNT page 1 apart as above. -/
def Chip.keepsOff (s t : Chip) (pages : Nat → Bool) : Prop :=
  ∀ k : Nat, k / 131072 ≠ 0x81 → pages (k / 131072) = false → Store.find k t.regs = Store.find k s.regs

/-- An event counter has counted n events: it wraps to 0 (R344), and stands still on a dark group's page (R51). -/
def Chip.counted (s t : Chip) (f : Fld) (n : Nat) : Prop :=
  t.getN f = (s.getN f + if s.frozen f.addr then 0 else n) % 2 ^ 32

/-- The pages on which frames that leave, end or are dropped count: TRAF, BUF, ADM and PORT. -/
def trafficPage (pg : Nat) : Bool :=
  decide ((0x82 ≤ pg ∧ pg ≤ 0xB1) ∨ (0x120 ≤ pg ∧ pg < 0x170) ∨ (0x2000 ≤ pg ∧ pg < 0x2300))

/-- The pages of BAR2, where the packet rings have their registers. -/
def ringPage (pg : Nat) : Bool := decide (0x5000 ≤ pg)

/-- Every frame has its ports, subports and class in the ranges that the hardware has, and every cell that crosses a
slice near its output's. -/
def Chip.framesInRange (s : Chip) : Prop :=
  (∀ f ∈ s.frames, f.inPort < 48 ∧ f.inSub < 8 ∧ f.outPort < 48 ∧ f.outSub < 8 ∧ f.cls < 16)
    ∧ ∀ c ∈ s.fab.crossing, c.2.1 < 54

/-- Every link of the ports stands as it did, but for those of the members and subports named. -/
def Chip.linksAs (t s : Chip) (but : List (Nat × Nat)) : Prop :=
  ∀ q sub, sub < 8 → (q, sub) ∉ but → t.link q sub = s.link q sub

/-- Every frame but one stands as it did. -/
def Chip.othersAs (t s : Chip) (id : Nat) : Prop := ∀ k, k ≠ id → t.frame k = s.frame k

/-- Nothing but registers changes. -/
def Chip.onlyRegs (s t : Chip) : Prop := t = { s with regs := t.regs }

/-- Nothing but registers and the reply to the host changes. -/
def Chip.onlyReply (s t : Chip) : Prop := t = { s with regs := t.regs, reply := t.reply }

/-- The words whose parity is wrong after a host write of a word on a path: not that word, where every byte was enabled
(R40). -/
def Chip.parityAfter (s : Chip) (path : Path) (addr : Nat) (be : BitVec 4) : List Nat :=
  (s.parityRestored addr (pathEnables path be)).badParity

/-- Nothing but registers changes, as a host write of the word that was made leaves them: with its parity put right where
every byte was enabled (R40). -/
def Chip.onlyHost (s t : Chip) (path : Path) (addr : Nat) (be : BitVec 4) : Prop :=
  t = { s with regs := t.regs, badParity := s.parityAfter path addr be, reply := ⟨[], false, false⟩ }

/-- A write of the register word acts on more than the stored fields: a word of a wide value, the command word of a mailbox
slot, or one of MODE, CTRL, MAXFRAME, MERGE and MAP of a port, TREE_CTRL, ESMC_CTRL, the words of an event channel, SHARE,
LIMIT, the clock and pulse outputs, TBCFG, STRAP_OVR, CC_CTRL and the commands of the windows. -/
def actingAddr (addr : Nat) : Bool :=
  let pg := addr / 4096
  let o := addr % 4096
  (wideAt addr).isSome || (slotAt addr).any (fun x => x.2 == 0)
    || (decide (0x2000 ≤ pg ∧ pg < 0x2300)
        && ((pg % 16 == 0 && [0x40, 0x44, 0x4C, 0x54].contains o)
          || (pg % 16 == 1 && decide (0x40 ≤ o ∧ o < 0xA0 ∧ (o - 0x40) % 12 = 0))
          || ((pg % 16 == 5 || pg % 16 == 6) && o == 0x40)))
    || (decide (0x51 ≤ pg ∧ pg ≤ 0x58) && [0x40, 0x58, 0x5C, 0x60, 0x68].contains o)
    || (decide (0x140 ≤ pg ∧ pg < 0x170) && decide (0x100 ≤ o ∧ o < 0x500 ∧ o % 0x80 = 0))
    || (pg == 0x120 && decide (0x40 ≤ o ∧ o < 0xC40))
    || (pg == 0x41 && decide ((0x40 ≤ o ∧ o < 0x80 ∧ o % 8 = 0) ∨ (0x80 ≤ o ∧ o < 0x100 ∧ o % 0x20 < 0x0C)))
    || [0x50040, 0x11040, 0x100040, 0x200B0, 0x21044, 0x33044].contains addr
    || ((decide (0x200 ≤ pg ∧ pg ≤ 0x204) || pg == 0x110 || pg == 0x111) && o == 0x54)

/-- The words of a port, beside those that act, whose writes on the upper member of a fused pair are held (R89, R116): HOLD
and the lookup words. -/
def heldWord (addr : Nat) : Bool :=
  let pg := addr / 4096
  let o := addr % 4096
  decide (0x2000 ≤ pg ∧ pg < 0x2300) && ((pg % 16 == 0 && o == 0x50) || (pg % 16 == 3 && decide (0x40 ≤ o ∧ o < 0x50)))

/-- A bit of a field after a host write of its word, by its access code: `en` its byte is enabled, `d` the data's bit
(R30, R36, R37). -/
def bitAfter (acc : Access) (old en d : Bool) : Bool :=
  match acc with
  | .rw | .rwv | .rwp | .ctr => if en then d else old
  | .w1c => old && !(en && d)
  | .w1s => old || (en && d)
  | .ro | .ros | .trg => old

/-- A host access on the path reaches the page, and the page serves reads and writes: it is occupied, powered, past its
reset and not dark, no safe stop holds, and PAGE_LOCK is clear (R32, R42, R50, R51, R249, R303). -/
def Chip.serves (s : Chip) (path : Path) (pg : Nat) : Prop :=
  s.reaches path = true ∧ occupied pg = true ∧ s.stopped pg = false ∧ s.unpowered pg = false
    ∧ s.unreachable pg = false ∧ s.pageDark pg = false ∧ s.flag (F.hdrPgLockLock pg) = false

/-- The reply of a host write that was made. -/
def written : Reply := ⟨[], false, false⟩

/-- Raw time moves in whole nanoseconds: its low 16 bits are zero (R166), and so are those of the next marker (R170). -/
def RawWhole (s : State) : Prop :=
  s.chip.time.raw.toNat % 65536 = 0 ∧ s.chip.time.nextAnchor.toNat % 65536 = 0

end Sys2Proof.Machine
end

