-- ==== Sys2Proof/Certificates/Slice0/Obligations.lean ====
section
/-! DEFINITION. The statements for the provers. Each clause `Says.x` says where one command completes, what it then changes
and what it leaves alone; each statement `Obligations.X` is a family of clauses, for all states and operands. -/

open Sys2Proof Sys2Proof.Machine

/-! ### The queue and the clock -/

/-- The command at the front of the queue runs on the rest of the queue. -/
def Obligations.StepRunsTheFrontCommand : Prop :=
  ∀ (c : Instr) (chip : Chip) (rest : List Instr), step ⟨chip, c :: rest⟩ = exec c ⟨chip, rest⟩

/-- The model's choice for an empty queue (log 1): one edge of TCLK passes, which adds 65,536 to raw time (R166). The buckets
take their credit and the clock outputs their edges; of the registers only their RUNNING bits may change. -/
def Obligations.IdleStepPassesOneEdge : Prop :=
  ∀ s : State, s.pending = [] → s.chip.time.running = true →
    ∃ t, step s = .next ⟨t, []⟩ ∧ s.chip.keeps t ((List.range 8).map F.pll1ClkoutStatusRunning)
      ∧ t = { s.chip with
        regs := t.regs, clk := t.clk, time := { s.chip.time with raw := s.chip.time.raw + 65536 }
        tokens := t.tokens, hostTokens := t.hostTokens, ringTokens := t.ringTokens, scheds := t.scheds }

/-- Every step keeps raw time and the next marker on whole nanoseconds: the low 16 bits of the raw counter are zero
(R166), and markers fall 62,500 ns apart (R170). -/
def Obligations.StepKeepsRawTimeWhole : Prop :=
  ∀ s t : State, RawWhole s → step s = .next t → RawWhole t

/-- Every step keeps frames within the ports, subports and classes there are (R78, R98, R119), and cells that cross near
them. -/
def Obligations.StepKeepsFramesInRange : Prop :=
  ∀ s t : State, s.chip.framesInRange → step s = .next t → t.chip.framesInRange

/-- Every step keeps the descriptor memory of the packet rings (R106, R107) in its canonical form: rising keys, and no entry
equal to what an unlisted word reads as. -/
def Obligations.StepKeepsRingMemoryCanonical : Prop :=
  ∀ s t : State, Store.canonical 0 s.chip.ringMem = true → step s = .next t → Store.canonical 0 t.chip.ringMem = true

/-- The invariants hold right after reset, and what the spec states of network time after a cold reset holds (R169):
ANCHOR, BASE and RATE are 0 and SET reads 0. The instant at which the state stands is the model's choice (log 6). -/
def Obligations.ResetState : Prop :=
  RawWhole State.reset ∧ State.reset.chip.framesInRange ∧ Store.canonical 0 State.reset.chip.ringMem = true
    ∧ State.reset.pending = [] ∧ State.reset.chip.time.cur = ⟨0, 0, 0, false, 0⟩
    ∧ State.reset.chip.flag F.time0StatusSet = false ∧ State.reset.chip.flag F.rstStatusReady = true
    ∧ State.reset.chip.ledger = [] ∧ State.reset.chip.frames = [] ∧ State.reset.chip.bank = []

namespace Sys2Proof.Says

/-- What a frame that the KN4876 originates does where it leaves: a slate of its subport, and its counts in TRAF, in the class
in which it is sent, its bytes in KiB (R177, R346; log 111). -/
def originates (m sub : Nat) (s t : Chip) : Prop :=
  (∃ f, t.out = s.out ++ [f] ∧ f.port = m ∧ f.sub = sub
    ∧ s.counted t (F.trafTxKib m sub) ((Store.read 0 s.kib (F.trafTxKib m sub).addr + f.len) / 1024)
    ∧ Store.read 0 t.kib (F.trafTxKib m sub).addr = (Store.read 0 s.kib (F.trafTxKib m sub).addr + f.len) % 1024)
  ∧ s.counted t (F.trafTxFrames m sub Config.ownClass) 1
  ∧ Store.read 0 t.slateSeq (4096 + m * 8 + sub) = Store.read 0 s.slateSeq (4096 + m * 8 + sub) + 1

/-- The registers in which such a frame counts. -/
def sentFields (m sub : Nat) : List Fld :=
  [F.trafTxFrames m sub Config.ownClass, F.trafTxKib m sub, F.trafClassTxKib m Config.ownClass]

/-! ### Host writes and reads of registers -/

/-- REGISTER_WRITE of any register word of a page that serves whose write has no rule of its own, the words of its header and
the parameters of an idle mailbox slot among them: each bit of each of its fields becomes what the field's access code makes
of it, and nothing else changes (R30, R36, R37, R42, R323). Over SMBus every byte is enabled (R27). -/
def writePlain (path : Path) (addr : BitVec 27) (be : BitVec 4) (data : Word) (s : State) : Prop :=
  let a := addr.toNat
  a < 0x04000000 → a % 4 = 0 → a / 4096 ≠ 0x81 → actingAddr a = false → s.chip.serves path (a / 4096) →
  (heldWord a = true → s.chip.fusedUpper (a / 0x10000 - 0x200) = false) →
  (∀ x, slotAt a = some x → x.2 ≤ 0xE0 → s.chip.slotHeld x.1 = false) →
    Runs (.registerWrite path addr be data) s (fun t =>
      (∀ f ∈ fieldsAt a, ∀ k < f.width, t.getBit (f.at a) k
        = bitAfter f.acc (s.chip.getBit (f.at a) k) (bit (pathEnables path be) ((f.lsb + k) / 8)) (bit data (f.lsb + k)))
      ∧ s.chip.keeps t ((fieldsAt a).map (fun f => f.at a)) ∧ s.chip.onlyHost t path a be)

/-- REGISTER_WRITE of a word of a busy mailbox slot, GO apart, is ignored, and IGNORED counts it (R323); on an idle slot one of
its command word without GO puts the fields that are not triggers (R36). -/
def writeSlot (path : Path) (addr : BitVec 27) (be : BitVec 4) (data : Word) (n o : Nat) (s : State) : Prop :=
  let a := addr.toNat
  a % 4 = 0 → slotAt a = some (n, o) → o ≤ 0xE0 → (o = 0 → bit (data &&& beMask (pathEnables path be)) 31 = false) →
  s.chip.serves path (a / 4096) →
    (s.chip.slotHeld n = true → Runs (.registerWrite path addr be data) s (fun t =>
      s.chip.counted t F.cmd0Ignored 1 ∧ s.chip.keeps t [F.cmd0Ignored] ∧ t = { s.chip with regs := t.regs, reply := written }))
    ∧ (s.chip.slotHeld n = false → Runs (.registerWrite path addr be data) s (fun t =>
      (∀ f ∈ fieldsAt a, f.acc = .rw → ∀ k < f.width, t.getBit (f.at a) k
        = if bit (pathEnables path be) ((f.lsb + k) / 8) then bit data (f.lsb + k) else s.chip.getBit (f.at a) k)
      ∧ s.chip.keeps t ((fieldsAt a).map (fun f => f.at a)) ∧ s.chip.onlyHost t path a be))

/-- REGISTER_WRITE of MAP of lane k: the pattern, precoder and polarity bits take the data; RX_PHYS and TX_PHYS too, but while a
subport is enabled a change of either is held, and MODE_HELD tells it (R83, R84). -/
def writeMap (path : Path) (p : Fin 48) (k : Fin 8) (be : BitVec 4) (data : Word) (s : State) : Prop :=
  let w := mergeWord (s.chip.wordAt (F.port1MapTxPhys p k).addr) data (pathEnables path be)
  let changes := bits w 6 4 ≠ s.chip.getN (F.port1MapRxPhys p k) ∨ bits w 2 0 ≠ s.chip.getN (F.port1MapTxPhys p k)
  s.chip.serves path (0x2001 + p.val * 16) →
    Runs (.registerWrite path (BitVec.ofNat 27 (F.port1MapTxPhys p k).addr) be data) s (fun t =>
      t.getN (F.port1MapPattern p k) = bits w 15 14 ∧ t.flag (F.port1MapRxPrecode p k) = bit w 12
      ∧ t.flag (F.port1MapTxPrecode p k) = bit w 11 ∧ t.flag (F.port1MapRxInvert p k) = bit w 10
      ∧ t.flag (F.port1MapTxInvert p k) = bit w 9
      ∧ (s.chip.enableOf p.val = 0 ∨ ¬ changes → t.getN (F.port1MapRxPhys p k) = bits w 6 4
          ∧ t.getN (F.port1MapTxPhys p k) = bits w 2 0 ∧ t.get (F.port0StatusModeHeld p) = s.chip.get (F.port0StatusModeHeld p))
      ∧ (s.chip.enableOf p.val ≠ 0 → changes → t.flag (F.port0StatusModeHeld p) = true
          ∧ t.get (F.port1MapRxPhys p k) = s.chip.get (F.port1MapRxPhys p k)
          ∧ t.get (F.port1MapTxPhys p k) = s.chip.get (F.port1MapTxPhys p k))
      ∧ s.chip.keeps t [F.port1MapPattern p k, F.port1MapRxPrecode p k, F.port1MapTxPrecode p k, F.port1MapRxInvert p k,
          F.port1MapTxInvert p k, F.port1MapRxPhys p k, F.port1MapTxPhys p k, F.port0StatusModeHeld p]
      ∧ s.chip.onlyHost t path (F.port1MapTxPhys p k).addr be)

/-- REGISTER_WRITE of SHARE of a subport: with no flow in its ledger it takes the data; with one SHARE_HELD alone tells of it;
that of an upper member is ignored (R57, R69). -/
def writeShare (path : Path) (p : Fin 48) (sub : Fin 8) (be : BitVec 4) (data : Word) (s : State) : Prop :=
  let f := F.admSubShare p sub
  let w := mergeWord (s.chip.wordAt f.addr) data (pathEnables path be)
  s.chip.serves path (0x140 + p.val) →
    Runs (.registerWrite path (BitVec.ofNat 27 f.addr) be data) s (fun t =>
      (s.chip.fusedUpper p.val = true → s.chip.keeps t [])
      ∧ (s.chip.fusedUpper p.val = false → s.chip.getN (F.admSubFlows p sub) ≠ 0 →
          t.flag (F.admStatusShareHeld p) = true ∧ s.chip.keeps t [F.admStatusShareHeld p])
      ∧ (s.chip.fusedUpper p.val = false → s.chip.getN (F.admSubFlows p sub) = 0 →
          t.getN f = bits w 8 0 ∧ s.chip.keeps t [f])
      ∧ s.chip.onlyHost t path f.addr be)

/-- REGISTER_WRITE of LIMIT of a class: it takes the data, but one that raises the port's sum of acting limits above its pool
is ignored, with LIMIT_REFUSED and LIMIT_PORT; that of an upper member is ignored (R132, R135). An express class's limit acts
as at least 256. -/
def writeLimit (path : Path) (p : Fin 48) (k : Fin 16) (be : BitVec 4) (data : Word) (s : State) : Prop :=
  let f := F.buf0Limit p k
  let v := bits (mergeWord (s.chip.wordAt f.addr) data (pathEnables path be)) 14 0
  let acts := fun (c n : Nat) => if 12 ≤ c then max 256 n else n
  let others := (((List.range 16).filter (fun c => c != k.val)).map (fun c => acts c (s.chip.getN (F.buf0Limit p c)))).sum
  let refused := acts k (s.chip.getN f) < acts k v ∧ (if s.chip.fusedLower p.val then 24576 else 12288) < others + acts k v
  s.chip.serves path 0x120 →
    Runs (.registerWrite path (BitVec.ofNat 27 f.addr) be data) s (fun t =>
      (s.chip.fusedUpper p.val = true → s.chip.keeps t [])
      ∧ (s.chip.fusedUpper p.val = false → refused →
          t.flag F.buf3StatusLimitRefused = true ∧ t.getN F.buf3StatusLimitPort = p.val
          ∧ s.chip.keeps t [F.buf3StatusLimitRefused, F.buf3StatusLimitPort])
      ∧ (s.chip.fusedUpper p.val = false → ¬ refused → t.getN f = v ∧ s.chip.keeps t [f])
      ∧ s.chip.onlyHost t path f.addr be)

/-- REGISTER_WRITE of TBCFG: FORCE_TCLK and FREQ take the data, and FORCE_TCLK moves the channels to TCLK, which is no loss
(R261). -/
def writeTbcfg (path : Path) (be : BitVec 4) (data : Word) (s : State) : Prop :=
  let w := mergeWord (s.chip.wordAt F.tdc0TbcfgFreq.addr) data (pathEnables path be)
  s.chip.serves path 0x50 →
    Runs (.registerWrite path (BitVec.ofNat 27 F.tdc0TbcfgFreq.addr) be data) s (fun t =>
      t.flag F.tdc0TbcfgForceTclk = bit w 1 ∧ t.getN F.tdc0TbcfgFreq = bits w 0 0
      ∧ t.flag F.tdc0TbstatusInUse = (s.chip.flag F.tdc0TbstatusInUse && !bit w 1)
      ∧ s.chip.keeps t [F.tdc0TbcfgForceTclk, F.tdc0TbcfgFreq, F.tdc0TbstatusInUse]
      ∧ t = { s.chip with
        regs := t.regs, badParity := s.chip.parityAfter path F.tdc0TbcfgFreq.addr be, reply := written, calRun := t.calRun })

/-- REGISTER_WRITE of ESMC_CTRL: its fields take the data, and a subport whose EN bit is then 0 has announced nothing (R210). -/
def writeEsmc (path : Path) (p : Fin 48) (be : BitVec 4) (data : Word) (s : State) : Prop :=
  let a := (F.port6EsmcCtrlEn p).addr
  let w := mergeWord (s.chip.wordAt a) data (pathEnables path be)
  s.chip.serves path (0x2006 + p.val * 16) →
    Runs (.registerWrite path (BitVec.ofNat 27 a) be data) s (fun t =>
      (∀ f ∈ fieldsAt a, f.acc = .rw → t.getN (f.at a) = bits w (f.lsb + f.width - 1) f.lsb)
      ∧ (∀ sub < 8, t.esmcOf p sub
          = if bit w sub then s.chip.esmcOf p sub else { s.chip.esmcOf p sub with sentQl := none })
      ∧ (∀ q sub, sub < 8 → q ≠ p.val → t.esmcOf q sub = s.chip.esmcOf q sub)
      ∧ s.chip.keeps t ((fieldsAt a).map (fun f => f.at a))
      ∧ t = { s.chip with regs := t.regs, esmc := t.esmc, badParity := s.chip.parityAfter path a be, reply := written })

/-- REGISTER_WRITE of CC_CTRL: bit 0 injects a fault into replica A, bit 1 into B, bit 2 into both, for the next slot; one that
finds such a fault waiting still is lost (R43, R145). -/
def writeInject (path : Path) (be : BitVec 4) (data : Word) (s : State) : Prop :=
  let d := data &&& beMask (pathEnables path be)
  let a := bit d 0 || bit d 2
  let b := bit d 1 || bit d 2
  let lost := (a && s.chip.fab.injectA) || (b && s.chip.fab.injectB)
  s.chip.serves path 0x100 →
    Runs (.registerWrite path (BitVec.ofNat 27 F.fabCcCtrlInjectA.addr) be data) s (fun t =>
      (lost = true → t.flag (F.hdrPgStatusTrgLost 0x100) = true ∧ s.chip.keeps t [F.hdrPgStatusTrgLost 0x100])
      ∧ (lost = false → s.chip.keeps t [])
      ∧ t = { s.chip with
        regs := t.regs, badParity := s.chip.parityAfter path F.fabCcCtrlInjectA.addr be, reply := written
        fab := { s.chip.fab with injectA := s.chip.fab.injectA || a, injectB := s.chip.fab.injectB || b } })

/-- REGISTER_WRITE of DMA_BASE or DMA_CFG of a channel whose MODE is 2 is ignored; one of DMA_RD takes effect, and DMA_STALL
reads whether the ring is then full (R270, R272). -/
def writeDma (path : Path) (e : Fin 8) (be : BitVec 4) (data : Word) (s : State) : Prop :=
  s.chip.serves path (0x51 + e.val) → s.chip.getN (F.evCtrlMode e) = 2 →
    (∀ a ∈ [(F.evDmaBaseLoAddr e).addr, (F.evDmaBaseHiAddr e).addr, (F.evDmaCfgSize e).addr],
      Runs (.registerWrite path (BitVec.ofNat 27 a) be data) s (fun t =>
        s.chip.keeps t [] ∧ t = { s.chip with regs := t.regs, reply := written }))
    ∧ Runs (.registerWrite path (BitVec.ofNat 27 (F.evDmaRd e).addr) be data) s (fun t =>
        t.getN (F.evDmaRd e) = bits (mergeWord (s.chip.wordAt (F.evDmaRd e).addr) data (pathEnables path be)) 19 0
        ∧ t.flag (F.evStatusDmaStall e) = (t.dmaRoom e.val == 0)
        ∧ s.chip.keeps t [F.evDmaRd e, F.evStatusDmaStall e] ∧ s.chip.onlyHost t path (F.evDmaRd e).addr be)

/-- REGISTER_WRITE of HLTH.FAULT_EN, an RW field: the bits of enabled bytes take the data (R30, R36). -/
def writeRw (path : Path) (be : BitVec 4) (data : Word) (s : State) : Prop :=
  s.chip.serves path 3 →
    Runs (.registerWrite path (BitVec.ofNat 27 F.hlthFaultEn.addr) be data) s (fun t =>
      (∀ k < 16, t.getBit F.hlthFaultEn k = if bit (pathEnables path be) (k / 8) then bit data k else s.chip.getBit F.hlthFaultEn k)
      ∧ s.chip.keeps t [F.hlthFaultEn]
      ∧ s.chip.onlyHost t path F.hlthFaultEn.addr be)

/-- REGISTER_WRITE of HLTH.FAULT, a W1C field: an enabled byte clears the bits it writes as 1 (R30, R36, R37). -/
def writeW1c (path : Path) (be : BitVec 4) (data : Word) (s : State) : Prop :=
  s.chip.serves path 3 →
    Runs (.registerWrite path (BitVec.ofNat 27 F.hlthFault.addr) be data) s (fun t =>
      (∀ k < 16, t.getBit F.hlthFault k
        = (s.chip.getBit F.hlthFault k && !(bit (pathEnables path be) (k / 8) && bit data k)))
      ∧ s.chip.keeps t [F.hlthFault]
      ∧ s.chip.onlyHost t path F.hlthFault.addr be)

/-- While PAGE_LOCK.LOCK = 1 a write to a lockable field is refused and counted once in REFUSED, and LOCK_HIT is set:
no lockable field of the word changes (R42). -/
def writeLocked (path : Path) (addr : BitVec 27) (be : BitVec 4) (data : Word) (s : State) : Prop :=
  let a := addr.toNat
  let pg := a / 4096
  a < 0x04000000 → a % 4 = 0 → 0x40 ≤ a % 4096 → pg ≠ 0x81 → s.chip.reaches path = true → occupied pg = true →
  s.chip.stopped pg = false → s.chip.unpowered pg = false → s.chip.unreachable pg = false →
  s.chip.locked a (pathEnables path be) = true →
    Runs (.registerWrite path addr be data) s (fun t =>
      t.getN (F.hdrPgLockRefused pg) = min 0xFFFF (s.chip.getN (F.hdrPgLockRefused pg) + 1)
      ∧ t.flag (F.hdrPgStatusLockHit pg) = true
      ∧ (∀ f ∈ fieldsAt a, lockable f.acc = true → t.get (f.at a) = s.chip.get (f.at a))
      ∧ s.chip.keeps t ([F.hdrPgLockRefused pg, F.hdrPgStatusLockHit pg, F.hlthFault, F.hlthFaultPage]
          ++ ((fieldsAt a).filter (fun f => !lockable f.acc)).map (fun f => f.at a))
      ∧ t = { s.chip with regs := t.regs, msix := t.msix, reply := written })

/-- A page whose far side is in reset takes no write (R50). -/
def writeInReset (path : Path) (addr : BitVec 27) (be : BitVec 4) (data : Word) (s : State) : Prop :=
  let a := addr.toNat
  let pg := a / 4096
  a < 0x04000000 → a % 4 = 0 → s.chip.reaches path = true → occupied pg = true → s.chip.stopped pg = false →
  s.chip.unpowered pg = false → s.chip.unreachable pg = true →
    Runs (.registerWrite path addr be data) s (fun t =>
      s.chip.keeps t [] ∧ t = { s.chip with regs := t.regs, reply := written })

/-- A read of a word of such a page, PAGE_ID and PAGE_STATUS apart, returns zero (R50). -/
def readInReset (addr : BitVec 27) (be : BitVec 4) (s : State) : Prop :=
  let a := addr.toNat
  let pg := a / 4096
  a < 0x04000000 → a % 4 = 0 → a % 4096 ≠ 0 → a % 4096 ≠ 4 → s.chip.reaches .pcie = true → occupied pg = true →
  s.chip.stopped pg = false → s.chip.unpowered pg = false → s.chip.unreachable pg = true →
    Runs (.pcieMemRequest (.read none) addr be 0 1 []) s (fun t =>
      s.chip.keeps t [] ∧ t = { s.chip with regs := t.regs, reply := ⟨[0], false, false⟩ })

/-- WIDE_WRITE of CONV_RAW: the low word is held and changes nothing yet; the high word applies both at once (R34). -/
def wideWriteLow (path : Path) (be : BitVec 4) (lo : Word) (s : State) : Prop :=
  s.chip.serves path 0x20 →
    Runs (.wideWrite path (BitVec.ofNat 26 F.time0ConvRawLo.addr) be lo) s (fun t =>
      s.chip.keeps t [] ∧ t = { s.chip with
        regs := t.regs, reply := written
        held := Store.write (0, 0) s.chip.held (F.time0ConvRawLo.addr * 2 + pathNo path) (pathEnables path be, lo) })
def wideWriteHigh (path : Path) (lo hi : Word) (s : State) : Prop :=
  s.chip.serves path 0x20 → Store.read (0, 0) s.chip.held (F.time0ConvRawLo.addr * 2 + pathNo path) = (0xF, lo) →
    Runs (.wideWrite path (BitVec.ofNat 26 F.time0ConvRawHi.addr) 0xF hi) s (fun t =>
      t.get F.time0ConvRawLo = lo ∧ t.get F.time0ConvRawHi = hi ∧ s.chip.keeps t [F.time0ConvRawLo, F.time0ConvRawHi]
      ∧ t = { s.chip with
        regs := t.regs, reply := written
        badParity := (s.chip.badParity.filter (fun a => a != F.time0ConvRawLo.addr)).filter (fun a => a != F.time0ConvRawHi.addr)
        held := Store.write (0, 0) s.chip.held (F.time0ConvRawLo.addr * 2 + pathNo path) (0, 0) })

/-- WIDE_LOW_READ of ANCHOR: the low word is returned and the high word stands in the reading path's shadow (R33). -/
def wideLowRead (path : Path) (s : State) : Prop :=
  s.chip.serves path 0x20 → s.chip.badParity.contains 0x20060 = false →
    Runs (.wideLowRead path 0x20060) s (fun t =>
      t.reply = ⟨[word (s.chip.time.cur.anchor.toNat % 2 ^ 32)], false, false⟩
      ∧ Store.read 0 t.shadow (0x20064 * 2 + pathNo path) = word (s.chip.time.cur.anchor.toNat / 2 ^ 32)
      ∧ s.chip.keeps t [] ∧ t = { s.chip with regs := t.regs, shadow := t.shadow, reply := t.reply })

/-- WIDE_LOW_READ of any wide value but a slate, NOW with no lag: the lowest word is returned, and every higher word stands
in the reading path's shadow (R33). -/
def wideLowReadAny (path : Path) (base : BitVec 26) (n : Nat) (s : State) : Prop :=
  let a := base.toNat
  wideAt a = some (a, n) → (a < 0x51000 ∨ 0x59000 ≤ a ∨ a % 4096 ≠ 0x48) → s.chip.serves path (a / 4096) →
  s.chip.badParity.contains a = false →
    Runs (.wideLowRead path base) s (fun t =>
      t.reply = ⟨[nth (s.chip.wideWords a n 0) 0], false, false⟩
      ∧ (∀ i, i + 1 < n → Store.read 0 t.shadow ((a + 4 * (i + 1)) * 2 + pathNo path) = nth (s.chip.wideWords a n 0) (i + 1))
      ∧ s.chip.keeps t [] ∧ t = { s.chip with regs := t.regs, shadow := t.shadow, reply := t.reply })

/-- WIDE_WRITE of a wide value that the host writes, CONV_RAW or MAC: the low word is held with its enables, and the high
word applies both, each field taking its bits (R34). DMA_BASE has its own rules (R272). -/
def wideWriteAny (path : Path) (base : BitVec 26) (be : BitVec 4) (lo hi : Word) (s : State) : Prop :=
  let a := base.toNat
  writableWide a = true → (a < 0x51000 ∨ 0x59000 ≤ a) → s.chip.serves path (a / 4096) →
  (0x02000000 ≤ a → s.chip.fusedUpper (a / 0x10000 - 0x200) = false) →
    Runs (.wideWrite path base be lo) s (fun t =>
      s.chip.keeps t [] ∧ t = { s.chip with
        regs := t.regs, reply := written
        held := Store.write (0, 0) s.chip.held (a * 2 + pathNo path) (pathEnables path be, lo) })
    ∧ (Store.read (0, 0) s.chip.held (a * 2 + pathNo path) = (0xF, lo) →
        Runs (.wideWrite path (base + 4) 0xF hi) s (fun t =>
          (∀ f ∈ fieldsAt a, f.acc = .rw → t.get (f.at a) = word (bits lo (f.lsb + f.width - 1) f.lsb))
          ∧ (∀ f ∈ fieldsAt (a + 4), f.acc = .rw → t.get (f.at (a + 4)) = word (bits hi (f.lsb + f.width - 1) f.lsb))
          ∧ s.chip.keeps t ((fieldsAt a).map (fun f => f.at a) ++ (fieldsAt (a + 4)).map (fun f => f.at (a + 4)))
          ∧ t = { s.chip with
            regs := t.regs, reply := written
            badParity := (s.chip.badParity.filter (fun k => k != a)).filter (fun k => k != a + 4)
            held := Store.write (0, 0) s.chip.held (a * 2 + pathNo path) (0, 0) }))

/-- NOW_READ: the fraction of the network time of a sample at most 3 ns old, with ns, seconds and the raw value of the sample in
the shadow (R171). -/
def nowRead (path : Path) (lag : Fin 4) (s : State) : Prop :=
  s.chip.serves path 0x20 → s.chip.badParity.contains 0x20048 = false →
    let x : Raw := s.chip.time.raw - BitVec.ofNat 64 (lag.val * 65536)
    let net := (s.chip.setOf x).netAt x
    Runs (.nowRead path lag) s (fun t =>
      t.reply = ⟨[word (net % 65536)], false, false⟩
      ∧ Store.read 0 t.shadow (0x2004C * 2 + pathNo path) = word (netNs net)
      ∧ Store.read 0 t.shadow (0x20050 * 2 + pathNo path) = word (netSec net % 2 ^ 32)
      ∧ Store.read 0 t.shadow (0x20054 * 2 + pathNo path) = word (netSec net / 2 ^ 32)
      ∧ Store.read 0 t.shadow (0x20058 * 2 + pathNo path) = word (x.toNat % 2 ^ 32)
      ∧ Store.read 0 t.shadow (0x2005C * 2 + pathNo path) = word (x.toNat / 2 ^ 32)
      ∧ s.chip.keeps t [] ∧ t = { s.chip with regs := t.regs, shadow := t.shadow, reply := t.reply })

/-! ### Windows, conversion, session and archive reads -/

/-- CONVERT: the conversion of CONV_RAW begins and BUSY reads 1 (R187). -/
def convert (path : Path) (s : State) : Prop :=
  s.chip.serves path 0x20 → s.chip.convBusy = none →
    Runs (.convert path) s (fun t =>
      t.flag F.time0ConvStatusBusy = true ∧ s.chip.keeps t [F.time0ConvStatusBusy]
      ∧ t = { s.chip with
        regs := t.regs, badParity := s.chip.parityAfter path F.time0ConvCtrlConvert.addr 0xF, reply := written
        convBusy := some (s.chip.get F.time0ConvRawHi ++ s.chip.get F.time0ConvRawLo) })

/-- A CONVERT while BUSY = 1 is lost, and TRG_LOST is set (R43, R187). -/
def convertBusy (path : Path) (s : State) : Prop :=
  s.chip.serves path 0x20 → s.chip.convBusy.isSome = true →
    Runs (.convert path) s (fun t =>
      t.flag (F.hdrPgStatusTrgLost 0x20) = true ∧ s.chip.keeps t [F.hdrPgStatusTrgLost 0x20]
      ∧ s.chip.onlyHost t path F.time0ConvCtrlConvert.addr 0xF)

/-- CONVERT_DONE: by the set in force at the value: OK and network time there, NOT_SET, or EXPIRED; with the last two
CONV_W0 to W3 read zero. STEP_SINCE tells whether a step followed the value (R187). -/
def convertDone (x : Raw) (s : State) : Prop :=
  s.chip.convBusy = some x →
    Runs .convertDone s (fun t =>
      t.flag F.time0ConvStatusBusy = false
      ∧ s.chip.keeps t [F.time0ConvStatusBusy, F.time0ConvStatusResult, F.time0ConvStatusStepSince]
      ∧ t = { s.chip with regs := t.regs, convBusy := none, conv := t.conv }
      ∧ (s.chip.setAt x = none → t.getN F.time0ConvStatusResult = 1 ∧ t.conv = 0)
      ∧ (∀ q, s.chip.setAt x = some q → q.isSet = false → t.getN F.time0ConvStatusResult = 2 ∧ t.conv = 0)
      ∧ (∀ q, s.chip.setAt x = some q → q.isSet = true → t.getN F.time0ConvStatusResult = 0 ∧ t.conv = q.netAt x)
      ∧ (∀ q, s.chip.setAt x = some q → t.flag F.time0ConvStatusStepSince = (q.era != s.chip.time.cur.era))
      ∧ (s.chip.setAt x = none →
          t.flag F.time0ConvStatusStepSince = s.chip.time.stepRaw.any (fun m => decide (0 < rawDiff x m))))

/-- A TBL window that captured an operation: BUSY reads 1, CHECK_GEN and EXPECT_GEN take the write's bits, and the window
holds INDEX, DATA and the generation check as they then stand. -/
def tblCaptured (path : Path) (w : Fin 5) (read write : Bool) (data : Word) (s t : Chip) : Prop :=
  t.flag (F.tblStatusBusy w.val) = true
  ∧ t.flag (F.tblCmdCheckGen w.val) = bit data 8 ∧ t.getN (F.tblCmdExpectGen w.val) = bits data 7 0
  ∧ (∃ o : WinOp, o.read = read ∧ o.write = write ∧ o.index = s.getN (F.tblIndex w.val) ∧ o.data = s.windowEntry w.val
      ∧ o.checkGen = bit data 8 ∧ o.expectGen.toNat = bits data 7 0
      ∧ s.keeps t [F.tblStatusBusy w.val, F.tblCmdCheckGen w.val, F.tblCmdExpectGen w.val]
      ∧ t = { s with
        regs := t.regs, badParity := s.parityAfter path (F.tblCmdRead w.val).addr 0xF
        windows := Store.insert w.val o s.windows, reply := written })

/-- TBL_READ: the window captures a READ, with the WRITE bit as the same write gives it (R110). -/
def tblRead (path : Path) (w : Fin 5) (data : Word) (s : State) : Prop :=
  s.chip.serves path (0x200 + w.val) → Store.find w.val s.chip.windows = none →
    Runs (.tblRead path w data) s (tblCaptured path w true (bit data 16) data s.chip)

/-- TBL_WRITE: as TBL_READ, for the WRITE (R110, R113). -/
def tblWrite (path : Path) (w : Fin 5) (data : Word) (s : State) : Prop :=
  s.chip.serves path (0x200 + w.val) → Store.find w.val s.chip.windows = none →
    Runs (.tblWrite path w data) s (tblCaptured path w (bit data 17) true data s.chip)

/-- SCHD_READ: the node or gate window captures INDEX and BANK, and reads BUSY (R164). -/
def schdRead (path : Path) (w : Fin 2) (s : State) : Prop :=
  s.chip.serves path (0x110 + w.val) → Store.find (5 + w.val) s.chip.windows = none →
    Runs (.schdRead path w) s (fun t =>
      t.flag (F.schdStatusBusy w.val) = true ∧ s.chip.keeps t [F.schdStatusBusy w.val]
      ∧ ∃ o : WinOp, o.read = true ∧ o.write = false ∧ o.index = s.chip.getN (F.schdIndex w.val)
        ∧ o.bank = s.chip.flag (F.schdIndexBank w.val) ∧ o.data = s.chip.windowEntry (5 + w.val)
        ∧ t = { s.chip with
          regs := t.regs, badParity := s.chip.parityAfter path (F.schdCmdRead w.val).addr 0xF
          windows := Store.insert (5 + w.val) o s.chip.windows, reply := written })

/-- SCHD_WRITE: the same for the WRITE, with DATA captured (R164). It is marked to be refused HELD where its port is the upper
member of a fused pair, or a check of its tree runs, or for a gate entry a cut-over of it is pending, at the trigger (R153,
R159, R162; log 62). -/
def schdWrite (path : Path) (w : Fin 2) (andRead : Bool) (s : State) : Prop :=
  s.chip.serves path (0x110 + w.val) → Store.find (5 + w.val) s.chip.windows = none →
    Runs (.schdWrite path w andRead) s (fun t =>
      t.flag (F.schdStatusBusy w.val) = true ∧ s.chip.keeps t [F.schdStatusBusy w.val]
      ∧ ∃ o : WinOp, o.read = andRead ∧ o.write = true ∧ o.index = s.chip.getN (F.schdIndex w.val)
        ∧ (o.target ≠ 0 ↔ s.chip.fusedUpper (schdPort (5 + w.val) o.index) = true
            ∨ (w = 0 ∧ s.chip.checking.contains (schdPort (5 + w.val) o.index) = true)
            ∨ (w = 1 ∧ (s.chip.gate (schdPort (5 + w.val) o.index)).pending.isSome = true))
        ∧ o.bank = s.chip.flag (F.schdIndexBank w.val) ∧ o.data = s.chip.windowEntry (5 + w.val)
        ∧ t = { s.chip with
          regs := t.regs, badParity := s.chip.parityAfter path (F.schdCmdRead w.val).addr 0xF
          windows := Store.insert (5 + w.val) o s.chip.windows, reply := written })

/-- SESS_READ: the window captures SESSION and WORD, with the error that its read meets, and reads BUSY (R212). -/
def sessRead (path : Path) (upset : Option (BitVec 256)) (s : State) : Prop :=
  s.chip.serves path 0x21 → s.chip.sessBusy = none →
    Runs (.sessRead ⟨path, upset⟩) s (fun t =>
      t.flag F.time1SessStatusBusy = true ∧ s.chip.keeps t [F.time1SessStatusBusy]
      ∧ t = { s.chip with
        regs := t.regs, badParity := s.chip.parityAfter path F.time1SessCmdRead.addr 0xF, reply := written
        sessBusy := some (s.chip.getN F.time1SessIndexSession, s.chip.flag F.time1SessIndexWord, upset) })

/-- ARCH_READ: the window captures the entry that ARCH_INDEX names as it stands, and reads BUSY (R240). -/
def archRead (path : Path) (s : State) : Prop :=
  s.chip.serves path 0x33 → s.chip.archBusy = none →
    Runs (.archRead path) s (fun t =>
      t.flag F.ref3ArchStatusBusy = true ∧ s.chip.keeps t [F.ref3ArchStatusBusy]
      ∧ t = { s.chip with
        regs := t.regs, badParity := s.chip.parityAfter path F.ref3ArchCmdRead.addr 0xF, reply := written
        archBusy := some (Store.read 0 s.chip.refs.archive (s.chip.getN F.ref3ArchIndex)) })

/-- TBL_OP_DONE of a READ: DATA takes the entry; an INDEX beyond the table gives RANGE and changes nothing (R110, R111). -/
def tblReadDone (w : Fin 5) (o : WinOp) (s : State) : Prop :=
  Store.find w.val s.chip.windows = some o → o.read = true → o.write = false →
    Runs (.tblOpDone ⟨w, none⟩) s (fun t =>
      t.flag (F.tblStatusBusy w.val) = false
      ∧ t = { s.chip with regs := t.regs, windows := Store.erase w.val s.chip.windows }
      ∧ (tableSize w.val ≤ o.index →
          t.getN (F.tblStatusResult w.val) = 3 ∧ s.chip.keeps t [F.tblStatusBusy w.val, F.tblStatusResult w.val])
      ∧ (o.index < tableSize w.val → s.chip.failed w.val o.index = false →
          t.getN (F.tblStatusResult w.val) = 0
          ∧ (∀ i < 4, t.get (F.tblData w.val i) = entryWord (s.chip.tentry w.val o.index) i)
          ∧ s.chip.keeps t [F.tblStatusBusy w.val, F.tblStatusResult w.val, F.tblData w.val 0, F.tblData w.val 1,
              F.tblData w.val 2, F.tblData w.val 3]))

/-- TBL_OP_DONE of a READ that meets an error in its entry: a single-bit one is corrected and counts; a double-bit one
counts, ECC_INDEX names the entry, it is marked failed, RESULT is ECC and HLTH takes a fault (R111, R117). -/
def tblReadUpset (w : Fin 5) (o : WinOp) (flips : BitVec 128) (double : Bool) (s : State) : Prop :=
  Store.find w.val s.chip.windows = some o → o.read = true → o.write = false → o.index < tableSize w.val →
  s.chip.failed w.val o.index = false →
    Runs (.tblOpDone ⟨w, some (flips, double)⟩) s (fun t =>
      t.flag (F.tblStatusBusy w.val) = false
      ∧ (double = false → t.getN (F.tblStatusResult w.val) = 0 ∧ s.chip.counted t (F.tblEccCorrected w.val) 1
          ∧ ∀ i < 4, t.get (F.tblData w.val i) = entryWord (s.chip.tentry w.val o.index) i)
      ∧ (double = true → t.getN (F.tblStatusResult w.val) = 4 ∧ s.chip.counted t (F.tblEccUncorr w.val) 1
          ∧ t.getN (F.tblEccIndex w.val) = o.index ∧ t.failed w.val o.index = true ∧ t.getBit F.hlthFault fEcc = true)
      ∧ s.chip.keeps t [F.tblStatusBusy w.val, F.tblStatusResult w.val, F.tblData w.val 0, F.tblData w.val 1,
          F.tblData w.val 2, F.tblData w.val 3, F.tblEccCorrected w.val, F.tblEccUncorr w.val, F.tblEccIndex w.val, F.hlthFault]
      ∧ (∀ k < 5, ∀ j, (k, j) ≠ (w.val, o.index) → t.tentry k j = s.chip.tentry k j)
      ∧ t = { s.chip with
        regs := t.regs, msix := t.msix, windows := Store.erase w.val s.chip.windows
        path := t.path, nh := t.nh, flow := t.flow, dn := t.dn, stage := t.stage
        eccMarked := if double then s.chip.eccMarked ++ [(w.val, o.index)] else s.chip.eccMarked })

/-- TBL_OP_DONE of a WRITE to TBL.FLOW or TBL.DNSTATE: no effect, RESULT = READ_ONLY (R111). -/
def tblWriteReadOnly (w : Fin 5) (o : WinOp) (s : State) : Prop :=
  (w.val = 2 ∨ w.val = 3) → Store.find w.val s.chip.windows = some o → o.read = false → o.write = true →
  o.index < tableSize w.val →
    Runs (.tblOpDone ⟨w, none⟩) s (fun t =>
      t.getN (F.tblStatusResult w.val) = 2 ∧ t.flag (F.tblStatusBusy w.val) = false
      ∧ s.chip.keeps t [F.tblStatusBusy w.val, F.tblStatusResult w.val]
      ∧ t = { s.chip with regs := t.regs, windows := Store.erase w.val s.chip.windows })

/-- TBL_OP_DONE with an INDEX beyond the window's table: RESULT = RANGE, and nothing is read or written (R111). -/
def tblRange (w : Fin 5) (o : WinOp) (s : State) : Prop :=
  Store.find w.val s.chip.windows = some o → (o.read = true ∨ o.write = true) → tableSize w.val ≤ o.index →
    Runs (.tblOpDone ⟨w, none⟩) s (fun t =>
      t.getN (F.tblStatusResult w.val) = 3 ∧ t.flag (F.tblStatusBusy w.val) = false
      ∧ s.chip.keeps t [F.tblStatusBusy w.val, F.tblStatusResult w.val]
      ∧ t = { s.chip with regs := t.regs, windows := Store.erase w.val s.chip.windows })

/-- TBL_OP_DONE of a WRITE to TBL.PATH that R114 and R113 accept stores the entry. -/
def tblWriteDone (o : WinOp) (s : State) : Prop :=
  Store.find 0 s.chip.windows = some o → o.read = false → o.write = true → o.index < tableSize 0 → pathBad o.data = false →
  (o.checkGen = false ∨ bits (s.chip.tentry 0 o.index) 126 119 = o.expectGen.toNat) →
    Runs (.tblOpDone ⟨0, none⟩) s (fun t =>
      t.tentry 0 o.index = o.data ∧ t.getN (F.tblStatusResult 0) = 0 ∧ t.flag (F.tblStatusBusy 0) = false
      ∧ s.chip.keeps t [F.tblStatusBusy 0, F.tblStatusResult 0]
      ∧ t = { s.chip with
        regs := t.regs, windows := Store.erase 0 s.chip.windows, path := Store.write 0 s.chip.path o.index o.data
        eccMarked := s.chip.eccMarked.filter (fun x => x != (0, o.index)) })

/-- SCHD_OP_DONE of a READ of a node or gate entry that is right: DATA takes it, a gate entry its two words, and RESULT is
OK (R164). -/
def schdReadDone (w : Fin 2) (o : WinOp) (s : State) : Prop :=
  let k := 5 + w.val
  let words := if w = 0 then 4 else 2
  Store.find k s.chip.windows = some o → o.read = true → o.write = false → schdPort k o.index < 48 →
  s.chip.schdBad k (schdPort k o.index) (schdEntry k o.index) o.bank = false →
    Runs (.schdOpDone w .clean) s (fun t =>
      (∀ i < words, t.get (F.schdData w.val i)
        = entryWord (s.chip.schdEntryOf k (schdPort k o.index) (schdEntry k o.index) o.bank) i)
      ∧ t.getN (F.schdStatusResult w.val) = 0 ∧ t.flag (F.schdStatusBusy w.val) = false
      ∧ s.chip.keeps t ([F.schdStatusBusy w.val, F.schdStatusResult w.val] ++ (List.range words).map (F.schdData w.val))
      ∧ t = { s.chip with regs := t.regs, windows := Store.erase k s.chip.windows })

/-- SCHD_OP_DONE of a WRITE: to an active entry it is refused READ_ONLY, and while the port's shadow was held HELD; else the
shadow entry is written and no other (R153, R159, R164). -/
def schdWriteDone (w : Fin 2) (o : WinOp) (s : State) : Prop :=
  let k := 5 + w.val
  let p := schdPort k o.index
  Store.find k s.chip.windows = some o → o.read = false → o.write = true → p < 48 →
    Runs (.schdOpDone w .clean) s (fun t =>
      t.flag (F.schdStatusBusy w.val) = false ∧ s.chip.keeps t [F.schdStatusBusy w.val, F.schdStatusResult w.val]
      ∧ (o.bank = true → t.getN (F.schdStatusResult w.val) = 2 ∧ t.scheds = s.chip.scheds ∧ t.gates = s.chip.gates)
      ∧ (o.bank = false → o.target ≠ 0 →
          t.getN (F.schdStatusResult w.val) = 6 ∧ t.scheds = s.chip.scheds ∧ t.gates = s.chip.gates)
      ∧ (o.bank = false → o.target = 0 → t.getN (F.schdStatusResult w.val) = 0
          ∧ t.schdEntryOf k p (schdEntry k o.index) false
            = (if w = 0 then o.data else BitVec.ofNat 128 (o.data.toNat % 2 ^ 64))
          ∧ (∀ q e, (q, e) ≠ (p, schdEntry k o.index) → t.schdEntryOf k q e false = s.chip.schdEntryOf k q e false)
          ∧ (∀ q e, t.schdEntryOf k q e true = s.chip.schdEntryOf k q e true)
          ∧ (w = 0 → t.gates = s.chip.gates) ∧ (w = 1 → t.scheds = s.chip.scheds))
      ∧ t = { s.chip with
        regs := t.regs, scheds := t.scheds, gates := t.gates, windows := Store.erase k s.chip.windows })

/-- SESS_READ_DONE: the configuration or state word of an open session, or RESULT 7 and zeros; with an uncorrectable error
met, RESULT 4 and a fault (R212). -/
def sessReadDone (n : Nat) (w : Bool) (s : State) : Prop :=
  s.chip.sessBusy = some (n, w, none) →
    Runs .sessReadDone s (fun t =>
      t.flag F.time1SessStatusBusy = false ∧ t = { s.chip with regs := t.regs, sessBusy := none }
      ∧ s.chip.keeps t ([F.time1SessStatusBusy, F.time1SessStatusResult] ++ (List.range 8).map F.time1SessData)
      ∧ (s.chip.session n = none → t.getN F.time1SessStatusResult = 7 ∧ ∀ i < 8, t.get (F.time1SessData i) = 0)
      ∧ (∀ x, s.chip.session n = some x → t.getN F.time1SessStatusResult = 0
          ∧ ∀ i < 8, t.get (F.time1SessData i) = entryWord (if w then x.stateWord else x.cfg) i))
def sessReadUpset (n : Nat) (w : Bool) (x : Session) (flips : BitVec 256) (s : State) : Prop :=
  s.chip.sessBusy = some (n, w, some flips) → s.chip.session n = some x →
    Runs .sessReadDone s (fun t =>
      t.flag F.time1SessStatusBusy = false ∧ t.getN F.time1SessStatusResult = 4 ∧ t.getBit F.hlthFault fEcc = true
      ∧ s.chip.keeps t ([F.time1SessStatusBusy, F.time1SessStatusResult, F.hlthFault] ++ (List.range 8).map F.time1SessData)
      ∧ t = { s.chip with regs := t.regs, msix := t.msix, sessBusy := none })

/-- ARCH_READ_DONE: ARCH_DATA0 to 3 take the entry captured (R240). -/
def archReadDone (e : BitVec 128) (s : State) : Prop :=
  s.chip.archBusy = some e →
    Runs .archReadDone s (fun t =>
      t.flag F.ref3ArchStatusBusy = false ∧ (∀ k < 4, t.get (F.ref3ArchData k) = entryWord e k)
      ∧ s.chip.keeps t ([F.ref3ArchStatusBusy] ++ (List.range 4).map F.ref3ArchData)
      ∧ t = { s.chip with regs := t.regs, archBusy := none })

/-! ### Reads that act, and the user window -/

/-- SLATE_W0_READ: W0 of the oldest slate is returned, the rest stands in the shadow, and the slate leaves the reel
(R269). -/
def slateRead (path : Path) (e : Fin 8) (w : BitVec 128) (l : List (BitVec 128)) (s : State) : Prop :=
  s.chip.serves path (0x51 + e.val) → s.chip.badParity.contains (0x51048 + e.val * 0x1000) = false →
  (s.chip.channel e.val).reel = w :: l → s.chip.evMode e.val ≠ 2 →
    Runs (.slateW0Read path e) s (fun t =>
      t.reply = ⟨[entryWord w 0], false, false⟩ ∧ (t.channel e.val).reel = l
      ∧ (∀ i < 3, Store.read 0 t.shadow ((0x5104C + e.val * 0x1000 + 4 * i) * 2 + pathNo path) = entryWord w (i + 1))
      ∧ t.getN (F.evStatusLevel e.val) = l.length % 2 ^ (F.evStatusLevel e.val).width
      ∧ (∀ k, k ≠ e.val → t.channel k = s.chip.channel k) ∧ s.chip.keeps t [F.evStatusLevel e.val, F.evStatusPeak e.val]
      ∧ t = { s.chip with regs := t.regs, shadow := t.shadow, tdc := t.tdc, reply := t.reply })

/-- BANK_DATA_READ returns the bank word at BANK_INDEX, then advances BANK_INDEX by one, wrapping (R350). -/
def bankDataRead (path : Path) (s : State) : Prop :=
  s.chip.serves path 0x80 → s.chip.badParity.contains 0x8005C = false →
    Runs (.bankDataRead path) s (fun t =>
      t.reply = ⟨[s.chip.bankWord (s.chip.getN F.pcnt0BankIndex)], false, false⟩
      ∧ t.getN F.pcnt0BankIndex = (s.chip.getN F.pcnt0BankIndex + 1) % 262144
      ∧ s.chip.keeps t [F.pcnt0BankIndex] ∧ s.chip.onlyReply t)

/-- PROBE_COUNT_READ returns the count, and latches that of the CHAIN probe above (R357). -/
def probeCountRead (path : Path) (k : Fin 64) (s : State) : Prop :=
  s.chip.serves path 0x81 → s.chip.badParity.contains (F.pcnt1Count k.val).addr = false →
    Runs (.probeCountRead path k) s (fun t =>
      t.reply = ⟨[s.chip.get (F.pcnt1Count k.val)], false, false⟩
      ∧ (k.val < 63 → s.chip.getN (F.pcnt1CfgSource (k.val + 1)) = 2 →
          Store.read 0 t.shadow ((0x81054 + (k.val + 1) * 0x20) * 2 + pathNo path) = s.chip.get (F.pcnt1Count (k.val + 1)))
      ∧ s.chip.keeps t [] ∧ t = { s.chip with regs := t.regs, shadow := t.shadow, reply := t.reply })

/-- BAR4_READ: bank words with USER_READ = 1; zeros, and one blocked request counted, with USER_READ = 0 (R352). -/
def bar4Read (offset : BitVec 20) (count : Nat) (s : State) : Prop :=
  s.chip.pcieServes = true → s.chip.ready = true → s.chip.safeStop = false →
    Runs (.bar4Read offset count) s (fun t =>
      s.chip.onlyReply t
      ∧ (s.chip.flag F.sysCtrlUserRead = true →
          t.reply = ⟨(List.range count).map (fun k => s.chip.bankWord (offset.toNat / 4 + k)), false, false⟩
          ∧ s.chip.keeps t [])
      ∧ (s.chip.flag F.sysCtrlUserRead = false →
          t.reply = ⟨(List.range count).map (fun _ => 0), false, false⟩
          ∧ t.getN F.pcnt0UserBlocked = (s.chip.getN F.pcnt0UserBlocked + 1) % 2 ^ 32
          ∧ s.chip.keeps t [F.pcnt0UserBlocked]))

/-- BAR4_WRITE is discarded and answered with Unsupported Request, which AER logs (R23). -/
def bar4Write (offset : BitVec 20) (data : Word) (s : State) : Prop :=
  s.chip.pcieServes = true →
    Runs (.bar4Write offset data) s (fun t =>
      s.chip.keeps t [] ∧ t = { s.chip with
        regs := t.regs, reply := ⟨[], true, false⟩, pcie := { s.chip.pcie with urLogged := true } })

/-! ### PCIe requests and SMBus transactions -/

/-- The reply of an SMBus read: the word, and the PEC byte where the host acknowledges the last data byte (R378). -/
def smbusReply (head : SmbHead) (offset data : Word) : Reply :=
  ⟨if head.ack then [data, readPec head offset data] else [data], false, false⟩

/-- A read of any one register word that no rule of its own gives an action, over PCIe or SMBus, returns the word as it
stands and changes nothing else (R26, R30, R377). -/
def readPlain (addr : BitVec 26) (be : BitVec 4) (head : SmbHead) (s : State) : Prop :=
  let a := addr.toNat
  a % 4 = 0 → a / 4096 ≠ 0x81 → a ≠ bankDataAddr → wideAt a = none → occupied (a / 4096) = true →
  s.chip.stopped (a / 4096) = false → s.chip.unpowered (a / 4096) = false → s.chip.unreachable (a / 4096) = false →
  s.chip.badParity.contains a = false →
    (s.chip.reaches .pcie = true →
      Runs (.pcieMemRequest (.read none) (addr.setWidth 27) be 0 1 []) s (fun t =>
        s.chip.keeps t [] ∧ t = { s.chip with regs := t.regs, reply := ⟨[s.chip.plainWord a], false, false⟩ }))
    ∧ (s.chip.reaches .smbus = true → head.addr.toNat = s.chip.smbAddress → head.cmd = 2 →
      Runs (.smbusProcessCall head 4 (addr.setWidth 32)) s (fun t =>
        s.chip.keeps t [] ∧ t = { s.chip with
          regs := t.regs, smbHeld := none, reply := smbusReply head (addr.setWidth 32) (s.chip.plainWord a) }))

/-- A PCIE_MEM_REQUEST read of two words returns them in ascending order: HLTH.FAULT and FAULT_EN (R26). -/
def memRead (be : BitVec 4) (s : State) : Prop :=
  s.chip.serves .pcie 3 → s.chip.badParity = [] →
    Runs (.pcieMemRequest (.read none) (BitVec.ofNat 27 F.hlthFault.addr) be be 2 []) s (fun t =>
      t.reply = ⟨[s.chip.get F.hlthFault, s.chip.get F.hlthFaultEn], false, false⟩
      ∧ s.chip.keeps t [] ∧ s.chip.onlyReply t)

/-- A PCIE_MEM_REQUEST write of two words makes both writes, the first with the first byte enables and the last with
the last (R26, R38): FAULT_EN, and the word after it, which is read-only. -/
def memWrite (firstBe lastBe : BitVec 4) (d0 d1 : Word) (s : State) : Prop :=
  s.chip.serves .pcie 3 →
    Runs (.pcieMemRequest (.write none) (BitVec.ofNat 27 F.hlthFaultEn.addr) firstBe lastBe 2 [d0, d1]) s (fun t =>
      (∀ k < 16, t.getBit F.hlthFaultEn k = if bit firstBe (k / 8) then bit d0 k else s.chip.getBit F.hlthFaultEn k)
      ∧ s.chip.keeps t [F.hlthFaultEn]
      ∧ t = { s.chip with regs := t.regs, badParity := t.badParity, reply := written })

/-- A memory request, whole or cut by a reset. -/
def memOp (isWrite : Bool) (cut : Option Nat) : PcieOp := if isWrite then .write cut else .read cut

/-- A BAR0 request longer than 16 DW, or across a page, completes with Unsupported Request and no part of it (R26). -/
def memRefused (isWrite : Bool) (addr : BitVec 27) (firstBe lastBe : BitVec 4) (count : Nat) (data : List Word) (s : State) : Prop :=
  s.chip.reaches .pcie = true → addr.toNat % 4 = 0 → addr.toNat < 0x04000000 →
  (16 < count ∨ 4096 < addr.toNat % 4096 + 4 * count) →
    Runs (.pcieMemRequest (memOp isWrite none) addr firstBe lastBe count data) s (fun t =>
      s.chip.keeps t [] ∧ t = { s.chip with
        regs := t.regs, reply := ⟨[], true, false⟩, pcie := { s.chip.pcie with urLogged := true } })

/-- A PCIE_MEM_REQUEST of one DW is one access; one of n + 1 DW within a page, 2 to 16, is the access of its first n, with
the enables that every DW but the last has, and then that of the last with the last enables, its data after theirs: the
accesses come in ascending order (R26, R38). -/
def memOne (addr : BitVec 27) (firstBe lastBe : BitVec 4) (d : Word) (s : State) : Prop :=
  s.chip.reaches .pcie = true → addr.toNat % 4 = 0 → addr.toNat < 0x04000000 →
    exec (.pcieMemRequest (.write none) addr firstBe lastBe 1 [d]) s = exec (.registerWrite .pcie addr firstBe d) s
    ∧ Runs (.pcieMemRequest (.read none) addr firstBe lastBe 1 []) s (fun t =>
        t.reply.data = [(s.chip.busRead .pcie addr.toNat 0).1] ∧ t.reply.unsupported = false)
def memInTurn (isWrite : Bool) (addr : BitVec 27) (firstBe lastBe : BitVec 4) (n : Nat) (data : List Word) (s : State) : Prop :=
  let last := BitVec.ofNat 27 (addr.toNat + 4 * n)
  let op := memOp isWrite none
  s.chip.reaches .pcie = true → addr.toNat % 4 = 0 → addr.toNat < 0x04000000 → 1 ≤ n → n + 1 ≤ 16 →
  addr.toNat % 4096 + 4 * (n + 1) ≤ 4096 →
    ∃ u t : State, exec (.pcieMemRequest op addr firstBe 0xF n data) s = .next u
      ∧ exec (.pcieMemRequest op last lastBe lastBe 1 [nth data n]) u = .next t
      ∧ exec (.pcieMemRequest op addr firstBe lastBe (n + 1) data) s
        = .next { t with chip := { t.chip with reply := ⟨u.chip.reply.data ++ t.chip.reply.data, false, false⟩ } }

/-- Of a request that a reset cuts after n of its accesses, those stand: a write is that of its first n words, a read makes
its first n accesses and has no completion (R305). -/
def memCut (addr : BitVec 27) (firstBe lastBe : BitVec 4) (n count : Nat) (data : List Word) (s : State) : Prop :=
  s.chip.reaches .pcie = true → addr.toNat % 4 = 0 → addr.toNat < 0x04000000 → 1 ≤ n → n < count → count ≤ 16 →
  addr.toNat % 4096 + 4 * count ≤ 4096 →
    exec (.pcieMemRequest (.write (some n)) addr firstBe lastBe count data) s
      = exec (.pcieMemRequest (.write none) addr firstBe 0xF n data) s
    ∧ ∃ u : State, exec (.pcieMemRequest (.read none) addr firstBe 0xF n []) s = .next u
      ∧ exec (.pcieMemRequest (.read (some n)) addr firstBe lastBe count []) s
        = .next { u with chip := { u.chip with reply := ⟨[], false, false⟩ } }

/-- A configuration write of the power state is taken, and while the function stands in D3hot every memory request is
answered with Unsupported Request (R24). -/
def powerState (d3hot : Bool) (addr : BitVec 27) (firstBe lastBe : BitVec 4) (count : Nat) (data : List Word) (s : State) : Prop :=
  s.chip.pcieAnswers = true →
    Runs (.pcieMemRequest (.powerState d3hot) addr firstBe lastBe count data) s (fun t =>
      t = { s.chip with reply := written, pcie := { s.chip.pcie with d3hot := d3hot } })
    ∧ (s.chip.pcie.d3hot = true → ∀ isWrite : Bool,
      Runs (.pcieMemRequest (memOp isWrite none) addr firstBe lastBe count data) s (fun t =>
        t = { s.chip with reply := ⟨[], true, false⟩, pcie := { s.chip.pcie with urLogged := true } }))

/-- A write of the control word of a vector in the MSI-X table masks or unmasks it: its message leaves once it is raised and
not masked (R24). -/
def vectorMasks (v : Fin 64) (addr : BitVec 27) (firstBe lastBe : BitVec 4) (data : Word) (s : State) : Prop :=
  s.chip.pcieServes = true →
    Runs (.pcieMemRequest (.tableWrite (BitVec.ofNat 8 (4 * v.val + 3))) addr firstBe lastBe 1 [data]) s (fun t =>
      t.msixWord (4 * v.val + 3) = data ∧ (∀ k, k ≠ 4 * v.val + 3 → t.msixWord k = s.chip.msixWord k)
      ∧ bit t.messages v.val = (bit s.chip.msix v.val && !bit data 0)
      ∧ t = { s.chip with reply := written, pcie := { s.chip.pcie with table := t.pcie.table } })

/-- SMBUS_BLOCK_WRITE with a right PEC byte is one 32-bit write with every byte enabled (R377). -/
def blockWrite (head : SmbHead) (data : Word) (s : State) : Prop :=
  s.chip.serves .smbus 3 → head.addr.toNat = s.chip.smbAddress → head.cmd = 1 →
    Runs (.smbusBlockWrite head 8 (word F.hlthFaultEn.addr) data .good) s (fun t =>
      (∀ k < 16, t.getBit F.hlthFaultEn k = bit data k) ∧ s.chip.keeps t [F.hlthFaultEn]
      ∧ t = { s.chip with
        regs := t.regs, badParity := s.chip.parityAfter .smbus F.hlthFaultEn.addr 0xF, smbHeld := none, reply := written })

/-- At every register address an acknowledged SMBUS_BLOCK_WRITE with a right PEC byte, or with none where SMB_PEC asks for
none, is the REGISTER_WRITE of its word with every byte enabled, and what a write cut short left is discarded (R27, R377,
R378). -/
def blockWriteAny (head : SmbHead) (offset : BitVec 26) (data : Word) (pec : Pec) (s : State) : Prop :=
  s.chip.alwaysOn = true → head.addr.toNat = s.chip.smbAddress → head.cmd = 1 → offset.toNat % 4 = 0 →
  (pec = .good ∨ (pec = .none ∧ s.chip.pecRequired = false)) →
    exec (.smbusBlockWrite head 8 (offset.setWidth 32) data pec) s
      = exec (.registerWrite .smbus (offset.setWidth 27) 0xF data) { s with chip := { s.chip with smbHeld := none } }

/-- With a wrong PEC byte the write is not acknowledged, without one that SMB_PEC requires it is discarded, and one cut
short is not made: what it brought waits for the bus (R377, R378). -/
def blockWriteNot (head : SmbHead) (offset : BitVec 26) (data : Word) (pec : Pec) (s : State) : Prop :=
  s.chip.alwaysOn = true → head.addr.toNat = s.chip.smbAddress → head.cmd = 1 → offset.toNat % 4 = 0 →
    (pec = .bad → Runs (.smbusBlockWrite head 8 (offset.setWidth 32) data pec) s (fun t =>
      t = { s.chip with smbHeld := none, reply := ⟨[], false, true⟩ }))
    ∧ (pec = .none → s.chip.pecRequired = true → Runs (.smbusBlockWrite head 8 (offset.setWidth 32) data pec) s (fun t =>
      t = { s.chip with smbHeld := none, reply := written }))
    ∧ (pec = .cut → Runs (.smbusBlockWrite head 8 (offset.setWidth 32) data pec) s (fun t =>
      t = { s.chip with smbHeld := some (offset.toNat, data), reply := written }))

/-- A transaction of another address, command or count, or whose offset is not aligned or lies beyond BAR0, is not
acknowledged, and no access is made (R377). -/
def smbusNot (head : SmbHead) (count : BitVec 8) (offset data : Word) (pec : Pec) (s : State) : Prop :=
  s.chip.alwaysOn = true →
  (head.addr.toNat ≠ s.chip.smbAddress ∨ offset.toNat % 4 ≠ 0 ∨ 0x04000000 ≤ offset.toNat ∨ head.cmd ≠ 1 ∨ count ≠ 8 →
    Runs (.smbusBlockWrite head count offset data pec) s (fun t =>
      t = { s.chip with smbHeld := none, reply := ⟨[], false, true⟩ }))
  ∧ (head.addr.toNat ≠ 0x0C →
    head.addr.toNat ≠ s.chip.smbAddress ∨ offset.toNat % 4 ≠ 0 ∨ 0x04000000 ≤ offset.toNat ∨ head.cmd ≠ 2 ∨ count ≠ 4 →
    Runs (.smbusProcessCall head count offset) s (fun t =>
      t = { s.chip with smbHeld := none, reply := ⟨[], false, true⟩ }))

/-- To the Alert Response Address the target answers with its own while SMB_ALERT_N is low: while a fault bit whose
FAULT_EN bit is 1 reads 1 (R378). -/
def alertAnswers (head : SmbHead) (count : BitVec 8) (offset : Word) (s : State) : Prop :=
  s.chip.alwaysOn = true → head.addr = 0x0C →
  (∃ k, s.chip.getBit F.hlthFault k = true ∧ s.chip.getBit F.hlthFaultEn k = true) →
    Runs (.smbusProcessCall head count offset) s (fun t =>
      t = { s.chip with smbHeld := none, reply := ⟨[word (s.chip.smbAddress * 2)], false, false⟩ })

/-- SMBUS_PROCESS_CALL is one 32-bit read, and its PEC byte where the host acknowledges the data (R377, R378). -/
def processCall (head : SmbHead) (s : State) : Prop :=
  s.chip.serves .smbus 3 → s.chip.badParity = [] → head.addr.toNat = s.chip.smbAddress → head.cmd = 2 →
    Runs (.smbusProcessCall head 4 (word F.hlthFault.addr)) s (fun t =>
      s.chip.keeps t [] ∧ t = { s.chip with
        regs := t.regs, smbHeld := none, reply := smbusReply head (word F.hlthFault.addr) (s.chip.get F.hlthFault) })

/-- SMBUS_TIMEOUT discards an access not yet made, and changes nothing else (R378). -/
def smbusTimeout (s : State) : Prop := Runs .smbusTimeout s (fun t => t = { s.chip with smbHeld := none })

/-! ### Writes that act -/

/-- GO on an idle slot: the command word and the parameters are latched and the slot reads BUSY (R323). -/
def go (path : Path) (slot : Fin 16) (tag opcode : BitVec 8) (irq : Bool) (s : State) : Prop :=
  s.chip.serves path (4 + slot.val / 4) → s.chip.slotHeld slot.val = false → s.chip.controlLost = false →
    Runs (.go path slot tag opcode irq) s (fun t =>
      (t.slot slot.val).phase = .waiting ∧ (t.slot slot.val).opcode = opcode.toNat ∧ (t.slot slot.val).tag = tag.toNat
      ∧ (t.slot slot.val).irq = irq
      ∧ (t.slot slot.val).params = (List.range 56).map (fun i => s.chip.get (F.cmdSlotParam slot.val i))
      ∧ t.getN (F.cmdSlotStatusStatus slot.val) = stBusy ∧ t.flag (F.cmdSlotStatusDone slot.val) = false
      ∧ t.getBit F.cmd0Done slot.val = false ∧ (∀ i < 56, t.get (F.cmdSlotResult slot.val i) = 0)
      ∧ (∀ k, k ≠ slot.val → t.slot k = s.chip.slot k)
      ∧ s.chip.keeps t ([F.cmdSlotCmdIrq slot.val, F.cmdSlotCmdTag slot.val, F.cmdSlotCmdOpcode slot.val,
          F.cmdSlotStatusStatus slot.val, F.cmdSlotStatusDone slot.val, F.cmdSlotStatusTag slot.val,
          F.cmdSlotStatusOpcode slot.val, F.cmd0Done] ++ (List.range 56).map (F.cmdSlotResult slot.val))
      ∧ t = { s.chip with
        regs := t.regs, badParity := s.chip.parityAfter path (F.cmdSlotCmdGo slot.val).addr 0xF, reply := written, mail := { s.chip.mail with slots := t.mail.slots } })

/-- A GO on a busy slot, or while CONTROL_LOST = 1, is ignored and lost (R14, R323): the slot keeps its command. -/
def goBusy (path : Path) (slot : Fin 16) (tag opcode : BitVec 8) (irq : Bool) (s : State) : Prop :=
  s.chip.serves path (4 + slot.val / 4) → (s.chip.slotHeld slot.val = true ∨ s.chip.controlLost = true) →
    Runs (.go path slot tag opcode irq) s (fun t =>
      t.flag (F.hdrPgStatusTrgLost (4 + slot.val / 4)) = true
      ∧ t.getN F.cmd0Ignored = (s.chip.getN F.cmd0Ignored + 1) % 2 ^ 32
      ∧ s.chip.keeps t [F.cmd0Ignored, F.hdrPgStatusTrgLost (4 + slot.val / 4)]
      ∧ t = { s.chip with regs := t.regs, reply := written })

/-- APPLY on a port that is no upper member and not being checked: the check begins (R153). -/
def apply (path : Path) (p : Fin 48) (s : State) : Prop :=
  s.chip.serves path (0x2005 + p.val * 16) → s.chip.fusedUpper p.val = false → s.chip.checking.contains p.val = false →
    Runs (.apply path p) s (fun t =>
      t.flag (F.port5TreeStatusChecking p.val) = true ∧ s.chip.keeps t [F.port5TreeStatusChecking p.val]
      ∧ t = { s.chip with
        regs := t.regs, badParity := s.chip.parityAfter path (F.port5TreeCtrlApply p.val).addr 0xF, reply := written, checking := s.chip.checking ++ [p.val] })

/-- TREE_CHECK_DONE of a check that passes: the shadow tree becomes active, each subport running the tree that it has until
its next choice; RESULT is 0 and TREE_APPLIED counts (R153). -/
def treePasses (p : Fin 48) (s : State) : Prop :=
  s.chip.checking.contains p.val = true → s.chip.groupIsDark (p.val / 6) = false →
  (s.chip.sched p.val).shadow.firstFailure (s.chip.subports p.val) (s.chip.sched p.val).shadowBad = none →
    Runs (.treeCheckDone p []) s (fun t =>
      (t.sched p.val).active = (s.chip.sched p.val).shadow ∧ (t.sched p.val).shadow = (s.chip.sched p.val).shadow
      ∧ (∀ sub < s.chip.subports p.val, (t.sched p.val).treeOf sub = (s.chip.sched p.val).treeOf sub)
      ∧ (∀ q, q ≠ p.val → t.sched q = s.chip.sched q)
      ∧ t.getN (F.port5TreeStatusResult p.val) = 0 ∧ t.flag (F.port5TreeStatusChecking p.val) = false
      ∧ s.chip.counted t (F.port5TreeApplied p.val) 1
      ∧ s.chip.keeps t [F.port5TreeStatusResult p.val, F.port5TreeStatusChecking p.val, F.port5TreeApplied p.val]
      ∧ t = { s.chip with regs := t.regs, scheds := t.scheds, checking := s.chip.checking.filter (fun k => k != p.val) })

/-- TREE_CHECK_DONE of a check that fails: nothing is applied, and RESULT, BAD_NODE and BAD_CLASS say why (R153). -/
def treeFails (p : Fin 48) (r n c : Nat) (s : State) : Prop :=
  s.chip.checking.contains p.val = true → s.chip.groupIsDark (p.val / 6) = false →
  (s.chip.sched p.val).shadow.firstFailure (s.chip.subports p.val) (s.chip.sched p.val).shadowBad = some (r, n, c) →
    Runs (.treeCheckDone p []) s (fun t =>
      t.getN (F.port5TreeStatusResult p.val) = r % 16
      ∧ t.getN (F.port5TreeStatusBadNode p.val) = n % 256 ∧ t.getN (F.port5TreeStatusBadClass p.val) = c % 16
      ∧ t.flag (F.port5TreeStatusChecking p.val) = false
      ∧ s.chip.keeps t [F.port5TreeStatusResult p.val, F.port5TreeStatusChecking p.val, F.port5TreeStatusBadNode p.val,
          F.port5TreeStatusBadClass p.val]
      ∧ t = { s.chip with regs := t.regs, checking := s.chip.checking.filter (fun k => k != p.val) })

/-- INJECT_A, INJECT_B and INJECT_BOTH: a fault waits for the next slot of each replica named (R145). -/
def injectA (path : Path) (s : State) : Prop :=
  s.chip.serves path 0x100 → s.chip.fab.injectA = false →
    Runs (.injectA path) s (fun t => s.chip.keeps t [] ∧ t = { s.chip with
      regs := t.regs, badParity := s.chip.parityAfter path F.fabCcCtrlInjectA.addr 0xF, reply := written, fab := { s.chip.fab with injectA := true } })
def injectB (path : Path) (s : State) : Prop :=
  s.chip.serves path 0x100 → s.chip.fab.injectB = false →
    Runs (.injectB path) s (fun t => s.chip.keeps t [] ∧ t = { s.chip with
      regs := t.regs, badParity := s.chip.parityAfter path F.fabCcCtrlInjectB.addr 0xF, reply := written, fab := { s.chip.fab with injectB := true } })
def injectBoth (path : Path) (s : State) : Prop :=
  s.chip.serves path 0x100 → s.chip.fab.injectA = false → s.chip.fab.injectB = false →
    Runs (.injectBoth path) s (fun t => s.chip.keeps t [] ∧ t = { s.chip with
      regs := t.regs, badParity := s.chip.parityAfter path F.fabCcCtrlInjectBoth.addr 0xF, reply := written
      fab := { s.chip.fab with injectA := true, injectB := true } })

/-! ### Writes of port configuration -/

/-- PORT_MODE_WRITE of MODE, TWO_SHOT as it was, on a port with no subport enabled and no flow, no open session on a
subport that goes: the fields take the data, and a changed SPLIT leaves the reset tree of the new mode (R79, R154). -/
def portMode (path : Path) (p : Fin 48) (be : BitVec 4) (data : Word) (s : State) : Prop :=
  let w := mergeWord (s.chip.wordAt (F.port0ModeSplit p.val).addr) data (pathEnables path be)
  let split := bits w 1 0
  s.chip.serves path (0x2000 + p.val * 16) → s.chip.fusedUpper p.val = false → s.chip.flag (F.port0ModeTwoShot p.val) = false →
  s.chip.memberDark p.val = false → Store.find p.val s.chip.power.modeRun = none →
  (bit w 8 = false ∨ 42 ≤ p.val) → s.chip.getN (F.port0CtrlEnable p.val) = 0 → s.chip.getN (F.admStatusFlows p.val) = 0 →
  s.chip.someSession (fun c => cfgPort c == p.val && decide (2 ^ split ≤ cfgSub c)) = false →
    Runs (.portModeWrite path p false be data) s (fun t =>
      t.getN (F.port0ModeSplit p.val) = split ∧ t.getN (F.port0ModeIfType p.val) = bits w 5 4
      ∧ (split ≠ s.chip.getN (F.port0ModeSplit p.val) → t.sched p.val = schedReset (2 ^ split))
      ∧ s.chip.keeps t [F.port0ModeSplit p.val, F.port0ModeIfType p.val, F.port5TreeStatusChecking p.val]
      ∧ t = { s.chip with
        regs := t.regs, badParity := s.chip.parityAfter path (F.port0ModeSplit p.val).addr be, reply := written, scheds := t.scheds, checking := t.checking })

/-- A change of MODE with a subport enabled or a flow admitted is held: MODE_HELD, and nothing else (R79). -/
def portModeHeld (path : Path) (p : Fin 48) (be : BitVec 4) (data : Word) (s : State) : Prop :=
  let w := mergeWord (s.chip.wordAt (F.port0ModeSplit p.val).addr) data (pathEnables path be)
  s.chip.serves path (0x2000 + p.val * 16) → s.chip.fusedUpper p.val = false →
  (bits w 1 0 ≠ s.chip.getN (F.port0ModeSplit p.val) ∨ bits w 5 4 ≠ s.chip.getN (F.port0ModeIfType p.val)) →
  (s.chip.getN (F.port0CtrlEnable p.val) ≠ 0 ∨ s.chip.getN (F.admStatusFlows p.val) ≠ 0) →
    Runs (.portModeWrite path p false be data) s (fun t =>
      t.flag (F.port0StatusModeHeld p.val) = true ∧ s.chip.keeps t [F.port0StatusModeHeld p.val] ∧ s.chip.onlyHost t path (F.port0ModeSplit p.val).addr be)

/-- MAXFRAME rises only while no flow is admitted; otherwise the write is held (R79). -/
def maxframeWrite (path : Path) (p : Fin 48) (be : BitVec 4) (data : Word) (s : State) : Prop :=
  let n := bits (mergeWord (s.chip.wordAt (F.port0Maxframe p.val).addr) data (pathEnables path be)) 13 0
  s.chip.serves path (0x2000 + p.val * 16) → s.chip.fusedUpper p.val = false →
    Runs (.portModeWrite path p true be data) s (fun t =>
      s.chip.onlyHost t path (F.port0Maxframe p.val).addr be
      ∧ (s.chip.getN (F.port0Maxframe p.val) < n ∧ s.chip.getN (F.admStatusFlows p.val) ≠ 0 →
          t.flag (F.port0StatusModeHeld p.val) = true ∧ s.chip.keeps t [F.port0StatusModeHeld p.val])
      ∧ (n ≤ s.chip.getN (F.port0Maxframe p.val) ∨ s.chip.getN (F.admStatusFlows p.val) = 0 →
          t.getN (F.port0Maxframe p.val) = n ∧ s.chip.keeps t [F.port0Maxframe p.val]))

/-- TWO_SHOT_WRITE under R89's conditions: the pair fuses or parts; its trees and lists are those of reset, and each
limit of the lower slice is 1,536 cells when fused and 768 when not (R89, R135, R154, R162). -/
def twoShot (path : Path) (p : Fin 48) (be : BitVec 4) (data : Word) (s : State) : Prop :=
  let w := mergeWord (s.chip.wordAt (F.port0ModeTwoShot p.val).addr) data (pathEnables path be)
  s.chip.serves path (0x2000 + p.val * 16) → p.val < 42 → s.chip.fusedUpper p.val = false →
  bit w 8 ≠ s.chip.fusedLower p.val → s.chip.fuseAllowed p.val (bits w 1 0) = true →
  s.chip.memberDark p.val = false → s.chip.memberDark (p.val + 6) = false → Store.find p.val s.chip.power.modeRun = none →
    Runs (.twoShotWrite path p be data) s (fun t =>
      t.flag (F.port0ModeTwoShot p.val) = bit w 8 ∧ t.getN (F.port0ModeIfType p.val) = bits w 5 4
      ∧ (∀ c < 16, t.getN (F.buf0Limit p.val c) = if bit w 8 then 1536 else 768)
      ∧ t.sched p.val = schedReset 1 ∧ t.sched (p.val + 6) = schedReset 1
      ∧ t.gate p.val = gateDefault ∧ t.gate (p.val + 6) = gateDefault
      ∧ s.chip.keepsOff t (fun pg => [0x120, 0x2000 + p.val * 16, 0x2005 + p.val * 16, 0x2065 + p.val * 16].contains pg)
      ∧ t = { s.chip with
        regs := t.regs, badParity := s.chip.parityAfter path (F.port0ModeTwoShot p.val).addr be, reply := written, scheds := t.scheds, gates := t.gates
        checking := t.checking, fuses := t.fuses })

/-- TWO_SHOT_WRITE under R89's conditions while a member is dark: MODE takes the data, the mode that the ports run is kept, and
nothing else changes until the wake (R51, R96). -/
def twoShotDark (path : Path) (p : Fin 48) (be : BitVec 4) (data : Word) (s : State) : Prop :=
  let w := mergeWord (s.chip.wordAt (F.port0ModeTwoShot p.val).addr) data (pathEnables path be)
  s.chip.serves path (0x2000 + p.val * 16) → p.val < 42 → s.chip.fusedUpper p.val = false →
  bit w 8 ≠ s.chip.fusedLower p.val → s.chip.fuseAllowed p.val (bits w 1 0) = true →
  s.chip.memberDark (p.val + 6) = true → Store.find p.val s.chip.power.modeRun = none →
    Runs (.twoShotWrite path p be data) s (fun t =>
      t.flag (F.port0ModeTwoShot p.val) = bit w 8 ∧ t.getN (F.port0ModeIfType p.val) = bits w 5 4
      ∧ Store.find p.val t.power.modeRun = some (0, s.chip.fusedLower p.val)
      ∧ (∀ q, q ≠ p.val → Store.find q t.power.modeRun = Store.find q s.chip.power.modeRun)
      ∧ s.chip.keeps t [F.port0ModeTwoShot p.val, F.port0ModeIfType p.val, F.port0ModeSplit p.val]
      ∧ t = { s.chip with
        regs := t.regs, badParity := s.chip.parityAfter path (F.port0ModeTwoShot p.val).addr be, reply := written
        power := { s.chip.power with modeRun := t.power.modeRun } })

/-- Writes of MODE, MAXFRAME, HOLD, CTRL and MERGE, and of LKP_CTRL, of the upper member of a fused pair change nothing but
MODE_HELD (R89, R116). -/
def upperHeld (path : Path) (p : Fin 48) (be : BitVec 4) (data : Word) (s : State) : Prop :=
  let held := fun (t : Chip) => t.flag (F.port0StatusModeHeld p.val) = true
    ∧ s.chip.keeps t [F.port0StatusModeHeld p.val] ∧ t = { s.chip with regs := t.regs, reply := written }
  s.chip.serves path (0x2000 + p.val * 16) → s.chip.fusedUpper p.val = true →
    (∀ maxframe, Runs (.portModeWrite path p maxframe be data) s held)
    ∧ Runs (.registerWrite path (BitVec.ofNat 27 (F.port0HoldHoldNs p.val).addr) be data) s held
    ∧ (s.chip.serves path (0x2003 + p.val * 16) →
        Runs (.registerWrite path (BitVec.ofNat 27 (F.port3LkpCtrlNonmpls p.val).addr) be data) s held)
    ∧ Runs (.enableWrite path p be data) s held ∧ Runs (.mergeEnWrite path p be data) s held

/-- TWO_SHOT_WRITE otherwise: MODE_HELD, and nothing else (R89). -/
def twoShotHeld (path : Path) (p : Fin 48) (be : BitVec 4) (data : Word) (s : State) : Prop :=
  let w := mergeWord (s.chip.wordAt (F.port0ModeTwoShot p.val).addr) data (pathEnables path be)
  s.chip.serves path (0x2000 + p.val * 16) →
  (s.chip.fusedUpper p.val = true
    ∨ (p.val < 42 ∧ bit w 8 ≠ s.chip.fusedLower p.val ∧ s.chip.fuseAllowed p.val (bits w 1 0) = false)) →
    Runs (.twoShotWrite path p be data) s (fun t =>
      t.flag (F.port0StatusModeHeld p.val) = true ∧ s.chip.keeps t [F.port0StatusModeHeld p.val]
      ∧ t = { s.chip with
        regs := t.regs, reply := written
        badParity := if s.chip.fusedUpper p.val then s.chip.badParity
          else s.chip.parityAfter path (F.port0ModeTwoShot p.val).addr be })

/-- ENABLE_WRITE that enables subports of a port on which none was: each starts its bring-up on every member, at
negotiation for CR, else waiting for alignment, and while the core setting is IDLE waiting for RUN, where the lane maps are
permutations; otherwise MAP_BAD. A dark member's wait for its wake. No other link changes (R83, R85, R86, R96, R247). -/
def enableRises (path : Path) (p : Fin 48) (be : BitVec 4) (data : Word) (s : State) : Prop :=
  let w := mergeWord (s.chip.wordAt (F.port0CtrlEnable p.val).addr) data (pathEnables path be)
  s.chip.serves path (0x2000 + p.val * 16) → s.chip.fusedUpper p.val = false →
  s.chip.getN (F.port0CtrlEnable p.val) = 0 → bits w 7 0 ≠ 0 → (s.chip.members p.val).all s.chip.memberDark = false →
  (loopback (s.chip.getN (F.port0CtrlLoopback p.val)) = 1 ↔ loopback (bits w 9 8) = 1) →
    Runs (.enableWrite path p be data) s (fun t =>
      t.getN (F.port0CtrlEnable p.val) = bits w 7 0 ∧ t.getN (F.port0CtrlLoopback p.val) = bits w 9 8
      ∧ ((s.chip.members p.val).all s.chip.mapsOk = true →
          t.flag (F.port0StatusMapBad p.val) = false
          ∧ (∀ m ∈ s.chip.members p.val, s.chip.memberDark m = false → ∀ sub < s.chip.subports p.val, bit w sub = true →
              t.link m sub = { s.chip.link m sub with phase := s.chip.firstPhase m, verifying := false })
          ∧ ∀ m sub, sub < 8 → (m ∉ s.chip.members p.val ∨ s.chip.memberDark m = true ∨ s.chip.subports p.val ≤ sub
              ∨ bit w sub = false) → t.link m sub = s.chip.link m sub)
      ∧ ((s.chip.members p.val).all s.chip.mapsOk = false →
          t.flag (F.port0StatusMapBad p.val) = true ∧ t.links = s.chip.links)
      ∧ s.chip.keeps t [F.port0CtrlEnable p.val, F.port0CtrlLoopback p.val, F.port0StatusMapBad p.val]
      ∧ t = { s.chip with
        regs := t.regs, badParity := s.chip.parityAfter path (F.port0CtrlEnable p.val).addr be, reply := written, links := t.links, calRun := t.calRun })

/-- ENABLE_WRITE that disables every subport: each link that was enabled is down on every member (R85). -/
def enableFalls (path : Path) (p : Fin 48) (be : BitVec 4) (data : Word) (s : State) : Prop :=
  let w := mergeWord (s.chip.wordAt (F.port0CtrlEnable p.val).addr) data (pathEnables path be)
  s.chip.serves path (0x2000 + p.val * 16) → s.chip.fusedUpper p.val = false → bits w 7 0 = 0 → s.chip.framesInRange →
  (loopback (s.chip.getN (F.port0CtrlLoopback p.val)) = 1 ↔ loopback (bits w 9 8) = 1) →
    Runs (.enableWrite path p be data) s (fun t =>
      t.getN (F.port0CtrlEnable p.val) = 0 ∧ t.getN (F.port0CtrlLoopback p.val) = bits w 9 8
      ∧ (∀ m ∈ s.chip.members p.val, ∀ sub < s.chip.subports p.val, s.chip.getBit (F.port0CtrlEnable p.val) sub = true →
          t.getBit (F.port0StatusLinkUp m) sub = false ∧ (t.link m sub).phase = .down)
      ∧ (∀ q sub, sub < 8 → q ∉ s.chip.members p.val → t.link q sub = s.chip.link q sub)
      ∧ s.chip.keepsOff t (fun pg => trafficPage pg || ringPage pg)
      ∧ t = { s.chip with
        regs := t.regs, badParity := s.chip.parityAfter path (F.port0CtrlEnable p.val).addr be, reply := written
        frames := t.frames, nextFrame := t.nextFrame, fab := t.fab, links := t.links, fuses := t.fuses, scheds := t.scheds
        kib := t.kib, sessions := t.sessions, tails := t.tails, calRun := t.calRun, refs := t.refs
        ringMem := t.ringMem, hostTokens := t.hostTokens, ringTokens := t.ringTokens, msix := t.msix })

/-- ENABLE_WRITE that switches near-end loopback and leaves ENABLE as it was: the receivers turn to another source, so that
every link of the port that is up falls, an enabled one to the start of its bring-up (R84, R86; log 86). -/
def loopTurns (path : Path) (p : Fin 48) (be : BitVec 4) (data : Word) (s : State) : Prop :=
  let w := mergeWord (s.chip.wordAt (F.port0CtrlEnable p.val).addr) data (pathEnables path be)
  s.chip.serves path (0x2000 + p.val * 16) → s.chip.fusedUpper p.val = false → s.chip.framesInRange →
  s.chip.getN (F.port0CtrlEnable p.val) = bits w 7 0 → s.chip.flag (F.port0StatusMapBad p.val) = false →
  ¬ (loopback (s.chip.getN (F.port0CtrlLoopback p.val)) = 1 ↔ loopback (bits w 9 8) = 1) →
    Runs (.enableWrite path p be data) s (fun t =>
      t.getN (F.port0CtrlLoopback p.val) = bits w 9 8 ∧ t.getN (F.port0CtrlEnable p.val) = bits w 7 0
      ∧ (∀ m ∈ s.chip.members p.val, s.chip.memberDark m = false → ∀ sub < s.chip.subports p.val,
          (s.chip.link m sub).phase ≠ .down →
          t.getBit (F.port0StatusLinkUp m) sub = false
          ∧ (t.link m sub).phase = (if s.chip.getBit (F.port0StatusLinkUp m) sub
              then (if bit w sub then s.chip.startPhase m else .down) else s.chip.fallBack m false (s.chip.link m sub).phase))
      ∧ (∀ q sub, sub < 8 → q ∉ s.chip.members p.val → t.link q sub = s.chip.link q sub)
      ∧ s.chip.keepsOff t (fun pg => trafficPage pg || ringPage pg)
      ∧ t = { s.chip with
        regs := t.regs, badParity := s.chip.parityAfter path (F.port0CtrlEnable p.val).addr be, reply := written
        frames := t.frames, nextFrame := t.nextFrame, fab := t.fab, links := t.links, fuses := t.fuses, scheds := t.scheds
        kib := t.kib, sessions := t.sessions, tails := t.tails, calRun := t.calRun, refs := t.refs
        ringMem := t.ringMem, hostTokens := t.hostTokens, ringTokens := t.ringTokens, msix := t.msix })

/-- MERGE_EN_WRITE that sets MERGE_EN: the verify process starts on every enabled subport whose link is up, with a verify
frame, which counts, and its slate (R67, R177, R346; log 111). -/
def mergeEnSet (path : Path) (p : Fin 48) (be : BitVec 4) (data : Word) (s : State) : Prop :=
  let w := mergeWord (s.chip.wordAt (F.port0MergeMergeEn p.val).addr) data (pathEnables path be)
  s.chip.serves path (0x2000 + p.val * 16) → s.chip.fusedUpper p.val = false →
  s.chip.flag (F.port0MergeMergeEn p.val) = false → bit w 0 = true → s.chip.coresRun = true → s.chip.farLoop p.val = false →
    Runs (.mergeEnWrite path p be data) s (fun t =>
      t.flag (F.port0MergeMergeEn p.val) = true ∧ t.getN (F.port0MergeAddFragSize p.val) = bits w 9 8
      ∧ (∀ m ∈ s.chip.members p.val, ∀ sub < s.chip.subports p.val, s.chip.getBit (F.port0CtrlEnable p.val) sub = true →
          s.chip.getBit (F.port0StatusLinkUp m) sub = true → (t.link m sub).verifying = true
            ∧ (∃ x ∈ t.out, x.port = m ∧ x.sub = sub ∧ x.body = .verify)
            ∧ s.chip.counted t (F.trafTxFrames m sub Config.ownClass) 1)
      ∧ (∀ q sub, (t.link q sub).phase = (s.chip.link q sub).phase)
      ∧ s.chip.keeps t ([F.port0MergeMergeEn p.val, F.port0MergeAddFragSize p.val]
          ++ (s.chip.members p.val).flatMap (fun m => (List.range 8).flatMap (sentFields m)))
      ∧ t = { s.chip with
        regs := t.regs, kib := t.kib, badParity := s.chip.parityAfter path (F.port0MergeMergeEn p.val).addr be, reply := written, links := t.links
        out := t.out, slateSeq := t.slateSeq, slateStep := t.slateStep, slateLost := t.slateLost })

/-- MERGE_EN_WRITE that clears MERGE_EN: preemption ends on every subport of every member, and MERGE_LOST tells where flows
were admitted under it (R67, R68). -/
def mergeEnClear (path : Path) (p : Fin 48) (be : BitVec 4) (data : Word) (s : State) : Prop :=
  let w := mergeWord (s.chip.wordAt (F.port0MergeMergeEn p.val).addr) data (pathEnables path be)
  s.chip.serves path (0x2000 + p.val * 16) → s.chip.fusedUpper p.val = false →
  s.chip.flag (F.port0MergeMergeEn p.val) = true → bit w 0 = false →
    Runs (.mergeEnWrite path p be data) s (fun t =>
      t.flag (F.port0MergeMergeEn p.val) = false ∧ t.getN (F.port0MergeAddFragSize p.val) = bits w 9 8
      ∧ (∀ m ∈ s.chip.members p.val, ∀ sub < s.chip.subports p.val, t.getBit (F.admStatusMergeActive m) sub = false
          ∧ (s.chip.getBit (F.admStatusMergeActive m) sub = true → s.chip.underMerge p.val sub = true →
              t.flag (F.admStatusMergeLost p.val) = true))
      ∧ ((∀ sub, s.chip.underMerge p.val sub = false) →
          t.flag (F.admStatusMergeLost p.val) = s.chip.flag (F.admStatusMergeLost p.val))
      ∧ s.chip.keeps t [F.port0MergeMergeEn p.val, F.port0MergeAddFragSize p.val, F.admStatusMergeActive p.val,
          F.admStatusMergeActive (p.val + 6), F.admStatusMergeLost p.val]
      ∧ t = { s.chip with regs := t.regs, badParity := s.chip.parityAfter path (F.port0MergeMergeEn p.val).addr be, reply := written, links := t.links })

/-- CLKOUT_CFG_WRITE: EN and DIV take the data, and an enabled output is squelched in fallback where its divider is no
multiple of 10, which SQUELCHES counts; the output itself takes the change at its edges (R245, R252). -/
def clkoutCfg (path : Path) (n : Fin 8) (be : BitVec 4) (data : Word) (s : State) : Prop :=
  let w := mergeWord (s.chip.wordAt (F.pll1ClkoutCfgEn n.val).addr) data (pathEnables path be)
  let sq := bit w 31 && s.chip.flag F.pll0MstatusFallback && clamp 8 10000000 (bits w 23 0) % 10 != 0
  s.chip.serves path 0x41 →
    Runs (.clkoutCfgWrite path n be data) s (fun t =>
      t.flag (F.pll1ClkoutCfgEn n.val) = bit w 31 ∧ t.getN (F.pll1ClkoutCfgDiv n.val) = bits w 23 0
      ∧ t.flag (F.pll1ClkoutStatusSquelched n.val) = sq
      ∧ s.chip.counted t F.pll0Squelches (ofBool (sq && !s.chip.flag (F.pll1ClkoutStatusSquelched n.val)))
      ∧ s.chip.keeps t [F.pll1ClkoutCfgEn n.val, F.pll1ClkoutCfgDiv n.val, F.pll1ClkoutStatusSquelched n.val,
          F.pll0Squelches]
      ∧ s.chip.onlyHost t path (F.pll1ClkoutCfgEn n.val).addr be)

/-- PPSOUT_CFG_WRITE of CFG: EN and PERIOD_NS take the data, and CFG_BAD says whether the period is valid; an output that it
turns off, or leaves without a valid period, stops (R254). -/
def ppsoutCfg (path : Path) (n : Fin 4) (be : BitVec 4) (data : Word) (s : State) : Prop :=
  let w := mergeWord (s.chip.wordAt (F.pll1PpsCfgEn n.val).addr) data (pathEnables path be)
  s.chip.serves path 0x41 →
    Runs (.ppsoutCfgWrite path n 0 be data) s (fun t =>
      t.flag (F.pll1PpsCfgEn n.val) = bit w 31 ∧ t.getN (F.pll1PpsCfgPeriodNs n.val) = bits w 29 0
      ∧ t.flag (F.pll1PpsStatusCfgBad n.val) = !periodOk (bits w 29 0)
      ∧ (bit w 31 = false ∨ periodOk (bits w 29 0) = false → t.flag (F.pll1PpsStatusRunning n.val) = false)
      ∧ (∀ k, k ≠ n.val → t.pulse k = s.chip.pulse k)
      ∧ s.chip.keeps t [F.pll1PpsCfgEn n.val, F.pll1PpsCfgPeriodNs n.val, F.pll1PpsStatusCfgBad n.val,
          F.pll1PpsStatusRunning n.val]
      ∧ t = { s.chip with regs := t.regs, badParity := s.chip.parityAfter path (F.pll1PpsCfgEn n.val).addr be, reply := written, pulses := t.pulses })

/-- PPSOUT_CFG_WRITE of WIDTH or DELAY of an output that is enabled: the change waits until 1 µs of network time has
passed (R254). -/
def ppsoutShape (path : Path) (n : Fin 4) (reg : Fin 3) (be : BitVec 4) (data : Word) (s : State) : Prop :=
  let f := if reg = 1 then F.pll1PpsWidth n.val else F.pll1PpsDelay n.val
  let w := mergeWord (s.chip.wordAt f.addr) data (pathEnables path be)
  let v := if reg = 1 then bits w 29 0 else w.toNat
  s.chip.serves path 0x41 → reg ≠ 0 → s.chip.ppsOn n.val = true →
    Runs (.ppsoutCfgWrite path n reg be data) s (fun t =>
      t.getN f = v
      ∧ (t.pulse n.val).pending = (s.chip.pulse n.val).pending ++
          [(s.chip.getN (F.pll1PpsCfgPeriodNs n.val), if reg = 1 then v else s.chip.getN (F.pll1PpsWidth n.val),
            if reg = 1 then signed 32 (s.chip.getN (F.pll1PpsDelay n.val)) else signed 32 v, (s.chip.net : Int) + microsecond)]
      ∧ (∀ k, k ≠ n.val → t.pulse k = s.chip.pulse k)
      ∧ s.chip.keeps t [f, F.pll1PpsStatusCfgBad n.val]
      ∧ t = { s.chip with
        regs := t.regs, badParity := s.chip.parityAfter path f.addr be, reply := written, pulses := t.pulses })

/-- EV_MODE_WRITE: MODE, IRQ_EN and EDGE_SEL take the data; the reel stands (R272). -/
def evModeSet (path : Path) (e : Fin 8) (be : BitVec 4) (data : Word) (s : State) : Prop :=
  let w := mergeWord (s.chip.wordAt (F.evCtrlMode e.val).addr) data (pathEnables path be)
  s.chip.serves path (0x51 + e.val) →
    Runs (.evModeWrite path e be data) s (fun t =>
      t.getN (F.evCtrlMode e.val) = bits w 1 0 ∧ t.flag (F.evCtrlIrqEn e.val) = bit w 4
      ∧ t.getN (F.evCtrlEdgeSel e.val) = bits w 9 8
      ∧ s.chip.keeps t [F.evCtrlMode e.val, F.evCtrlIrqEn e.val, F.evCtrlEdgeSel e.val, F.evStatusDmaStall e.val]
      ∧ s.chip.onlyHost t path (F.evCtrlMode e.val).addr be)

/-- RWP_WRITE of PERS.STRAP_OVR, not worn and outside the dip state, with room in the queue: both fields take the data
and the word's commit is queued last (R314, R316). -/
def rwpSet (path : Path) (be : BitVec 4) (data : Word) (s : State) : Prop :=
  let w := mergeWord (s.chip.wordAt F.pers1StrapOvrMask.addr) data (pathEnables path be)
  s.chip.serves path 0x11 → s.chip.worn strapIndex = false → s.chip.inDip = false → s.chip.power.commits.length < 64 →
    Runs (.rwpWrite path be data) s (fun t =>
      t.getN F.pers1StrapOvrMask = bits w 31 16 ∧ t.getN F.pers1StrapOvrValue = bits w 15 0
      ∧ t.power = { s.chip.power with commits := s.chip.power.commits ++ [(strapIndex, w)] }
      ∧ s.chip.keeps t [F.pers1StrapOvrMask, F.pers1StrapOvrValue]
      ∧ t = { s.chip with regs := t.regs, badParity := s.chip.parityAfter path F.pers1StrapOvrMask.addr be, reply := written, power := t.power })

/-- RWP_WRITE of a worn word is discarded: WORN and WORN_ADDR tell it, and HLTH a fault (R315). -/
def rwpWorn (path : Path) (be : BitVec 4) (data : Word) (s : State) : Prop :=
  s.chip.serves path 0x11 → s.chip.worn strapIndex = true →
    Runs (.rwpWrite path be data) s (fun t =>
      t.flag F.pers0StatusWorn = true ∧ t.getN F.pers0WornAddr = strapIndex ∧ t.getBit F.hlthFault fPers = true
      ∧ s.chip.keeps t [F.pers0StatusWorn, F.pers0WornAddr, F.hlthFault]
      ∧ t = { s.chip with regs := t.regs, msix := t.msix, reply := written })

/-! ### Frames: receive, admission, cells -/

/-- FRAME_RECEIVE on a subport that carries no frames: nothing happens (R86, R90). A verify or respond frame asks its own
member's link alone. -/
def receiveNot (f : RxFrame) (s : State) : Prop :=
  (f.smd = .frame ∧ s.chip.receives f.port.val f.sub.val = false) ∨ s.chip.coresRun = false
    ∨ s.chip.getBit (F.port0StatusLinkUp f.port.val) f.sub.val = false →
    Runs (.frameReceive f) s (fun t => t = s.chip)

/-- FRAME_RECEIVE of a verify frame on a link that is up is answered by a respond frame, and a respond frame goes no further
(R67; log 114). -/
def receiveVerify (f : RxFrame) (s : State) : Prop :=
  s.chip.coresRun = true → s.chip.getBit (F.port0StatusLinkUp f.port.val) f.sub.val = true → s.chip.farLoop f.port.val = false →
    (f.smd = .verify → Runs (.frameReceive f) s (fun t =>
      originates f.port.val f.sub.val s.chip t ∧ (∃ x, t.out = s.chip.out ++ [x] ∧ x.body = .respond)
      ∧ s.chip.keeps t (sentFields f.port.val f.sub.val)
      ∧ t = { s.chip with
        regs := t.regs, kib := t.kib, out := t.out, slateSeq := t.slateSeq, slateStep := t.slateStep
        slateLost := t.slateLost }))
    ∧ (f.smd = .respond → Runs (.frameReceive f) s (fun t => t = s.chip))

/-- FRAME_RECEIVE of a probe that CAL_ASYM sent and that comes back to its subport: it counts as received, its RX slate takes
the next SEQ of KIND 0, and it goes no further (R177, R283). -/
def receiveProbe (f : RxFrame) (r : CalRun) (s : State) : Prop :=
  let src := f.port.val * 8 + f.sub.val
  s.chip.receives f.port.val f.sub.val = true → f.len ≤ s.chip.maxframe f.port.val → f.smd = .frame → f.etype = 0x88B5 →
  f.da = peerAddress → f.tags = [] → s.chip.calRun = some r → r.kind = 4 → r.target = src → r.probes ≠ 0 →
    Runs (.frameReceive f) s (fun t =>
      s.chip.counted t (F.trafRxFrames f.port.val f.sub.val) 1
      ∧ Store.read 0 t.slateSeq src = Store.read 0 s.chip.slateSeq src + 1
      ∧ (∀ k, k ≠ src → Store.read 0 t.slateSeq k = Store.read 0 s.chip.slateSeq k)
      ∧ s.chip.keeps t [F.trafRxFrames f.port.val f.sub.val, F.port2FecCorrected f.port.val f.sub.val,
          F.trafRxKib f.port.val f.sub.val]
      ∧ t = { s.chip with
        regs := t.regs, kib := t.kib, slateSeq := t.slateSeq, slateStep := t.slateStep, slateLost := t.slateLost })

/-- What is left of a frame after the ingress port's MAXFRAME (R64). -/
def rxLen (f : RxFrame) (c : Chip) : Nat := min f.len (c.maxframe f.port.val)

/-- A frame reaches the parser on a port of no fused pair, and meets no table error: FRAME_RECEIVE consumes none such. -/
def parsed (f : RxFrame) (c : Chip) : Prop :=
  c.receives f.port.val f.sub.val = true ∧ c.lowerOf f.port.val = f.port.val ∧ c.fusedLower f.port.val = false
    ∧ f.smd = .frame ∧ f.etype ≠ 0x8808 ∧ f.upsets = [] ∧ ¬ (f.etype = 0x88B5 ∧ f.da = peerAddress ∧ f.tags = [])

/-- Its address is right for the port's DA_CHECK. -/
def addressed (f : RxFrame) (c : Chip) : Prop :=
  c.flag (F.port3LkpCtrlDaCheck f.port.val) = false ∨ bit f.da 40 = true ∨ f.da = c.subMac f.port.val f.sub.val

/-- A frame counts as received, one cut at MAXFRAME and one of more than 8 labels in counters of their own, and the counters
named rise by one; of all others only those of a further list may change. -/
def received (f : RxFrame) (ctrs also : List Fld) (c t : Chip) : Prop :=
  let p := f.port.val
  c.counted t (F.trafRxFrames p f.sub.val) 1 ∧ c.counted t (F.port2FecCorrected p f.sub.val) f.fec
    ∧ c.counted t (F.port2RxOversize p f.sub.val) (ofBool (decide (c.maxframe p < f.len)))
    ∧ c.counted t (F.trafRxKib p f.sub.val)
        ((Store.read 0 c.kib (F.trafRxKib p f.sub.val).addr + rxLen f c) / 1024)
    ∧ (∀ x ∈ ctrs, c.counted t x 1)
    ∧ c.keeps t ([F.trafRxFrames p f.sub.val, F.port2FecCorrected p f.sub.val, F.port2RxOversize p f.sub.val,
        F.trafRxKib p f.sub.val] ++ ctrs ++ also)

/-- FRAME_RECEIVE counts the frame and those counters, and the frame goes no further. -/
def stopsAt (f : RxFrame) (ctrs : List Fld) (s : State) : Prop :=
  Runs (.frameReceive f) s (fun t => received f ctrs [] s.chip t ∧ t = { s.chip with regs := t.regs, kib := t.kib })

/-- FRAME_RECEIVE gives the frame, as it arrived, to a receive ring (R106, R107, R109): a frame that its rates do not let pass
counts in POLICED, one for which no descriptor is ready in RING_FULL; any other fills the buffer of the descriptor at HEAD,
which then shows its length, TRUNC, its port and subport and OWN clear, HEAD advances, and the vector is raised with IRQ_EN. -/
def ringTakes (f : RxFrame) (n : Nat) (ctrs : List Fld) (s : State) : Prop :=
  let c := s.chip
  let k := c.getN (F.ringHead n) % c.ringSize n
  let buf := bits (c.desc n k 2) 31 16
  let cost := rxLen f c * 8000
  let room := c.hostTokens + cost ≤ 64 * 1024 * 8000
    ∧ (c.getN (F.ringRate n) = 0 ∨ Store.read 0 c.ringTokens n + cost ≤ 16 * 1024 * 8000)
  let given := c.flag (F.ringCtrlEnable n) = true ∧ c.handedOver n = true ∧ f.tooLate = false
  Runs (.frameReceive f) s (fun t =>
    received f ctrs [F.ringPoliced n, F.ringRingFull n, F.ringHead n, F.ringFrames n] c t
    ∧ c.counted t (F.ringPoliced n) (if room then 0 else 1)
    ∧ c.counted t (F.ringRingFull n) (if room ∧ ¬ given then 1 else 0)
    ∧ c.counted t (F.ringFrames n) (if room ∧ given then 1 else 0)
    ∧ t.getN (F.ringHead n) = (if room ∧ given then (c.getN (F.ringHead n) + 1) % c.ringSize n else c.getN (F.ringHead n))
    ∧ t.hostTokens = (if room ∧ given then c.hostTokens + cost else c.hostTokens)
    ∧ t.ringTokens = (if room ∧ given ∧ c.getN (F.ringRate n) ≠ 0 then
        Store.write 0 c.ringTokens n (Store.read 0 c.ringTokens n + cost) else c.ringTokens)
    ∧ t.msix = (if room ∧ given ∧ c.flag (F.ringCtrlIrqEn n) = true then c.msix ||| BitVec.ofNat 64 (2 ^ n) else c.msix)
    ∧ (¬ (room ∧ given) → t.ringMem = c.ringMem)
    ∧ (room → given →
        bits (t.desc n k 2) 15 0 = min (rxLen f c) buf ∧ bits (t.desc n k 2) 31 16 = buf
        ∧ bit (t.desc n k 3) 31 = false ∧ bit (t.desc n k 3) 30 = decide (buf < rxLen f c)
        ∧ bits (t.desc n k 3) 29 24 = f.port.val ∧ bits (t.desc n k 3) 23 21 = f.sub.val
        ∧ ∀ j, j ≠ descKey n k 2 → j ≠ descKey n k 3 → Store.read 0 t.ringMem j = Store.read 0 c.ringMem j)
    ∧ t = { c with
      regs := t.regs, kib := t.kib, ringMem := t.ringMem, hostTokens := t.hostTokens, ringTokens := t.ringTokens
      msix := t.msix })

/-- The tag that a next-hop entry gives a frame of a class (R102). -/
def tagOf (h : BitVec 128) (cls : Nat) : Option (BitVec 16 × BitVec 16) :=
  if nhVlan h = 1 then some (0x8100, BitVec.ofNat 16 (cls / 2 * 2 ^ 13 + nhVid h))
  else if nhVlan h = 2 then some (0x88A8, BitVec.ofNat 16 (cls / 2 * 2 ^ 13 + nhVid h)) else none

/-- A next-hop entry leads to a subport that is there (R102). -/
def leadsOut (h : BitVec 128) (c : Chip) : Prop :=
  nhValid h = true ∧ nhPort h < 48 ∧ nhSub h < c.subports (c.lowerOf (nhPort h))

/-- FRAME_RECEIVE sends the frame on through next-hop entry i, with `len` bytes before its new tag, in a class, with labels of
which Q holds, an EtherType, tags kept under the new one, and its flow: it enters the pipeline for that subport, cut at the
output's MAXFRAME, where LEN_OVER counts it (R102). -/
def goesOn (f : RxFrame) (i len cls : Nat) (Q : List (BitVec 32) → Prop) (etype : BitVec 16)
    (under : List (BitVec 16 × BitVec 16)) (flow : Option Nat) (unadmitted : Bool) (ctrs also : List Fld) (dn : Chip → Prop)
    (s : State) : Prop :=
  let c := s.chip
  let h := c.tentry 1 i
  let out := c.lowerOf (nhPort h)
  let n := len + (if (tagOf h cls).isSome then 4 else 0)
  Runs (.frameReceive f) s (fun t =>
    (∃ g, t.frames = c.frames ++ [g] ∧ g.id = c.nextFrame ∧ g.inPort = f.port.val ∧ g.inSub = f.sub.val ∧ g.outPort = out
      ∧ g.outSub = nhSub h ∧ g.cls = cls ∧ g.len = min n (c.maxframe out)
      ∧ g.bad = (decide (c.maxframe out < n) || decide (c.maxframe f.port.val < f.len))
      ∧ g.rxStamp = c.rxStamp f.port.val f.sub.val f.stamp ∧ g.express = false ∧ g.taken = false ∧ g.started = false
      ∧ g.flow = flow ∧ g.unadmitted = unadmitted ∧ g.entry = (match flow with | some k => c.tentry 2 k | none => 0)
      ∧ Q g.hdr.stack ∧ g.hdr.etype = etype ∧ g.hdr.dmac = nhDmac h ∧ g.hdr.smac = c.subMac out (nhSub h)
      ∧ g.hdr.tag = tagOf h cls ∧ g.hdr.under = under)
    ∧ t.nextFrame = c.nextFrame + 1
    ∧ received f ctrs (F.port3LenOver f.port.val :: also) c t
    ∧ c.counted t (F.port3LenOver f.port.val) (ofBool (decide (c.maxframe out < n)))
    ∧ dn t
    ∧ t = { c with
      regs := t.regs, kib := t.kib, frames := t.frames, nextFrame := t.nextFrame, frameNos := t.frameNos, dn := t.dn })

/-- A label stack reads so, top first, and S stands at its bottom alone (R99). -/
def stackReads (labels tcs ttls : List Nat) (st : List (BitVec 32)) : Prop :=
  st.map labelOf = labels ∧ st.map tcOf = tcs ∧ st.map ttlOf = ttls
    ∧ st.map bottomOf = (List.range st.length).map (fun i => decide (i + 1 = st.length))

/-- The hash of R103 over received labels, top first. -/
def hashOver (seed : BitVec 16) (labels : List Nat) : BitVec 16 :=
  labels.foldl (fun h v => h.rotateLeft 5 ^^^ BitVec.ofNat 16 v ^^^ BitVec.ofNat 16 (v / 65536 * 0x1000)) seed

/-- The flow table's way that a frame's label pair matches, in no failed entry (R104, R117). -/
def inWay (f : RxFrame) (k : Nat) (c : Chip) : Prop :=
  let top := labelOf (f.stack.getD 0 0)
  let second := if 2 ≤ f.stack.length then labelOf (f.stack.getD 1 0) else 0
  k / 4 = flowSet (decide (2 ≤ f.stack.length)) top second ∧ flowValid (c.tentry 2 k) = true ∧ c.failed 2 k = false
    ∧ flowKey (c.tentry 2 k) = flowKeyOf (decide (2 ≤ f.stack.length)) top second

/-- The first way that matches. -/
def firstWay (f : RxFrame) (k : Nat) (c : Chip) : Prop := inWay f k c ∧ ∀ j < k, ¬ inWay f j c

/-- A DetNet state entry after a sequence number (R105). -/
def detnetSteps (old new : BitVec 128) (width seq : Nat) : Prop :=
  let last := bits old 127 100
  let d := (((seq : Int) - last) % (2 ^ width : Nat)).toNat
  let first := bit old 99 = false
  let inOrder := first ∨ (d ≠ 0 ∧ d < 2 ^ (width - 1))
  let plus := fun (hi lo n : Nat) => min 0xFFFFFF (bits old hi lo + n)
  bit new 99 = true ∧ bits new 98 96 = 0
    ∧ bits new 127 100 = (if inOrder then seq else last)
    ∧ bits new 95 72 = (if inOrder then plus 95 72 1 else bits old 95 72)
    ∧ bits new 71 48 = (if ¬ first ∧ d = 0 then plus 71 48 1 else bits old 71 48)
    ∧ bits new 47 24 = (if ¬ inOrder ∧ d ≠ 0 then plus 47 24 1 else bits old 47 24)
    ∧ bits new 23 0 = (if ¬ first ∧ inOrder then plus 23 0 (d - 1) else bits old 23 0)

/-- A frame that leaves its lookups under path entry x with labels of which Q holds, `n` of them, and an EtherType is sent on:
through the entry's next hop, or the member of its group that the received labels name; in the entry's class, or in that of
the flow it matches, which binds it to the flow's subport and checks its d-CW (R102 to R105). A class of C12 or above
without its flow goes unadmitted, and no next hop to a subport discards the frame. A frame that matches a flow is tagged by
the flow's class (log 112). -/
def sentBy (f : RxFrame) (x : BitVec 128) (n : Nat) (Q : List (BitVec 32) → Prop) (etype : BitVec 16) (ctrs : List Fld)
    (s : State) : Prop :=
  let c := s.chip
  let p := f.port.val
  let i := pathNh x + (if pathIsGroup x then
    (hashOver (BitVec.ofNat 16 (c.getN F.tblnhHashSeed)) ((f.stack.take 8).map labelOf)).toNat * (pathGroupSize x + 1) / 65536
    else 0)
  let len := rxLen f c - 4 * f.tags.length + 4 * n - 4 * f.stack.length
  let h := c.tentry 1 i
  let out := c.lowerOf (nhPort h)
  let still := fun t : Chip => t.dn = c.dn
  c.failed 1 i = false →
    (¬ leadsOut h c → pathClass x < 12 ∨ pathDetnet x = false → stopsAt f (F.port3NhInvalid p :: ctrs) s)
    ∧ (leadsOut h c → pathClass x < 12 → goesOn f i len (pathClass x) Q etype [] none false ctrs [] still s)
    ∧ (leadsOut h c → 12 ≤ pathClass x → (∀ k < 65536, ¬ inWay f k c) →
        goesOn f i len (pathClass x) Q etype [] none true ctrs [] still s)
    ∧ (leadsOut h c → 12 ≤ pathClass x → ∀ k < 65536, firstWay f k c →
        let e := c.tentry 2 k
        let bound := flowPort e = out ∧ flowSub e = nhSub h ∧ f.preempt = false
        let on := goesOn f i len (flowClass e) Q etype [] (if bound then some k else none) (if bound then false else true)
        let width := if flowSeqLen e = 1 then 16 else 28
        (pathDetnet x = false ∨ flowSeqLen e = 0 ∨ flowSeqLen e = 3 → on ctrs [] still s)
        ∧ (pathDetnet x = true → flowSeqLen e = 1 ∨ flowSeqLen e = 2 → c.failed 3 k = false →
            (bits f.dcw 31 28 ≠ 0 ∨ 8 < f.stack.length → on (F.port3DetnetBad p :: ctrs) [] still s)
            ∧ (bits f.dcw 31 28 = 0 → f.stack.length ≤ 8 →
                on ctrs [] (fun t => detnetSteps (c.tentry 3 k) (t.tentry 3 k) width (f.dcw.toNat % 2 ^ width)
                  ∧ t.dn = Store.write 0 c.dn k (t.tentry 3 k)) s)))

/-- A POP_LOOKUP entry that may act removes the label and looks the next one up (R101). -/
def popsOn (b : BitVec 32) (c : Chip) : Prop :=
  let x := c.tentry 0 (labelOf b)
  c.failed 0 (labelOf b) = false ∧ pathValid x = true ∧ pathAction x = actPopLookup ∧ bottomOf b = false

/-- The counters of a frame's parse: DEEP_STACK where it has more than 8 labels (Table 5-1). -/
def deep (f : RxFrame) : List Fld := if 8 < f.stack.length then [F.port3DeepStack f.port.val] else []

/-- A label-switched frame with top entry e comes, at its first lookup or after one or two by POP_LOOKUP, to the path entry of
`cur`, with `rest` below it (R98, R101). -/
def comesTo (f : RxFrame) (e cur : BitVec 32) (rest : List (BitVec 32)) (c : Chip) : Prop :=
  parsed f c ∧ addressed f c ∧ tagsOk f.tags = true ∧ f.etype = 0x8847 ∧ c.failed 0 (labelOf cur) = false
    ∧ (f.stack = e :: rest ∧ cur = e
      ∨ (2 ≤ ttlOf e ∧ popsOn e c ∧ (f.stack = e :: cur :: rest
        ∨ (popsOn (f.stack.getD 1 0) c ∧ f.stack = e :: f.stack.getD 1 0 :: cur :: rest))))

/-- FRAME_RECEIVE of a MAC Control frame on a port that is no upper member: it counts and is discarded (R82). -/
def receiveControl (f : RxFrame) (s : State) : Prop :=
  s.chip.receives f.port.val f.sub.val = true → s.chip.lowerOf f.port.val = f.port.val → f.smd = .frame → f.etype = 0x8808 →
    stopsAt f [F.port2MacControl f.port.val f.sub.val] s

/-- FRAME_RECEIVE with DA_CHECK of a unicast frame for another address: DA_MISMATCH, and it is discarded (Table 5-1). -/
def receiveElsewhere (f : RxFrame) (s : State) : Prop :=
  parsed f s.chip → ¬ addressed f s.chip → stopsAt f [F.port3DaMismatch f.port.val] s

/-- FRAME_RECEIVE of a frame that is not label-switched, or whose tags stand wrong: NONMPLS discards it, gives it to ring 0 or
sends it in class C0 through the default next hop, unchanged behind its new tag (R106). -/
def receiveNonMpls (f : RxFrame) (s : State) : Prop :=
  let c := s.chip
  let p := f.port.val
  let ctrs := F.port3NonMpls p :: (if tagsOk f.tags then [] else [F.port3ParseTags p])
  let i := c.getN (F.port3LkpDefnhDefaultNh p)
  parsed f c → addressed f c → (tagsOk f.tags = false ∨ (f.etype ≠ 0x88F7 ∧ f.etype ≠ 0x8809 ∧ f.etype ≠ 0x8847)) →
    (c.getN (F.port3LkpCtrlNonmpls p) = 1 → ringTakes f 0 ctrs s)
    ∧ (c.getN (F.port3LkpCtrlNonmpls p) ≠ 1 → c.getN (F.port3LkpCtrlNonmpls p) ≠ 2 → stopsAt f ctrs s)
    ∧ (c.getN (F.port3LkpCtrlNonmpls p) = 2 → c.failed 1 i = false →
        (¬ leadsOut (c.tentry 1 i) c → stopsAt f (F.port3NhInvalid p :: ctrs) s)
        ∧ (leadsOut (c.tentry 1 i) c →
            goesOn f i (rxLen f c) 0 (fun st => st = f.stack) f.etype f.tags none false ctrs [] (fun t => t.dn = c.dn) s))

/-- FRAME_RECEIVE of a timing message or an ESMC frame hands it on to the timing path, whose commands say what it does there,
and of any other slow-protocol frame gives it to ring 5 (R97). -/
def receiveSlow (f : RxFrame) (s : State) : Prop :=
  parsed f s.chip → addressed f s.chip → tagsOk f.tags = true →
    (f.etype = 0x88F7 ∨ (f.etype = 0x8809 ∧ f.esmc = true) → stopsAt f [] s)
    ∧ (f.etype = 0x8809 → f.esmc = false → ringTakes f 5 [] s)

/-- FRAME_RECEIVE of a frame whose label has no path entry: PATH_MISS, and it is dropped, or with MISS_HOST = 1 goes to ring 1
(R98). A miss is judged before the TTL (log 112). -/
def receiveMiss (f : RxFrame) (e cur : BitVec 32) (rest : List (BitVec 32)) (s : State) : Prop :=
  let ctrs := F.port3PathMiss f.port.val :: deep f
  comesTo f e cur rest s.chip → pathValid (s.chip.tentry 0 (labelOf cur)) = false →
    (s.chip.flag (F.port3LkpCtrlMissHost f.port.val) = false → stopsAt f ctrs s)
    ∧ (s.chip.flag (F.port3LkpCtrlMissHost f.port.val) = true → ringTakes f 1 ctrs s)

/-- FRAME_RECEIVE of a frame that TRAP, TO_GRIP or DROP meets, and of one whose TTL has run out (R99, R100). -/
def receiveEnds (f : RxFrame) (e cur : BitVec 32) (rest : List (BitVec 32)) (s : State) : Prop :=
  let p := f.port.val
  let x := s.chip.tentry 0 (labelOf cur)
  comesTo f e cur rest s.chip → pathValid x = true →
    (pathAction x = actTrap → ringTakes f 2 (deep f) s)
    ∧ (pathAction x = actToGrip → stopsAt f (deep f) s)
    ∧ (pathAction x ≠ actTrap → pathAction x ≠ actToGrip → ttlOf e ≤ 1 →
        (s.chip.flag (F.port3LkpCtrlTtlHost p) = false → stopsAt f (F.port3TtlExpired p :: deep f) s)
        ∧ (s.chip.flag (F.port3LkpCtrlTtlHost p) = true → ringTakes f 3 (F.port3TtlExpired p :: deep f) s))
    ∧ (pathAction x = actDrop → 2 ≤ ttlOf e → stopsAt f (F.port3PathDrop p :: deep f) s)

/-- FRAME_RECEIVE of a frame whose third POP_LOOKUP would start a fourth lookup, or whose POP_LOOKUP removes the entry with
S = 1: END_OF_STACK, and it goes to ring 4 (R101). -/
def receivePopsOut (f : RxFrame) (e cur : BitVec 32) (rest : List (BitVec 32)) (s : State) : Prop :=
  let x := s.chip.tentry 0 (labelOf cur)
  comesTo f e cur rest s.chip → pathValid x = true → pathAction x = actPopLookup → 2 ≤ ttlOf e →
  bottomOf cur = true ∨ f.stack.length = rest.length + 3 →
    ringTakes f 4 (F.port3EndOfStack f.port.val :: deep f) s

/-- FRAME_RECEIVE of a frame on which SWAP acts, or NODE_SEG with labels to write: the top label gives way to those written
(R99, R100). -/
def receiveSwap (f : RxFrame) (e cur : BitVec 32) (rest : List (BitVec 32)) (s : State) : Prop :=
  let x := s.chip.tentry 0 (labelOf cur)
  let n := pathLcount x
  let t := ttlOf e - 1
  comesTo f e cur rest s.chip → pathValid x = true → 2 ≤ ttlOf e → 1 ≤ n → n ≤ 4 →
  pathAction x = actSwap ∨ pathAction x = actNodeSeg →
    sentBy f x (n + rest.length) (stackReads
      ((List.range n).map (pathLabel x) ++ rest.map labelOf)
      (List.replicate n (if pathTcCopy x then tcOf e else pathClass x / 2) ++ rest.map tcOf)
      (List.replicate (n - 1) (if pathUniform x then t else 255) ++ t :: rest.map ttlOf)) 0x8847 (deep f) s

/-- FRAME_RECEIVE of a frame on which PUSH acts: the labels go above the top label, which is kept (R99, R100). -/
def receivePush (f : RxFrame) (e cur : BitVec 32) (rest : List (BitVec 32)) (s : State) : Prop :=
  let x := s.chip.tentry 0 (labelOf cur)
  let n := pathLcount x
  let t := ttlOf e - 1
  comesTo f e cur rest s.chip → pathValid x = true → 2 ≤ ttlOf e → n ≤ 4 → pathAction x = actPush →
    sentBy f x (n + 1 + rest.length) (stackReads
      ((List.range n).map (pathLabel x) ++ labelOf cur :: rest.map labelOf)
      (List.replicate n (if pathTcCopy x then tcOf e else pathClass x / 2) ++ tcOf cur :: rest.map tcOf)
      (List.replicate n (if pathUniform x then t else 255) ++ t :: rest.map ttlOf)) 0x8847 (deep f) s

/-- The entry removes the top label: POP, ADJ_SEG, or NODE_SEG with no label to write. -/
def removes (x : BitVec 128) : Prop :=
  pathAction x = actPop ∨ pathAction x = actAdjSeg ∨ (pathAction x = actNodeSeg ∧ pathLcount x = 0)

/-- FRAME_RECEIVE of a frame whose top label is removed with labels below it: those written go above them, and the label
exposed keeps its TC and, but for TTL_UNIFORM, its TTL (R99, R100). -/
def receivePop (f : RxFrame) (e cur y : BitVec 32) (rest : List (BitVec 32)) (s : State) : Prop :=
  let x := s.chip.tentry 0 (labelOf cur)
  let n := pathLcount x
  let t := ttlOf e - 1
  comesTo f e cur (y :: rest) s.chip → pathValid x = true → 2 ≤ ttlOf e → n ≤ 4 → removes x →
    sentBy f x (n + 1 + rest.length) (stackReads
      ((List.range n).map (pathLabel x) ++ labelOf y :: rest.map labelOf)
      (List.replicate n (if pathTcCopy x then tcOf e else pathClass x / 2) ++ tcOf y :: rest.map tcOf)
      (List.replicate n (if pathUniform x then t else 255)
        ++ (if pathUniform x then min (ttlOf y) t else ttlOf y) :: rest.map ttlOf)) 0x8847 (deep f) s

/-- FRAME_RECEIVE of a frame whose last label is removed: labels written take its place; with none the payload goes on under
the EtherType that its first nibble names, and any other goes to ring 4 (R101). -/
def receiveExpose (f : RxFrame) (e cur : BitVec 32) (s : State) : Prop :=
  let x := s.chip.tentry 0 (labelOf cur)
  let n := pathLcount x
  let t := ttlOf e - 1
  comesTo f e cur [] s.chip → pathValid x = true → 2 ≤ ttlOf e → n ≤ 4 → removes x →
    (n ≠ 0 → sentBy f x n (stackReads ((List.range n).map (pathLabel x))
      (List.replicate n (if pathTcCopy x then tcOf e else pathClass x / 2))
      (List.replicate n (if pathUniform x then t else 255))) 0x8847 (deep f) s)
    ∧ (n = 0 → f.nibble.toNat = 4 → sentBy f x 0 (fun st => st = []) 0x0800 (deep f) s)
    ∧ (n = 0 → f.nibble.toNat = 6 → sentBy f x 0 (fun st => st = []) 0x86DD (deep f) s)
    ∧ (n = 0 → f.nibble.toNat ≠ 4 → f.nibble.toNat ≠ 6 →
        ringTakes f 4 (F.port3EndOfStack f.port.val :: deep f) s)

/-- FRAME_ADMISSION of a frame whose flow conforms: it is accepted in the flow's class, the bucket gives maxf + 20, and
what exceeds maxf is cut off (R62, R64). -/
def admitConforming (f : Frame) (i : Nat) (s : State) : Prop :=
  let e := f.entry
  s.chip.coresRun = true → s.chip.frame f.id = some f → f.taken = false → 12 ≤ f.cls → f.flow = some i → f.unadmitted = false →
  s.chip.flowStands f i = true → s.chip.bucketHolds i (flowMaxf e + 20) = true →
    Runs (.frameAdmission f.id) s (fun t =>
      s.chip.counted t (F.admSubAccepted f.outPort f.outSub) 1
      ∧ t.frame f.id = some { f with
          express := true, taken := true, cls := flowClass e
          len := min (s.chip.maxframe f.outPort) (f.full - (f.inLen - flowMaxf e))
          bad := f.bad || decide (0 < f.inLen - flowMaxf e) }
      ∧ t.othersAs s.chip f.id
      ∧ Store.read 0 t.tokens i = Store.read 0 s.chip.tokens i + (flowMaxf e + 20) * 8000
      ∧ (∀ k, k ≠ i → Store.read 0 t.tokens k = Store.read 0 s.chip.tokens k)
      ∧ Store.find f.id t.tails = some ⟨i, e, f.inLen, true, false⟩
      ∧ (∀ k, k ≠ f.id → Store.find k t.tails = Store.find k s.chip.tails)
      ∧ s.chip.keeps t [F.admSubAccepted f.outPort f.outSub]
      ∧ t = { s.chip with regs := t.regs, frames := t.frames, tokens := t.tokens, tails := t.tails })

/-- FRAME_ADMISSION of a frame whose bucket falls short: with DROP it is dropped and DROPPED counts; without, it goes on
in the flow's DEMOTE class and DEMOTED counts (R63). -/
def admitShort (f : Frame) (i : Nat) (s : State) : Prop :=
  let e := f.entry
  s.chip.coresRun = true → s.chip.frame f.id = some f → f.taken = false → 12 ≤ f.cls → f.flow = some i → f.unadmitted = false →
  s.chip.flowStands f i = true → s.chip.bucketHolds i (flowMaxf e + 20) = false →
    Runs (.frameAdmission f.id) s (fun t =>
      t.othersAs s.chip f.id
      ∧ (flowDrop e = true → s.chip.counted t (F.admSubDropped f.outPort f.outSub) 1 ∧ t.frame f.id = none
          ∧ s.chip.keeps t [F.admSubDropped f.outPort f.outSub, F.buf3Free f.outPort, F.buf3Free (f.outPort + 6)])
      ∧ (flowDrop e = false →
          s.chip.counted t (F.admSubDemoted f.outPort f.outSub) 1
          ∧ t.frame f.id = some { f with taken := true, cls := flowDemote e }
          ∧ s.chip.keeps t [F.admSubDemoted f.outPort f.outSub])
      ∧ t = { s.chip with regs := t.regs, frames := t.frames, fab := t.fab })

/-- FRAME_ADMISSION of a frame of an express class without a flow: it goes on in UNADMITTED_CLASS, at most C11, and
UNADMITTED counts; a frame of a lower class passes unchanged (R65). -/
def admitOther (f : Frame) (s : State) : Prop :=
  s.chip.coresRun = true → s.chip.frame f.id = some f → f.taken = false → (f.cls < 12 ∨ f.flow = none) →
    Runs (.frameAdmission f.id) s (fun t =>
      t.othersAs s.chip f.id ∧ (f.cls < 12 → t.frame f.id = some { f with taken := true } ∧ t.regs = s.chip.regs)
      ∧ (12 ≤ f.cls → s.chip.counted t (F.admSubUnadmitted f.outPort f.outSub) 1
          ∧ t.frame f.id = some { f with
              taken := true, unadmitted := true, cls := min 11 (s.chip.getN (F.admCtrlUnadmittedClass f.outPort)) })
      ∧ s.chip.keeps t [F.admSubUnadmitted f.outPort f.outSub]
      ∧ t = { s.chip with regs := t.regs, frames := t.frames })

/-- What the tail of an accepted frame does at its bucket (R62, R64): one within its flow's maxf gives back maxf − L where that
flow still stands in its way, and no other bucket moves; a longer one counts in OVERSIZE, once, and gives back nothing. -/
def tailBucket (r : Tail) (s t : Chip) : Prop :=
  (r.live = true → r.len ≤ flowMaxf r.entry →
    Store.read 0 t.tokens r.flow = Store.read 0 s.tokens r.flow - (flowMaxf r.entry - r.len) * 8000
    ∧ ∀ k, k ≠ r.flow → Store.read 0 t.tokens k = Store.read 0 s.tokens k)
  ∧ (r.live = false ∨ flowMaxf r.entry < r.len → t.tokens = s.tokens)
  ∧ s.counted t (F.admSubOversize (flowPort r.entry) (flowSub r.entry)) (if flowMaxf r.entry < r.len ∧ r.counted = false then 1 else 0)

/-- FRAME_TAIL_ADMISSION of a good frame: its tail is seen, and its bucket settled (R62, R64). -/
def tailGood (f : Frame) (r : Tail) (s : State) : Prop :=
  s.chip.coresRun = true → s.chip.frame f.id = some f → f.taken = true → f.tailSeen = false →
  Store.find f.id s.chip.tails = some r →
    Runs (.frameTailAdmission f.id .good) s (fun t =>
      t.frame f.id = some { f with tailSeen := true } ∧ t.othersAs s.chip f.id ∧ tailBucket r s.chip t
      ∧ t.tails = Store.erase f.id s.chip.tails
      ∧ s.chip.keeps t [F.admSubOversize (flowPort r.entry) (flowSub r.entry)]
      ∧ t = { s.chip with regs := t.regs, frames := t.frames, tokens := t.tokens, tails := t.tails })

/-- FRAME_TAIL_ADMISSION of an accepted frame that is gone already, cut through to its output before its tail came: its bucket
is settled all the same (R62, R64). -/
def tailAfter (id : Nat) (r : Tail) (how : TailEnd) (s : State) : Prop :=
  s.chip.coresRun = true → s.chip.frame id = none → Store.find id s.chip.tails = some r →
    Runs (.frameTailAdmission id how) s (fun t =>
      tailBucket r s.chip t ∧ t.tails = Store.erase id s.chip.tails
      ∧ s.chip.keeps t [F.admSubOversize (flowPort r.entry) (flowSub r.entry)]
      ∧ t = { s.chip with regs := t.regs, tokens := t.tokens, tails := t.tails })

/-- A frame longer than its flow's maxf: as it is accepted it is cut at maxf and marked to end with an inverted FCS; at its
tail it counts in OVERSIZE, and its tokens are not returned (R64). -/
def overlong (f : Frame) (i : Nat) (s : State) : Prop :=
  let e := f.entry
  (s.chip.coresRun = true → s.chip.frame f.id = some f → f.taken = false → 12 ≤ f.cls → f.flow = some i → f.unadmitted = false →
    s.chip.flowStands f i = true → s.chip.bucketHolds i (flowMaxf e + 20) = true → flowMaxf e < f.inLen →
      Runs (.frameAdmission f.id) s (fun t =>
        (∃ g, t.frame f.id = some g ∧ g.len = min (s.chip.maxframe f.outPort) (f.full - (f.inLen - flowMaxf e))
          ∧ g.bad = true ∧ g.express = true)
        ∧ Store.find f.id t.tails = some ⟨i, e, f.inLen, true, false⟩
        ∧ s.chip.keeps t [F.admSubAccepted f.outPort f.outSub]
        ∧ t = { s.chip with regs := t.regs, frames := t.frames, tokens := t.tokens, tails := t.tails }))
  ∧ (s.chip.coresRun = true → s.chip.frame f.id = some f → f.taken = true → f.tailSeen = false →
    Store.find f.id s.chip.tails = some ⟨i, e, f.inLen, true, false⟩ → flowMaxf e < f.inLen →
      Runs (.frameTailAdmission f.id .good) s (fun t =>
        s.chip.counted t (F.admSubOversize (flowPort e) (flowSub e)) 1 ∧ t.tokens = s.chip.tokens
        ∧ t.frame f.id = some { f with tailSeen := true } ∧ s.chip.keeps t [F.admSubOversize (flowPort e) (flowSub e)]
        ∧ t = { s.chip with regs := t.regs, frames := t.frames, tails := t.tails }))

/-- FRAME_TAIL_ADMISSION of an accepted frame with a wrong FCS or an uncorrectable codeword: it leaves with an inverted
FCS and counts in ABORTED, and its bucket takes back what a good frame's would (R62, R66). -/
def tailBad (f : Frame) (r : Tail) (badFec : Bool) (s : State) : Prop :=
  s.chip.coresRun = true → s.chip.frame f.id = some f → f.taken = true → f.tailSeen = false → f.express = true →
  f.bad = false → Store.find f.id s.chip.tails = some r → s.chip.framesInRange →
    Runs (.frameTailAdmission f.id (if badFec then .badFec else .badFcs)) s (fun t =>
      t.frame f.id = some { f with tailSeen := true, bad := true } ∧ t.othersAs s.chip f.id
      ∧ s.chip.counted t (F.admSubAborted f.outPort f.outSub) 1 ∧ tailBucket r s.chip t
      ∧ t.tails = Store.erase f.id s.chip.tails
      ∧ (badFec = true → s.chip.counted t (F.port2FecUncorrectable f.inPort f.inSub) 1)
      ∧ s.chip.keeps t [F.admSubAborted f.outPort f.outSub, F.port2FecUncorrectable f.inPort f.inSub,
          F.admSubOversize (flowPort r.entry) (flowSub r.entry)]
      ∧ t = { s.chip with regs := t.regs, frames := t.frames, tokens := t.tokens, tails := t.tails })

/-- The cell to form is the last of a frame that exceeds its flow's maxf, which has not counted yet (R64). -/
def showsOver (f : Frame) (c : Chip) : Bool :=
  f.formed + 1 == f.cells && (Store.find f.id c.tails).any (fun r => decide (flowMaxf r.entry < r.len) && !r.counted)

/-- CELL_FORM: the next cell enters the input store, and one cell leaves its free list (R119, R123). -/
def cellForms (f : Frame) (s : State) : Prop :=
  s.chip.coresRun = true → s.chip.frame f.id = some f → f.taken = true → f.ended = false → f.direct = false → f.formed < f.cells →
  (f.formed + 1 = f.cells → f.tailSeen = true ∨ f.bad = true) →
  (f.express = true → s.chip.inputUsed f.inPort true < 256) →
  (f.express = false → f.stored = true ∨ s.chip.inputUsed f.inPort false + 24 ≤ 1792) → showsOver f s.chip = false →
    Runs (.cellForm f.id) s (fun t =>
      t.frame f.id = some { f with stored := true, formed := f.formed + 1 } ∧ t.othersAs s.chip f.id
      ∧ Store.read 2048 t.fab.inFree f.inPort = Store.read 2048 s.chip.fab.inFree f.inPort - 1
      ∧ (∀ k, k ≠ f.inPort → Store.read 2048 t.fab.inFree k = Store.read 2048 s.chip.fab.inFree k)
      ∧ t = { s.chip with frames := t.frames, fab := { s.chip.fab with inFree := t.fab.inFree } })

/-- CELL_FORM of the last cell of a frame cut at its flow's maxf: OVERSIZE counts, and its tail counts there no more (R64). -/
def cellShows (f : Frame) (r : Tail) (s : State) : Prop :=
  s.chip.coresRun = true → s.chip.frame f.id = some f → f.taken = true → f.ended = false → f.direct = false →
  f.formed + 1 = f.cells → f.bad = true → f.express = true → s.chip.inputUsed f.inPort true < 256 →
  Store.find f.id s.chip.tails = some r → flowMaxf r.entry < r.len → r.counted = false →
    Runs (.cellForm f.id) s (fun t =>
      t.frame f.id = some { f with stored := true, formed := f.cells } ∧ t.othersAs s.chip f.id
      ∧ s.chip.counted t (F.admSubOversize (flowPort r.entry) (flowSub r.entry)) 1
      ∧ Store.find f.id t.tails = some { r with counted := true }
      ∧ s.chip.keeps t [F.admSubOversize (flowPort r.entry) (flowSub r.entry)]
      ∧ t = { s.chip with
        regs := t.regs, frames := t.frames, tails := t.tails, fab := { s.chip.fab with inFree := t.fab.inFree } })

/-- CELL_FORM of a cell of an express frame whose region is full: the frame ends, discarded whole or, once started, with an
inverted FCS; EXP_FULL counts, and its promise breaks under the cause that stands, once (R71, R123, R134). -/
def cellBreaks (f : Frame) (s : State) : Prop :=
  s.chip.coresRun = true → s.chip.frame f.id = some f → f.taken = true → f.ended = false → f.direct = false → f.formed < f.cells →
  (f.formed + 1 = f.cells → f.tailSeen = true ∨ f.bad = true) → f.express = true → 256 ≤ s.chip.inputUsed f.inPort true →
  s.chip.framesInRange →
    Runs (.cellForm f.id) s (fun t =>
      s.chip.counted t (F.port4ExpFull f.inPort) 1
      ∧ s.chip.counted t (s.chip.breakCause f f.outPort f.outSub) (if f.broken then 0 else 1)
      ∧ (f.started = true → t.frame f.id = some { f with bad := true, ended := true, formed := f.crossed, rsv := 0, broken := true })
      ∧ (f.started = false → t.frame f.id = none) ∧ t.othersAs s.chip f.id
      ∧ s.chip.keeps t [F.port4ExpFull f.inPort, s.chip.breakCause f f.outPort f.outSub, F.buf3Free f.outPort,
          F.buf3Free (f.outPort + 6)]
      ∧ t = { s.chip with regs := t.regs, frames := t.frames, fab := t.fab })

/-- CELL_FORM of a first cell that finds no room for 24 cells in the shared region: the frame is dropped whole and
IN_DROP counts (R123). -/
def cellDrop (f : Frame) (s : State) : Prop :=
  s.chip.coresRun = true → s.chip.frame f.id = some f → f.taken = true → f.ended = false → f.direct = false → f.formed < f.cells →
  (f.formed + 1 = f.cells → f.tailSeen = true ∨ f.bad = true) → f.express = false → f.stored = false →
  1792 < s.chip.inputUsed f.inPort false + 24 → s.chip.framesInRange →
    Runs (.cellForm f.id) s (fun t =>
      t.frame f.id = none ∧ t.othersAs s.chip f.id ∧ s.chip.counted t (F.port4InDrop f.inPort) 1
      ∧ s.chip.keeps t [F.port4InDrop f.inPort, F.buf3Free f.outPort, F.buf3Free (f.outPort + 6)]
      ∧ t = { s.chip with regs := t.regs, frames := t.frames, fab := t.fab })

/-- SEQ_WAIT_EXPIRY of a frame that has arrived before its predecessors: the SEQ values before it that have not arrived count
as lost; it waits no more, nor does any that arrived with a SEQ before its own, one that a ring takes as well as one that
lookup drops, and the SEQ after it is expected where that has not arrived (R93). One of no such frame changes nothing. -/
def seqWait (p : Nat) (express : Bool) (k : Early) (s : State) : Prop :=
  let x := s.chip.fuse p
  let want := (x.expected express).getD k.seq
  let dist := fun n => (n + 2 ^ 20 - want) % 2 ^ 20
  let before := ((x.earlyOf express).map Early.seq).eraseDups.filter (fun n => decide (dist n < dist k.seq))
  let next := (k.seq + 1) % 2 ^ 20
  s.chip.fuses.findSome? (fun e => (e.2.findEarly k.id).map (fun r => (e.1, r))) = some (p, express, k) →
  k ∈ x.earlyOf express → k.inPort < 48 →
    Runs (.seqWaitExpiry k.id) s (fun t =>
      s.chip.counted t (F.port2SeqLost k.inPort 0) (dist k.seq - before.length)
      ∧ (∀ f, s.chip.frame k.id = some f → ∃ n, t.frame k.id = some { f with waiting := false, order := n })
      ∧ (∀ j ∈ x.earlyOf express, dist j.seq < dist k.seq ∨ j.seq = k.seq → j ∉ (t.fuse p).earlyOf express
          ∧ ∀ f ∈ t.frames, f.id = j.id → f.waiting = false)
      ∧ (x.hasEarly express next = false → (t.fuse p).expected express = some next)
      ∧ (t.fuse p).earlyOf (!express) = x.earlyOf (!express) ∧ (∀ q, q ≠ p → t.fuse q = s.chip.fuse q)
      ∧ s.chip.keepsOff t (fun pg => ringPage pg || pg == (F.port2SeqLost k.inPort 0).addr / 4096)
      ∧ t = { s.chip with
        regs := t.regs, msix := t.msix, frames := t.frames, fuses := t.fuses, nextFrame := t.nextFrame
        ringMem := t.ringMem, hostTokens := t.hostTokens, ringTokens := t.ringTokens })
def seqWaitNone (id : Nat) (s : State) : Prop :=
  s.chip.fuses.findSome? (fun e => (e.2.findEarly id).map (fun r => (e.1, r))) = none →
    Runs (.seqWaitExpiry id) s (fun t => t = s.chip)

/-- TX_RING_SERVE of a descriptor that names no port, or a length outside 60 bytes to MAXFRAME − 4: it returns with ERR set
and OWN clear, HEAD advances and FRAMES counts, and with IRQ_EN = 1 vector n is raised (R107, R108). -/
def ringBad (f : RxFrame) (n : Nat) (s : State) : Prop :=
  let k := s.chip.getN (F.ringHead n) % s.chip.ringSize n
  let port := bits (s.chip.desc n k 3) 29 24
  let len := bits (s.chip.desc n k 2) 15 0
  s.chip.coresRun = true → s.chip.power.standby = false → s.chip.nextTxRing = some n →
  (48 ≤ port ∨ s.chip.subports (s.chip.lowerOf port) ≤ bits (s.chip.desc n k 3) 23 21 ∨ len < 60 ∨ s.chip.maxframe port < len + 4) →
    Runs (.txRingServe f) s (fun t =>
      bit (t.desc n k 3) 31 = false ∧ bit (t.desc n k 3) 30 = true
      ∧ (∀ i < 30, bit (t.desc n k 3) i = bit (s.chip.desc n k 3) i)
      ∧ (∀ j, j ≠ descKey n k 3 → Store.read 0 t.ringMem j = Store.read 0 s.chip.ringMem j)
      ∧ t.msix = (if s.chip.flag (F.ringCtrlIrqEn n) then s.chip.msix ||| BitVec.ofNat 64 (2 ^ n) else s.chip.msix)
      ∧ t.getN (F.ringHead n) = (s.chip.getN (F.ringHead n) + 1) % s.chip.ringSize n
      ∧ s.chip.counted t (F.ringFrames n) 1 ∧ t.txTurn = (n - 8 + 1) % 8
      ∧ s.chip.keeps t [F.ringHead n, F.ringFrames n]
      ∧ t = { s.chip with regs := t.regs, ringMem := t.ringMem, txTurn := t.txTurn, msix := t.msix })

/-- TX_RING_SERVE of a right descriptor with INJECT = 0: its frame waits for the slice of the output it names, in a class
of at most C11, with 4 bytes of FCS (R108). -/
def ringDirect (f : RxFrame) (n : Nat) (s : State) : Prop :=
  let k := s.chip.getN (F.ringHead n) % s.chip.ringSize n
  let w3 := s.chip.desc n k 3
  let port := bits w3 29 24
  let len := bits (s.chip.desc n k 2) 15 0
  s.chip.coresRun = true → s.chip.power.standby = false → s.chip.nextTxRing = some n → port < 48 → bits w3 23 21 < s.chip.subports (s.chip.lowerOf port) → 60 ≤ len →
  len + 4 ≤ s.chip.maxframe port → bit w3 20 = false →
    Runs (.txRingServe f) s (fun t =>
      (∃ g, t.frames = s.chip.frames ++ [g] ∧ g.fromHost = true ∧ g.direct = true ∧ g.outPort = s.chip.lowerOf port
        ∧ g.outSub = bits w3 23 21 ∧ g.cls = min 11 (bits w3 19 16) ∧ g.len = len + 4
        ∧ g.hdr = ⟨f.stack, f.etype, f.da, f.sa, none, f.tags⟩ ∧ g.id = s.chip.nextFrame)
      ∧ bit (t.desc n k 3) 31 = false ∧ bit (t.desc n k 3) 30 = false
      ∧ (∀ i < 30, bit (t.desc n k 3) i = bit w3 i)
      ∧ (∀ j, j ≠ descKey n k 3 → Store.read 0 t.ringMem j = Store.read 0 s.chip.ringMem j)
      ∧ t.msix = (if s.chip.flag (F.ringCtrlIrqEn n) then s.chip.msix ||| BitVec.ofNat 64 (2 ^ n) else s.chip.msix)
      ∧ s.chip.counted t (F.ringFrames n) 1 ∧ t.txTurn = (n - 8 + 1) % 8
      ∧ t.getN (F.ringHead n) = (s.chip.getN (F.ringHead n) + 1) % s.chip.ringSize n
      ∧ s.chip.keeps t [F.ringHead n, F.ringFrames n]
      ∧ t = { s.chip with
        regs := t.regs, ringMem := t.ringMem, txTurn := t.txTurn, msix := t.msix, frames := t.frames
        nextFrame := s.chip.nextFrame + 1, frameNos := t.frameNos })

/-! ### The fabric -/

/-- SCHEDULER_SLOT with one request, of an input store's head for an unfused output that admits it, and no cell crossing:
the cell crosses, and the pointers of both replicas step past the pair (R125, R126). -/
def slotGrants (f : Frame) (s : State) : Prop :=
  let c := s.chip
  c.coresRun = true → c.power.standby = false → c.fab.pause = 0 → c.settle .none = .pass →
  c.flag F.fabCcStatusAFenced = false → c.flag F.fabCcStatusBFenced = false → c.frames = [f] → c.fab.crossing = [] →
  f.stored = true → f.direct = false → f.ended = false → f.waiting = false → f.crossed < f.formed → f.formed ≤ f.cells →
  c.fusedLower f.outPort = false → (f.crossed = 0 → c.answer f = .pass) → f.inPort < 48 → f.outPort < 48 →
    Runs (.schedulerSlot .none []) s (fun t =>
      t.fab.crossing = [(f.id, f.outPort, 0)]
      ∧ Store.read 0 t.fab.gptrA (f.outPort * 3 + f.level) = (f.inPort + 1) % 48
      ∧ Store.read 0 t.fab.aptrA (f.inPort * 3 + f.level) = (f.outPort + 1) % 48
      ∧ Store.read 0 t.fab.gptrB (f.outPort * 3 + f.level) = (f.inPort + 1) % 48
      ∧ Store.read 0 t.fab.aptrB (f.inPort * 3 + f.level) = (f.outPort + 1) % 48
      ∧ t.regs = c.regs ∧ t = { c with fab := t.fab, frames := t.frames })

/-- SCHEDULER_SLOT in which one replica fails its self-check: it is fenced, SIMPLEX and FENCE_EVENT read 1, its fences and
MISMATCH count, and CC_LAST takes the raw time; the third fence within 16,000 clappers holds it (R128, R129, Table 6-3). -/
def slotFences (fault : SlotFault) (ecc : List StoreHit) (isB : Bool) (s : State) : Prop :=
  s.chip.coresRun = true → s.chip.power.standby = false → s.chip.fab.pause = 0 →
  s.chip.settle fault = (if isB then .fenceB else .fenceA) → s.chip.framesInRange →
    Runs (.schedulerSlot fault ecc) s (fun t =>
      t.flag (if isB then F.fabCcStatusBFenced else F.fabCcStatusAFenced) = true
      ∧ t.flag F.fabCcStatusSimplex = true ∧ t.flag F.fabCcStatusFenceEvent = true
      ∧ (3 ≤ (fenceNow (if isB then s.chip.fab.fencesB else s.chip.fab.fencesA) s.chip.fab.clapperCount).length →
          t.flag F.fabCcStatusHeld = true)
      ∧ s.chip.counted t (if isB then F.fabCcFenceB else F.fabCcFenceA) 1 ∧ s.chip.counted t F.fabCcMismatch 1
      ∧ t.get F.fabCcLastLo = word (s.chip.time.raw.toNat % 2 ^ 32)
      ∧ t.get F.fabCcLastHi = word (s.chip.time.raw.toNat / 2 ^ 32)
      ∧ s.chip.keepsOff t (fun pg => trafficPage pg || pg == 0x100 || pg == 3)
      ∧ t = { s.chip with
        regs := t.regs, frames := t.frames, fab := t.fab, msix := t.msix, nextLink := t.nextLink })

/-- SCHEDULER_SLOT that the checker answers with a dual reset: no slot is granted now or in the two slots after, the cells
that would have been in the crossbar in the next slot are lost, they and their frames count, DUAL reads 1 and HLTH takes a
fault (R130, Table 6-4). -/
def slotDual (fault : SlotFault) (ecc : List StoreHit) (s : State) : Prop :=
  let u := ecc.foldl Chip.inputEcc s.chip.moveCells
  let lost := u.fab.crossing.filter (fun c => c.2.2 + 1 == crossbarAge)
  s.chip.coresRun = true → s.chip.power.standby = false → s.chip.fab.pause = 0 → s.chip.settle fault = .dual →
  s.chip.framesInRange →
    Runs (.schedulerSlot fault ecc) s (fun t =>
      t.fab.pause = 2 ∧ (∀ c ∈ t.fab.crossing, c ∈ u.fab.crossing ∧ c.2.2 + 1 ≠ crossbarAge)
      ∧ t.flag F.fabCcStatusDual = true ∧ t.getBit F.hlthFault fSched = true
      ∧ s.chip.counted t F.fabCcDual 1 ∧ s.chip.counted t F.fabCcMismatch 1
      ∧ s.chip.counted t F.fabCcLostCells lost.length
      ∧ s.chip.counted t F.fabCcCutFrames (lost.map (fun c => c.1)).eraseDups.length
      ∧ s.chip.keepsOff t (fun pg => trafficPage pg || pg == 0x100 || pg == 3)
      ∧ t = { s.chip with
        regs := t.regs, frames := t.frames, fab := t.fab, msix := t.msix, nextLink := t.nextLink })

/-- BUFFER_AUDIT that finds every store right: AUDITS counts, and nothing else changes (R141). -/
def auditRight (s : State) : Prop :=
  s.chip.fab.sweeps = [] → (∀ k < 96, s.chip.storeFree k + s.chip.storeHeld k = storeTotal k) →
    Runs (.bufferAudit []) s (fun t =>
      s.chip.counted t F.buf3Audits 1 ∧ s.chip.keeps t [F.buf3Audits] ∧ s.chip.onlyRegs t)

/-- BUFFER_AUDIT that finds a slice short of cells, and the other stores right: AUDIT_DEFICIT counts, and a sweep of the
slice starts (R141, R142). -/
def auditShort (k : Nat) (s : State) : Prop :=
  s.chip.fab.sweeps = [] → k < 48 → s.chip.storeFree k + s.chip.storeHeld k < storeTotal k →
  (∀ j < 96, j ≠ k → s.chip.storeFree j + s.chip.storeHeld j = storeTotal j) →
    Runs (.bufferAudit []) s (fun t =>
      s.chip.counted t F.buf3AuditDeficit 1 ∧ s.chip.counted t F.buf3Audits 1 ∧ t.flag F.buf3StatusSweeping = true
      ∧ t.fab = { s.chip.fab with sweeps := [k] }
      ∧ s.chip.keeps t [F.buf3Audits, F.buf3AuditDeficit, F.buf3StatusSweeping]
      ∧ t = { s.chip with regs := t.regs, fab := t.fab })

/-- BUFFER_SWEEP_DONE: the free list of the store has every cell that no frame holds, and RECLAIMED counts the cells that
were in neither, which the sweep gives back (R142). -/
def sweepEnds (k : Fin 96) (s : State) : Prop :=
  s.chip.fab.sweeps.contains k.val = true →
    Runs (.bufferSweepDone k) s (fun t =>
      t.storeFree k.val = storeTotal k.val - s.chip.storeHeld k.val
      ∧ s.chip.counted t (if k.val < 48 then F.buf3Reclaimed else F.port4Reclaimed (k.val - 48))
          (Store.read 0 s.chip.fab.leaked k.val)
      ∧ t.flag F.buf3StatusSweeping = (s.chip.fab.sweeps.filter (fun x => x != k.val)).any (fun x => decide (x < 48))
      ∧ (k.val < 48 → t.fab.inFree = s.chip.fab.inFree ∧ s.chip.keeps t [F.buf3Free k.val, F.buf3Reclaimed, F.buf3StatusSweeping])
      ∧ (48 ≤ k.val → (∀ j, j ≠ k.val - 48 → Store.read 2048 t.fab.inFree j = Store.read 2048 s.chip.fab.inFree j)
          ∧ s.chip.keeps t [F.port4Reclaimed (k.val - 48), F.buf3StatusSweeping])
      ∧ t = { s.chip with regs := t.regs, fab := { s.chip.fab with
        inFree := t.fab.inFree, sweeps := s.chip.fab.sweeps.filter (fun x => x != k.val)
        leaked := Store.erase k.val s.chip.fab.leaked, doubled := Store.erase k.val s.chip.fab.doubled } })

/-! ### Transmission -/

/-- No express frame of a subport is so old that LATE_ACTION has it discarded (R73). -/
def noneLate (q sub : Nat) (c : Chip) : Prop :=
  c.flag (F.admCtrlLateAction q) = false ∨ ∀ f ∈ c.frames, f.outPort = q → f.outSub = sub → f.express = true →
    rawDiff f.rxStamp c.time.raw ≤ lateHead

/-- The trees of the ports after a choice of a subport: it runs the tree applied last (R153). -/
def adopts (q sub : Nat) (s t : Chip) : Prop :=
  t.sched q = (s.sched q).adopt sub ∧ ∀ k, k ≠ q → t.sched k = s.sched k

/-- The subport can start a frame now, no frame leaves it, no upset is met, and no express frame is too old for LATE_ACTION
(R73, R137). -/
def canStart (p : Fin 48) (sub : Fin 8) (c : Chip) : Prop :=
  c.coresRun = true ∧ sub.val < c.subports (c.lowerOf p.val)
    ∧ c.memberUp (c.startMember p.val sub.val) sub.val = true
    ∧ c.onWire (c.startMember p.val sub.val) sub.val = none
    ∧ noneLate (c.lowerOf p.val) sub.val c

/-- No error is met at a start. -/
def noEcc : TxEcc := ⟨none, .clean, .clean, .clean, false⟩

/-- TX_FRAME_START of the express frame that the gate lets through first: it goes on the wire, and at its TX stamp point the
frame is KEPT within 250 ns, or counts under the cause that stands (R71, R72, R148). -/
def txExpress (p : Fin 48) (sub : Fin 8) (stamp : LineStamp) (f : Frame) (s : State) : Prop :=
  let q := s.chip.lowerOf p.val
  let m := s.chip.startMember p.val sub.val
  let w := s.chip.txStamp m f.outSub stamp
  canStart p sub s.chip → s.chip.framesInRange → s.chip.expressChoice q sub.val = some f →
    Runs (.txFrameStart p sub stamp noEcc) s (fun t =>
      t.frame f.id = some { f with started := true, member := m, broken := f.broken || decide (promiseUnits < rawDiff f.rxStamp w) }
      ∧ (t.link m f.outSub).onWire = f.id :: (s.chip.link m f.outSub).onWire ∧ t.linksAs s.chip [(m, f.outSub)]
      ∧ s.chip.counted t (F.trafTxFrames m f.outSub f.cls) 1
      ∧ t.othersAs s.chip f.id ∧ adopts q sub.val s.chip t
      ∧ (rawDiff f.rxStamp w ≤ promiseUnits → s.chip.counted t (F.admSubKept f.outPort f.outSub) 1)
      ∧ (promiseUnits < rawDiff f.rxStamp w →
          s.chip.counted t (s.chip.breakCause f f.outPort f.outSub) (if f.broken then 0 else 1)
          ∧ t.get (F.admSubKept f.outPort f.outSub) = s.chip.get (F.admSubKept f.outPort f.outSub))
      ∧ s.chip.keeps t [F.trafTxFrames m f.outSub f.cls, F.admSubKept f.outPort f.outSub,
          s.chip.breakCause f f.outPort f.outSub]
      ∧ t = { s.chip with regs := t.regs, frames := t.frames, links := t.links, fuses := t.fuses, scheds := t.scheds })

/-- TX_FRAME_START under LATE_ACTION = 1 of which the one frame that waits for the subport is an express frame too old: it is
discarded unsent, its promise breaks under the cause that stands, and nothing starts (R73). -/
def txLate (p : Fin 48) (sub : Fin 8) (stamp : LineStamp) (f : Frame) (s : State) : Prop :=
  let q := s.chip.lowerOf p.val
  let m := s.chip.startMember p.val sub.val
  s.chip.coresRun = true → sub.val < s.chip.subports q → s.chip.memberUp m sub.val = true →
  s.chip.onWire m sub.val = none → s.chip.framesInRange → s.chip.flag (F.admCtrlLateAction q) = true →
  f ∈ s.chip.queue q sub.val f.cls → 12 ≤ f.cls → f.express = true → lateHead < rawDiff f.rxStamp s.chip.time.raw →
  (∀ g ∈ s.chip.frames, g.outPort = q → g.outSub = sub.val → g = f) →
    Runs (.txFrameStart p sub stamp noEcc) s (fun t =>
      t.frame f.id = none ∧ t.othersAs s.chip f.id ∧ adopts q sub.val s.chip t
      ∧ s.chip.counted t (s.chip.breakCause f f.outPort f.outSub) (if f.broken then 0 else 1)
      ∧ s.chip.keeps t [s.chip.breakCause f f.outPort f.outSub, F.buf3Free f.outPort, F.buf3Free (f.outPort + 6)]
      ∧ t = { s.chip with regs := t.regs, frames := t.frames, fab := t.fab, scheds := t.scheds })

/-- TX_FRAME_START while a frame that may be preempted leaves: the express frame that the gate lets through goes before it
(R67, R148). -/
def txPreempts (p : Fin 48) (sub : Fin 8) (stamp : LineStamp) (f g : Frame) (s : State) : Prop :=
  let q := s.chip.lowerOf p.val
  let m := s.chip.startMember p.val sub.val
  let late := decide (promiseUnits < rawDiff f.rxStamp (s.chip.txStamp m f.outSub stamp))
  s.chip.coresRun = true → sub.val < s.chip.subports q → s.chip.memberUp m sub.val = true →
  noneLate q sub.val s.chip → s.chip.onWire m sub.val = some g → g.express = false →
  s.chip.getBit (F.admStatusMergeActive m) sub.val = true → s.chip.expressChoice q sub.val = some f → f.id ≠ g.id →
    Runs (.txFrameStart p sub stamp noEcc) s (fun t =>
      t.frame f.id = some { f with started := true, member := m, broken := f.broken || late }
      ∧ t.frame g.id = some { g with preempted := true } ∧ adopts q sub.val s.chip t
      ∧ (t.link m f.outSub).onWire = f.id :: (s.chip.link m f.outSub).onWire ∧ t.linksAs s.chip [(m, f.outSub)]
      ∧ s.chip.counted t (F.trafTxFrames m f.outSub f.cls) 1
      ∧ s.chip.keeps t [F.trafTxFrames m f.outSub f.cls, F.admSubKept f.outPort f.outSub,
          s.chip.breakCause f f.outPort f.outSub]
      ∧ t = { s.chip with regs := t.regs, frames := t.frames, links := t.links, fuses := t.fuses, scheds := t.scheds })

/-- TX_FRAME_START with no express frame ready: the head of the class that the tree chooses goes on the wire (R148). -/
def txTree (p : Fin 48) (sub : Fin 8) (stamp : LineStamp) (f : Frame) (c : Nat) (s : State) : Prop :=
  let q := s.chip.lowerOf p.val
  let m := s.chip.startMember p.val sub.val
  let choice := (s.chip.setSched q ((s.chip.sched q).adopt sub.val)).treeChoice q sub.val
  canStart p sub s.chip → s.chip.expressChoice q sub.val = none → choice.2 = some c →
  s.chip.ready1 q sub.val c = some f → f.express = false →
    Runs (.txFrameStart p sub stamp noEcc) s (fun t =>
      t.frame f.id = some { f with started := true, member := m }
      ∧ (t.link m f.outSub).onWire = f.id :: (s.chip.link m f.outSub).onWire ∧ t.linksAs s.chip [(m, f.outSub)]
      ∧ s.chip.counted t (F.trafTxFrames m f.outSub f.cls) 1
      ∧ t.othersAs s.chip f.id
      ∧ t.sched q = choice.1 ∧ (∀ k, k ≠ q → t.sched k = s.chip.sched k)
      ∧ s.chip.keeps t [F.trafTxFrames m f.outSub f.cls]
      ∧ t = { s.chip with
        regs := t.regs, frames := t.frames, links := t.links, fuses := t.fuses, scheds := t.scheds })

/-- TX_FRAME_START with nothing ready: nothing starts, and the subport has made its choice after an APPLY (R137, R148,
R153). -/
def txNothing (p : Fin 48) (sub : Fin 8) (stamp : LineStamp) (s : State) : Prop :=
  let q := s.chip.lowerOf p.val
  let choice := (s.chip.setSched q ((s.chip.sched q).adopt sub.val)).treeChoice q sub.val
  canStart p sub s.chip → s.chip.expressChoice q sub.val = none → choice.2 = none →
    Runs (.txFrameStart p sub stamp noEcc) s (fun t =>
      adopts q sub.val s.chip t ∧ t = { s.chip with scheds := t.scheds })

/-- TX_UNDERRUN: the frame on the wire ends with an inverted FCS, and UNDERRUN counts and reads 1 (R138). -/
def txUnderruns (p : Fin 48) (sub : Fin 8) (f : Frame) (s : State) : Prop :=
  s.chip.coresRun = true → s.chip.onWire p.val sub.val = some f → f.started = true → f.ended = false → f.crossed < f.cells →
    Runs (.txUnderrun p sub) s (fun t =>
      t.frame f.id = some { f with bad := true, ended := true, formed := f.crossed, rsv := 0 } ∧ t.othersAs s.chip f.id
      ∧ s.chip.counted t F.buf3Underruns 1 ∧ t.flag F.buf3StatusUnderrun = true
      ∧ s.chip.keeps t [F.buf3Underruns, F.buf3StatusUnderrun]
      ∧ t = { s.chip with regs := t.regs, frames := t.frames, fab := t.fab })

/-- TX_FRAME_END: the frame is gone, the wire is free for the one it preempted, its bytes count in KiB, and below C12 the
tree is charged with them (R150, R151, R346). -/
def txEnds (p : Fin 48) (sub : Fin 8) (f : Frame) (cells : List Ecc) (s : State) : Prop :=
  s.chip.coresRun = true → s.chip.onWire p.val sub.val = some f → (f.ended = true ∨ f.cells ≤ f.crossed) → s.chip.framesInRange →
  (∀ x ∈ cells, x = .clean) →
    Runs (.txFrameEnd p ⟨sub, cells⟩) s (fun t =>
      t.frame f.id = none
      ∧ (∀ id l g, (s.chip.link p.val sub.val).onWire = f.id :: id :: l → s.chip.frame id = some g → id ≠ f.id →
          t.frame id = some { g with preempted := false })
      ∧ (f.cls < 12 → t.sched f.outPort = (s.chip.sched f.outPort).charge f.outSub f.cls (f.sent + 20))
      ∧ (∀ k, k ≠ f.outPort ∨ 12 ≤ f.cls → t.sched k = s.chip.sched k) ∧ (t.link p.val sub.val).onWire = (s.chip.link p.val sub.val).onWire.drop 1
      ∧ s.chip.counted t (F.trafTxKib p.val sub.val)
          ((Store.read 0 s.chip.kib (F.trafTxKib p.val sub.val).addr + f.sent) / 1024)
      ∧ Store.read 0 t.kib (F.trafTxKib p.val sub.val).addr
          = (Store.read 0 s.chip.kib (F.trafTxKib p.val sub.val).addr + f.sent) % 1024
      ∧ s.chip.keeps t [F.trafTxKib p.val sub.val, F.trafClassTxKib p.val f.cls, F.buf3Free f.outPort, F.buf3Free (f.outPort + 6)]
      ∧ t = { s.chip with
        regs := t.regs, frames := t.frames, fab := t.fab, links := t.links, kib := t.kib, scheds := t.scheds })

/-- TX_FRAME_END of a frame whose second cell meets an uncorrectable error: it ends after its first, which counts in
ECC_UNCORR and raises a fault; an express frame breaks its promise there unless one cause has counted (R71, R143; log 97). -/
def txCellError (p : Fin 48) (sub : Fin 8) (f : Frame) (cells : List Ecc) (s : State) : Prop :=
  let cause := s.chip.causeOver f F.admSubBreakEcc f.outPort f.outSub
  s.chip.coresRun = true → s.chip.onWire p.val sub.val = some f → f.started = true → f.ended = false → 1 < f.crossed →
  s.chip.framesInRange →
    Runs (.txFrameEnd p ⟨sub, .double :: cells⟩) s (fun t =>
      t.frame f.id = none ∧ (t.link p.val sub.val).onWire = (s.chip.link p.val sub.val).onWire.drop 1
      ∧ s.chip.counted t F.buf3EccUncorr 1 ∧ t.getBit F.hlthFault fEcc = true
      ∧ s.chip.counted t cause (if f.express = true ∧ f.broken = false then 1 else 0)
      ∧ s.chip.counted t (F.trafTxKib p.val sub.val)
          ((Store.read 0 s.chip.kib (F.trafTxKib p.val sub.val).addr + min f.len 388) / 1024)
      ∧ s.chip.keeps t [F.trafTxKib p.val sub.val, F.trafClassTxKib p.val f.cls, F.buf3Free f.outPort,
          F.buf3Free (f.outPort + 6), F.buf3EccUncorr, F.hlthFault, cause]
      ∧ t = { s.chip with
        regs := t.regs, frames := t.frames, fab := t.fab, links := t.links, kib := t.kib, scheds := t.scheds, msix := t.msix })

/-! ### Takes -/

/-- TAKE_BOUNDARY at the boundary of the running list: the gate stands at the entry of that time, and TAKES counts (R155). -/
def boundary (p : Fin 48) (s : State) : Prop :=
  (s.chip.gate p.val).active.len ≠ 0 → s.chip.atBoundary (s.chip.gate p.val).active = true →
  s.chip.groupIsDark (p.val / 6) = false →
    Runs (.takeBoundary p) s (fun t =>
      t.gate p.val = (s.chip.gate p.val).follow s.chip.net ∧ (∀ q, q ≠ p.val → t.gate q = s.chip.gate q) ∧ s.chip.counted t (F.port5Takes p.val) 1
      ∧ s.chip.keeps t [F.port5Takes p.val] ∧ t = { s.chip with regs := t.regs, gates := t.gates })

/-- GATE_EVENT: the entry that network time has reached begins and its MASK acts (R156); an uncorrectable error opens it to
every class and counts once (R163). -/
def gateMoves (p : Fin 48) (s : State) : Prop :=
  (s.chip.gate p.val).active.len ≠ 0 →
    Runs (.gateEvent p .clean) s (fun t =>
      t.gate p.val = (s.chip.gate p.val).follow s.chip.net ∧ (∀ q, q ≠ p.val → t.gate q = s.chip.gate q)
      ∧ t = { s.chip with gates := t.gates })
def gateError (p : Fin 48) (s : State) : Prop :=
  let l := (s.chip.gate p.val).active
  l.len ≠ 0 → l.badEntries.contains (l.entryAt (l.position s.chip.net)) = false →
    Runs (.gateEvent p .double) s (fun t =>
      (t.gate p.val).mask = 0xFFFF ∧ (∀ q, q ≠ p.val → t.gate q = s.chip.gate q) ∧ s.chip.counted t (F.schdEccUncorr 1) 1 ∧ t.getBit F.hlthFault fEcc = true
      ∧ s.chip.keeps t [F.schdEccUncorr 1, F.hlthFault]
      ∧ t = { s.chip with regs := t.regs, gates := t.gates, msix := t.msix })

/-- TAKE_CUTOVER at the boundary that times it: the shadow list is active with its length and take, nothing is pending,
SPLICES counts where the new list does not stand at its own boundary, and TAKE_CUT holds the raw time (R158, R159). -/
def cutsOver (p : Fin 48) (k : CutOver) (s : State) : Prop :=
  let g := s.chip.gate p.val
  g.pending = some k → s.chip.atBoundary (g.timer k) = true → k.at_ ≤ (g.timer k).boundaryAt s.chip.net →
  s.chip.groupIsDark (p.val / 6) = false →
    Runs (.takeCutover p) s (fun t =>
      (t.gate p.val).active = g.newList k ∧ (t.gate p.val).shadow = g.newList k ∧ (t.gate p.val).pending = none
      ∧ (∀ q, q ≠ p.val → t.gate q = s.chip.gate q)
      ∧ t.flag (F.port5TakeStatusPending p.val) = false ∧ t.flag (F.port5TakeStatusRunning p.val) = (k.len != 0)
      ∧ s.chip.counted t (F.port5Splices p.val)
          (if k.len ≠ 0 ∧ (g.newList k).past ((g.timer k).boundaryAt s.chip.net) ≠ 0 then 1 else 0)
      ∧ t.get (F.port5TakeCutLo p.val) = word (s.chip.time.raw.toNat % 2 ^ 32)
      ∧ t.get (F.port5TakeCutHi p.val) = word (s.chip.time.raw.toNat / 2 ^ 32)
      ∧ s.chip.keepsOff t (fun pg => pg == 0x2005 + p.val * 16 || pg == 0x140 + p.val)
      ∧ t = { s.chip with regs := t.regs, gates := t.gates })

/-! ### Links and two-shot ports -/

/-- LINK_DOWN of a link that was up, in no fused port, with HOLD_NS set: the link bit clears, LINK_DOWN counts, preemption
ends and the hold begins; an enabled subport stands at the start of its bring-up, or still aligned after a bare local or
remote fault (R68, R85, R86, R87). -/
def linkDrops (p : Fin 48) (sub : Fin 8) (faultOnly : Bool) (s : State) : Prop :=
  s.chip.getBit (F.port0StatusLinkUp p.val) sub.val = true → s.chip.lowerOf p.val = p.val →
  s.chip.fusedLower p.val = false → s.chip.getN (F.port0HoldHoldNs p.val) ≠ 0 → s.chip.framesInRange →
    Runs (.linkDown p ⟨sub, faultOnly⟩) s (fun t =>
      (t.link p.val sub.val).phase = (if s.chip.getBit (F.port0CtrlEnable p.val) sub.val
        then (if faultOnly then .aligned else s.chip.startPhase p.val) else .down)
      ∧ t.getBit (F.port0StatusLinkUp p.val) sub.val = false ∧ s.chip.counted t (F.port2LinkDown p.val sub.val) 1
      ∧ t.getBit (F.admStatusMergeActive p.val) sub.val = false
      ∧ t.getBit (F.port0StatusHolding p.val) sub.val = true
      ∧ (t.link p.val sub.val).downAt = s.chip.time.raw ∧ (t.link p.val sub.val).expired = false
      ∧ t.linksAs s.chip [(p.val, sub.val)]
      ∧ s.chip.keepsOff t trafficPage
      ∧ t = { s.chip with
        regs := t.regs, frames := t.frames, fab := t.fab, links := t.links, scheds := t.scheds, kib := t.kib
        sessions := t.sessions, tails := t.tails, calRun := t.calRun, refs := t.refs })

/-- LINK_DOWN of a member of a fused port whose link was up: its bit clears, LINK_DOWN counts, and the member is out of
service with its run of fuse markers begun again (R86, R90, R94). -/
def linkDropsFused (p : Fin 48) (faultOnly : Bool) (s : State) : Prop :=
  let q := s.chip.lowerOf p.val
  s.chip.getBit (F.port0StatusLinkUp p.val) 0 = true → s.chip.fusedLower q = true → s.chip.framesInRange →
    Runs (.linkDown p ⟨0, faultOnly⟩) s (fun t =>
      t.getBit (F.port0StatusLinkUp p.val) 0 = false ∧ s.chip.counted t (F.port2LinkDown p.val 0) 1
      ∧ t.getBit (F.admStatusMergeActive p.val) 0 = false
      ∧ (p.val = q → (t.fuse q).lowIn = false ∧ (t.fuse q).low.run = 0 ∧ (t.fuse q).upIn = (s.chip.fuse q).upIn)
      ∧ (p.val ≠ q → (t.fuse q).upIn = false ∧ (t.fuse q).up.run = 0 ∧ (t.fuse q).lowIn = (s.chip.fuse q).lowIn)
      ∧ t.linksAs s.chip [(p.val, 0), (q, 0)]
      ∧ s.chip.keepsOff t (fun pg => trafficPage pg || ringPage pg)
      ∧ t = { s.chip with
        regs := t.regs, frames := t.frames, nextFrame := t.nextFrame, fab := t.fab, links := t.links, fuses := t.fuses
        scheds := t.scheds, kib := t.kib, sessions := t.sessions, tails := t.tails, calRun := t.calRun, refs := t.refs
        ringMem := t.ringMem, hostTokens := t.hostTokens, ringTokens := t.ringTokens, msix := t.msix })

/-- LINK_DOWN of a link that is not up: its bring-up falls back to its start, but for a stopped subport, one that waits for
the core or for negotiation, and an aligned one under a bare fault (Table 4-5). -/
def linkStaysDown (p : Fin 48) (sub : Fin 8) (faultOnly : Bool) (s : State) : Prop :=
  s.chip.getBit (F.port0StatusLinkUp p.val) sub.val = false →
    Runs (.linkDown p ⟨sub, faultOnly⟩) s (fun t =>
      t.link p.val sub.val = { s.chip.link p.val sub.val with
        phase := s.chip.fallBack p.val faultOnly (s.chip.link p.val sub.val).phase }
      ∧ t.linksAs s.chip [(p.val, sub.val)] ∧ t = { s.chip with links := t.links })

/-- HOLD_EXPIRY of a hold that runs: it ends, its queue is flushed, and HOLD_EXPIRED counts (R87). -/
def holdEnds (p : Fin 48) (sub : Fin 8) (s : State) : Prop :=
  s.chip.getBit (F.port0StatusHolding p.val) sub.val = true → s.chip.framesInRange →
    Runs (.holdExpiry p sub) s (fun t =>
      t.getBit (F.port0StatusHolding p.val) sub.val = false ∧ s.chip.counted t (F.port2HoldExpired p.val sub.val) 1
      ∧ (t.link p.val sub.val).expired = true
      ∧ (∀ f ∈ t.frames, ¬ (f.outPort = p.val ∧ f.outSub = sub.val ∧ f.link ≠ 0 ∧ f.started = false))
      ∧ t.linksAs s.chip [(p.val, sub.val)]
      ∧ s.chip.keepsOff t trafficPage
      ∧ t = { s.chip with regs := t.regs, frames := t.frames, fab := t.fab, links := t.links })

/-- LINK_UP of an aligned link in no fused port, its lane PLL locked: it carries frames; a hold that runs ends by its return,
which counts; with MERGE_EN the verify process starts with a verify frame (R67, R85, R86, R87, R346). -/
def linkRises (p : Fin 48) (sub : Fin 8) (s : State) : Prop :=
  (s.chip.link p.val sub.val).phase = .aligned → s.chip.lowerOf p.val = p.val → s.chip.fusedLower p.val = false →
  s.chip.coresRun = true → s.chip.laneLocked p.val = true → s.chip.framesInRange →
    Runs (.linkUp p sub) s (fun t =>
      t.getBit (F.port0StatusLinkUp p.val) sub.val = true ∧ (t.link p.val sub.val).phase = .up
      ∧ (s.chip.getBit (F.port0StatusHolding p.val) sub.val = true →
          t.getBit (F.port0StatusHolding p.val) sub.val = false ∧ s.chip.counted t (F.port2HoldResumed p.val sub.val) 1)
      ∧ (s.chip.flag (F.port0MergeMergeEn p.val) = true → (t.link p.val sub.val).verifying = true
          ∧ (s.chip.farLoop p.val = false → originates p.val sub.val s.chip t
              ∧ ∃ x, t.out = s.chip.out ++ [x] ∧ x.body = .verify))
      ∧ (s.chip.flag (F.port0MergeMergeEn p.val) = false → t.out = s.chip.out)
      ∧ t.linksAs s.chip [(p.val, sub.val)]
      ∧ s.chip.keepsOff t trafficPage
      ∧ t = { s.chip with
        regs := t.regs, kib := t.kib, frames := t.frames, fab := t.fab, links := t.links
        out := t.out, slateSeq := t.slateSeq, slateStep := t.slateStep, slateLost := t.slateLost })

/-- LINK_UP of an aligned member of a fused port: its link bit reads 1, and the port comes up where both members meet R90 and
R91, else it stays as it was (R85, R90, R94). -/
def linkRisesFused (p : Fin 48) (s : State) : Prop :=
  let q := s.chip.lowerOf p.val
  (s.chip.link p.val 0).phase = .aligned → s.chip.fusedLower q = true → s.chip.coresRun = true →
  s.chip.laneLocked p.val = true → s.chip.framesInRange →
    Runs (.linkUp p 0) s (fun t =>
      t.getBit (F.port0StatusLinkUp p.val) 0 = true ∧ (t.link p.val 0).phase = .up
      ∧ ((s.chip.fuse q).confirmed = false → t.fuse q = s.chip.fuse q)
      ∧ t.linksAs s.chip [(p.val, 0), (q, 0)]
      ∧ s.chip.keepsOff t trafficPage
      ∧ t = { s.chip with
        regs := t.regs, kib := t.kib, frames := t.frames, fab := t.fab, links := t.links, fuses := t.fuses
        out := t.out, slateSeq := t.slateSeq, slateStep := t.slateStep, slateLost := t.slateLost })

/-- PCS_ALIGNMENT of a trained subport: it is aligned (R85). -/
def aligns (p : Fin 48) (sub : Fin 8) (s : State) : Prop :=
  (s.chip.link p.val sub.val).phase = .trained →
    Runs (.pcsAlignment p sub) s (fun t =>
      t.link p.val sub.val = { s.chip.link p.val sub.val with phase := .aligned } ∧ t.linksAs s.chip [(p.val, sub.val)]
      ∧ t = { s.chip with links := t.links })

/-- LINK_TRAINING_DONE of a CR subport that negotiates: it waits for alignment, and TXEQ and the precoder bits of each of
its lanes take the trained values (R81). -/
def trains (p : Fin 48) (sub : Fin 8) (lanes : List TrainedLane) (s : State) : Prop :=
  let n := 8 / s.chip.subports (s.chip.lowerOf p.val)
  s.chip.isCr p.val = true → (s.chip.link p.val sub.val).phase = .negotiating → sub.val < s.chip.subports (s.chip.lowerOf p.val) →
    Runs (.linkTrainingDone p sub lanes) s (fun t =>
      (t.link p.val sub.val).phase = .trained
      ∧ (∀ l ∈ (lanes.take n).zipIdx,
          t.getN (F.port1TxeqPost1 p.val (sub.val * n + l.2)) = bits l.1.txeq 29 24
          ∧ t.getN (F.port1TxeqMain p.val (sub.val * n + l.2)) = bits l.1.txeq 23 18
          ∧ t.getN (F.port1TxeqPre1 p.val (sub.val * n + l.2)) = bits l.1.txeq 17 12
          ∧ t.getN (F.port1TxeqPre2 p.val (sub.val * n + l.2)) = bits l.1.txeq 11 6
          ∧ t.getN (F.port1TxeqPre3 p.val (sub.val * n + l.2)) = bits l.1.txeq 5 0
          ∧ t.flag (F.port1MapTxPrecode p.val (sub.val * n + l.2)) = l.1.txPrecode
          ∧ t.flag (F.port1MapRxPrecode p.val (sub.val * n + l.2)) = l.1.rxPrecode)
      ∧ t.linksAs s.chip [(p.val, sub.val)] ∧ s.chip.keepsOff t (fun pg => pg == 0x2001 + p.val * 16)
      ∧ t = { s.chip with regs := t.regs, links := t.links })

/-- AN_FAIL: negotiation waits, and AN_FAIL counts; AN_RETRY starts it again (R81). -/
def anFails (p : Fin 48) (sub : Fin 8) (s : State) : Prop :=
  (s.chip.link p.val sub.val).phase = .negotiating →
    Runs (.anFail p sub) s (fun t =>
      t.link p.val sub.val = { s.chip.link p.val sub.val with phase := .anWait } ∧ t.linksAs s.chip [(p.val, sub.val)]
      ∧ s.chip.counted t (F.port2AnFail p.val sub.val) 1
      ∧ s.chip.keeps t [F.port2AnFail p.val sub.val] ∧ t = { s.chip with regs := t.regs, links := t.links })
def anRetries (p : Fin 48) (sub : Fin 8) (s : State) : Prop :=
  (s.chip.link p.val sub.val).phase = .anWait →
    Runs (.anRetry p sub) s (fun t =>
      t.link p.val sub.val = { s.chip.link p.val sub.val with phase := .negotiating } ∧ t.linksAs s.chip [(p.val, sub.val)]
      ∧ t = { s.chip with links := t.links })

/-- MERGE_VERIFY_DONE while the verify process stands: success sets MERGE_ACTIVE; failure clears it, and sets MERGE_LOST
where flows were admitted under it (R67, R68). -/
def verifies (p : Fin 48) (sub : Fin 8) (ok : Bool) (s : State) : Prop :=
  (s.chip.link p.val sub.val).verifying = true →
    Runs (.mergeVerifyDone p sub ok) s (fun t =>
      t.getBit (F.admStatusMergeActive p.val) sub.val = ok
      ∧ (ok = false → s.chip.getBit (F.admStatusMergeActive p.val) sub.val = true →
          s.chip.underMerge (s.chip.lowerOf p.val) sub.val = true →
          t.flag (F.admStatusMergeLost (s.chip.lowerOf p.val)) = true)
      ∧ t.link p.val sub.val = s.chip.link p.val sub.val ∧ t.linksAs s.chip [(p.val, sub.val)]
      ∧ s.chip.keeps t [F.admStatusMergeActive p.val, F.admStatusMergeLost (s.chip.lowerOf p.val)]
      ∧ t = { s.chip with regs := t.regs, links := t.links })

/-- FUSE_MARKER_RX on an aligned member: its run of markers takes the marker in (R90). -/
def fuseMarker (p : Fin 48) (m : FuseMarker) (s : State) : Prop :=
  let q := s.chip.lowerOf p.val
  s.chip.fusedLower q = true → (s.chip.link p.val 0).phase = .aligned ∨ (s.chip.link p.val 0).phase = .up →
  s.chip.framesInRange →
    Runs (.fuseMarkerRx p m) s (fun t =>
      (p.val = q → (t.fuse q).low = (s.chip.fuse q).low.take m (s.chip.rxStamp p.val 0 m.stamp) s.chip.fab.clapperCount
        ∧ (t.fuse q).up = (s.chip.fuse q).up)
      ∧ (p.val ≠ q → (t.fuse q).up = (s.chip.fuse q).up.take m (s.chip.rxStamp p.val 0 m.stamp) s.chip.fab.clapperCount
        ∧ (t.fuse q).low = (s.chip.fuse q).low)
      ∧ t.linksAs s.chip [(q, 0)]
      ∧ s.chip.keepsOff t (fun pg => trafficPage pg || ringPage pg)
      ∧ t = { s.chip with
        regs := t.regs, frames := t.frames, nextFrame := t.nextFrame, fab := t.fab, links := t.links, fuses := t.fuses
        ringMem := t.ringMem, hostTokens := t.hostTokens, ringTokens := t.ringTokens, msix := t.msix })

/-! ### Upsets -/

/-- TABLE_SCRUB of one hit on an entry not marked failed: a single-bit error counts in ECC_CORRECTED and the entry stands;
a double-bit error counts in ECC_UNCORR, ECC_INDEX names the entry, it is marked failed and HLTH takes a fault (R117). -/
def scrubs (h : ScrubHit) (s : State) : Prop :=
  h.index < tableSize h.table.val → s.chip.failed h.table.val h.index = false →
    Runs (.tableScrub [h]) s (fun t =>
      (h.double = false → s.chip.counted t (F.tblEccCorrected h.table.val) 1
        ∧ s.chip.keeps t [F.tblEccCorrected h.table.val] ∧ s.chip.onlyRegs t)
      ∧ (h.double = true → s.chip.counted t (F.tblEccUncorr h.table.val) 1
        ∧ t.getN (F.tblEccIndex h.table.val) = h.index ∧ t.failed h.table.val h.index = true
        ∧ t.getBit F.hlthFault fEcc = true
        ∧ s.chip.keeps t [F.tblEccUncorr h.table.val, F.tblEccIndex h.table.val, F.hlthFault]
        ∧ (∀ w < 5, ∀ j, (w, j) ≠ (h.table.val, h.index) → t.tentry w j = s.chip.tentry w j)
        ∧ t = { s.chip with
          regs := t.regs, msix := t.msix, path := t.path, nh := t.nh, flow := t.flow, dn := t.dn, stage := t.stage
          eccMarked := s.chip.eccMarked ++ [(h.table.val, h.index)] }))

/-- TABLE_SCRUB of several hits meets them in order. -/
def scrubsInOrder (a b : List ScrubHit) (s : State) : Prop :=
  ∃ u t : State, exec (.tableScrub a) s = .next u ∧ exec (.tableScrub b) u = .next t ∧ exec (.tableScrub (a ++ b)) s = .next t

/-- PARITY_SCAN while one word of a powered page holds a wrong parity bit: PARITY_COUNT rises to at most its limit,
PARITY reads 1, PARITY_WORD names the first word found, and HLTH takes a fault with the page (R40). -/
def scanFinds (a : Nat) (s : State) : Prop :=
  let pg := a / 4096
  s.chip.powered = true → s.chip.badParity = [a] → s.chip.unpowered pg = false → s.chip.unreachable pg = false →
  pg < 0x4000 → pg ≠ 0x81 →
    Runs (.parityScan []) s (fun t =>
      t.getN (F.hdrPgParityCount pg) = min (2 ^ (F.hdrPgParityCount pg).width - 1) (s.chip.getN (F.hdrPgParityCount pg) + 1)
      ∧ t.flag (F.hdrPgStatusParity pg) = true
      ∧ (s.chip.flag (F.hdrPgStatusParity pg) = false → t.getN (F.hdrPgParityWord pg) = a % 4096 / 4)
      ∧ t.getBit F.hlthFault fParity = true ∧ t.getN F.hlthFaultPage = pg
      ∧ s.chip.keeps t [F.hdrPgParityCount pg, F.hdrPgParityWord pg, F.hdrPgStatusParity pg, F.hlthFault, F.hlthFaultPage]
      ∧ t = { s.chip with regs := t.regs, msix := t.msix })

/-- VOTE_REPAIR of a word with one voted field, one of whose copies differs: the two others stand, the field keeps its
value, VOTE counts and STATUS.VOTE reads 1 (R39). -/
def votes (addr : BitVec 26) (flip : Word) (f : FieldRow) (s : State) : Prop :=
  let a := addr.toNat
  let pg := a / 4096
  a % 4 = 0 → s.chip.powered = true → occupied pg = true → s.chip.unpowered pg = false → s.chip.unreachable pg = false →
  pg ≠ 0x81 → (fieldsAt a).filter (fun g => g.acc == .rwv) = [f] → bits flip (f.lsb + f.width - 1) f.lsb ≠ 0 →
  0x40 ≤ a % 4096 →
    Runs (.voteRepair addr flip 0 0) s (fun t =>
      t.getN (f.at a) = s.chip.getN (f.at a) % 2 ^ f.width
      ∧ s.chip.counted t (F.hdrPgVote pg) 1 ∧ t.flag (F.hdrPgStatusVote pg) = true
      ∧ (s.chip.flag (F.hdrPgCtrlVoteReport pg) = true → t.getBit F.hlthFault fVote = true ∧ t.getN F.hlthFaultPage = pg)
      ∧ s.chip.keeps t [f.at a, F.hdrPgVote pg, F.hdrPgStatusVote pg, F.hlthFault, F.hlthFaultPage]
      ∧ t = { s.chip with regs := t.regs, msix := t.msix })

/-! ### The mailbox -/

/-- The step of a slot's command of this opcode is the next to run, and its objects are free (R326, R327). -/
def nextStep (op : Nat) (n : Fin 16) (c : Chip) : Prop :=
  c.directorRuns = true ∧ c.mail.voided = false ∧ (c.slot n.val).opcode = op ∧ c.mail.left.head? = some n.val
    ∧ c.objectTaken n.val (c.slot n.val) c.mail.taken = false

/-- The command stages an effect, a status and results for the marker that ends its step, and changes nothing else
(R11, R324). -/
def stages (cmd : Instr) (n : Fin 16) (e : StepEnd) (s : State) : Prop :=
  Runs cmd s (fun t =>
    t.slot n.val = { s.chip.slot n.val with phase := .ran } ∧ (∀ k, k ≠ n.val → t.slot k = s.chip.slot k)
    ∧ t = { s.chip with mail := { s.chip.mail with
        slots := t.mail.slots
        staged := s.chip.mail.staged ++ [⟨n.val, e.1, e.2.1, e.2.2⟩]
        left := s.chip.mail.left.filter (fun k => k != n.val)
        taken := s.chip.mail.taken ++ s.chip.objects (s.chip.slot n.val) } })

/-- A step that finds its object taken completes BUSY (R327). -/
def stepBusy (n : Fin 16) (s : State) : Prop :=
  let c := s.chip
  c.directorRuns = true → c.mail.voided = false → (c.slot n.val).opcode = 0x42 → c.mail.left.head? = some n.val →
  c.objectTaken n.val (c.slot n.val) c.mail.taken = true →
    Runs (.portReset n) s (fun t =>
      t.slot n.val = { c.slot n.val with phase := .ran } ∧ (∀ k, k ≠ n.val → t.slot k = c.slot k)
      ∧ t = { c with mail := { c.mail with
        slots := t.mail.slots, staged := c.mail.staged ++ [⟨n.val, .none, stBusy, []⟩]
        left := c.mail.left.filter (fun k => k != n.val) } })

/-- ADMIT_FLOW whose check passes: the flow takes the lowest free way of its set; the results are its generation and
index, and the four bounds (R57, R58, R329). -/
def admitOk (n : Fin 16) (i : Nat) (bounds : List Nat) (s : State) : Prop :=
  let x := s.chip.slot n.val
  let v := s.chip.view
  let f := v.newFlow x i ((flowGen (v.flowEntry i) + 1) % 256)
  nextStep 0x01 n s.chip → v.power.standby = false → v.admitRange x = none →
  v.fusedUpper (bits (x.param 2) 21 16) = false → v.ledger.any (fun g => g.key == x.flowKey) = false →
  v.admitCheck (v.newFlow x 0 0) = .ok bounds →
  v.freeWay (flowSet (bit (x.param 0) 31) (bits (x.param 0) 19 0) (bits (x.param 1) 19 0)) = some i →
    stages (.admitFlow n) n (.addFlow f (newEntry x f) bounds, stOk, word (f.gen * 2 ^ 16 + i) :: bounds.map word) s

/-- ADMIT_FLOW of a key that a flow has is REFUSED DUPLICATE; one that would break a bound is CONFLICT with the class and
its bound; one beyond the share is NO_RESOURCE 1 (R58, R329). -/
def admitNot (n : Fin 16) (s : State) : Prop :=
  let x := s.chip.slot n.val
  let v := s.chip.view
  nextStep 0x01 n s.chip → v.power.standby = false → v.admitRange x = none →
  v.fusedUpper (bits (x.param 2) 21 16) = false →
    (v.ledger.any (fun g => g.key == x.flowKey) = true → stages (.admitFlow n) n (refused reDuplicate noWord) s)
    ∧ (∀ c d, v.ledger.any (fun g => g.key == x.flowKey) = false → v.admitCheck (v.newFlow x 0 0) = .conflict c d →
        stages (.admitFlow n) n (.none, stConflict, [word (bits (x.param 2) 10 8 * 256 + c), word d]) s)
    ∧ (v.ledger.any (fun g => g.key == x.flowKey) = false → v.admitCheck (v.newFlow x 0 0) = .noResource →
        stages (.admitFlow n) n (.none, stNoResource, [1]) s)

/-- RELEASE_FLOW of a flow whose generation matches, or whose entry has failed, gives it up, and returns how many flows its
ledger then has; an index without a flow, or with another generation, is REFUSED NOT_FOUND (R331). -/
def releaseOk (n : Fin 16) (f : LFlow) (s : State) : Prop :=
  let x := s.chip.slot n.val
  let v := s.chip.view
  nextStep 0x02 n s.chip → v.power.standby = false →
  v.ledger.find? (fun g => g.index == bits (x.param 0) 15 0) = some f →
  (v.failed 2 (bits (x.param 0) 15 0) = true ∨ flowGen (v.flowEntry (bits (x.param 0) 15 0)) = bits (x.param 1) 7 0) →
    stages (.releaseFlow n) n
      (.release (bits (x.param 0) 15 0), stOk, [word ((v.ledgerOf f.port f.sub).length - 1)]) s
def releaseNot (n : Fin 16) (s : State) : Prop :=
  let v := s.chip.view
  nextStep 0x02 n s.chip → v.power.standby = false →
  v.ledger.any (fun g => g.index == bits ((s.chip.slot n.val).param 0) 15 0) = false →
    stages (.releaseFlow n) n (refused reNotFound 0) s
def releaseOther (n : Fin 16) (f : LFlow) (s : State) : Prop :=
  let x := s.chip.slot n.val
  let v := s.chip.view
  nextStep 0x02 n s.chip → v.power.standby = false →
  v.ledger.find? (fun g => g.index == bits (x.param 0) 15 0) = some f →
  v.failed 2 (bits (x.param 0) 15 0) = false → flowGen (v.flowEntry (bits (x.param 0) 15 0)) ≠ bits (x.param 1) 7 0 →
    stages (.releaseFlow n) n (refused reNotFound 1) s

/-- SET_TAKE of a list that R158 takes, on a port without a pending cut-over and whose ledgers hold under the new figures:
the cut-over is staged with the splice closures, and its instant is the result (R158, R159, R332). -/
def takeOk (n : Fin 16) (s : State) : Prop :=
  let x := s.chip.slot n.val
  let v := s.chip.view
  let p := bits (x.param 0) 5 0
  let g := v.gate p
  let k : CutOver := ⟨bits (x.param 1) 10 0, bits (x.param 2) 20 0, x.time 3, x.time 6, []⟩
  let l := g.newList k
  let instant := g.cutInstant k v.net
  let splice := spliceClosure g.active l (l.position instant)
  nextStep 0x03 n s.chip → v.power.standby = false → p < 48 → v.fusedUpper p = false → bit (x.param 0) 31 = false →
  1 ≤ k.len → k.len ≤ 1024 → 1024 ≤ k.takeNs → k.takeNs ≤ 1048576 → x.badNs 5 = false → x.badNs 8 = false →
  l.badEntry = none → ((List.range k.len).map l.dur).sum = k.takeNs → g.pending = none →
  v.takeConflict p (fun c => ((l.figures c).1, (l.figures c).2.1, max (l.figures c).2.2 (splice.getD c 0))) (List.range 8) = none →
    stages (.setTake ⟨n, []⟩) n (.take p { k with spliceG := splice }, stOk, timeWords instant) s

/-- SET_TAKE with CANCEL withdraws a pending cut-over (R159, R332). -/
def takeCancel (n : Fin 16) (s : State) : Prop :=
  let x := s.chip.slot n.val
  let v := s.chip.view
  let p := bits (x.param 0) 5 0
  nextStep 0x03 n s.chip → v.power.standby = false → p < 48 → v.fusedUpper p = false → bit (x.param 0) 31 = true →
  (v.gate p).pending.isSome = true →
    stages (.setTake ⟨n, []⟩) n (.cancel p, stOk, []) s

/-- TABLE_COMMIT of a run whose every entry R114 accepts stages the whole run; the first that it refuses makes the command
REFUSED TABLE with that slot, and nothing is written (R115, R333). -/
def commitOk (n : Fin 16) (s : State) : Prop :=
  let x := s.chip.slot n.val
  let v := s.chip.view
  let first := bits (x.param 0) 9 0
  let count := bits (x.param 1) 10 0
  nextStep 0x04 n s.chip → v.power.standby = false → 1 ≤ count → first + count ≤ 1024 →
  (∀ i < count, v.failed 4 (first + i) = false
    ∧ stageBad (Store.read 0 v.stageTgt (first + i)) (v.tentry 4 (first + i)) = false) →
    stages (.tableCommit ⟨n, []⟩) n (.commit first count, stOk, []) s
def commitNot (n : Fin 16) (j : Nat) (s : State) : Prop :=
  let x := s.chip.slot n.val
  let v := s.chip.view
  let first := bits (x.param 0) 9 0
  let count := bits (x.param 1) 10 0
  nextStep 0x04 n s.chip → v.power.standby = false → first + count ≤ 1024 → j < count →
  (∀ i < j, v.failed 4 (first + i) = false
    ∧ stageBad (Store.read 0 v.stageTgt (first + i)) (v.tentry 4 (first + i)) = false) →
  (v.failed 4 (first + j) = true ∨ stageBad (Store.read 0 v.stageTgt (first + j)) (v.tentry 4 (first + j)) = true) →
    stages (.tableCommit ⟨n, []⟩) n (refused reTable (first + j)) s

/-- ACCEPT_STEP and RESLATE are staged for the marker that ends their step; RESLATE of no output is REFUSED RANGE (R335,
R336). -/
def acceptStages (n : Fin 16) (s : State) : Prop :=
  nextStep 0x10 n s.chip → stages (.acceptStep n) n (.step, stOk, []) s
def reslateStages (n : Fin 16) (s : State) : Prop :=
  nextStep 0x11 n s.chip →
    stages (.reslate n) n
      (if bits ((s.chip.slot n.val).param 0) 3 0 = 0 then refused reRange 0 else (.reslate, stOk, [])) s

/-- SET_ASYM of a subport's ledger entry with no worn word stages both words; the result is the shift of the subport's
offsets, half of what EXT_TX gains, less EXT_RX's gain and twice ASYM's (R198, R336). -/
def asymOk (n : Fin 16) (s : State) : Prop :=
  let x := s.chip.slot n.val
  let v := s.chip.view
  let p := bits (x.param 0) 5 0
  let sub := bits (x.param 0) 10 8
  let a := signed 24 (bits (x.param 2) 23 0)
  let dTx : Int := (bits (x.param 1) 31 16 : Int) - v.getN (F.pers2ExtExtTx p sub)
  let dRx : Int := (bits (x.param 1) 15 0 : Int) - v.getN (F.pers2ExtExtRx p sub)
  let dA : Int := a - signed 24 (v.getN (F.pers2Asym p sub))
  nextStep 0x12 n s.chip → p < 48 → x.param 2 = word (twos 32 a) → v.firstWorn (ledgerWords p sub) = none →
    stages (.setAsym n) n (.asym p sub (x.param 1) (x.param 2), stOk, [word (twos 32 ((dTx - dRx - 2 * dA) / 2))]) s

/-- SESSION_OPEN of a right configuration takes the lowest free number (R189, R337). -/
def openOk (n : Fin 16) (s : State) : Prop :=
  let x := s.chip.slot n.val
  let v := s.chip.view
  nextStep 0x13 n s.chip → v.power.standby = false → v.openRefused x.config = none → v.sessions.length < 16384 →
  (v.groupSessions (cfgPort x.config / 6)).length < 4096 →
    stages (.sessionOpen n) n
      (.openSession (freeNumber 0 v.sessions) x.config, stOk, [word (freeNumber 0 v.sessions)]) s

/-- SESSION_CLOSE of an open session closes it; of no open one it is REFUSED NOT_FOUND (R337). -/
def closeOk (n : Fin 16) (s : State) : Prop :=
  let v := s.chip.view
  let k := bits ((s.chip.slot n.val).param 0) 13 0
  nextStep 0x14 n s.chip → v.power.standby = false →
    stages (.sessionClose n) n
      (if (v.session k).isSome then (.closeSession k, stOk, []) else refused reNotFound 0) s

/-- SNAPSHOT is staged for its marker (R339). -/
def snapshotStages (n : Fin 16) (s : State) : Prop :=
  nextStep 0x30 n s.chip → s.chip.view.power.standby = false → stages (.snapshot n) n (.snapshot, stOk, []) s

/-- READ_DAILIES of part 0 returns the 16 words of CAL page 2 from 0x040 (R339, Table 15-5). -/
def dailiesPart (n : Fin 16) (s : State) : Prop :=
  nextStep 0x31 n s.chip → bits ((s.chip.slot n.val).param 0) 1 0 = 0 →
    stages (.readDailies n) n
      (.none, stOk, (List.range 16).map (fun i => s.chip.view.wordAt (0x00062040 + 4 * i))) s

/-- DEVICE_RESET with its guard 0xA5 is staged; with another it is REFUSED GUARD (R340). -/
def deviceResetStages (n : Fin 16) (s : State) : Prop :=
  nextStep 0x40 n s.chip →
    stages (.deviceReset n) n
      (if (s.chip.slot n.val).param 0 = 0xA5 then (.deviceReset, stOk, []) else refused reGuard 0) s

/-- GROUP_RESET and PORT_RESET of a group or port that has power are staged; of one that has none, REFUSED STATE (R341). -/
def groupResetStages (n : Fin 16) (s : State) : Prop :=
  let v := s.chip.view
  let g := bits ((s.chip.slot n.val).param 0) 2 0
  nextStep 0x41 n s.chip →
    stages (.groupReset n) n
      (if v.power.standby || v.groupIsDark g then refused reState noWord else (.groupReset g, stOk, [])) s
def portResetStages (n : Fin 16) (s : State) : Prop :=
  let v := s.chip.view
  let p := bits ((s.chip.slot n.val).param 0) 5 0
  nextStep 0x42 n s.chip → p < 48 → v.fusedUpper p = false →
    stages (.portReset n) n
      (if v.power.standby || v.portIsDark p || (v.members p).any (fun m => v.groupIsDark (m / 6)) then refused reState noWord
       else (.portReset p, stOk, [])) s

/-- SET_POWER_STATE of an awake, unfused port to DARK is staged, and of the device to STANDBY; a target in the state asked for
completes OK at once with 0 µs (R309, R342). -/
def powerStages (n : Fin 16) (s : State) : Prop :=
  let v := s.chip.view
  let p0 := (s.chip.slot n.val).param 0
  nextStep 0x43 n s.chip → v.power.standby = false →
    (bits p0 9 8 = 0 → bits p0 17 16 = 1 → bits p0 5 0 < 48 → v.fusedUpper (bits p0 5 0) = false →
      stages (.setPowerState n) n
        (if v.portIsDark (bits p0 5 0) then (.none, stOk, [0]) else (.power 0 (bits p0 5 0) 1, stOk, [])) s)
    ∧ (bits p0 9 8 = 2 → bits p0 17 16 = 2 →
      stages (.setPowerState n) n (.power 2 (bits p0 5 0) 2, stOk, []) s)

/-- POWER_TRANSITION_DONE of a running SET_POWER_STATE: the wake of a port or of the device takes effect, that of a group has
ended once no page of it reads IN_RESET, and the command ends at the next marker with the microseconds it took (R308, R310,
R342). While a group still wakes it changes nothing. -/
def transitionEnds (n : Fin 16) (s : State) : Prop :=
  let x := s.chip.slot n.val
  let p0 := x.param 0
  x.phase = .running → x.opcode = 0x43 → s.chip.stillWakes x = false →
    Runs (.powerTransitionDone n) s (fun t =>
      (t.slot n.val).phase = .ending
      ∧ (t.slot n.val).snap = [word (microsBetween x.began s.chip.time.raw)]
      ∧ (bits p0 17 16 ≠ 0 ∨ bits p0 9 8 = 1 → t = { s.chip with mail := t.mail })
      ∧ (bits p0 17 16 = 0 → bits p0 9 8 = 0 → bits p0 5 0 < 48 → t.portIsDark (bits p0 5 0) = false)
      ∧ (bits p0 17 16 = 0 → bits p0 9 8 = 2 → t.power.standby = false)
      ∧ (∀ k, k ≠ n.val → t.slot k = s.chip.slot k)
      ∧ s.chip.keepsOff t (fun pg => (groupOfPage pg).isSome || pg == 0x40 || pg == 0x120)
      ∧ t = { s.chip with
        regs := t.regs, sessions := t.sessions, links := t.links, banks := t.banks, scheds := t.scheds, gates := t.gates
        checking := t.checking, fuses := t.fuses
        power := { s.chip.power with
          portDark := t.power.portDark, groupDark := t.power.groupDark, standby := t.power.standby
          inReset := t.power.inReset, modeRun := t.power.modeRun }
        mail := { s.chip.mail with slots := t.mail.slots } })

def groupStillWakes (n : Fin 16) (s : State) : Prop :=
  s.chip.stillWakes (s.chip.slot n.val) = true → Runs (.powerTransitionDone n) s (fun t => t = s.chip)

/-- The measurements of a calibration that runs unharmed, whose step the budget has not moved, are staged for the marker that completes it (R276). -/
def calStages (cmd : Instr) (n : Fin 16) (kind : Nat) (data : CalIn) (s : State) : Prop :=
  ∀ r : CalRun, s.chip.calRun = some r → s.chip.directorRuns = true → s.chip.mail.voided = false → r.slot = n.val →
  r.kind = kind → r.cause = 0 → s.chip.mail.staged.any (fun e => e.slot == n.val) = false →
  s.chip.mail.moved.contains n.val = false →
    Runs cmd s (fun t => t = { s.chip with mail := { s.chip.mail with
      staged := s.chip.mail.staged ++ [⟨n.val, .cal kind r.target data, stOk, []⟩] } })

/-- DIRECTOR_OVERRUN: OVERRUN.DIRECTOR reads 1 and OVERRUNS counts, once in a clapper; the first step that has not run and
every one behind it move whole to the next clapper, before what was moved already (R18, R174, R326). -/
def overrunDirector (s : State) : Prop :=
  let m := s.chip.mail
  let ran := m.order.takeWhile (fun k => !(m.left.take 1).contains k)
  s.chip.directorRuns = true → m.voided = false → m.moveSeen = false →
    Runs .directorOverrun s (fun t =>
      t.flag F.time0ClapperOverrunDirector = true ∧ s.chip.counted t F.time0Overruns 1
      ∧ s.chip.keeps t [F.time0ClapperOverrunDirector, F.time0Overruns]
      ∧ (m.left = [] → t.mail = { m with moveSeen := true })
      ∧ (m.left ≠ [] → t.mail = { m with
          order := ran, moved := m.order.drop ran.length ++ m.moved, left := [], moveSeen := true })
      ∧ t = { s.chip with regs := t.regs, mail := t.mail })

/-- DIRECTOR_MISMATCH: what the active pair staged is discarded, and its steps run again; with a standby ready the pairs
swap, else control is lost (R12, R14). -/
def mismatch (s : State) : Prop :=
  s.chip.directorRuns = true → s.chip.mail.voided = false →
    Runs .directorMismatch s (fun t =>
      t.getBit F.hlthFault fCore = true
      ∧ (∀ k, t.slot k = if (s.chip.slot k).phase = .ran then { s.chip.slot k with phase := .due } else s.chip.slot k)
      ∧ (s.chip.flag F.sysDirectorStandbyReady = true →
          t.flag F.sysDirectorSwapped = true ∧ t.flag F.sysDirectorStandbyReady = false
          ∧ t.flag F.sysDirectorStandbyFenced = true
          ∧ t.getN F.sysDirectorSwapCount
            = min (2 ^ F.sysDirectorSwapCount.width - 1) (s.chip.getN F.sysDirectorSwapCount + 1))
      ∧ (s.chip.flag F.sysDirectorStandbyReady = false → t.flag F.sysDirectorControlLost = true)
      ∧ s.chip.keeps t [F.hlthFault, F.sysDirectorSwapped, F.sysDirectorStandbyReady, F.sysDirectorStandbyFenced,
          F.sysDirectorSwapCount, F.sysDirectorControlLost]
      ∧ t = { s.chip with regs := t.regs, msix := t.msix, mail := { s.chip.mail with
        slots := t.mail.slots, staged := [], taken := [], left := [], voided := true } })

/-- STANDBY_PAIR_MISMATCH: the standby pair is fenced (R13). -/
def standbyFenced (s : State) : Prop :=
  s.chip.directorRuns = true → s.chip.mail.voided = false → s.chip.flag F.sysDirectorStandbyReady = true →
    Runs .standbyPairMismatch s (fun t =>
      t.flag F.sysDirectorStandbyReady = false ∧ t.flag F.sysDirectorStandbyFenced = true
      ∧ s.chip.keeps t [F.sysDirectorStandbyReady, F.sysDirectorStandbyFenced] ∧ s.chip.onlyRegs t)

/-- DIRECTOR_SELFTEST_DONE of a fenced pair that has not failed one: one that passed waits for the marker of clapper 0, and
one that failed stays fenced whatever a later test says (R13). -/
def pairTested (pass : Bool) (s : State) : Prop :=
  s.chip.coresRun = true → s.chip.flag F.sysDirectorStandbyFenced = true → s.chip.controlLost = false →
    (s.chip.cores.pairFailed = false → Runs (.directorSelftestDone pass) s (fun t =>
      t = { s.chip with cores := { s.chip.cores with selfTestOk := pass, pairFailed := !pass } }))
    ∧ (s.chip.cores.pairFailed = true → Runs (.directorSelftestDone pass) s (fun t => t = s.chip))

/-! ### The clapper marker -/

/-- Nothing of the director's is due at this marker but what is staged, no frequency is yet to be computed, and no
calibration runs. -/
def quietMarker (c : Chip) (r : Int) : Prop :=
  c.time.running = true ∧ c.ready = true ∧ c.power.phase = .run ∧ c.time.nextRate = some r ∧ c.mail.left = []
    ∧ c.mail.moved = [] ∧ c.calRun = none

/-- CLAPPER_MARKER at which nothing is staged: raw time stands at it, the parameters computed for it come into force, but for
a rate that the dip state, R14 or safe stop holds, network time runs on from its anchor, CLAPPER.NUMBER is the clapper it
begins, and the set is kept for conversion (R14, R170, R172, R187). -/
def markerParams (m : MarkerIn) (r : Int) (s : State) : Prop :=
  quietMarker s.chip r → s.chip.mail.staged = [] →
    Runs (.clapperMarker m) s (fun t =>
      t.time.cur = { s.chip.time.cur with
        anchor := s.chip.time.nextAnchor, base := s.chip.time.cur.netAt s.chip.time.nextAnchor
        rate := if s.chip.inDip || s.chip.planesHeld then s.chip.time.cur.rate else r }
      ∧ (RawWhole s → 0 ≤ rawDiff s.chip.time.raw s.chip.time.nextAnchor → t.time.raw = s.chip.time.nextAnchor)
      ∧ t.time.nextRate = none ∧ t.time.hist = (t.time.cur :: s.chip.time.hist).take 256
      ∧ t.getN F.time0ClapperNumber = s.chip.time.nextNumber % 2 ^ F.time0ClapperNumber.width
      ∧ t.path = s.chip.path ∧ t.nh = s.chip.nh ∧ t.flow = s.chip.flow ∧ t.ledger = s.chip.ledger
      ∧ t.frames = s.chip.frames ∧ t.windows = s.chip.windows)

/-- CLAPPER_MARKER that releases an ADMIT_FLOW: the flow's entry is valid, its ledger has it, and its slot completes OK
(R11, R324, R329). -/
def markerAdmits (m : MarkerIn) (r : Int) (n : Fin 16) (f : LFlow) (e : BitVec 128) (b : List Nat) (rs : List Word) (s : State) :
    Prop :=
  quietMarker s.chip r → s.chip.directorRuns = true → s.chip.mail.voided = false →
  s.chip.mail.staged = [⟨n.val, .addFlow f e b, stOk, rs⟩] → rs.length ≤ 64 → f.port < 48 → f.sub < 8 →
    Runs (.clapperMarker m) s (fun t =>
      t.ledger = s.chip.ledger ++ [f] ∧ t.flowEntry f.index = e ∧ Store.read 0 t.dn f.index = 0
      ∧ t.getN (F.cmdSlotStatusStatus n.val) = stOk ∧ t.flag (F.cmdSlotStatusDone n.val) = true
      ∧ t.getBit F.cmd0Done n.val = true
      ∧ t.path = s.chip.path ∧ t.nh = s.chip.nh ∧ t.frames = s.chip.frames)

/-- The slot's command has completed: STATUS, DONE, its result words, its bit of CMD.DONE, and its vector with IRQ; the slot
is idle (R324). -/
def slotDone (n st : Nat) (rs : List Word) (c t : Chip) : Prop :=
  t.getN (F.cmdSlotStatusStatus n) = st ∧ t.flag (F.cmdSlotStatusDone n) = true ∧ t.getBit F.cmd0Done n = true
    ∧ (∀ i < rs.length, t.get (F.cmdSlotResult n i) = rs.getD i 0)
    ∧ ((c.slot n).irq = true → bit t.msix (40 + n) = true) ∧ t.slot n = slotDefault

/-- The marker releases one staged step, of a slot whose step has run in the clapper that ends, and no other. -/
def releases (e : Staged) (r : Int) (c : Chip) : Prop :=
  quietMarker c r ∧ c.directorRuns = true ∧ c.mail.voided = false ∧ c.mail.staged = [e] ∧ (c.slot e.slot).phase = .ran
    ∧ e.slot < 16 ∧ e.results.length ≤ 64

/-- CLAPPER_MARKER that releases a RELEASE_FLOW: the entry is invalid and keeps its GEN, the ledger gives the flow up, and what
its frames' tails return goes to no bucket (R61, R62, R324, R331). -/
def markerReleases (m : MarkerIn) (r : Int) (n : Fin 16) (f : LFlow) (rs : List Word) (s : State) : Prop :=
  releases ⟨n.val, .release f.index, stOk, rs⟩ r s.chip → s.chip.ledger.find? (fun g => g.index == f.index) = some f →
  f.port < 48 → f.sub < 8 →
    Runs (.clapperMarker m) s (fun t =>
      t.ledger = s.chip.ledger.filter (fun g => g.index != f.index)
      ∧ t.flowEntry f.index = BitVec.ofNat 128 (f.gen * 2 ^ 119) ∧ Store.find f.index t.tokens = none
      ∧ (∀ e ∈ t.tails, e.2.flow = f.index → e.2.live = false) ∧ slotDone n.val stOk rs s.chip t
      ∧ t.path = s.chip.path ∧ t.nh = s.chip.nh ∧ t.frames = s.chip.frames)

/-- CLAPPER_MARKER that releases a SET_TAKE: its cut-over is pending, or with CANCEL none is, and no other port's gates change
(R158, R324). -/
def markerTakes (m : MarkerIn) (r : Int) (n : Fin 16) (p : Fin 48) (k : Option CutOver) (rs : List Word) (s : State) : Prop :=
  releases ⟨n.val, (match k with | some x => .take p.val x | none => .cancel p.val), stOk, rs⟩ r s.chip →
    Runs (.clapperMarker m) s (fun t =>
      t.gate p.val = { s.chip.gate p.val with pending := k } ∧ (∀ q < 48, q ≠ p.val → t.gate q = s.chip.gate q)
      ∧ (t.pageDark (0x2005 + p.val * 16) = false → t.flag (F.port5TakeStatusPending p.val) = k.isSome)
      ∧ slotDone n.val stOk rs s.chip t
      ∧ t.path = s.chip.path ∧ t.nh = s.chip.nh ∧ t.flow = s.chip.flow ∧ t.frames = s.chip.frames)

/-- CLAPPER_MARKER that releases a TABLE_COMMIT: the staging entries are written to the path and next-hop entries that they
name, every failed mark of which clears, and no other entry changes (R115, R117, R324). -/
def markerCommits (m : MarkerIn) (r : Int) (n : Fin 16) (first count : Nat) (rs : List Word) (s : State) : Prop :=
  let target := fun i => Store.read 0 s.chip.stageTgt (first + i)
  releases ⟨n.val, .commit first count, stOk, rs⟩ r s.chip → (∀ i < count, target i < 2 * 2 ^ 20) →
    Runs (.clapperMarker m) s (fun t =>
      (∀ i < count, (∀ j < count, i < j → target j ≠ target i) →
        t.tentry (target i / 2 ^ 20) (target i % 2 ^ 20) = s.chip.tentry 4 (first + i)
        ∧ t.failed (target i / 2 ^ 20) (target i % 2 ^ 20) = false)
      ∧ (∀ w < 2, ∀ k < 2 ^ 20, (∀ i < count, target i ≠ w * 2 ^ 20 + k) → t.tentry w k = s.chip.tentry w k)
      ∧ t.flow = s.chip.flow ∧ t.dn = s.chip.dn ∧ t.stage = s.chip.stage
      ∧ slotDone n.val stOk rs s.chip t ∧ t.frames = s.chip.frames)

/-- CLAPPER_MARKER that releases a SET_ASYM: the ledger entry of the subport takes the host's values, with source 1 (R198). -/
def markerAsym (m : MarkerIn) (r : Int) (n : Fin 16) (p : Fin 48) (sub : Fin 8) (ext asym : Word) (rs : List Word) (s : State) :
    Prop :=
  releases ⟨n.val, .asym p.val sub.val ext asym, stOk, rs⟩ r s.chip →
    Runs (.clapperMarker m) s (fun t =>
      t.getN (F.pers2ExtExtTx p.val sub.val) = bits ext 31 16 ∧ t.getN (F.pers2ExtExtRx p.val sub.val) = bits ext 15 0
      ∧ t.getN (F.pers2Asym p.val sub.val) = bits asym 23 0 ∧ t.getN (F.pers2AsymSource p.val sub.val) = 1
      ∧ slotDone n.val stOk rs s.chip t
      ∧ t.path = s.chip.path ∧ t.nh = s.chip.nh ∧ t.flow = s.chip.flow ∧ t.frames = s.chip.frames)

/-- CLAPPER_MARKER that releases a SESSION_OPEN or a SESSION_CLOSE: the session is there with OPEN = 1 in its word, learned
and phase-linked to none, or it is gone and no queued message is its own any more; the others stay open with their words
(R211, R324, R339). -/
def markerOpens (m : MarkerIn) (r : Int) (n : Fin 16) (k : Nat) (cfg : BitVec 256) (rs : List Word) (s : State) : Prop :=
  releases ⟨n.val, .openSession k cfg, stOk, rs⟩ r s.chip →
    Runs (.clapperMarker m) s (fun t =>
      (∃ x, t.session k = some x ∧ x.cfg = setIn cfg 255 true ∧ x.fresh = false ∧ x.peer = cfgPeer cfg ∧ x.age = 0xFFFFFF)
      ∧ (∀ j < 16384, j ≠ k → (t.session j).map Session.cfg = (s.chip.session j).map Session.cfg)
      ∧ slotDone n.val stOk rs s.chip t ∧ t.flow = s.chip.flow ∧ t.frames = s.chip.frames)
def markerCloses (m : MarkerIn) (r : Int) (n : Fin 16) (k : Nat) (rs : List Word) (s : State) : Prop :=
  releases ⟨n.val, .closeSession k, stOk, rs⟩ r s.chip → k < 16384 →
    Runs (.clapperMarker m) s (fun t =>
      t.session k = none ∧ (∀ g < 8, ∀ q ∈ Store.read [] t.rxq g, q.session ≠ k)
      ∧ (∀ j < 16384, j ≠ k → (t.session j).map Session.cfg = (s.chip.session j).map Session.cfg)
      ∧ slotDone n.val stOk rs s.chip t ∧ t.flow = s.chip.flow ∧ t.frames = s.chip.frames)

/-- CLAPPER_MARKER that releases an ACCEPT_STEP of the form that undoes the refused jump, outside the dip state, with a jump
held: network time moves by it at the marker, SET reads 1, the dolly is gone, TRACK resumes with a time source, and the
next marker falls at a whole multiple of 62,500 ns of the new time, one clapper off at least (R172, R173, R185, R186). -/
def markerSteps (m : MarkerIn) (r : Int) (n : Fin 16) (st : Nat) (rs : List Word) (s : State) : Prop :=
  let c := s.chip
  let j := - signed 64 (c.get F.time0JumpHi ++ c.get F.time0JumpLo : Raw).toNat
  releases ⟨n.val, .step, st, rs⟩ r c → c.power.dip = none → c.inDip = false → bit ((c.slot n.val).param 0) 0 = false →
  c.time.srcIdle < 16 →
  c.time.lastAccepted = false → (c.flag F.time0StatusSet = true ∨ c.time.offerHeld = true) →
    Runs (.clapperMarker m) s (fun t =>
      let next := ceilDiv (t.time.cur.base + clapperUnits) clapperUnits * clapperUnits
      let a := c.time.nextAnchor.toNat
      t.time.cur.anchor = c.time.nextAnchor
      ∧ t.time.cur.base = (((c.time.cur.netAt c.time.nextAnchor : Int) + j) % (netMod : Int)).toNat
      ∧ t.time.cur.rate = rateWord c.time.y ∧ t.time.cur.isSet = true ∧ t.time.dolly = 0 ∧ t.time.coast = 0
      ∧ t.time.steps = c.time.steps + 1 ∧ t.flag F.time0StatusSet = true ∧ t.flag F.time0StatusTimeStepped = true
      ∧ c.counted t F.time0Steps 1
      ∧ t.getN F.time0StatusState = (if t.noTimeSource then stCoast else stTrack)
      ∧ t.flag F.time0StatusValid = !t.noTimeSource
      ∧ t.flag F.time0ClapperAligned = true ∧ c.counted t F.time0Realigns 1
      ∧ t.time.nextAnchor = t.time.cur.reach next ∧ t.time.nextNumber = next / 65536 % 1000000000 / 62500
      ∧ slotDone n.val stOk [word (twos 64 j % 2 ^ 32), word (twos 64 j / 2 ^ 32), word (a % 2 ^ 32), word (a / 2 ^ 32)] c t
      ∧ t.path = c.path ∧ t.nh = c.nh ∧ t.flow = c.flow ∧ t.frames = c.frames)

/-- CLAPPER_MARKER that takes a snapshot, for SNAPSHOT or for AUTO at clapper 0: the header counts it and names the clapper and
its raw time, and the bank holds what each subport has received (R347). -/
def markerSnaps (m : MarkerIn) (r : Int) (auto : Bool) (n : Fin 16) (rs : List Word) (s : State) : Prop :=
  let c := s.chip
  (auto = false → releases ⟨n.val, .snapshot, stOk, rs⟩ r c) →
  (auto = true → quietMarker c r ∧ c.mail.staged = [] ∧ c.time.nextNumber = 0 ∧ c.flag F.pcnt0CtrlAuto = true) →
    Runs (.clapperMarker m) s (fun t =>
      t.getN F.pcnt0SnapSeq = (c.getN F.pcnt0SnapSeq + 1) % 2 ^ 32 ∧ t.flag F.pcnt0SnapClapperTaken = true
      ∧ t.getN F.pcnt0SnapClapperNumber = c.time.nextNumber % 2 ^ F.time0ClapperNumber.width
      ∧ t.get F.pcnt0SnapRawLo = word (c.time.nextAnchor.toNat % 2 ^ 32)
      ∧ t.get F.pcnt0SnapRawHi = word (c.time.nextAnchor.toNat / 2 ^ 32)
      ∧ (∀ p < 48, ∀ sub < 8, c.lowerOf p = p → Store.read 0 t.bank ((0x1000 + p * 0x1000 + 0x700 + 0x200 + sub * 0xC) / 4)
          = if sub < c.subports p then c.get (F.trafRxFrames p sub) else 0)
      ∧ (auto = false → slotDone n.val stOk
          [t.get F.pcnt0SnapClapperNumber, t.get F.pcnt0SnapRawLo, t.get F.pcnt0SnapRawHi] c t)
      ∧ t.path = c.path ∧ t.nh = c.nh ∧ t.flow = c.flow ∧ t.ledger = c.ledger)

/-- The slot's command runs on from the marker (R341, R342). -/
def runsOnFrom (n : Nat) (t : Chip) : Prop := (t.slot n).phase = .running ∧ (t.slot n).began = t.time.raw

/-- CLAPPER_MARKER that releases a GROUP_RESET or a PORT_RESET: the reset begins. Its pages read IN_RESET, its links carry
nothing, a held group is held no more and its receive queue is empty, and the command runs on (R95, R308, R341). -/
def markerResets (m : MarkerIn) (r : Int) (n : Fin 16) (group : Bool) (k : Nat) (rs : List Word) (s : State) : Prop :=
  let c := s.chip
  releases ⟨n.val, (if group then .groupReset k else .portReset k), stOk, rs⟩ r c → c.framesInRange →
  (group = true → k < 8) → (group = false → k < 48 ∧ c.lowerOf k = k ∧ c.groupIsDark (k / 6) = false) →
    Runs (.clapperMarker m) s (fun t =>
      (group = true → t.groupInReset k = true ∧ (∀ pg ∈ groupPages k, t.power.inReset.contains pg = true)
        ∧ t.getBit F.rstStatusGroupHeld k = false ∧ c.counted t F.rstGroupResets 1 ∧ Store.read [] t.rxq k = []
        ∧ ∀ i < 6, ∀ sub < 8, t.getBit (F.port0StatusLinkUp (6 * k + i)) sub = false)
      ∧ (group = false → ∀ q ∈ c.members k, t.portInReset q = true ∧ (∀ pg ∈ portPages q, t.power.inReset.contains pg = true)
        ∧ ∀ sub < 8, t.getBit (F.port0StatusLinkUp q) sub = false)
      ∧ runsOnFrom n.val t ∧ t.path = c.path ∧ t.nh = c.nh ∧ t.flow = c.flow ∧ t.ledger = c.ledger)

/-- CLAPPER_MARKER that releases a DEVICE_RESET: the command completes, every other ends ABORTED, and a soft reset has begun,
with network time unset, no flow, no frame and no session (R306, R340). -/
def markerDevice (m : MarkerIn) (r : Int) (n : Fin 16) (rs : List Word) (s : State) : Prop :=
  let c := s.chip
  releases ⟨n.val, .deviceReset, stOk, rs⟩ r c → (Store.find n.val c.mail.slots).isSome = true →
    Runs (.clapperMarker m) s (fun t =>
      t.power.phase = .boot ∧ t.flag F.rstStatusReady = false ∧ t.getN F.rstCause = causeDeviceReset
      ∧ c.counted t F.rstSoftResets 1 ∧ t.time.cur = ⟨0, 0, 0, false, c.time.cur.era + 1⟩
      ∧ t.ledger = [] ∧ t.frames = [] ∧ t.sessions = [] ∧ t.mail.staged = [] ∧ t.mail.slots = []
      ∧ t.power.mram = c.power.mram ∧ t.lOut = c.lOut.filter (fun e => decide (rawDiff e.2.2 t.time.raw ≤ 3600000000000 * 65536)))

/-- CLAPPER_MARKER that releases a SET_POWER_STATE into the dark or into STANDBY: every member of the port is dark; the group
is, and its receive queue empty; or every table, flow, frame and session is gone (R96, R310, R311, R342). -/
def markerDark (m : MarkerIn) (r : Int) (n : Fin 16) (scope k st : Nat) (rs : List Word) (s : State) : Prop :=
  let c := s.chip
  releases ⟨n.val, .power scope k st, stOk, rs⟩ r c → c.framesInRange → st ≠ 0 → scope < 3 →
  (scope = 0 → k < 48 ∧ c.lowerOf k = k) → (scope = 1 → k < 8) →
    Runs (.clapperMarker m) s (fun t =>
      (scope = 0 → ∀ q ∈ c.members k, t.portIsDark q = true ∧ ∀ sub < 8, t.getBit (F.port0StatusLinkUp q) sub = false)
      ∧ (scope = 1 → t.groupIsDark k = true ∧ Store.read [] t.rxq k = []
        ∧ ∀ i < 6, ∀ sub < 8, t.getBit (F.port0StatusLinkUp (6 * k + i)) sub = false)
      ∧ (scope = 2 → t.power.standby = true ∧ (∀ g < 8, t.groupIsDark g = true) ∧ t.path = [] ∧ t.nh = [] ∧ t.flow = []
        ∧ t.ledger = [] ∧ t.frames = [] ∧ t.sessions = [])
      ∧ (scope ≠ 2 → t.path = c.path ∧ t.nh = c.nh ∧ t.flow = c.flow ∧ t.ledger = c.ledger)
      ∧ runsOnFrom n.val t)

/-- The marker finds a calibration running whose conditions stand, nothing else staged for it, and no budget that moved it. -/
def calMarks (n : CalRun) (data : Option CalIn) (r : Int) (c : Chip) : Prop :=
  c.time.running = true ∧ c.ready = true ∧ c.power.phase = .run ∧ c.time.nextRate = some r ∧ c.mail.left = []
    ∧ c.mail.moved = [] ∧ c.calRun = some n ∧ c.directorRuns = true ∧ c.mail.voided = false ∧ n.slot < 16
    ∧ (c.slot n.slot).phase = .running
    ∧ c.mail.staged = (match data with | some d => [⟨n.slot, .cal n.kind n.target d, stOk, []⟩] | none => [])

/-- CLAPPER_MARKER with a calibration one of whose conditions has failed: it ends INPUT_STATE with its cause, which CAL.CAUSE
shows with its target (R276). -/
def markerCalFails (m : MarkerIn) (r : Int) (x : CalRun) (s : State) : Prop :=
  calMarks x none r s.chip → x.cause = 4 →
    Runs (.clapperMarker m) s (fun t =>
      slotDone x.slot stInput [word 4] s.chip t ∧ t.getN F.cal0StatusLastResult = 1 ∧ t.getN F.cal0Cause = 4
      ∧ t.getN F.cal0CauseTarget = x.target % 256 ∧ s.chip.counted t F.cal0InputStates 1
      ∧ t.path = s.chip.path ∧ t.flow = s.chip.flow ∧ t.frames = s.chip.frames)

/-- CLAPPER_MARKER with the measurements of a CAL_LANE_DELAY, a CAL_DIE_LINK or a CAL_PLL_PHASE whose conditions stand: out of
range they are REFUSED with a fault; on a worn word the command ends WORN; else they are stored, and the success is recorded
with its network time (R276, R277, R280 to R282). -/
def markerCalEnds (m : MarkerIn) (r : Int) (x : CalRun) (d : CalIn) (s : State) : Prop :=
  let c := s.chip
  let ws := c.calWords (c.slot x.slot) x.kind x.target
  let out := c.calOut (c.slot x.slot) x.target d
  let net := c.time.cur.netAt c.time.nextAnchor
  calMarks x (some d) r c → x.cause = 0 → c.calCondition (c.slot x.slot) x.kind x.target = 0 → x.target < 48 →
  (match d with | .lanes _ _ => x.kind = 1 | .links _ => x.kind = 2 | .phase _ => x.kind = 3 | _ => False) →
    Runs (.clapperMarker m) s (fun t =>
      (out = true → slotDone x.slot stRefused [word reOutOfRange, word noWord] c t ∧ t.getN F.cal0StatusLastResult = 2
        ∧ c.counted t F.cal0OutOfRange 1 ∧ t.getBit F.hlthFault fCal = true)
      ∧ (out = false → (c.firstWorn ws).isSome = true → slotDone x.slot stWorn [] c t
        ∧ t.getN F.cal0StatusLastResult = 3 ∧ t.flag F.pers0StatusWorn = true)
      ∧ (out = false → c.firstWorn ws = none →
        t.getN (F.cmdSlotStatusStatus x.slot) = stOk ∧ t.flag (F.cmdSlotStatusDone x.slot) = true
        ∧ t.getN F.cal0StatusLastResult = 0
        ∧ t.getN (F.pers3KindCount x.kind) = min (2 ^ (F.pers3KindCount x.kind).width - 1) (c.getN (F.pers3KindCount x.kind) + 1)
        ∧ t.getN (F.pers3KindSecLo x.kind) = netSec net % 2 ^ 32 ∧ t.getN (F.pers3KindNs x.kind) = netNs net
        ∧ t.flag (F.pers3KindSecHiNtValid x.kind) = c.flag F.time0StatusValid
        ∧ (match d with
          | .lanes tx rx => ∀ i < 8, t.getN (F.cal1Tx (x.target * 8 + i)) = tx.getD i 0 % 2 ^ 32
              ∧ t.getN (F.cal1Rx (x.target * 8 + i)) = rx.getD i 0 % 2 ^ 32
          | .links ds => ∀ k < 17, c.linkMeasured k = true →
              t.getN (F.pers3LinkDelay k) = ds.getD k 0 % 2 ^ (F.pers3LinkDelay k).width
          | .phase v => t.getN F.pll0MphaseTargetPs = c.phaseTarget v % 2 ^ F.pll0MphaseTargetPs.width
          | _ => True))
      ∧ t.path = c.path ∧ t.flow = c.flow ∧ t.frames = c.frames)

/-- CLAPPER_MARKER with the first measurements of a CAL_TDC, in range: the two lines of every channel exchange their roles, and
the run completes at the next marker (R278). -/
def markerExchanges (m : MarkerIn) (r : Int) (x : CalRun) (lines : List (List TdcPass)) (grid : TdcGrid) (s : State) : Prop :=
  let c := s.chip
  let d := CalIn.tdc lines grid
  calMarks x (some d) r c → x.cause = 0 → x.kind = 0 → x.half = none →
  c.calCondition (c.slot x.slot) 0 x.target = 0 → c.calOut (c.slot x.slot) x.target d = false →
    Runs (.clapperMarker m) s (fun t =>
      t.calRun = some { x with half := some d } ∧ (⟨x.slot, .cal 0 x.target d, stOk, []⟩ : Staged) ∈ t.mail.staged
      ∧ (t.slot x.slot).phase = .running ∧ t.path = c.path ∧ t.flow = c.flow ∧ t.frames = c.frames)

/-- CLAPPER_MARKER, at a candidate whose source stands, outside clapper 0: ACTIVE shows its activity test; one that fails a
test, or has failed one in the clapper, loses its qualification, which CAUSE and DISQUALIFIED tell; one that passes all stays
qualified, or begins its hold-off (R220, R221). -/
def markerQualifies (m : MarkerIn) (r : Int) (x : Cand) (s : State) : Prop :=
  let c := s.chip
  let i := candIndex x
  quietMarker c r → c.mail.staged = [] → c.time.nextNumber ≠ 0 → (c.planesHeld = false ∨ i < 10) →
  (c.cand i).source = c.sourceOf i → c.limitPpb i ≠ 0 →
    Runs (.clapperMarker m) s (fun t =>
      t.flag (candActive i) = c.isActive i
      ∧ ((c.failing i).isSome = true → t.flag (candQualified i) = false
        ∧ (c.flag (candQualified i) = true → t.getN (candCause i) = (c.failing i).getD 0 ∧ c.counted t (candLosses i) 1))
      ∧ (c.failing i = none → c.flag (candQualified i) = true → t.flag (candQualified i) = true)
      ∧ (c.failing i = none → c.flag (candQualified i) = false →
          t.flag (candQualified i) = false ∧ t.flag (candHoldoff i) = true)
      ∧ t.path = c.path ∧ t.flow = c.flow ∧ t.frames = c.frames)

/-- CLAPPER_MARKER, at the selector of a plane that is not held, with no wait to restore over: a selected candidate that may
still be selected stays, and in revertive mode a better one begins its wait; else the one of lowest PRIORITY, then of lowest
number, is cut to, or none is left. A cut is told; the frequency loop then acquires from none, or holds over (R222, R223,
R225, R226, R231). -/
def markerSelects (m : MarkerIn) (r : Int) (time : Bool) (s : State) : Prop :=
  let c := s.chip
  let was := c.selected time
  let cut := if time then F.ref2TstatusCut else F.ref0FstatusCut
  let cuts := if time then F.ref2Tcuts else F.ref0Cuts
  quietMarker c r → c.mail.staged = [] → c.planesHeld = false → c.refs.wtrOver = [] →
  (time = true → c.power.dip = none ∧ c.inDip = false) → (c.revertive time = false ∨ 0 < c.wtrSeconds time) →
    Runs (.clapperMarker m) s (fun t =>
      let stays := ∃ d ∈ planeCands time, was = some d ∧ t.selectable d = true
      (stays → t.selected time = was ∧ c.counted t cuts 0 ∧ (c.revertive time = true → ∀ d ∈ planeCands time, was = some d →
          ∀ k ∈ planeCands time, t.selectable k = true → t.priority k < t.priority d → t.flag (candWtr k) = true))
      ∧ (¬ stays → ∀ k ∈ planeCands time, t.selectable k = true →
          (∀ j ∈ planeCands time, t.selectable j = true → t.priority k < t.priority j ∨ (t.priority k = t.priority j ∧ k ≤ j)) →
          t.selected time = some k ∧ t.flag cut = true ∧ c.counted t cuts 1
          ∧ (time = false → was = none →
              t.getN F.ref0FstatusLoopState = loopAcquire ∧ c.counted t F.ref0Acquires 1))
      ∧ (¬ stays → was ≠ none → (∀ j ∈ planeCands time, t.selectable j = false) →
          t.selected time = none ∧ t.flag cut = true ∧ c.counted t cuts 1
          ∧ (time = false → t.getN F.ref0FstatusLoopState = loopHoldover ∧ c.counted t F.ref0Holdovers 1))
      ∧ t.path = c.path ∧ t.flow = c.flow ∧ t.frames = c.frames)

/-- CLAPPER_MARKER while control is lost: a selected frequency candidate that has failed its activity test in the clapper puts
the loop in HOLDOVER without a cut (R14, R220, R231). -/
def markerHolds (m : MarkerIn) (r : Int) (d : Fin 10) (s : State) : Prop :=
  let c := s.chip
  quietMarker c r → c.controlLost = true → c.getN F.ref0FstatusFselected = d.val → (c.cand d.val).source = c.sourceOf d.val →
  (c.cand d.val).lostAct = true → c.getN F.ref0FstatusLoopState ≠ loopHoldover →
    Runs (.clapperMarker m) s (fun t =>
      t.getN F.ref0FstatusLoopState = loopHoldover ∧ c.counted t F.ref0Holdovers 1
      ∧ t.getN F.ref0FstatusFselected = d.val ∧ c.counted t F.ref0Cuts 0
      ∧ t.path = c.path ∧ t.flow = c.flow ∧ t.frames = c.frames)

/-- CLAPPER_MARKER of clapper 0 while the loop neither acquires nor is locked: the archive takes the entry of the second that
ends, at the place behind the newest, with its second, its mean control value and what held in it (R233). -/
def markerArchives (m : MarkerIn) (r : Int) (s : State) : Prop :=
  let c := s.chip
  let st := c.getN F.ref0FstatusLoopState
  let at_ := if c.getN F.ref3ArchCount = 0 then 0 else (c.getN F.ref3ArchNewest + 1) % 4096
  let mean := freeDiv .second (c.refs.cvSum + c.refs.cv) (c.refs.cvCount + 1 : Nat)
  quietMarker c r → c.mail.staged = [] → c.time.nextNumber = 0 → st ≠ loopAcquire → st ≠ loopLocked →
  c.power.dip = none → c.inDip = false →
    Runs (.clapperMarker m) s (fun t =>
      let e := Store.read 0 t.refs.archive at_
      t.getN F.ref3ArchNewest = at_
      ∧ t.getN F.ref3ArchCount = min (2 ^ F.ref3ArchCount.width - 1) (c.getN F.ref3ArchCount + 1)
      ∧ bits e 127 64 = twos 64 mean ∧ bits e 63 32 = (c.gaffer.seconds + 1) % 2 ^ 32
      ∧ bits e 31 28 = c.getN F.ref0FstatusFselected ∧ bits e 27 26 = st ∧ bit e 25 = false
      ∧ bit e 24 = c.refs.cutIn ∧ bit e 23 = c.refs.dipIn ∧ bits e 22 0 = 0
      ∧ (∀ k < 4096, k ≠ at_ → Store.read 0 t.refs.archive k = Store.read 0 c.refs.archive k)
      ∧ t.path = c.path ∧ t.flow = c.flow ∧ t.frames = c.frames)

/-- CLAPPER_MARKER with a fenced scheduler replica that is not held: it takes the running one's pointers, and runs again
(R129). -/
def markerReloads (m : MarkerIn) (r : Int) (s : State) : Prop :=
  let c := s.chip
  quietMarker c r → c.mail.staged = [] → c.safeStop = false → c.power.standby = false → c.flag F.fabCcStatusHeld = false →
    Runs (.clapperMarker m) s (fun t =>
      (c.flag F.fabCcStatusAFenced = true → t.flag F.fabCcStatusAFenced = false ∧ t.flag F.fabCcStatusSimplex = false
        ∧ t.fab.gptrA = c.fab.gptrB ∧ t.fab.aptrA = c.fab.aptrB ∧ t.fab.gptrB = c.fab.gptrB ∧ t.fab.aptrB = c.fab.aptrB)
      ∧ (c.flag F.fabCcStatusAFenced = false → c.flag F.fabCcStatusBFenced = true →
        t.flag F.fabCcStatusBFenced = false ∧ t.flag F.fabCcStatusSimplex = false
        ∧ t.fab.gptrB = c.fab.gptrA ∧ t.fab.aptrB = c.fab.aptrA ∧ t.fab.gptrA = c.fab.gptrA ∧ t.fab.aptrA = c.fab.aptrA)
      ∧ t.path = c.path ∧ t.flow = c.flow ∧ t.frames = c.frames)

/-- CLAPPER_MARKER with nothing staged or ending, outside the dip state: the clapper's steps are those of the slots with a
command that waits or runs, in slot order, as many as the budget of 60,000 cycles holds; the rest are moved whole; and a
waiting command of Table 15-4 whose step fits begins (R19, R326). -/
def markerBegins (m : MarkerIn) (r : Int) (s : State) : Prop :=
  let c := s.chip
  let works := fun (e : Nat × Slot) => e.2.phase == .waiting || e.2.phase == .due || e.2.phase == .running
  quietMarker c r → c.mail.staged = [] → c.directorRuns = true → c.mail.voided = false → c.power.dip = none → c.inDip = false →
  (∀ e ∈ c.mail.slots, e.2.phase ≠ .ending) → Store.canonical slotDefault c.mail.slots = true →
    Runs (.clapperMarker m) s (fun t =>
      let costs := fun (l : List Nat) => (l.map (fun n => (c.slot n).cost)).sum
      t.mail.order ++ t.mail.moved = (c.mail.slots.filter works).map Prod.fst ∧ costs t.mail.order ≤ 60000
      ∧ (∀ n ∈ t.mail.moved.head?, 60000 < costs (t.mail.order ++ [n]))
      ∧ (∀ n ∈ t.mail.order, (c.slot n).phase = .waiting → opcodes.contains (c.slot n).opcode = true →
          calKind (c.slot n).opcode = none → (t.slot n).phase = .due ∧ n ∈ t.mail.left)
      ∧ (∀ n ∈ t.mail.order, (c.slot n).phase = .waiting → opcodes.contains (c.slot n).opcode = false →
          (⟨n, .none, stRefused, [word reOpcode, word noWord]⟩ : Staged) ∈ t.mail.staged)
      ∧ (∀ n ∈ t.mail.moved, (c.slot n).phase = .waiting → (t.slot n).phase = .due)
      ∧ t.path = c.path ∧ t.flow = c.flow ∧ t.frames = c.frames)

/-- CLAPPER_MARKER: each member of a fused port whose PCS is aligned sends its fuse marker, with its role and the clapper's
number, and no other member sends one (R90, R91). -/
def markerFuses (m : MarkerIn) (r : Int) (p : Fin 42) (s : State) : Prop :=
  let c := s.chip
  let ready := fun (q : Nat) => (c.link q 0).phase = .aligned ∨ (c.link q 0).phase = .up
  let sends := fun (t : Chip) (q : Nat) (upper : Bool) =>
    ∃ x ∈ t.out, x.port = q ∧ x.body = .fuseMarker c.identity upper (c.time.nextNumber % 2 ^ F.time0ClapperNumber.width)
  quietMarker c r → c.mail.staged = [] → c.coresRun = true → c.fusedLower p.val = true →
  c.farLoop p.val = false → c.farLoop (p.val + 6) = false →
    Runs (.clapperMarker m) s (fun t =>
      (ready p.val → sends t p.val false) ∧ (ready (p.val + 6) → sends t (p.val + 6) true)
      ∧ (¬ ready p.val → ∀ x ∈ t.out, x.port ≠ p.val) ∧ (¬ ready (p.val + 6) → ∀ x ∈ t.out, x.port ≠ p.val + 6)
      ∧ t.path = c.path ∧ t.flow = c.flow ∧ t.frames = c.frames)

/-! ### Network time -/

/-- SERVO_COMPUTE of an accepted result: y integrates it within its bounds, the next rate adds the proportional part, and
OFFSET_LAST takes it (R180 to R183, R227). The value fed is the offset less the dolly's. -/
def servoTakes (p : Post) (src : Nat) (s : State) : Prop :=
  let c := s.chip
  let fed := p.e * 2 ^ 32 - c.time.dolly
  let y := clampI (-(rateMax * rateUnit)) (rateMax * rateUnit) (c.time.y + fed * 2 ^ (40 - c.ishift))
  c.time.nextRate = none → c.time.running = true → c.ready = true → c.inDip = false → c.planesHeld = false →
  c.getN F.time0StatusState ≠ stFree → c.servoSource = some src → c.resultOf src = some p → c.takes p = true →
  p.e.natAbs ≤ c.jumpLimit → c.time.disq = [] → c.flag F.ref2TstatusDollyHeld = false →
    Runs .servoCompute s (fun t =>
      t.time.y = y ∧ t.time.nextRate = some (rateWord (y + fed * 2 ^ (40 - c.pshift)))
      ∧ t.time.accepted = true ∧ t.time.coast = 0 ∧ t.posts = []
      ∧ t.getN F.time0OffsetLast = twos 32 (clampI (-2147483647) 2147483647 p.e)
      ∧ t.getN F.time0StatusState = (if c.getN F.time0StatusState = stCoast then stTrack else c.getN F.time0StatusState)
      ∧ c.keeps t [F.time0RefuseRun, F.time0OffsetLast, F.time0StatusState, F.time0StatusValid]
      ∧ t = { c with
        regs := t.regs, posts := [], refs := { c.refs with ppsOffer := [], offers := t.refs.offers }
        time := { c.time with
          y := t.time.y, nextRate := t.time.nextRate, accepted := true, coast := 0
          lastAccepted := t.time.lastAccepted, srcIdle := t.time.srcIdle } })

/-- SERVO_COMPUTE without a result: the rate follows y alone (R182); in the dip state, under R14 and in safe stop the rate
in force stays (R230, R14). -/
def servoIdle (s : State) : Prop :=
  let c := s.chip
  c.time.nextRate = none → c.time.running = true → c.ready = true →
  (c.servoSource = none ∨ ∃ x, c.servoSource = some x ∧ c.resultOf x = none) → c.getN F.time0StatusState ≠ stFree →
  c.time.disq = [] →
    Runs .servoCompute s (fun t =>
      t.time.nextRate = some (if c.inDip || c.planesHeld then c.time.cur.rate else rateWord c.time.y)
      ∧ t = { c with
        posts := [], refs := { c.refs with ppsOffer := [], offers := t.refs.offers }
        time := { c.time with nextRate := t.time.nextRate, srcIdle := t.time.srcIdle } })

/-- SERVO_COMPUTE of a result beyond JUMP_NS: it is refused, REFUSALS counts, JUMP_REFUSED reads 1, JUMP and
REFUSE.SOURCE record it, the sixteenth of a run disqualifies its source, and the rate follows y alone (R183). -/
def servoRefuses (p : Post) (src : Nat) (s : State) : Prop :=
  let c := s.chip
  c.time.nextRate = none → c.time.running = true → c.ready = true → c.inDip = false → c.planesHeld = false →
  c.getN F.time0StatusState ≠ stFree → c.servoSource = some src → c.resultOf src = some p → c.takes p = true →
  c.jumpLimit < p.e.natAbs → c.time.disq = [] →
    Runs .servoCompute s (fun t =>
      s.chip.counted t F.time0Refusals 1 ∧ t.flag F.time0StatusJumpRefused = true
      ∧ t.get F.time0JumpLo = word (twos 64 p.e % 2 ^ 32) ∧ t.get F.time0JumpHi = word (twos 64 p.e / 2 ^ 32 % 2 ^ 32)
      ∧ t.getN F.time0RefuseSource = src % 2 ^ F.time0RefuseSource.width
      ∧ (c.getN F.time0RefuseRun = 15 → (p.e - c.time.runFirst).natAbs ≤ c.jumpLimit →
          t.getN F.time0RefuseRun = 16 ∧ t.flag F.time0StatusSrcDisq = true ∧ t.time.disq = [src])
      ∧ c.keeps t [F.time0Refusals, F.time0StatusJumpRefused, F.time0JumpLo, F.time0JumpHi, F.time0RefuseSource,
          F.time0RefuseRun, F.time0StatusSrcDisq, F.time0Disqualified]
      ∧ t = { c with
        regs := t.regs, posts := [], refs := { c.refs with ppsOffer := [], offers := t.refs.offers }
        time := { c.time with
          nextRate := some (rateWord c.time.y), disq := t.time.disq, runFirst := t.time.runFirst
          lastAccepted := false, srcIdle := t.time.srcIdle } })

/-- COAST_ENTRY: in TRACK with the limit reached or no time source selected, the servo coasts: VALID falls and COASTS
counts (R180). -/
def coasts (s : State) : Prop :=
  let c := s.chip
  c.flag F.time0StatusSet = true → c.getN F.time0StatusState = stTrack → c.inDip = false → c.planesHeld = false →
  (c.coastLimit ≤ c.time.coast ∨ c.noTimeSource = true) →
    Runs .coastEntry s (fun t =>
      t.getN F.time0StatusState = stCoast ∧ t.flag F.time0StatusValid = false ∧ c.counted t F.time0Coasts 1
      ∧ c.keeps t [F.time0StatusState, F.time0StatusValid, F.time0Coasts] ∧ c.onlyRegs t)

/-- GAFFER_OVERRUN and GRIP_OVERRUN: the agent's overrun bit reads 1 and OVERRUNS counts; an overrun grip engine posts
nothing in the clapper, and what it has reached of its work stands (R174, R205). -/
def overrunGaffer (s : State) : Prop :=
  s.chip.coresRun = true →
    Runs .gafferOverrun s (fun t =>
      t.flag F.time0ClapperOverrunGaffer = true ∧ s.chip.counted t F.time0Overruns 1
      ∧ s.chip.keeps t [F.time0ClapperOverrunGaffer, F.time0Overruns] ∧ s.chip.onlyRegs t)
def overrunGrip (g : Fin 8) (phases : List PhaseIn) (reached : Nat) (s : State) : Prop :=
  s.chip.engineHere g.val = true → bit s.chip.cores.gripDone g.val = false →
    Runs (.gripOverrun ⟨g, phases, reached⟩) s (fun t =>
      t.getBit F.time0ClapperOverrunGrip g.val = true ∧ s.chip.counted t F.time0Overruns 1
      ∧ s.chip.keepsOff t (fun pg => trafficPage pg || pg == 0x20 || decide (0x3000 ≤ pg ∧ pg < 0x3080))
      ∧ t = { s.chip with
        regs := t.regs, kib := t.kib, sessions := t.sessions, rxq := t.rxq, refs := t.refs, out := t.out
        slateSeq := t.slateSeq, slateStep := t.slateStep, slateLost := t.slateLost
        cores := { s.chip.cores with gripDone := setIn s.chip.cores.gripDone g.val true } })

/-- GRIP_OVERRUN of an engine that reached nothing: its one session's sends of the clapper are owed, its result is not fresh,
and the queue keeps its messages (R18, R205). -/
def overrunOwes (g : Fin 8) (phases : List PhaseIn) (n : Nat) (x : Session) (s : State) : Prop :=
  s.chip.engineHere g.val = true → bit s.chip.cores.gripDone g.val = false → s.chip.groupSessions g.val = [n] →
  s.chip.session n = some x → cfgSpeid x.cfg = false →
    Runs (.gripOverrun ⟨g, phases, 0⟩) s (fun t =>
      t.session n = some { x with
        owed := x.owed ++ [s.chip.time.sinceAlign], fresh := false, age := min 0xFFFFFF (x.age + 1) }
      ∧ Store.read [] t.rxq g.val = Store.read [] s.chip.rxq g.val
      ∧ s.chip.keeps t [F.time0ClapperOverrunGrip, F.time0Overruns]
      ∧ t = { s.chip with
        regs := t.regs, sessions := t.sessions, rxq := t.rxq
        cores := { s.chip.cores with gripDone := setIn s.chip.cores.gripDone g.val true } })

/-! ### Sessions -/

/-- GRIP_CLAPPER of an engine whose one session holds a new complete pair: the offset and path delay of R197 are its
results, and they are posted with the earlier stamp (R197, R203, R206). -/
def gripPosts (g : Fin 8) (n : Nat) (x : Session) (v : Int × Int) (a b : Half) (s : State) : Prop :=
  let c := s.chip
  let e := offset1588 v.1 v.2 (c.asymOf x)
  c.gripRuns g.val = true → c.groupSessions g.val = [n] → c.session n = some x → cfgMaster x.cfg = false →
  cfgSpeid x.cfg = false → x.newPair = true → x.sync = some a → x.dly = some b → x.values = some v →
  Store.read [] c.rxq g.val = [] → x.group = g.val → x.member = c.carriesUpper x →
    Runs (.gripClapper g []) s (fun t =>
      (∃ y, t.session n = some y ∧ y.e = e ∧ y.delay = freeDiv .meanPath (v.1 + v.2) 2 ∧ y.fresh = true ∧ y.age = 0 ∧ y.newPair = false)
      ∧ (∀ k, k ≠ n → t.session k = c.session k)
      ∧ Store.find n t.posts = some ⟨e, earlier a.stamp b.stamp⟩
      ∧ bit t.cores.gripDone g.val = true
      ∧ c.keepsOff t (fun pg => trafficPage pg || pg == 0x3002 + g.val * 16)
      ∧ t = { c with
        regs := t.regs, kib := t.kib, sessions := t.sessions, posts := t.posts, rxq := t.rxq, slateSeq := t.slateSeq
        slateStep := t.slateStep, slateLost := t.slateLost, out := t.out
        cores := { c.cores with gripDone := setIn c.cores.gripDone g.val true } })

/-- GRIP_CLAPPER of an engine whose one MASTER session has only its Sync due: one Sync leaves, with the whole nanoseconds of
its moved TX stamp in network time, the fraction in correctionField, and the session's sequence number (R195, R196). -/
def gripSyncs (g : Fin 8) (n : Nat) (x : Session) (s : State) : Prop :=
  let c := s.chip
  let at_ := c.stampNet (c.sentStamp x c.stampNow)
  c.gripRuns g.val = true → c.groupSessions g.val = [n] → c.session n = some x → cfgMaster x.cfg = true →
  cfgSpeid x.cfg = false → cfgProfile x.cfg = 1 → isDue n c.time.sinceAlign (cfgLogAnnounce x.cfg) = false →
  isDue n c.time.sinceAlign (cfgLogSync x.cfg) = true → x.owed = [] → x.asked = [] →
  c.linkUp (cfgPort x.cfg) (cfgSub x.cfg) = true → c.farLoop x.carrier = false →
  Store.read [] c.rxq g.val = [] → x.group = g.val → x.member = c.carriesUpper x →
    Runs (.gripClapper g []) s (fun t =>
      (∃ f, t.out = c.out ++ [f] ∧ f.port = x.carrier ∧ f.sub = cfgSub x.cfg ∧ f.domain = cfgDomain x.cfg
        ∧ f.seqId = x.seqs.sync ∧ f.body = .sync (wholeNs at_) (fracNs at_) none)
      ∧ (∃ y, t.session n = some y ∧ y.seqs = { x.seqs with sync := x.seqs.sync + 1 })
      ∧ (∀ k, k ≠ n → t.session k = c.session k)
      ∧ originates x.carrier (cfgSub x.cfg) c t
      ∧ c.counted t (F.grp2MsgTx g.val) 1 ∧ c.keepsOff t (fun pg => trafficPage pg || pg == 0x3002 + g.val * 16)
      ∧ t = { c with
        regs := t.regs, kib := t.kib, sessions := t.sessions, rxq := t.rxq, out := t.out, slateSeq := t.slateSeq
        slateStep := t.slateStep, slateLost := t.slateLost
        cores := { c.cores with gripDone := setIn c.cores.gripDone g.val true } })

/-- GRIP_FAULT: the engine restarts, which counts, and HLTH takes a fault; GRIP_RESTART_DONE ends the restart, and its
LOCKED Speid sessions go on where their residues let them (R205). -/
def gripFails (g : Fin 8) (s : State) : Prop :=
  s.chip.coresRun = true → s.chip.groupIsDark g.val = false → s.chip.groupInReset g.val = false →
  s.chip.flag (F.grp2GripStatusRestarting g.val) = false →
    Runs (.gripFault g) s (fun t =>
      t.flag (F.grp2GripStatusRestarting g.val) = true ∧ s.chip.counted t (F.grp2Restarts g.val) 1
      ∧ t.getBit F.hlthFault fCore = true
      ∧ s.chip.keeps t [F.grp2GripStatusRestarting g.val, F.grp2Restarts g.val, F.hlthFault]
      ∧ t = { s.chip with regs := t.regs, msix := t.msix })
def gripBack (g : Fin 8) (phases : List PhaseIn) (s : State) : Prop :=
  s.chip.engineHere g.val = true → s.chip.flag (F.grp2GripStatusRestarting g.val) = true →
    Runs (.gripRestartDone g phases) s (fun t =>
      t.flag (F.grp2GripStatusRestarting g.val) = false
      ∧ (∀ n x, s.chip.groupSessions g.val = [n] → s.chip.session n = some x →
          t.session n = some (if cfgSpeid x.cfg then s.chip.resumeSpeid x (phases.find? (fun f => f.session.val == n)) else x))
      ∧ s.chip.keeps t [F.grp2GripStatusRestarting g.val]
      ∧ t = { s.chip with regs := t.regs, sessions := t.sessions })

/-- PTP_MESSAGE_RX that a session matches, of a kind that its role receives, with room in the queue: it waits in the
group's queue with its stamp moved by EXT_RX, and MSG_RX counts (R191 to R193, R196, R203). -/
def messageQueued (m : PtpMsg) (n : Nat) (x : Session) (s : State) : Prop :=
  let c := s.chip
  let g := c.lowerOf m.port.val / 6
  let q := Store.read [] c.rxq g
  c.receives m.port.val m.sub.val = true → m.kind ≠ .unsupported → m.badTlv = false → (m.transport = 2 → m.labelBottom = true) →
  c.sessions.find? (fun e => c.msgFits m e.2) = some (n, x) → kindFits (cfgMaster x.cfg) m.kind = true → q.length < 8192 →
    Runs (.ptpMessageRx m) s (fun t =>
      Store.read [] t.rxq g
        = q ++ [⟨n, m, movedBy (c.rxStamp m.port.val m.sub.val m.stamp) (-(c.getN (F.pers2ExtExtRx m.port.val m.sub.val) : Int)), 0⟩]
      ∧ c.counted t (F.grp2MsgRx g) 1 ∧ t.getN (F.grp2GripRxqDepth g) = (q.length + 1) % 2 ^ (F.grp2GripRxqDepth g).width
      ∧ c.keeps t [F.grp2MsgRx g, F.grp2GripRxqDepth g, F.grp2GripRxqPeak g]
      ∧ t = { c with
        regs := t.regs, rxq := t.rxq, slateSeq := t.slateSeq, slateStep := t.slateStep, slateLost := t.slateLost
        sessions := t.sessions })

/-- PTP_MESSAGE_RX that finds its group's queue full is lost, its slate with it: RXQ_DROP counts, and the source's next slate
carries GAP (R179, R203). -/
def messageDropped (m : PtpMsg) (n : Nat) (x : Session) (s : State) : Prop :=
  let c := s.chip
  let g := c.lowerOf m.port.val / 6
  c.receives m.port.val m.sub.val = true → m.kind ≠ .unsupported → m.badTlv = false → (m.transport = 2 → m.labelBottom = true) →
  c.sessions.find? (fun e => c.msgFits m e.2) = some (n, x) → kindFits (cfgMaster x.cfg) m.kind = true →
  8192 ≤ (Store.read [] c.rxq g).length →
    Runs (.ptpMessageRx m) s (fun t =>
      c.counted t (F.grp2RxqDrop g) 1 ∧ (m.port.val * 8 + m.sub.val) ∈ t.slateLost ∧ c.keeps t [F.grp2RxqDrop g]
      ∧ t = { c with regs := t.regs, slateSeq := t.slateSeq, slateStep := t.slateStep, slateLost := t.slateLost })

/-- PTP_MESSAGE_RX that no session matches counts in NO_SESSION and goes no further (R192). -/
def messageStray (m : PtpMsg) (s : State) : Prop :=
  let c := s.chip
  let g := c.lowerOf m.port.val / 6
  c.receives m.port.val m.sub.val = true → m.kind ≠ .unsupported → m.badTlv = false → (m.transport = 2 → m.labelBottom = true) →
  c.sessions.any (fun e => c.msgFits m e.2) = false →
    Runs (.ptpMessageRx m) s (fun t =>
      c.counted t (F.grp2NoSession g) 1 ∧ c.keeps t [F.grp2NoSession g]
      ∧ t = { c with regs := t.regs, slateSeq := t.slateSeq, slateStep := t.slateStep, slateLost := t.slateLost })

/-- ANN_TIMEOUT of a SLAVE session sets its mark and counts once; the time slots measured from it have failed the Announce
test (R194, R220). -/
def announceLost (n : Fin 16384) (x : Session) (s : State) : Prop :=
  s.chip.session n.val = some x → cfgMaster x.cfg = false → x.annTimeout = false → s.chip.engineHere x.group = true →
  s.chip.flag (F.grp2GripStatusRestarting x.group) = false →
    Runs (.annTimeout n) s (fun t =>
      t.session n.val = some { x with annTimeout := true } ∧ s.chip.counted t (F.grp2AnnTimeouts x.group) 1
      ∧ (∀ k < 8, (s.chip.cand (10 + k)).source = n.val → (t.cand (10 + k)).lostAnn = true)
      ∧ s.chip.keeps t [F.grp2AnnTimeouts x.group]
      ∧ t = { s.chip with regs := t.regs, sessions := t.sessions, refs := { s.chip.refs with cands := t.refs.cands } })

/-- ESMC_INFO_TX sends one PDU of the QL of now, with the extended QL TLV where EXT_TLV is set; ESMC_EVENT_TX sends one when
the QL announced changes, which counts in QL_CHANGES (R210). Each counts in TRAF (R346; log 111). -/
def esmcInfos (p : Fin 48) (sub : Fin 8) (s : State) : Prop :=
  let ql := s.chip.sentQl p.val sub.val
  let ext := if s.chip.flag (F.port6EsmcCtrlExtTlv p.val) then some (s.chip.sentEssm p.val sub.val, s.chip.identity) else none
  s.chip.esmcRuns p.val sub.val = true → s.chip.farLoop p.val = false →
    Runs (.esmcInfoTx p sub) s (fun t =>
      s.chip.counted t (F.port6PduTx p.val) 1 ∧ originates p.val sub.val s.chip t
      ∧ (t.esmcOf p.val sub.val).sentQl = some ((s.chip.esmcOf p.val sub.val).sentQl.getD ql)
      ∧ (∃ f, t.out = s.chip.out ++ [f] ∧ f.port = p.val ∧ f.sub = sub.val ∧ f.dmac = 0x0180C2000002 ∧ f.etype = 0x8809
        ∧ f.body = .esmc false ql ext)
      ∧ s.chip.keeps t (F.port6PduTx p.val :: sentFields p.val sub.val)
      ∧ t = { s.chip with
        regs := t.regs, kib := t.kib, slateSeq := t.slateSeq, slateStep := t.slateStep, slateLost := t.slateLost, out := t.out, esmc := t.esmc })
def esmcEvents (p : Fin 48) (sub : Fin 8) (q : Nat) (s : State) : Prop :=
  let ext := if s.chip.flag (F.port6EsmcCtrlExtTlv p.val) then some (s.chip.sentEssm p.val sub.val, s.chip.identity) else none
  s.chip.esmcRuns p.val sub.val = true → s.chip.farLoop p.val = false →
  (s.chip.esmcOf p.val sub.val).sentQl = some q → q ≠ s.chip.sentQl p.val sub.val →
    Runs (.esmcEventTx p sub) s (fun t => originates p.val sub.val s.chip t ∧
      s.chip.counted t (F.port6PduTx p.val) 1 ∧ s.chip.counted t (F.port6QlChanges p.val) 1
      ∧ (t.esmcOf p.val sub.val).sentQl = some (s.chip.sentQl p.val sub.val)
      ∧ (∃ f, t.out = s.chip.out ++ [f] ∧ f.port = p.val ∧ f.sub = sub.val
        ∧ f.body = .esmc true (s.chip.sentQl p.val sub.val) ext)
      ∧ s.chip.keeps t (F.port6PduTx p.val :: F.port6QlChanges p.val :: sentFields p.val sub.val)
      ∧ t = { s.chip with
        regs := t.regs, kib := t.kib, slateSeq := t.slateSeq, slateStep := t.slateStep, slateLost := t.slateLost, out := t.out, esmc := t.esmc })

/-- ESMC_PDU_RX of a well-formed PDU, the first of a second: RX_SSM takes its SSM, RX_VALID reads 1 and PDU_RX counts; a
malformed one counts in PDU_BAD alone. Either way its slate takes a SEQ (R177, R210). -/
def esmcTakes (p : Fin 48) (sub : Fin 8) (d : EsmcPdu) (s : State) : Prop :=
  s.chip.esmcRuns p.val sub.val = true → (s.chip.esmcOf p.val sub.val).inSecond = 0 →
    Runs (.esmcPduRx p sub d) s (fun t =>
      (d.wellFormed = true →
        t.getN (F.port6EsmcRxSsm p.val sub.val) = d.ssm.toNat ∧ t.flag (F.port6EsmcRxValid p.val sub.val) = true
        ∧ (∀ k, d.essm = some k → t.getN (F.port6EsmcRxEssm p.val sub.val) = k.toNat)
        ∧ s.chip.counted t (F.port6PduRx p.val) 1 ∧ (d.isEvent = false → t.flag (F.port6EsmcRxFailed p.val sub.val) = false))
      ∧ (d.wellFormed = false → s.chip.counted t (F.port6PduBad p.val) 1 ∧ s.chip.keeps t [F.port6PduBad p.val])
      ∧ s.chip.keeps t [F.port6EsmcRxSsm p.val sub.val, F.port6EsmcRxValid p.val sub.val, F.port6EsmcRxEssm p.val sub.val,
          F.port6EsmcRxFailed p.val sub.val, F.port6PduRx p.val, F.port6PduBad p.val]
      ∧ Store.read 0 t.slateSeq (p.val * 8 + sub.val) = Store.read 0 s.chip.slateSeq (p.val * 8 + sub.val) + 1
      ∧ t = { s.chip with
        regs := t.regs, esmc := t.esmc, slateSeq := t.slateSeq, slateStep := t.slateStep, slateLost := t.slateLost })

/-- ESMC_FAILED sets RX_FAILED of an enabled subport of a port that is not dark (R51, R210). -/
def esmcLost (p : Fin 48) (sub : Fin 8) (s : State) : Prop :=
  s.chip.coresRun = true → s.chip.getBit (F.port6EsmcCtrlEn p.val) sub.val = true → s.chip.portIsDark p.val = false →
  s.chip.groupIsDark (p.val / 6) = false →
    Runs (.esmcFailed p sub) s (fun t =>
      t.flag (F.port6EsmcRxFailed p.val sub.val) = true ∧ s.chip.keeps t [F.port6EsmcRxFailed p.val sub.val]
      ∧ s.chip.onlyRegs t)

/-! ### References -/

/-- HOLDOFF_EXPIRY of a running hold-off outside a held plane, with no test failing: the candidate qualifies (R221). -/
def holdoffEnds (c : Cand) (s : State) : Prop :=
  s.chip.planeHeld (candIndex c) = false → s.chip.flag (candHoldoff (candIndex c)) = true →
  s.chip.failing (candIndex c) = none →
    Runs (.holdoffExpiry c) s (fun t =>
      t.flag (candHoldoff (candIndex c)) = false ∧ t.flag (candQualified (candIndex c)) = true
      ∧ s.chip.keeps t [candHoldoff (candIndex c), candQualified (candIndex c)] ∧ s.chip.onlyRegs t)

/-- WTR_EXPIRY of a running wait to restore: WTR_RUNNING clears, and the candidate may be chosen at the next marker (R223). -/
def waitEnds (c : Cand) (s : State) : Prop :=
  s.chip.planeHeld (candIndex c) = false → s.chip.flag (candWtr (candIndex c)) = true →
    Runs (.wtrExpiry c) s (fun t =>
      t.flag (candWtr (candIndex c)) = false ∧ s.chip.keeps t [candWtr (candIndex c)]
      ∧ t = { s.chip with
        regs := t.regs, refs := { s.chip.refs with wtrOver := s.chip.refs.wtrOver ++ [candIndex c] } })

/-- REF_ACTIVITY_LOSS of a measured candidate: ACTIVE and HOLDOFF clear, and the loss is remembered for the next marker,
until which QUALIFIED stays (R220). -/
def activityGoes (c : Cand) (s : State) : Prop :=
  let k := candIndex c
  s.chip.planesHeld = false → (s.chip.cand k).source = s.chip.sourceOf k →
    Runs (.refActivityLoss c) s (fun t =>
      t.flag (candActive k) = false ∧ t.flag (candHoldoff k) = false
      ∧ (t.cand k).act = some false ∧ (t.cand k).lostAct = true ∧ (∀ j, j ≠ k → t.cand j = s.chip.cand j)
      ∧ s.chip.keeps t [candActive k, candHoldoff k]
      ∧ t = { s.chip with regs := t.regs, refs := { s.chip.refs with cands := t.refs.cands } })

/-- REF_ACTIVITY_RETURN of F0 to F5 when every other test holds and the candidate is not qualified: ACTIVE reads 1 and the
hold-off runs (R220, R221). -/
def activityComes (i : Fin 10) (s : State) : Prop :=
  s.chip.planesHeld = false → i.val < 6 → (s.chip.cand i.val).source = s.chip.sourceOf i.val →
  s.chip.limitPpb i.val ≠ 0 → (s.chip.cand i.val).offsetOk = true → (s.chip.cand i.val).driftOk = true →
  s.chip.flag (candQualified i.val) = false →
    Runs (.refActivityReturn (.freq i)) s (fun t =>
      t.flag (candActive i.val) = true ∧ t.flag (candHoldoff i.val) = true
      ∧ (t.cand i.val).act = some true ∧ (t.cand i.val).lostAct = (s.chip.cand i.val).lostAct
      ∧ (∀ j, j ≠ i.val → t.cand j = s.chip.cand j)
      ∧ s.chip.keeps t [candActive i.val, candHoldoff i.val]
      ∧ t = { s.chip with regs := t.regs, refs := { s.chip.refs with cands := t.refs.cands } })

/-- ACQUIRE_STAGE_SETTLE: the bandwidth halves down to BW_TRACK, and the stage at BW_TRACK locks the loop (R226). -/
def stageSettles (s : State) : Prop :=
  let bw := s.chip.bwTrack * stageUnit
  s.chip.getN F.ref0FstatusLoopState = loopAcquire →
    Runs .acquireStageSettle s (fun t =>
      (s.chip.refs.stage = bw → t.getN F.ref0FstatusLoopState = loopLocked ∧ t.refs = s.chip.refs)
      ∧ (s.chip.refs.stage ≠ bw → t.getN F.ref0FstatusLoopState = loopAcquire
          ∧ t.refs = { s.chip.refs with stage := max (s.chip.refs.stage / 2) bw })
      ∧ s.chip.keeps t [F.ref0FstatusLoopState, F.ref0FstatusBwNow, F.ref0FstatusSelQl]
      ∧ t = { s.chip with regs := t.regs, refs := t.refs })

/-- ACQUIRE_STAGE_SETTLE of the last stage with F0 to F5 selected: SEL_QL reads that candidate's QL (R235). -/
def selQl (s : State) : Prop :=
  s.chip.getN F.ref0FstatusLoopState = loopAcquire → s.chip.refs.stage = s.chip.bwTrack * stageUnit →
  s.chip.getN F.ref0FstatusFselected < 6 →
    Runs .acquireStageSettle s (fun t =>
      t.getN F.ref0FstatusSelQl = s.chip.getN (F.ref1QualQl (s.chip.getN F.ref0FstatusFselected)) % 2 ^ F.ref0FstatusSelQl.width)

/-- PPSIN_PULSE: the ball's slate takes the next SEQ, and its candidate has edges (R178, R216). -/
def ppsEdge (n : Fin 2) (stamp : Raw) (s : State) : Prop :=
  s.chip.ready = true → s.chip.time.running = true →
    Runs (.ppsinPulse n stamp) s (fun t =>
      Store.read 0 t.slateSeq (3 * 4096 + n.val) = Store.read 0 s.chip.slateSeq (3 * 4096 + n.val) + 1
      ∧ (t.cand (4 + n.val)).act = some true
      ∧ s.chip.keepsOff t (fun pg => pg == 0x31 || pg == 0x32)
      ∧ t = { s.chip with
        regs := t.regs, slateSeq := t.slateSeq, slateStep := t.slateStep, slateLost := t.slateLost
        refs := { s.chip.refs with cands := t.refs.cands, ppsSecond := t.refs.ppsSecond, ppsOffer := t.refs.ppsOffer } })

/-! ### Clock synthesis and outputs -/

/-- MASTER_PLL_LOL of a locked PLL: LOCKED clears, LOL_EVENT reads 1, MASTER_LOL counts, HLTH takes a fault, and the clocks
run on fallback (R242, R245). -/
def masterLoses (s : State) : Prop :=
  s.chip.flag F.pll0MstatusLocked = true → s.chip.clocked = true →
    Runs .masterPllLol s (fun t =>
      t.flag F.pll0MstatusLocked = false ∧ t.flag F.pll0MstatusLolEvent = true ∧ s.chip.counted t F.pll0MasterLol 1
      ∧ t.getBit F.hlthFault fPll = true ∧ t.flag F.pll0MstatusFallback = true
      ∧ (s.chip.flag F.pll0MstatusFallback = false → s.chip.counted t F.pll0Fallbacks 1)
      ∧ (s.chip.flag F.pll0MstatusFallback = false → t.banks.switched = some s.chip.time.raw)
      ∧ s.chip.keepsOff t (fun pg => [3, 0x40, 0x41, 0x50].contains pg)
      ∧ t = { s.chip with
        regs := t.regs, msix := t.msix, calRun := t.calRun, banks := { s.chip.banks with switched := t.banks.switched } })

/-- The dividers of the clock outputs as a lock leaves them: held in reset and released together, each at the start of its cycle
at its DIV; while the outputs run from fallback TCLK that is the place that they take at the return (R243; log 120). -/
def dividersReleased (s t : Chip) : Prop :=
  ∀ n < 8, t.clkOut n = if s.flag F.pll0MstatusFallback then { s.clkOut n with own := some (s.clkDiv n, 0) }
    else { s.clkOut n with div := s.clkDiv n, into := 0, own := none }

/-- MASTER_PLL_LOCK on the running machine whose first release measures a phase within 20 ps of the target: LOCKED and
MEASURED_PS, and the lock meets the target in force (R241, R243, R282). -/
def masterLocks (band : BitVec 4) (phi : Nat) (phis : List Nat) (s : State) : Prop :=
  s.chip.flag F.pll0MstatusLocked = false → s.chip.pllWait 0 = 0 → s.chip.power.phase = .run →
  s.chip.phaseOk phi = true →
    Runs (.masterPllLock band (phi :: phis)) s (fun t =>
      t.flag F.pll0MstatusLocked = true ∧ t.getN F.pll0MphaseMeasuredPs = phi % 2 ^ F.pll0MphaseMeasuredPs.width
      ∧ t.getN F.pll0MstatusBand = band.toNat ∧ t.flag F.cal0StatusPllMismatch = false ∧ dividersReleased s.chip t
      ∧ s.chip.keeps t [F.pll0MstatusLocked, F.pll0MphaseMeasuredPs, F.pll0MstatusBand, F.cal0StatusPllMismatch]
      ∧ t = { s.chip with regs := t.regs, clk := t.clk })

/-- MASTER_PLL_LOCK of which three releases fail: PHASE_FAIL, a fault, two retries counted, no lock (R243). -/
def masterFails (band : BitVec 4) (a b c : Nat) (s : State) : Prop :=
  s.chip.flag F.pll0MstatusLocked = false → s.chip.pllWait 0 = 0 → s.chip.power.phase = .run →
  s.chip.phaseOk a = false → s.chip.phaseOk b = false → s.chip.phaseOk c = false →
    Runs (.masterPllLock band [a, b, c]) s (fun t =>
      t.flag F.pll0MstatusPhaseFail = true ∧ t.getBit F.hlthFault fPll = true ∧ s.chip.counted t F.pll0PhaseRetries 2
      ∧ t.flag F.pll0MstatusLocked = false ∧ t.pllWait 0 = 1
      ∧ s.chip.keeps t [F.pll0MstatusPhaseFail, F.hlthFault, F.pll0PhaseRetries, F.pll0MphaseMeasuredPs, F.pll0MstatusBand]
      ∧ dividersReleased s.chip t
      ∧ t = { s.chip with
        regs := t.regs, msix := t.msix, clk := t.clk, power := { s.chip.power with pll := t.power.pll } })

/-- MASTER_PLL_LOCK in step 4 of a cold reset: the raw counter is released at 0 and clapper 0 begins (R166, R172, R244). -/
def coldLocks (band : BitVec 4) (phi : Nat) (phis : List Nat) (s : State) : Prop :=
  s.chip.flag F.pll0MstatusLocked = false → s.chip.pllWait 0 = 0 → s.chip.power.phase = .rails →
  s.chip.phaseOk phi = true →
    Runs (.masterPllLock band (phi :: phis)) s (fun t =>
      t.flag F.pll0MstatusLocked = true ∧ t.flag F.pll0CstatusALocked = true ∧ t.flag F.pll0CstatusBLocked = true
      ∧ dividersReleased s.chip t ∧ s.chip.keepsOff t (fun pg => pg == 0x40 || pg == 0x60)
      ∧ t = { s.chip with
        regs := t.regs, clk := t.clk, power := { s.chip.power with phase := .boot }
        time := { s.chip.time with
          raw := 0, running := true, cur := ⟨0, 0, 0, false, 0⟩, hist := [⟨0, 0, 0, false, 0⟩]
          nextAnchor := BitVec.ofNat 64 clapperUnits, nextNumber := 1 } })

/-- MASTER_PLL_RETRY: a new lock may be tried (R243). -/
def masterRetries (s : State) : Prop :=
  Runs .masterPllRetry s (fun t =>
    t.pllWait 0 = 0 ∧ t = { s.chip with power := { s.chip.power with pll := t.power.pll } })

/-- FALLBACK_RETURN once the master clock PLL is locked: FALLBACK clears and no clock output is squelched (R245). -/
def fallbackBack (s : State) : Prop :=
  s.chip.flag F.pll0MstatusFallback = true → s.chip.flag F.pll0MstatusLocked = true →
    Runs .fallbackReturn s (fun t =>
      t.flag F.pll0MstatusFallback = false
      ∧ (∀ n < 8, t.flag (F.pll1ClkoutStatusSquelched n) = false)
      ∧ t.flag F.tdc0TbstatusInUse = false
      ∧ (∀ n < 8, t.clkOut n = (s.chip.clkOut n).returned)
      ∧ s.chip.keepsOff t (fun pg => [0x40, 0x41, 0x50].contains pg)
      ∧ t = { s.chip with
        regs := t.regs, clk := t.clk, calRun := t.calRun, banks := { s.chip.banks with switched := some s.chip.time.raw } })

/-- CORE_PLL_LOL of the active PLL: with the standby ready the outputs swap to it at once and the loss counts; without, the
device enters safe stop (R248, R249). -/
def coreLoses (pllB : Bool) (s : State) : Prop :=
  let lock := if pllB then F.pll0CstatusBLocked else F.pll0CstatusALocked
  s.chip.flag lock = true → s.chip.clocked = true → s.chip.getN F.pll0CstatusActive = ofBool pllB →
    Runs (.corePllLol pllB) s (fun t =>
      t.flag lock = false ∧ t.flag F.pll0CstatusStandbyReady = false ∧ t.getBit F.hlthFault fPll = true
      ∧ (s.chip.flag F.pll0CstatusStandbyReady = true →
          t.getN F.pll0CstatusActive = 1 - ofBool pllB ∧ t.flag F.pll0CstatusSwapEvent = true
          ∧ s.chip.counted t (if pllB then F.pll0CoreLolB else F.pll0CoreLolA) 1)
      ∧ (s.chip.flag F.pll0CstatusStandbyReady = false → t.safeStop = true ∧ t.getN F.pll0CstatusActive = ofBool pllB)
      ∧ s.chip.keeps t [lock, F.pll0CstatusStandbyReady, F.hlthFault, F.pll0CstatusActive, F.pll0CstatusSwapEvent,
          F.pll0CoreLolA, F.pll0CoreLolB, F.pll0CstatusSafeStop]
      ∧ t = { s.chip with regs := t.regs, msix := t.msix })

/-- CORE_SETTING_CHANGE: the standby relocks at the setting that R246 calls for (R247). -/
def settingChanges (s : State) : Prop :=
  s.chip.wantedSetting ≠ s.chip.getN F.pll0CstatusSetting → s.chip.flag F.pll0CstatusStandbyReady = true →
  s.chip.pllWait 1 = 0 → s.chip.safeStop = false →
    Runs .coreSettingChange s (fun t =>
      t.flag F.pll0CstatusStandbyReady = false ∧ t.pllWait 1 = 1
      ∧ s.chip.keeps t [F.pll0CstatusStandbyReady, F.pll0CstatusALocked, F.pll0CstatusBLocked]
      ∧ t = { s.chip with regs := t.regs, power := { s.chip.power with pll := t.power.pll } })

/-- CORE_STANDBY_LOCKED in a change, or with the change to IDLE of a reset still due: the outputs swap to the standby at its
setting, SWAPS counts, and with RUN the subports that waited for it start; otherwise the standby is ready (R247, R248, R257). -/
def standbyLocks (s : State) : Prop :=
  let waits := s.chip.pllWait 1 = 1 ∨ s.chip.pllWait 2 = 1
  let set := if s.chip.pllWait 2 = 1 then 1 else 1 - s.chip.getN F.pll0CstatusSetting
  s.chip.flag F.pll0CstatusStandbyReady = false → s.chip.safeStop = false → s.chip.getN F.pll0CstatusActive ≤ 1 →
    Runs .coreStandbyLocked s (fun t =>
      (waits →
        t.getN F.pll0CstatusActive = 1 - s.chip.getN F.pll0CstatusActive ∧ s.chip.counted t F.pll0Swaps 1
        ∧ t.pllWait 1 = 0 ∧ t.pllWait 2 = 0 ∧ t.getN F.pll0CstatusSetting = set
        ∧ (set = 0 → ∀ p < 48, ∀ sub < 8, t.link p sub
            = if (s.chip.link p sub).phase = .coreWait
              then { s.chip.link p sub with phase := if s.chip.laneLocked p then s.chip.startPhase p else .coreWait }
              else s.chip.link p sub)
        ∧ (set ≠ 0 → t.links = s.chip.links))
      ∧ (¬ waits → t.flag F.pll0CstatusStandbyReady = true ∧ t.links = s.chip.links)
      ∧ s.chip.keeps t [F.pll0CstatusStandbyReady, F.pll0CstatusALocked, F.pll0CstatusBLocked, F.pll0CstatusActive,
          F.pll0CstatusSetting, F.pll0Swaps]
      ∧ t = { s.chip with regs := t.regs, links := t.links, power := { s.chip.power with pll := t.power.pll } })

/-- LANE_PLL_LOL: its lock bit clears, LANE_LOL counts, HLTH takes a fault, and every link of its three ports is down (R251). -/
def laneLoses (g : Fin 8) (k : Fin 2) (s : State) : Prop :=
  s.chip.getBit F.pll0LstatusLocked (2 * g.val + k.val) = true → s.chip.framesInRange →
    Runs (.lanePllLol g k) s (fun t =>
      t.getBit F.pll0LstatusLocked (2 * g.val + k.val) = false ∧ s.chip.counted t F.pll0LaneLol 1
      ∧ t.getBit F.hlthFault fPll = true
      ∧ (∀ p ∈ lanePorts g.val k.val, ∀ sub < 8,
          t.getBit (F.port0StatusLinkUp p) sub = false ∧ (t.link p sub).phase = .down)
      ∧ s.chip.keepsOff t (fun pg => trafficPage pg || ringPage pg || pg == 0x40 || pg == 3)
      ∧ t = { s.chip with
        regs := t.regs, msix := t.msix, frames := t.frames, nextFrame := t.nextFrame, fab := t.fab, links := t.links
        fuses := t.fuses, scheds := t.scheds, kib := t.kib, sessions := t.sessions, tails := t.tails, calRun := t.calRun
        refs := t.refs, ringMem := t.ringMem, hostTokens := t.hostTokens, ringTokens := t.ringTokens })

/-- LANE_PLL_RELOCK of a powered group out of reset: its lock bit is set, and the enabled subports of its ports that are out
of reset and not dark start their bring-up (R85, R251). -/
def laneRelocks (g : Fin 8) (k : Fin 2) (s : State) : Prop :=
  s.chip.getBit F.pll0LstatusLocked (2 * g.val + k.val) = false → s.chip.groupIsDark g.val = false →
  s.chip.groupInReset g.val = false → s.chip.ready = true →
    Runs (.lanePllRelock g k) s (fun t =>
      t.getBit F.pll0LstatusLocked (2 * g.val + k.val) = true
      ∧ (∀ p ∈ lanePorts g.val k.val, ∀ sub < s.chip.subports p, s.chip.lowerOf p = p → s.chip.fusedLower p = false →
          s.chip.mapsOk p = true → s.chip.portIsDark p = false → s.chip.portInReset p = false →
          s.chip.getBit (F.port0CtrlEnable p) sub = true →
          (t.link p sub).phase = if s.chip.getN F.pll0CstatusSetting = 0 then s.chip.startPhase p else .coreWait)
      ∧ s.chip.keepsOff t (fun pg => pg == 0x40 || trafficPage pg)
      ∧ t = { s.chip with regs := t.regs, links := t.links })

/-- PPSOUT_PULSE once network time has reached the next edge: PULSES counts, RUNNING reads 1, the edge is placed by a TCLK
edge and a fine delay, and its falling edge is due when network time has passed the width that acts (R253). -/
def pulses (n : Fin 4) (s : State) : Prop :=
  let y := (s.chip.pulse n.val).settle (s.chip.pulse n.val).pending
  s.chip.ppsOn n.val = true → s.chip.time.running = true → y.next ≤ (s.chip.net : Int) →
    Runs (.ppsoutPulse n) s (fun t =>
      s.chip.counted t (F.pll1PpsPulses n.val) 1 ∧ t.flag (F.pll1PpsStatusRunning n.val) = true
      ∧ (t.pulse n.val).lastEdge = some y.next
      ∧ (t.pulse n.val).placed = some (s.chip.time.cur.place y.next)
      ∧ (t.pulse n.val).falls = some (y.next + (clamp 8 (y.period - 8) y.width * 65536 : Nat))
      ∧ (∀ k, k ≠ n.val → t.pulse k = s.chip.pulse k)
      ∧ s.chip.keeps t [F.pll1PpsPulses n.val, F.pll1PpsStatusRunning n.val]
      ∧ t = { s.chip with regs := t.regs, pulses := t.pulses })

/-! ### Event inputs and the event time base -/

/-- TBIN_LOSS: LOCKED clears, and PRESENT where TBIN is absent; channels on EVCLK leave it, which counts (R265). -/
def baseLost (multiplier : Bool) (s : State) : Prop :=
  Runs (.tbinLoss multiplier) s (fun t =>
    t.flag F.tdc0TbstatusLocked = false ∧ (multiplier = false → t.flag F.tdc0TbstatusPresent = false)
    ∧ t.flag F.tdc0TbstatusInUse = false
    ∧ (s.chip.flag F.tdc0TbstatusInUse = true → t.flag F.tdc0TbstatusLossEvent = true ∧ s.chip.counted t F.tdc0TbLosses 1)
    ∧ s.chip.keeps t [F.tdc0TbstatusLocked, F.tdc0TbstatusPresent, F.tdc0TbstatusInUse, F.tdc0TbstatusLossEvent, F.tdc0TbLosses]
    ∧ t = { s.chip with regs := t.regs, calRun := t.calRun })

/-- TBIN_PRESENT, MULTIPLIER_LOCK and TBIN_RETURN: TBIN is present; the multiplier is locked; the channels move to EVCLK
(R261, R265). -/
def basePresent (s : State) : Prop :=
  Runs .tbinPresent s (fun t =>
    t.flag F.tdc0TbstatusPresent = true ∧ s.chip.keeps t [F.tdc0TbstatusPresent] ∧ s.chip.onlyRegs t)
def baseLocks (s : State) : Prop :=
  s.chip.flag F.tdc0TbstatusPresent = true →
    Runs .multiplierLock s (fun t =>
      t.flag F.tdc0TbstatusLocked = true ∧ s.chip.keeps t [F.tdc0TbstatusLocked] ∧ s.chip.onlyRegs t)
def baseReturns (s : State) : Prop :=
  s.chip.flag F.tdc0TbstatusPresent = true → s.chip.flag F.tdc0TbstatusLocked = true →
  s.chip.flag F.tdc0TbcfgForceTclk = false → s.chip.flag F.tdc0TbstatusInUse = false → s.chip.time.running = true →
  s.chip.ready = true →
    Runs .tbinReturn s (fun t =>
      t.flag F.tdc0TbstatusInUse = true ∧ s.chip.counted t F.tdc0TbReturns 1
      ∧ s.chip.keeps t [F.tdc0TbstatusInUse, F.tdc0TbReturns] ∧ t = { s.chip with regs := t.regs, calRun := t.calRun })

/-- EVENT_EDGE of a selected edge: with no dead time running it opens a slate; within one it is merged, MERGED_LOST counts,
and it uses one SEQ value (R262, R266). -/
def edgeStamps (e : Fin 8) (rising : Bool) (edge : Nat) (tap : Fin 384) (inSwitch : Bool) (s : State) : Prop :=
  let x := s.chip.channel e.val
  s.chip.evMode e.val ≠ 0 → s.chip.edgeSelected e.val rising = true → s.chip.time.running = true → s.chip.ready = true →
    Runs (.eventEdge e rising ⟨edge, tap⟩ inSwitch) s (fun t =>
      (x.openSlate = none →
        (t.channel e.val).openSlate = some (s.chip.openSlate e.val rising (s.chip.edgeStamp e.val edge tap.val inSwitch)
            (s.chip.edgeBare edge inSwitch) x.gap)
        ∧ (t.channel e.val).gap = false ∧ t.slateSeq = s.chip.slateSeq)
      ∧ (∀ w, x.openSlate = some w →
        (t.channel e.val).openSlate = some (w ||| slateMerged) ∧ (t.channel e.val).gap = true
        ∧ s.chip.counted t (F.evMergedLost e.val) 1 ∧ t.nextSeq e.val = s.chip.nextSeq e.val + 1)
      ∧ (t.channel e.val).reel = x.reel ∧ (∀ k, k ≠ e.val → t.channel k = s.chip.channel k)
      ∧ s.chip.keeps t [F.evStatusLevel e.val, F.evStatusPeak e.val, F.evMergedLost e.val]
      ∧ t = { s.chip with regs := t.regs, tdc := t.tdc, slateSeq := t.slateSeq, slateStep := t.slateStep })

/-- DEAD_TIME_END: the slate enters the reel and STAMPED counts; a full reel loses it, OVERFLOW_LOST counts and OVF reads 1
(R266, R268). -/
def deadTimeEnds (e : Fin 8) (w : BitVec 128) (s : State) : Prop :=
  let x := s.chip.channel e.val
  x.openSlate = some w → s.chip.time.running = true →
    Runs (.deadTimeEnd e) s (fun t =>
      (t.channel e.val).openSlate = none ∧ (∀ k, k ≠ e.val → t.channel k = s.chip.channel k) ∧ t.nextSeq e.val = s.chip.nextSeq e.val + 1
      ∧ (x.reel.length < 4096 → (t.channel e.val).reel = x.reel ++ [w] ∧ s.chip.counted t (F.evStamped e.val) 1
          ∧ t.getN (F.evStatusLevel e.val) = (x.reel.length + 1) % 2 ^ (F.evStatusLevel e.val).width)
      ∧ (4096 ≤ x.reel.length → (t.channel e.val).reel = x.reel ∧ s.chip.counted t (F.evOverflowLost e.val) 1
          ∧ t.flag (F.evStatusOvf e.val) = true)
      ∧ s.chip.keeps t [F.evStatusLevel e.val, F.evStatusPeak e.val, F.evStamped e.val, F.evOverflowLost e.val,
          F.evStatusOvf e.val]
      ∧ t = { s.chip with regs := t.regs, tdc := t.tdc, slateSeq := t.slateSeq })

/-- DMA_BATCH_WRITE of a batch that is due with room in the ring: up to 32 slates leave the reel for the ring's next entries,
and DMA_WR advances by as many (R270). -/
def batchLeaves (e : Fin 8) (s : State) : Prop :=
  let x := s.chip.channel e.val
  let k := min (min 32 x.reel.length) (s.chip.dmaRoom e.val)
  s.chip.evMode e.val = 2 → s.chip.ready = true → s.chip.safeStop = false → s.chip.power.linkUp = true →
  s.chip.batchDue e.val = true → 0 < k →
    Runs (.dmaBatchWrite e) s (fun t =>
      (t.channel e.val).reel = x.reel.drop k
      ∧ t.dmaOut = (x.reel.take k).zipIdx.map (fun w =>
          ((s.chip.getN (F.evDmaBaseHiAddr e.val) * 2 ^ 32 + s.chip.getN (F.evDmaBaseLoAddr e.val) * 4096
            + (s.chip.getN (F.evDmaWr e.val) + w.2) % s.chip.dmaSize e.val * 16) % 2 ^ 64, w.1))
      ∧ (∀ j, j ≠ e.val → t.channel j = s.chip.channel j)
      ∧ t.getN (F.evDmaWr e.val) = (s.chip.getN (F.evDmaWr e.val) + k) % s.chip.dmaSize e.val % 2 ^ (F.evDmaWr e.val).width
      ∧ s.chip.keeps t [F.evStatusLevel e.val, F.evStatusPeak e.val, F.evDmaWr e.val, F.evStatusDmaStall e.val]
      ∧ t = { s.chip with regs := t.regs, tdc := t.tdc, dmaOut := t.dmaOut, msix := t.msix })

/-! ### Persistent words, the gaffer pair, health -/

/-- PERS_COMMIT outside the dip state: both copies of the oldest queued word take its value and COMMITS counts; in the dip
state it waits (R299, R313, R314). -/
def commits (i : Nat) (v : Word) (l : List (Nat × Word)) (s : State) : Prop :=
  s.chip.powered = true → s.chip.power.commits = (i, v) :: l →
    Runs .persCommit s (fun t =>
      (s.chip.inDip = true → t = s.chip)
      ∧ (s.chip.inDip = false →
          t.power.commits = l ∧ s.chip.counted t F.pers0Commits 1
          ∧ (∃ m, Store.read mramDefault t.power.mram i = m ∧ m.a = v ∧ m.b = v ∧ m.okA = true ∧ m.okB = true
            ∧ m.wear = min 2000000 (s.chip.wear i + 1))
          ∧ s.chip.keeps t [F.pers0Commits]
          ∧ t = { s.chip with regs := t.regs, power := { s.chip.power with
              commits := l, mram := t.power.mram, stamp := t.power.stamp } }))

/-- AVS_STEP after the last step was read back: SET_MV moves by at most 5 mV towards the target, READ_MV takes the reading
and WRITES counts; a step that the reading reaches ends the change at its target (R297). -/
def avsSteps (readMv : Nat) (a : AvsChange) (s : State) : Prop :=
  let next := if a.step < a.target then min a.target (a.step + 5) else max a.target (a.step - 5)
  s.chip.power.avs = some a → s.chip.gafferRuns = true → a.old = a.step →
    Runs (.avsStep readMv) s (fun t =>
      t.getN F.pwrAvsSetMv = next % 2 ^ F.pwrAvsSetMv.width ∧ t.getN F.pwrAvsReadMv = readMv % 2 ^ F.pwrAvsReadMv.width
      ∧ s.chip.counted t F.pwrAvsWrites 1
      ∧ s.chip.keeps t [F.pwrAvsSetMv, F.pwrAvsReadMv, F.pwrAvsWrites]
      ∧ t.power.avs = (if reaches readMv next = false then some { a with step := next, misses := 0 }
          else if next = a.target then none else some { a with step := next, old := next, misses := 0 })
      ∧ t = { s.chip with regs := t.regs, power := { s.chip.power with avs := t.power.avs } })

/-- AVS_READBACK_TIMEOUT of a step that the reading does not reach sends it again, which WRITES counts. -/
def avsRetries (readMv : Nat) (a : AvsChange) (s : State) : Prop :=
  s.chip.power.avs = some a → s.chip.gafferRuns = true → a.old ≠ a.step → reaches readMv a.step = false → a.misses < 2 →
    Runs (.avsReadbackTimeout readMv) s (fun t =>
      t.getN F.pwrAvsReadMv = readMv % 2 ^ F.pwrAvsReadMv.width ∧ s.chip.counted t F.pwrAvsWrites 1
      ∧ s.chip.keeps t [F.pwrAvsReadMv, F.pwrAvsWrites]
      ∧ t = { s.chip with regs := t.regs, power := { s.chip.power with avs := some { a with misses := a.misses + 1 } } })

/-- AVS_READBACK_TIMEOUT at the third miss of a step: AVS_FAIL, a fault, FAILS counts, and the last set point read back
stays (R297). -/
def avsGivesUp (readMv : Nat) (a : AvsChange) (s : State) : Prop :=
  s.chip.power.avs = some a → s.chip.gafferRuns = true → a.old ≠ a.step → reaches readMv a.step = false → 2 ≤ a.misses →
    Runs (.avsReadbackTimeout readMv) s (fun t =>
      t.flag F.pwrStatusAvsFail = true ∧ t.getBit F.hlthFault fAvs = true ∧ s.chip.counted t F.pwrAvsFails 1
      ∧ t.getN F.pwrAvsSetMv = a.old % 2 ^ F.pwrAvsSetMv.width ∧ t.power = { s.chip.power with avs := none }
      ∧ t.getN F.pwrAvsReadMv = readMv % 2 ^ F.pwrAvsReadMv.width
      ∧ s.chip.keeps t [F.pwrStatusAvsFail, F.hlthFault, F.pwrAvsFails, F.pwrAvsSetMv, F.pwrAvsReadMv]
      ∧ t = { s.chip with regs := t.regs, msix := t.msix, power := t.power })

/-- TELEMETRY_POLL: the registers take what the regulators read; each nonzero STATUS_WORD sets a fault and counts (R296). -/
def polls (t0 t1 t2 : RegTelem) (s : State) : Prop :=
  let bad (x : RegTelem) : Nat := if x.status = 0 then 0 else 1
  s.chip.alwaysOn = true →
    Runs (.telemetryPoll t0 t1 t2) s (fun t =>
      (∀ x ∈ [(t0, 0), (t1, 1), (t2, 2)],
        t.getN (F.pwrTelemVoutMv x.2) = x.1.vout.toNat ∧ t.getN (F.pwrTelemIout x.2) = x.1.iout.toNat)
      ∧ s.chip.counted t F.pwrRegFaults (bad t0 + bad t1 + bad t2)
      ∧ (0 < bad t0 + bad t1 + bad t2 → t.getBit F.hlthFault fReg = true)
      ∧ s.chip.keeps t [F.pwrTelemVoutMv 0, F.pwrTelemIout 0, F.pwrTelemVoutMv 1, F.pwrTelemIout 1, F.pwrTelemVoutMv 2,
          F.pwrTelemIout 2, F.hlthFault, F.pwrRegFaults]
      ∧ t = { s.chip with regs := t.regs, msix := t.msix })

/-- PMB_ALERT: each regulator's nonzero STATUS_WORD sets a fault and counts (R296, R379). -/
def alerts (s0 s1 s2 : BitVec 16) (s : State) : Prop :=
  let bad (x : BitVec 16) : Nat := if x = 0 then 0 else 1
  s.chip.alwaysOn = true →
    Runs (.pmbAlert s0 s1 s2) s (fun t =>
      s.chip.counted t F.pwrRegFaults (bad s0 + bad s1 + bad s2)
      ∧ (0 < bad s0 + bad s1 + bad s2 → t.getBit F.hlthFault fReg = true)
      ∧ s.chip.keeps t [F.hlthFault, F.pwrRegFaults] ∧ t = { s.chip with regs := t.regs, msix := t.msix })

/-- TEMP_READING, each die once: NOW of each die that reports takes its reading and MAX keeps the highest; one at 105 °C sets
THERM_WARN and one at 110 °C THERM_LIMIT (R301). Temperatures are in 1/8 °C. -/
def heats (l : List (Fin 10 × Int)) (s : State) : Prop :=
  let told := l.filter (fun x => s.chip.dieReports x.1.val)
  s.chip.powered = true → (l.map Prod.fst).Nodup →
    Runs (.tempReading l) s (fun t =>
      (∀ x ∈ told, t.getN (F.hlthTempNow x.1.val) = twos 16 x.2
        ∧ t.getN (F.hlthTempMax x.1.val)
          = (if signed 16 (s.chip.getN (F.hlthTempMax x.1.val)) < x.2 then twos 16 x.2 else s.chip.getN (F.hlthTempMax x.1.val)))
      ∧ ((∃ x ∈ told, 840 ≤ x.2) → t.getBit F.hlthFault fThermWarn = true)
      ∧ ((∃ x ∈ told, 880 ≤ x.2) → t.getBit F.hlthFault fThermLimit = true)
      ∧ ((∀ x ∈ told, x.2 < 840) → t.get F.hlthFault = s.chip.get F.hlthFault)
      ∧ s.chip.keeps t (F.hlthFault :: told.map (fun x => F.hlthTempNow x.1.val) ++ told.map (fun x => F.hlthTempMax x.1.val))
      ∧ t = { s.chip with regs := t.regs, msix := t.msix, calRun := t.calRun })

/-- THERMAL_TRIP: HLTH takes a fault and the device enters safe stop; a warm reset that RST_N holds meanwhile, with a die at
100 °C or more, is held on (R249, R302). -/
def trips (s : State) : Prop :=
  s.chip.powered = true →
    Runs .thermalTrip s (fun t =>
      t.getBit F.hlthFault fThermTrip = true ∧ t.safeStop = true ∧ t.power = { s.chip.power with tripped := true }
      ∧ (s.chip.power.phase = .warmHeld → s.chip.power.rstLow = true → s.chip.stillHot = true →
          t.flag F.rstStatusHeldThermal = true)
      ∧ (s.chip.power.phase ≠ .warmHeld → t.flag F.rstStatusHeldThermal = s.chip.flag F.rstStatusHeldThermal)
      ∧ s.chip.keeps t [F.hlthFault, F.pll0CstatusSafeStop, F.rstStatusHeldThermal]
      ∧ t = { s.chip with regs := t.regs, msix := t.msix, power := t.power })

/-- SENSOR_READING, each sensor once: the degradation from the production frequency is kept of each whose die can be read,
and the others' last values stand; where need + 5 mV exceeds the set point, or need + 15 mV the 820 mV, a raise is staged
for the next marker (R285, R289). -/
def senses (khz : List (Fin 64 × Nat)) (s : State) : Prop :=
  s.chip.gafferRuns = true → (khz.map Prod.fst).Nodup →
    Runs (.sensorReading khz) s (fun t =>
      (∀ x ∈ khz, s.chip.sensorRead x.1.val = true → Store.read 0 t.gaffer.degrade x.1.val = s.chip.degradation x.1.val x.2)
      ∧ (∀ j, (∀ x ∈ khz, x.1.val = j → s.chip.sensorRead j = false) →
          Store.read 0 t.gaffer.degrade j = Store.read 0 s.chip.gaffer.degrade j)
      ∧ t.gaffer.raise = (if t.exhausted || decide (t.setPoint * 40 < t.need40 + 200)
          then some (min 820 t.target, t.exhausted) else s.chip.gaffer.raise)
      ∧ t = { s.chip with gaffer := { s.chip.gaffer with degrade := t.gaffer.degrade, raise := t.gaffer.raise } })

/-- DRIFT_MEASURE keeps the count of taps of each bank measured, and every other count stands (R286). -/
def drifts (taps : List (Fin 10 × Nat)) (s : State) : Prop :=
  s.chip.gafferRuns = true → (taps.map Prod.fst).Nodup →
    Runs (.driftMeasure taps) s (fun t =>
      (∀ x ∈ taps, Store.read 0 t.gaffer.tdcNow x.1.val = x.2)
      ∧ (∀ j, (∀ x ∈ taps, x.1.val ≠ j) → Store.find j t.gaffer.tdcNow = Store.find j s.chip.gaffer.tdcNow)
      ∧ t = { s.chip with gaffer := { s.chip.gaffer with tdcNow := t.gaffer.tdcNow } })

/-- OSC_HOURLY keeps the hour's mean where the archive has one, and forgets hours older than 7 days (R287). -/
def hours (s : State) : Prop :=
  let old := s.chip.gaffer.oscHours.filter (fun h => decide (s.chip.gaffer.seconds < h.1 + 604800))
  s.chip.gafferRuns = true →
    Runs .oscHourly s (fun t =>
      t = { s.chip with gaffer := { s.chip.gaffer with
        oscHours := match s.chip.hourMean with | some x => old ++ [(s.chip.gaffer.seconds, x)] | none => old } })

/-- DAILY_PLAN: the plan is due at the next marker, or at clapper 0 after a restart of the pair (R288, R290). -/
def planDue (linkMoved : Bool) (s : State) : Prop :=
  s.chip.coresRun = true → s.chip.flag F.cal0StatusGafferHalted = false →
    Runs (.dailyPlan linkMoved) s (fun t =>
      t = { s.chip with cores := { s.chip.cores with planDue := some (linkMoved, s.chip.cores.gafferDown) } })

/-- GAFFER_MISMATCH restarts the pair, discards what it staged and takes an AVS step on its way back to the last set point
read back; GAFFER_SELFTEST_DONE brings the pair back from the next marker on, or halts it (R290). -/
def gafferFalls (s : State) : Prop :=
  s.chip.gafferRuns = true →
    Runs .gafferMismatch s (fun t =>
      s.chip.counted t F.cal0GafferRestarts 1 ∧ t.getBit F.hlthFault fCore = true
      ∧ (∀ a, s.chip.power.avs = some a → t.getN F.pwrAvsSetMv = a.old % 2 ^ F.pwrAvsSetMv.width)
      ∧ s.chip.keeps t [F.hlthFault, F.cal0GafferRestarts, F.pwrAvsSetMv]
      ∧ t = { s.chip with
        regs := t.regs, msix := t.msix, gaffer := { s.chip.gaffer with raise := none }
        cores := { s.chip.cores with
          gafferDown := true, gafferBack := false, planDue := s.chip.cores.planDue.map (fun p => (p.1, true)) }
        power := { s.chip.power with avs := s.chip.power.avs.map (fun a => { a with step := a.old, misses := 0 }) } })
def gafferTested (pass : Bool) (s : State) : Prop :=
  s.chip.cores.gafferDown = true →
    Runs (.gafferSelftestDone pass) s (fun t =>
      (pass = true → t = { s.chip with cores := { s.chip.cores with gafferBack := true } })
      ∧ (pass = false → t.flag F.cal0StatusGafferHalted = true ∧ s.chip.keeps t [F.cal0StatusGafferHalted]
          ∧ t = { s.chip with
            regs := t.regs, cores := { s.chip.cores with gafferDown := false, gafferBack := false } }))

/-! ### Power and reset -/

/-- DIP_ENTRY of a rail below its warning level, 93 % of its set point: the dip state begins, DIPS counts, and HLTH takes
a fault (R299). -/
def dips (rail : Fin 5) (minMv : Nat) (s : State) : Prop :=
  s.chip.railStands rail.val = true → minMv * 100 < s.chip.railSet rail.val * 93 → s.chip.power.dip = none →
    Runs (.dipEntry rail minMv) s (fun t =>
      t.inDip = true ∧ t.flag F.pwrStatusDipEvent = true ∧ t.getBit F.hlthFault fDip = true ∧ s.chip.counted t F.pwrDips 1
      ∧ t.flag F.time0StatusDipCoast = true
      ∧ t.power = { s.chip.power with dip := some ⟨s.chip.time.raw, rail.val, minMv, none⟩ }
      ∧ s.chip.keeps t [F.pwrStatusDip, F.pwrStatusDipEvent, F.hlthFault, F.pwrDips, F.time0StatusDipCoast, F.pwrStatusDeferred]
      ∧ t = { s.chip with
        regs := t.regs, msix := t.msix, power := t.power, calRun := t.calRun, refs := { s.chip.refs with dipIn := true } })

/-- DIP_END_CONDITION of a dip that lasts: it ends at the next marker, and its length is known (R300); before READY, where no
marker runs, at once, with DIP_LOG (log 25). -/
def dipEnds (d : Dip) (s : State) : Prop :=
  let us := microsBetween d.entered s.chip.time.raw
  s.chip.power.dip = some d → d.ended = none → s.chip.alwaysOn = true →
    (s.chip.ready = true → Runs .dipEndCondition s (fun t =>
      t = { s.chip with power := { s.chip.power with dip := some { d with ended := some us } } }))
    ∧ (s.chip.ready = false → Runs .dipEndCondition s (fun t =>
      t.flag F.pwrStatusDip = false ∧ t.flag F.pwrStatusDeferred = false ∧ t.flag F.time0StatusDipCoast = false
      ∧ t.getN F.pwrDipLogRail = d.rail % 2 ^ F.pwrDipLogRail.width
      ∧ t.getN F.pwrDipLogMinMv = d.minMv % 2 ^ F.pwrDipLogMinMv.width ∧ t.getN F.pwrDipLogDurationUs = min us 65535
      ∧ s.chip.keeps t [F.pwrStatusDip, F.pwrStatusDeferred, F.time0StatusDipCoast, F.pwrDipLogRail, F.pwrDipLogMinMv,
          F.pwrDipLogDurationUs]
      ∧ t = { s.chip with regs := t.regs, power := { s.chip.power with dip := none } }))

/-- The persistent memory stands, whatever power is lost: with every word's copies good and alike each keeps them, and nothing
is written (R312, R313). -/
def memoryStands (s t : Chip) : Prop :=
  (∀ e ∈ s.power.mram, e.2.okA = true ∧ e.2.okB = true ∧ e.2.stampA = e.2.stampB ∧ e.2.a = e.2.b) → t.power.mram = s.power.mram

/-- A cold reset has begun: CAUSE and RAIL say why, the rails are off, the hidden state of before is gone, and the persistent
memory stands (R304, R312, R313). -/
def coldBegan (cause rail : Nat) (s t : Chip) : Prop :=
  memoryStands s t ∧
  t.getN F.rstCause = cause ∧ t.getN F.rstCauseRail = rail ∧ t.power.phase = .failed ∧ t.power.cold = true
    ∧ t.ready = false ∧ t.ledger = [] ∧ t.frames = [] ∧ t.sessions = [] ∧ t.flow = [] ∧ t.path = [] ∧ t.mail.slots = []
    ∧ t.time.running = false ∧ t.power.commits = [] ∧ t.power.straps = s.power.straps

/-- DIP_TIMEOUT of a dip that has lasted 10 ms: a cold reset begins, with the dip's rail (R300). -/
def dipTimesOut (d : Dip) (s : State) : Prop :=
  s.chip.power.dip = some d → d.ended = none → s.chip.alwaysOn = true → s.chip.power.phase ≠ .stopped → d.rail < 5 →
    Runs .dipTimeout s (coldBegan causeDipTimeout d.rail s.chip)

/-- RAIL_RESET_LEVEL of a rail that stands, the sequencer not stopped: a cold reset begins (R300, R304). -/
def railFalls (rail : Fin 5) (s : State) : Prop :=
  s.chip.railStands rail.val = true → s.chip.power.phase ≠ .stopped → Runs (.railResetLevel rail) s (coldBegan causeSupply rail.val s.chip)

/-- XO_RETURN after the loss of XO_IN: a cold reset begins (R250, R304). -/
def xoReturns (s : State) : Prop :=
  s.chip.power.phase = .xoLost → Runs .xoReturn s (coldBegan causeXoLoss 7 s.chip)

/-- XO_LOSS: every clock stops, raw time with them, the clock and pulse outputs are driven low, and no page is reachable
(R250). -/
def xoStops (s : State) : Prop :=
  s.chip.power.phase ≠ .off → s.chip.power.phase ≠ .stopped → s.chip.power.phase ≠ .xoLost →
    Runs .xoLoss s (fun t =>
      t.ready = false ∧ t.time = { s.chip.time with running := false } ∧ t.power = { s.chip.power with phase := .xoLost }
      ∧ (∀ n < 8, t.flag (F.pll1ClkoutStatusRunning n) = false ∧ (t.clkOut n).running = false)
      ∧ (∀ n < 4, t.flag (F.pll1PpsStatusRunning n) = false)
      ∧ s.chip.keeps t (F.rstStatusReady :: (List.range 8).map F.pll1ClkoutStatusRunning
          ++ (List.range 4).map F.pll1PpsStatusRunning)
      ∧ t = { s.chip with
        regs := t.regs, time := t.time, clk := t.clk, power := t.power
        pulses := s.chip.pulses.map (fun e => (e.1, { e.2 with falls := none })) })

/-- VDD_AUX_REMOVAL: the part is without power and nothing but its persistent memory is left (R295, R312). -/
def unpowers (s : State) : Prop :=
  Runs .vddAuxRemoval s (fun t =>
    t.power.phase = .off ∧ t.ready = false ∧ t.ledger = [] ∧ t.frames = [] ∧ t.sessions = [] ∧ t.path = []
    ∧ t.flow = [] ∧ t.mail.slots = [] ∧ t.gaffer.history = [] ∧ t.power.commits = [] ∧ t.time.running = false
    ∧ memoryStands s.chip t)

/-- POWER_ON of an unpowered part: CAUSE is POWER_ON, the rails come up in order, and the straps are sampled with
PERS.STRAP_OVR over them (R304, R317). -/
def powersOn (x : PowerUp) (s : State) : Prop :=
  s.chip.power.phase = .off →
    Runs (.powerOn x) s (fun t =>
      t.power.phase = .rails ∧ t.power.cold = true ∧ t.getN F.rstCause = causePowerOn ∧ t.getN F.rstCauseRail = 7
      ∧ t.power.straps = ((x.straps &&& ~~~BitVec.ofNat 16 (t.getN F.pers1StrapOvrMask))
          ||| (BitVec.ofNat 16 (t.getN F.pers1StrapOvrValue) &&& BitVec.ofNat 16 (t.getN F.pers1StrapOvrMask)))
      ∧ t.ready = false ∧ t.frames = [] ∧ t.ledger = [] ∧ t.time.running = false)

/-- SEQUENCE_RAIL_TIMEOUT: the rails go off for 100 ms; the third failure stops the sequencer with CAUSE SEQUENCE and the
rail (R304, Table 14-4). -/
def railTimesOut (rail : Fin 3) (s : State) : Prop :=
  s.chip.power.phase = .rails →
    Runs (.sequenceRailTimeout rail) s (fun t =>
      t.power = { s.chip.power with
        railFails := s.chip.power.railFails + 1, phase := if s.chip.power.railFails < 2 then .failed else .stopped }
      ∧ (s.chip.power.railFails < 2 → t.regs = s.chip.regs)
      ∧ (2 ≤ s.chip.power.railFails → t.getN F.rstCause = causeSequence ∧ t.getN F.rstCauseRail = rail.val)
      ∧ s.chip.keeps t [F.rstCause, F.rstCauseRail] ∧ t = { s.chip with regs := t.regs, power := t.power })

/-- SEQUENCE_RESTART after 100 ms, or as a regulator starts its rail by itself: the sequence runs again from step 2 (R296,
R304). -/
def sequenceRuns (straps : BitVec 16) (s : State) : Prop :=
  s.chip.power.phase = .failed ∨ s.chip.power.phase = .rails →
    Runs (.sequenceRestart ⟨straps, [], false⟩) s (fun t =>
      t.power = { s.chip.power with phase := .rails, straps := t.power.straps, cut := none } ∧ s.chip.keeps t [F.pwrAvsSetMv]
      ∧ t = { s.chip with regs := t.regs, power := t.power })

/-- The MRAM load of a cold reset: with one copy of a word bad, the other stands, is rewritten and counts; with neither
good, the word takes its value from ROM, and LOST and a fault tell it; a commit that the loss of supply cut between its
copies leaves the new value (R313). -/
def mramRepairs (straps : BitVec 16) (u : MramUpset) (s : State) : Prop :=
  s.chip.power.phase = .failed ∨ s.chip.power.phase = .rails → persistent u.index = true → u.copyA = !u.copyB →
    Store.find u.index s.chip.power.mram = none → u.index ≠ strapIndex →
    (∀ f ∈ fieldsAt (persAddr u.index), s.chip.getN (f.at (persAddr u.index)) < 2 ^ f.width) →
    Runs (.sequenceRestart ⟨straps, [u], false⟩) s (fun t =>
      t.wordAt (persAddr u.index) = s.chip.wordAt (persAddr u.index) ∧ t.flag F.pers0StatusRepaired = true
      ∧ s.chip.counted t F.pers0Repairs 1 ∧ s.chip.keeps t [F.pers0StatusRepaired, F.pers0Repairs, F.pwrAvsSetMv]
      ∧ t.power = { s.chip.power with phase := .rails, straps := t.power.straps, mram := t.power.mram, cut := none }
      ∧ (t.copies u.index).okA = true ∧ (t.copies u.index).okB = true
      ∧ t = { s.chip with regs := t.regs, power := t.power })
/-- The same of a word that has been committed: the copy that stands, the one written last of two that differ, gives the word
its value (R313). -/
def mramRestores (straps : BitVec 16) (u : MramUpset) (m : Mram) (s : State) : Prop :=
  let v := if u.copyA then m.b else m.a
  s.chip.power.phase = .failed ∨ s.chip.power.phase = .rails → persistent u.index = true → u.copyA = !u.copyB →
  Store.find u.index s.chip.power.mram = some m → (if u.copyA then m.okB else m.okA) = true →
    Runs (.sequenceRestart ⟨straps, [u], false⟩) s (fun t =>
      (∀ f ∈ fieldsAt (persAddr u.index), (f.keep &&& kC) ≠ 0 →
        t.getN (f.at (persAddr u.index)) = bits v (f.lsb + f.width - 1) f.lsb)
      ∧ (t.copies u.index).a = v ∧ (t.copies u.index).b = v ∧ (t.copies u.index).okA = true ∧ (t.copies u.index).okB = true
      ∧ t.flag F.pers0StatusRepaired = true ∧ s.chip.counted t F.pers0Repairs 1
      ∧ s.chip.keeps t ([F.pers0StatusRepaired, F.pers0Repairs, F.pwrAvsSetMv] ++
          (fieldsAt (persAddr u.index)).map (fun f => f.at (persAddr u.index)))
      ∧ t.power = { s.chip.power with phase := .rails, straps := t.power.straps, mram := t.power.mram, cut := none }
      ∧ t = { s.chip with regs := t.regs, power := t.power })
def mramLost (straps : BitVec 16) (u : MramUpset) (s : State) : Prop :=
  s.chip.power.phase = .failed ∨ s.chip.power.phase = .rails → persistent u.index = true → u.copyA = true → u.copyB = true →
    Runs (.sequenceRestart ⟨straps, [u], false⟩) s (fun t =>
      (∀ f ∈ fieldsAt (persAddr u.index), (f.keep &&& kC) ≠ 0 → t.getN (f.at (persAddr u.index)) = f.reset)
      ∧ t.flag F.pers0StatusLost = true ∧ t.getBit F.hlthFault fPers = true
      ∧ s.chip.keeps t ([F.pers0StatusLost, F.hlthFault, F.pwrAvsSetMv] ++
          (fieldsAt (persAddr u.index)).map (fun f => f.at (persAddr u.index)))
      ∧ t.power = { s.chip.power with phase := .rails, straps := t.power.straps, mram := t.power.mram, cut := none }
      ∧ t = { s.chip with regs := t.regs, msix := t.msix, power := t.power })

def mramTorn (straps : BitVec 16) (i : Nat) (v : Word) (s : State) : Prop :=
  s.chip.power.phase = .failed ∨ s.chip.power.phase = .rails → s.chip.power.cut = some (i, v) → (s.chip.copies i).okB = true →
    (s.chip.copies i).stampB ≤ s.chip.power.stamp →
    Runs (.sequenceRestart ⟨straps, [], true⟩) s (fun t =>
      (∀ f ∈ fieldsAt (persAddr i), (f.keep &&& kC) ≠ 0 →
        t.getN (f.at (persAddr i)) = bits v (f.lsb + f.width - 1) f.lsb)
      ∧ t.flag F.pers0StatusRepaired = true ∧ s.chip.counted t F.pers0Repairs 1
      ∧ s.chip.keeps t ([F.pers0StatusRepaired, F.pers0Repairs, F.pwrAvsSetMv] ++
          (fieldsAt (persAddr i)).map (fun f => f.at (persAddr i)))
      ∧ t.power = { s.chip.power with
        phase := .rails, straps := t.power.straps, mram := t.power.mram, stamp := s.chip.power.stamp + 1, cut := none }
      ∧ t = { s.chip with regs := t.regs, power := t.power })

/-- MASTER_LOCK_TIMEOUT in step 4 of a cold reset: the raw counter is released at 0 on fallback (R244). -/
def lockTimesOut (s : State) : Prop :=
  s.chip.power.phase = .rails →
    Runs .masterLockTimeout s (fun t =>
      t.flag F.pll0MstatusFallback = true ∧ t.time.raw = 0 ∧ t.time.running = true
      ∧ t.power = { s.chip.power with phase := .boot } ∧ s.chip.keepsOff t (fun pg => pg == 0x40)
      ∧ t = { s.chip with regs := t.regs, time := t.time, power := t.power })

/-- RESET_READY: READY reads 1, the lane PLLs are locked, and the director pairs stand as their self-tests leave them: the
lowest that passed is active, and with none control is lost; after a warm or soft reset the first marker falls at the next
TCLK edge, as clapper 0, and after a cold one network time stands as the markers since the release of the counter have
left it (R13, R14, R172, R303, Table 14-4). -/
def becomesReady (pass0 pass1 gaffer : Bool) (s : State) : Prop :=
  s.chip.power.phase = .boot → s.chip.resetHeld = false →
    Runs (.resetReady pass0 pass1 gaffer) s (fun t =>
      t.ready = true ∧ t.getN F.pll0LstatusLocked = 0xFFFF ∧ t.power.phase = .run ∧ t.power.cold = false
      ∧ t.getN F.sysDirectorActive = ofBool (!pass0 && pass1) ∧ t.flag F.sysDirectorStandbyReady = (pass0 && pass1)
      ∧ t.controlLost = (!pass0 && !pass1) ∧ t.flag F.cal0StatusGafferHalted = !gaffer
      ∧ (pass0 = false ∨ pass1 = false → t.getBit F.hlthFault fCore = true)
      ∧ s.chip.keeps t [F.rstStatusReady, F.pll0LstatusLocked, F.sysDirectorActive, F.sysDirectorStandbyReady,
          F.sysDirectorStandbyFenced, F.sysDirectorControlLost, F.cal0StatusGafferHalted, F.hlthFault, F.time0ClapperNumber]
      ∧ (s.chip.power.cold = false →
          t.time = { s.chip.time with nextAnchor := s.chip.time.raw + 65536, nextNumber := 0 } ∧ t.gaffer = s.chip.gaffer)
      ∧ (s.chip.power.cold = true → t.time.raw = s.chip.time.raw
          ∧ t.time.cur = coldSet (s.chip.time.raw.toNat / clapperUnits)
          ∧ t.getN F.time0ClapperNumber = s.chip.time.raw.toNat / clapperUnits % 16000)
      ∧ t = { s.chip with
        regs := t.regs, msix := t.msix, time := t.time, gaffer := t.gaffer
        cores := { s.chip.cores with pairFailed := !(pass0 && pass1) }
        power := { s.chip.power with
          phase := .run, cold := false, linkUp := s.chip.power.linkUp || !s.chip.power.perstLow } })

/-- WARM_RESET_ASSERT on the running machine: every command that waits or runs is ABORTED, WARM_RESETS counts, CAUSE is
RST_N, sessions, ledgers and frames are gone, and raw time runs on (R169, R305, R312, R343). -/
def warmAsserts (s : State) : Prop :=
  s.chip.power.phase = .run →
    Runs .warmResetAssert s (fun t =>
      t.power.phase = .warmHeld ∧ t.power.rstLow = true ∧ t.ready = false ∧ t.getN F.rstCause = causeRstN
      ∧ s.chip.counted t F.rstWarmResets 1 ∧ t.ledger = [] ∧ t.frames = [] ∧ t.sessions = [] ∧ t.mail.slots = []
      ∧ (∀ e ∈ s.chip.mail.slots, e.1 < 16 →
          t.getN (F.cmdSlotStatusStatus e.1) = stAborted ∧ t.flag (F.cmdSlotStatusDone e.1) = true)
      ∧ t.time.raw = s.chip.time.raw ∧ t.time.running = s.chip.time.running ∧ t.flag F.time0StatusSet = false
      ∧ t.msix = 0 ∧ t.power.linkUp = false ∧ t.lOut = s.chip.lOut ∧ t.refs.archive = s.chip.refs.archive
      ∧ t.gaffer = { s.chip.gaffer with raise := none } ∧ t.power.mram = s.chip.power.mram
      ∧ t.power.commits = s.chip.power.commits)

/-- Each reset that samples the straps, cold or warm, takes VALUE for every bit with MASK = 1 in place of the ball, and the
ball for every other bit (R317). -/
def strapsAt (cmd : Instr) (balls : BitVec 16) (s : State) : Prop :=
  Runs cmd s (fun t => ∀ k < 16, t.power.straps.getLsbD k =
    if t.getBit F.pers1StrapOvrMask k then t.getBit F.pers1StrapOvrValue k else balls.getLsbD k)
def strapsCold (balls : BitVec 16) (mram : List MramUpset) (torn : Bool) (s : State) : Prop :=
  (s.chip.power.phase = .off → strapsAt (.powerOn ⟨balls, mram, torn⟩) balls s)
  ∧ (s.chip.power.phase = .failed ∨ s.chip.power.phase = .rails → strapsAt (.sequenceRestart ⟨balls, mram, torn⟩) balls s)
def strapsWarm (balls : BitVec 16) (s : State) : Prop :=
  (s.chip.power.phase = .warmHeld → tapHolds s.chip.power.tap = false → s.chip.flag F.rstStatusHeldThermal = false →
    strapsAt (.warmResetRelease balls) balls s)
  ∧ (s.chip.power.phase = .warmHeld → s.chip.flag F.rstStatusHeldThermal = true → s.chip.stillHot = false →
    s.chip.resetHeld = false → strapsAt (.thermalHoldRelease balls) (s.chip.power.sampled.getD balls) s)

/-- WARM_RESET_RELEASE and THERMAL_HOLD_RELEASE: the reset goes on to its end, with the straps sampled (R302, R305). -/
def warmReleases (straps : BitVec 16) (s : State) : Prop :=
  s.chip.power.phase = .warmHeld → tapHolds s.chip.power.tap = false → s.chip.flag F.rstStatusHeldThermal = false →
    Runs (.warmResetRelease straps) s (fun t =>
      t.power = { s.chip.power with
        phase := .boot, rstLow := false, tripped := false, sampled := none, straps := t.power.straps, pll := t.power.pll }
      ∧ s.chip.keeps t [F.pll0CstatusALocked, F.pll0CstatusBLocked, F.pll0CstatusStandbyReady]
      ∧ t = { s.chip with regs := t.regs, power := t.power })
def thermalReleases (straps : BitVec 16) (s : State) : Prop :=
  s.chip.flag F.rstStatusHeldThermal = true → s.chip.stillHot = false →
    Runs (.thermalHoldRelease straps) s (fun t =>
      t.flag F.rstStatusHeldThermal = false
      ∧ (s.chip.power.phase = .warmHeld → s.chip.resetHeld = false → t.power.phase = .boot)
      ∧ s.chip.keeps t [F.rstStatusHeldThermal, F.pll0CstatusALocked, F.pll0CstatusBLocked, F.pll0CstatusStandbyReady]
      ∧ t = { s.chip with regs := t.regs, power := t.power })

/-- JTAG_INSTRUCTION that loads an instruction holding no reset, with none held: the TAP takes it and nothing else changes; one
that holds a reset on the running machine begins a warm reset (R380). -/
def tapPasses (i : TapInstr) (straps : BitVec 16) (s : State) : Prop :=
  s.chip.power.phase ≠ .off → s.chip.power.trstLow = false → tapHolds i = false → tapHolds s.chip.power.tap = false →
    Runs (.jtagInstruction ⟨.load i, straps⟩) s (fun t => t = { s.chip with power := { s.chip.power with tap := i } }
      ∧ (i = .idcode → t.tapReads = some 0x1487674F))
def tapHoldsReset (i : TapInstr) (straps : BitVec 16) (s : State) : Prop :=
  s.chip.power.phase = .run → s.chip.power.trstLow = false → tapHolds i = true → tapHolds s.chip.power.tap = false →
    Runs (.jtagInstruction ⟨.load i, straps⟩) s (fun t =>
      t.power.phase = .warmHeld ∧ t.power.tap = i ∧ s.chip.counted t F.rstWarmResets 1 ∧ t.frames = [] ∧ t.ready = false
      ∧ t.power.sampled = none)

/-- While no instruction holds a reset, a low TRST_N, like Test-Logic-Reset, leaves IDCODE in place, and TRST_N low lets nothing
else be loaded; the boundary register takes the cells updated under SAMPLE/PRELOAD, and EXTEST then drives them (R380). -/
def tapStands (x : TapEvent) (s : State) : Prop :=
  s.chip.power.phase ≠ .off → tapHolds s.chip.power.tap = false →
    (∀ low, x.move = .trst low → Runs (.jtagInstruction x) s (fun t =>
      t = { s.chip with power := { s.chip.power with
        trstLow := low, tap := if low then .idcode else s.chip.power.tap } }))
    ∧ (x.move = .testLogicReset → Runs (.jtagInstruction x) s (fun t =>
      t = { s.chip with power := { s.chip.power with tap := .idcode } }))
    ∧ (∀ i, x.move = .load i → s.chip.power.trstLow = true → Runs (.jtagInstruction x) s (fun t => t = s.chip))
    ∧ (∀ cells, x.move = .boundary cells → s.chip.power.trstLow = false → s.chip.power.tap = .samplePreload →
      Runs (.jtagInstruction x) s (fun t => t = { s.chip with power := { s.chip.power with boundary := cells } }
        ∧ t.ballsDriven = none))

/-- Under EXTEST the cells that the boundary register takes drive the signal balls, and nothing else changes (R380). -/
def tapDrives (cells : List Bool) (straps : BitVec 16) (s : State) : Prop :=
  s.chip.power.phase ≠ .off → s.chip.power.trstLow = false → s.chip.power.tap = .extest →
    Runs (.jtagInstruction ⟨.boundary cells, straps⟩) s (fun t =>
      t.ballsDriven = some cells ∧ t = { s.chip with power := { s.chip.power with boundary := cells } })

/-- The TAP leaves the instruction that held a warm reset, RST_N high and no thermal hold on: the reset goes on, with the straps
sampled as they stand, or as RST_N's own release found them (R305, R317, R376, R380). -/
def tapReleases (i : TapInstr) (straps : BitVec 16) (s : State) : Prop :=
  s.chip.power.phase = .warmHeld → s.chip.power.trstLow = false → tapHolds i = false → tapHolds s.chip.power.tap = true →
  s.chip.power.rstLow = false → s.chip.flag F.rstStatusHeldThermal = false →
    Runs (.jtagInstruction ⟨.load i, straps⟩) s (fun t =>
      (∀ k < 16, t.power.straps.getLsbD k = if t.getBit F.pers1StrapOvrMask k then t.getBit F.pers1StrapOvrValue k
        else (s.chip.power.sampled.getD straps).getLsbD k)
      ∧ t.power = { s.chip.power with
        phase := .boot, tap := i, tripped := false, sampled := none, straps := t.power.straps, pll := t.power.pll }
      ∧ s.chip.keeps t [F.pll0CstatusALocked, F.pll0CstatusBLocked, F.pll0CstatusStandbyReady]
      ∧ t = { s.chip with regs := t.regs, power := t.power })

/-- PCIE_FLR and PCIE_LINK_DOWN on a link that is up: the configuration space, the MSI-X table and its vectors, and every
packet ring of BAR2 return to reset; BAR0 stands (R25, R375). -/
def flrActs (s : State) : Prop :=
  s.chip.power.linkUp = true →
    Runs .pcieFlr s (fun t =>
      (∀ k, 0x05000000 ≤ k / 32 → Store.find k t.regs = none)
      ∧ (∀ k, k / 32 < 0x05000000 → Store.find k t.regs = Store.find k s.chip.regs)
      ∧ t = { s.chip with
        regs := t.regs, ringMem := [], hostTokens := 0, ringTokens := [], txTurn := 0, msix := 0
        pcie := ⟨[], [], false, false⟩ })
def linkGoes (perst : Bool) (s : State) : Prop :=
  Runs (.pcieLinkDown perst) s (fun t =>
    t.power = { s.chip.power with linkUp := false, perstLow := perst || s.chip.power.perstLow }
    ∧ (s.chip.power.linkUp = true →
        (∀ k, 0x05000000 ≤ k / 32 → Store.find k t.regs = none)
        ∧ (∀ k, k / 32 < 0x05000000 → Store.find k t.regs = Store.find k s.chip.regs)
        ∧ t = { s.chip with
          regs := t.regs, ringMem := [], hostTokens := 0, ringTokens := [], txTurn := 0, msix := 0
          pcie := ⟨[], [], false, false⟩, power := t.power })
    ∧ (s.chip.power.linkUp = false → t = { s.chip with power := t.power }))
def linkComes (s : State) : Prop :=
  s.chip.power.phase = .run →
    Runs .pcieLinkUp s (fun t =>
      t = { s.chip with power := { s.chip.power with perstLow := false, linkUp := true } })

/-- GROUP_FAULT on a running group: HLTH takes a fault, GROUP_FAULTS and GROUP_RESETS count, the group is in reset with its
pages, its sessions restart with its receive queue empty, and the third fault within 10 s holds it; time, ledgers, tables,
the mailbox and every page but the group's and those that count dropped frames or tell of resets, faults, locks and snapshots
stand (R307, R308). -/
def groupFails (g : Fin 8) (s : State) : Prop :=
  let recent := (Store.read [] s.chip.power.faultTimes g.val).filter
    (fun t => decide (rawDiff t s.chip.time.raw < 10000000000 * 65536))
  s.chip.power.phase = .run → s.chip.groupIsDark g.val = false → s.chip.power.standby = false → s.chip.framesInRange →
    Runs (.groupFault g) s (fun t =>
      t.groupInReset g.val = true ∧ (∀ pg ∈ groupPages g.val, t.power.inReset.contains pg = true)
      ∧ t.getBit F.hlthFault fGroup = true ∧ s.chip.counted t F.rstGroupFaults 1 ∧ s.chip.counted t F.rstGroupResets 1
      ∧ (2 ≤ recent.length → t.getBit F.rstStatusGroupHeld g.val = true)
      ∧ (∀ n x, s.chip.session n = some x →
          t.session n = some (if cfgPort x.cfg / 6 == g.val then freshSession x.cfg else x))
      ∧ Store.read [] t.rxq g.val = []
      ∧ s.chip.keepsOff t (fun pg => trafficPage pg || ringPage pg || groupOfPage pg == some g.val
          || [F.hlthFault.addr / 4096, F.rstGroupFaults.addr / 4096, 0x40, F.pcnt0SnapDies.addr / 4096].contains pg)
      ∧ t = { s.chip with
        regs := t.regs, badParity := t.badParity, shadow := t.shadow, held := t.held, msix := t.msix, frames := t.frames
        nextFrame := t.nextFrame, fab := t.fab, links := t.links, fuses := t.fuses, scheds := t.scheds, kib := t.kib
        tails := t.tails, sessions := t.sessions, rxq := t.rxq, esmc := t.esmc, slateSeq := t.slateSeq
        slateLost := t.slateLost, calRun := t.calRun, refs := t.refs, banks := t.banks
        power := { s.chip.power with
          groupReset := setIn s.chip.power.groupReset g.val true, resetFrom := t.power.resetFrom
          faultTimes := t.power.faultTimes, inReset := t.power.inReset }
        ringMem := t.ringMem, hostTokens := t.hostTokens, ringTokens := t.ringTokens })

/-- GROUP_RESET_READY of a group in reset that is not held: it is released, its lane PLLs lock, and its die takes its bank
trims (R284, R308). -/
def groupComes (g : Fin 8) (s : State) : Prop :=
  s.chip.groupInReset g.val = true → s.chip.getBit F.rstStatusGroupHeld g.val = false → s.chip.groupIsDark g.val = false →
  s.chip.ready = true →
    Runs (.groupResetReady g) s (fun t =>
      t.groupInReset g.val = false ∧ t.getBit F.pll0LstatusLocked (2 * g.val) = true
      ∧ t.getBit F.pll0LstatusLocked (2 * g.val + 1) = true
      ∧ s.chip.keeps t [F.pll0LstatusLocked]
      ∧ t = { s.chip with
        regs := t.regs, power := { s.chip.power with groupReset := t.power.groupReset }
        banks := { s.chip.banks with loaded := setIn s.chip.banks.loaded g.val true } })

/-- GROUP_RESET_READY of a group that wakes, the end of step 3 of its reset: DARK reads 0, the lane PLLs lock, its die takes its
bank trims, its sessions restart, and every page of it waits for its handshake (R308, R310). -/
def groupWakes (g : Fin 8) (s : State) : Prop :=
  s.chip.groupInReset g.val = true → s.chip.getBit F.rstStatusGroupHeld g.val = false → s.chip.groupIsDark g.val = true →
  s.chip.ready = true →
    Runs (.groupResetReady g) s (fun t =>
      t.groupIsDark g.val = false ∧ t.groupInReset g.val = false
      ∧ t.getBit F.pll0LstatusLocked (2 * g.val) = true ∧ t.getBit F.pll0LstatusLocked (2 * g.val + 1) = true
      ∧ (∀ pg ∈ groupPages g.val, t.power.inReset.contains pg = true)
      ∧ (∀ n x, s.chip.session n = some x →
          t.session n = some (if cfgPort x.cfg / 6 == g.val then freshSession x.cfg else x))
      ∧ s.chip.keepsOff t (fun pg => (groupOfPage pg).isSome || pg == 0x40 || pg == 0x120)
      ∧ t = { s.chip with
        regs := t.regs, sessions := t.sessions, scheds := t.scheds, gates := t.gates, checking := t.checking
        fuses := t.fuses, banks := { s.chip.banks with loaded := setIn s.chip.banks.loaded g.val true }
        power := { s.chip.power with
          groupDark := setIn s.chip.power.groupDark g.val false, groupReset := setIn s.chip.power.groupReset g.val false
          inReset := t.power.inReset, modeRun := t.power.modeRun } })

/-- HANDSHAKE_COMPLETE of a page in reset whose group is released: the page is reachable again (R50). -/
def handshakes (page : BitVec 14) (s : State) : Prop :=
  s.chip.power.inReset.contains page.toNat = true → s.chip.groupInReset ((groupOfPage page.toNat).getD 8) = false →
  s.chip.ready = true →
    Runs (.handshakeComplete page) s (fun t =>
      t.power.inReset = s.chip.power.inReset.filter (fun k => k != page.toNat)
      ∧ s.chip.keepsOff t trafficPage
      ∧ t = { s.chip with
        regs := t.regs, links := t.links, mail := { s.chip.mail with slots := t.mail.slots }
        power := { s.chip.power with inReset := t.power.inReset, portReset := t.power.portReset } })

/-! ### Every command -/

/-- What a command does where the conditions of its clauses hold: each command with the clauses above that say where it
completes. -/
def row (c : Instr) (s : State) : Prop :=
  match c with
  | .registerWrite path addr be data =>
      writePlain path addr be data s ∧ writeLocked path addr be data s ∧ writeInReset path addr be data s
      ∧ (∀ n o, writeSlot path addr be data n o s) ∧ (∀ p, (∀ k, writeMap path p k be data s) ∧ (∀ k, writeLimit path p k be data s)
        ∧ (∀ sub, writeShare path p sub be data s) ∧ writeEsmc path p be data s)
      ∧ writeTbcfg path be data s ∧ writeInject path be data s ∧ ∀ e, writeDma path e be data s
  | .wideLowRead path addr => ∀ n, wideLowReadAny path addr n s
  | .wideWrite path addr be data => ∀ hi, wideWriteAny path addr be data hi s
  | .nowRead path lag => nowRead path lag s
  | .convert path => convert path s ∧ convertBusy path s
  | .convertDone => ∀ x, convertDone x s
  | .tblRead path w data => tblRead path w data s
  | .tblWrite path w data => tblWrite path w data s
  | .tblOpDone ⟨w, upset⟩ =>
      ∀ o, (upset = none → tblReadDone w o s ∧ tblWriteReadOnly w o s ∧ tblRange w o s)
      ∧ ∀ x, upset = some x → tblReadUpset w o x.1 x.2 s
  | .schdRead path w => schdRead path w s
  | .schdWrite path w andRead => schdWrite path w andRead s
  | .schdOpDone w ecc => ecc = .clean → ∀ o, schdReadDone w o s ∧ schdWriteDone w o s
  | .sessRead ⟨path, upset⟩ => sessRead path upset s
  | .sessReadDone => ∀ n w, sessReadDone n w s ∧ ∀ x f, sessReadUpset n w x f s
  | .archRead path => archRead path s
  | .archReadDone => ∀ e, archReadDone e s
  | .apply path p => apply path p s
  | .treeCheckDone p upsets => upsets = [] → treePasses p s ∧ ∀ r n c, treeFails p r n c s
  | .injectA path => injectA path s
  | .injectB path => injectB path s
  | .injectBoth path => injectBoth path s
  | .slateW0Read path e => ∀ w l, slateRead path e w l s
  | .bankDataRead path => bankDataRead path s
  | .probeCountRead path k => probeCountRead path k s
  | .bar4Read offset count => bar4Read offset count s
  | .bar4Write offset data => bar4Write offset data s
  | .pcieMemRequest op addr firstBe lastBe count data =>
      (∀ isWrite, op = memOp isWrite none →
        memRefused isWrite addr firstBe lastBe count data s
        ∧ (count = 1 → memOne addr firstBe lastBe (nth data 0) s)
        ∧ ∀ n, count = n + 1 → memInTurn isWrite addr firstBe lastBe n data s)
      ∧ (∀ isWrite n, op = memOp isWrite (some n) → memCut addr firstBe lastBe n count data s)
      ∧ (∀ d, op = .powerState d → powerState d addr firstBe lastBe count data s)
      ∧ ∀ v : Fin 64, op = .tableWrite (BitVec.ofNat 8 (4 * v.val + 3)) → vectorMasks v addr firstBe lastBe (nth data 0) s
  | .smbusBlockWrite head count offset data pec =>
      smbusNot head count offset data pec s
      ∧ (count = 8 → ∀ a : BitVec 26, offset = a.setWidth 32 →
          blockWriteNot head a data pec s ∧ blockWriteAny head a data pec s)
  | .smbusProcessCall head count offset =>
      smbusNot head count offset 0 .none s ∧ alertAnswers head count offset s
      ∧ (count = 4 → ∀ (a : BitVec 26) (be : BitVec 4), offset = a.setWidth 32 → readPlain a be head s)
  | .smbusTimeout => smbusTimeout s
  | .go path slot tag opcode irq => go path slot tag opcode irq s ∧ goBusy path slot tag opcode irq s
  | .admitFlow slot => (∀ i bounds, admitOk slot i bounds s) ∧ admitNot slot s
  | .releaseFlow slot => (∀ f, releaseOk slot f s ∧ releaseOther slot f s) ∧ releaseNot slot s
  | .setTake ⟨slot, upsets⟩ => upsets = [] → takeOk slot s ∧ takeCancel slot s
  | .tableCommit ⟨slot, upsets⟩ => upsets = [] → commitOk slot s ∧ ∀ j, commitNot slot j s
  | .acceptStep slot => acceptStages slot s
  | .reslate slot => reslateStages slot s
  | .setAsym slot => asymOk slot s
  | .sessionOpen slot => openOk slot s
  | .sessionClose slot => closeOk slot s
  | .calTdc slot lines grid => calStages (.calTdc slot lines grid) slot 0 (.tdc lines grid) s
  | .calLaneDelay slot tx rx => calStages (.calLaneDelay slot tx rx) slot 1 (.lanes tx rx) s
  | .calDieLink slot delays => calStages (.calDieLink slot delays) slot 2 (.links delays) s
  | .calPllPhase slot d => calStages (.calPllPhase slot d) slot 3 (.phase d) s
  | .calAsym slot loop ok => calStages (.calAsym slot loop ok) slot 4 (.asym loop ok) s
  | .snapshot slot => snapshotStages slot s
  | .readDailies slot => dailiesPart slot s
  | .deviceReset slot => deviceResetStages slot s
  | .groupReset slot => groupResetStages slot s
  | .portReset slot => portResetStages slot s
  | .setPowerState slot => powerStages slot s
  | .powerTransitionDone slot => transitionEnds slot s ∧ groupStillWakes slot s
  | .portModeWrite path p maxframe be data =>
      (maxframe = false → portMode path p be data s ∧ portModeHeld path p be data s ∧ upperHeld path p be data s)
      ∧ (maxframe = true → maxframeWrite path p be data s)
  | .twoShotWrite path p be data =>
      twoShot path p be data s ∧ twoShotHeld path p be data s ∧ twoShotDark path p be data s
  | .enableWrite path p be data => enableRises path p be data s ∧ enableFalls path p be data s ∧ loopTurns path p be data s
  | .mergeEnWrite path p be data => mergeEnSet path p be data s ∧ mergeEnClear path p be data s
  | .clkoutCfgWrite path n be data => clkoutCfg path n be data s
  | .ppsoutCfgWrite path n reg be data => (reg = 0 → ppsoutCfg path n be data s) ∧ ppsoutShape path n reg be data s
  | .evModeWrite path e be data => evModeSet path e be data s
  | .rwpWrite path be data => rwpSet path be data s ∧ rwpWorn path be data s
  | .persCommit => ∀ i v l, commits i v l s
  | .dmaBatchWrite e => batchLeaves e s
  | .clapperMarker m => ∀ r, markerParams m r s ∧ markerArchives m r s ∧ markerReloads m r s ∧ markerBegins m r s
      ∧ (∀ x, markerQualifies m r x s) ∧ (∀ time, markerSelects m r time s) ∧ (∀ d, markerHolds m r d s)
      ∧ (∀ p, markerFuses m r p s)
      ∧ (∀ x, markerCalFails m r x s ∧ (∀ d, markerCalEnds m r x d s) ∧ ∀ lines grid, markerExchanges m r x lines grid s)
      ∧ ∀ n rs, (∀ f, markerReleases m r n f rs s ∧ ∀ e b, markerAdmits m r n f e b rs s)
        ∧ (∀ p k, markerTakes m r n p k rs s) ∧ (∀ i count, markerCommits m r n i count rs s)
        ∧ (∀ p sub ext asym, markerAsym m r n p sub ext asym rs s)
        ∧ (∀ k, markerCloses m r n k rs s ∧ ∀ cfg, markerOpens m r n k cfg rs s)
        ∧ (∀ st, markerSteps m r n st rs s ∧ ∀ scope k, markerDark m r n scope k st rs s)
        ∧ (∀ auto, markerSnaps m r auto n rs s) ∧ (∀ group k, markerResets m r n group k rs s) ∧ markerDevice m r n rs s
  | .gripClapper g phases => phases = [] → ∀ n x, gripSyncs g n x s ∧ ∀ v a b, gripPosts g n x v a b s
  | .gripOverrun ⟨g, phases, reached⟩ => overrunGrip g phases reached s
  | .directorOverrun => overrunDirector s
  | .servoCompute => servoIdle s ∧ ∀ p src, servoTakes p src s ∧ servoRefuses p src s
  | .coastEntry => coasts s
  | .directorMismatch => mismatch s
  | .directorSelftestDone pass => pairTested pass s
  | .gafferMismatch => gafferFalls s
  | .gafferSelftestDone pass => gafferTested pass s
  | .sensorReading khz => senses khz s
  | .driftMeasure taps => drifts taps s
  | .oscHourly => hours s
  | .dailyPlan linkMoved => planDue linkMoved s
  | .avsStep readMv => ∀ a, avsSteps readMv a s
  | .avsReadbackTimeout readMv => ∀ a, avsRetries readMv a s ∧ avsGivesUp readMv a s
  | .telemetryPoll t0 t1 t2 => polls t0 t1 t2 s
  | .pmbAlert s0 s1 s2 => alerts s0 s1 s2 s
  | .tempReading l => heats l s
  | .thermalTrip => trips s
  | .dipEntry rail minMv => dips rail minMv s
  | .dipEndCondition => ∀ d, dipEnds d s
  | .dipTimeout => ∀ d, dipTimesOut d s
  | .railResetLevel rail => railFalls rail s
  | .powerOn x => powersOn x s
  | .sequenceRailTimeout rail => railTimesOut rail s
  | .sequenceRestart ⟨straps, mram, torn⟩ =>
      (mram = [] → torn = false → sequenceRuns straps s) ∧ (mram = [] → torn = true → ∀ i v, mramTorn straps i v s)
      ∧ ∀ u, mram = [u] → torn = false → mramRepairs straps u s ∧ mramLost straps u s ∧ ∀ v, mramRestores straps u v s
  | .masterLockTimeout => lockTimesOut s
  | .resetReady pass0 pass1 gaffer => becomesReady pass0 pass1 gaffer s
  | .warmResetAssert => warmAsserts s
  | .warmResetRelease straps => warmReleases straps s
  | .thermalHoldRelease straps => thermalReleases straps s
  | .xoLoss => xoStops s
  | .xoReturn => xoReturns s
  | .groupFault g => groupFails g s
  | .groupResetReady g => groupComes g s ∧ groupWakes g s
  | .handshakeComplete page => handshakes page s
  | .pcieFlr => flrActs s
  | .pcieLinkDown perst => linkGoes perst s
  | .masterPllLol => masterLoses s
  | .masterPllLock band phis => ∀ phi l, phis = phi :: l → masterLocks band phi l s ∧ coldLocks band phi l s
  | .masterPllRetry => masterRetries s
  | .fallbackReturn => fallbackBack s
  | .corePllLol pllB => coreLoses pllB s
  | .coreSettingChange => settingChanges s
  | .coreStandbyLocked => standbyLocks s
  | .lanePllLol g k => laneLoses g k s
  | .lanePllRelock g k => laneRelocks g k s
  | .ppsoutPulse n => pulses n s
  | .tbinLoss multiplier => baseLost multiplier s
  | .tbinReturn => baseReturns s
  | .eventEdge e rising ⟨edge, tap⟩ inSwitch => edgeStamps e rising edge tap inSwitch s
  | .deadTimeEnd e => ∀ w, deadTimeEnds e w s
  | .frameReceive f => receiveNot f s ∧ receiveControl f s ∧ receiveVerify f s ∧ (∀ r, receiveProbe f r s)
      ∧ receiveElsewhere f s ∧ receiveNonMpls f s ∧ receiveSlow f s
      ∧ ∀ e cur, receiveExpose f e cur s ∧ ∀ rest, receiveMiss f e cur rest s ∧ receiveEnds f e cur rest s
        ∧ receivePopsOut f e cur rest s ∧ receiveSwap f e cur rest s ∧ receivePush f e cur rest s
        ∧ ∀ y, receivePop f e cur y rest s
  | .frameAdmission id => ∀ f, f.id = id → admitOther f s ∧ ∀ i, admitConforming f i s ∧ admitShort f i s
  | .frameTailAdmission id how =>
      (∀ r, tailAfter id r how s) ∧ ∀ f r, f.id = id → (how = .good → tailGood f r s)
      ∧ (how = .badFec → tailBad f r true s) ∧ (how = .badFcs → tailBad f r false s)
  | .cellForm id => ∀ f, f.id = id → cellForms f s ∧ cellDrop f s ∧ cellBreaks f s ∧ ∀ r, cellShows f r s
  | .schedulerSlot fault ecc =>
      (fault = .none → ecc = [] → ∀ f, slotGrants f s)
      ∧ (∀ isB, slotFences fault ecc isB s) ∧ slotDual fault ecc s
  | .bufferAudit drift => drift = [] → auditRight s ∧ ∀ k, auditShort k s
  | .bufferSweepDone store => sweepEnds store s
  | .txFrameStart p sub stamp ecc =>
      ecc = noEcc → txNothing p sub stamp s
      ∧ ∀ f, txExpress p sub stamp f s ∧ txLate p sub stamp f s ∧ (∀ g, txPreempts p sub stamp f g s) ∧ ∀ c, txTree p sub stamp f c s
  | .txUnderrun p sub => ∀ f, txUnderruns p sub f s
  | .txFrameEnd p ⟨sub, cells⟩ => ∀ f, txEnds p sub f cells s ∧ txCellError p sub f cells s
  | .seqWaitExpiry id => seqWaitNone id s ∧ ∀ p express k, k.id = id → seqWait p express k s
  | .fuseMarkerRx p m => fuseMarker p m s
  | .linkDown p ⟨sub, faultOnly⟩ =>
      linkDrops p sub faultOnly s ∧ linkStaysDown p sub faultOnly s ∧ (sub = 0 → linkDropsFused p faultOnly s)
  | .holdExpiry p sub => holdEnds p sub s
  | .linkUp p sub => linkRises p sub s ∧ (sub = 0 → linkRisesFused p s)
  | .linkTrainingDone p sub lanes => trains p sub lanes s
  | .anFail p sub => anFails p sub s
  | .anRetry p sub => anRetries p sub s
  | .mergeVerifyDone p sub ok => verifies p sub ok s
  | .tableScrub hits => (∀ h, hits = [h] → scrubs h s) ∧ ∀ a b, hits = a ++ b → scrubsInOrder a b s
  | .parityScan upsets => upsets = [] → ∀ a, scanFinds a s
  | .voteRepair addr flipA flipB flipC => flipB = 0 → flipC = 0 → ∀ f, votes addr flipA f s
  | .takeBoundary p => boundary p s
  | .gateEvent p ecc => (ecc = .clean → gateMoves p s) ∧ (ecc = .double → gateError p s)
  | .takeCutover p => ∀ k, cutsOver p k s
  | .txRingServe f => ∀ n, ringDirect f n s ∧ ringBad f n s
  | .esmcInfoTx p sub => esmcInfos p sub s
  | .esmcEventTx p sub => ∀ q, esmcEvents p sub q s
  | .esmcPduRx p sub pdu => esmcTakes p sub pdu s
  | .esmcFailed p sub => esmcLost p sub s
  | .ptpMessageRx m => messageStray m s ∧ ∀ n x, messageQueued m n x s ∧ messageDropped m n x s
  | .annTimeout n => ∀ x, announceLost n x s
  | .gripFault g => gripFails g s
  | .gripRestartDone g phases => gripBack g phases s
  | .ppsinPulse n stamp => ppsEdge n stamp s
  | .holdoffExpiry c => holdoffEnds c s
  | .wtrExpiry c => waitEnds c s
  | .refActivityLoss c => activityGoes c s
  | .acquireStageSettle => stageSettles s
  | .jtagInstruction x =>
      tapStands x s ∧ (∀ cells straps, x = ⟨.boundary cells, straps⟩ → tapDrives cells straps s)
      ∧ ∀ i straps, x = ⟨.load i, straps⟩ → tapPasses i straps s ∧ tapHoldsReset i straps s ∧ tapReleases i straps s
  | .pcsAlignment p sub => aligns p sub s
  | .standbyPairMismatch => standbyFenced s
  | .gafferOverrun => overrunGaffer s
  | .tbinPresent => basePresent s
  | .multiplierLock => baseLocks s
  | .refActivityReturn c => ∀ i, c = .freq i → activityComes i s
  | .vddAuxRemoval => unpowers s
  | .pcieLinkUp => linkComes s

end Sys2Proof.Says

/-! ### The statements -/

/-- REGISTER_WRITE (R30, R36, R37) and reads: where they complete, by access code, and their frame. What a write
refused by a lock or a reset counts follows the order of checks that the model chose (logs 10 and 12); what a cleared
EN of ESMC forgets, and a DMA_RD beyond its ring, are its readings (logs 47 and 104). -/
def Obligations.RegisterWritesActByAccessCode : Prop :=
  ∀ s : State,
    (∀ (path : Path) (addr : BitVec 27) (be : BitVec 4) (data : Word), Says.writePlain path addr be data s)
    ∧ (∀ (path : Path) (be : BitVec 4) (data : Word), Says.writeRw path be data s)
    ∧ (∀ (path : Path) (be : BitVec 4) (data : Word), Says.writeW1c path be data s)
    ∧ (∀ (path : Path) (addr : BitVec 27) (be : BitVec 4) (data : Word), Says.writeLocked path addr be data s)
    ∧ (∀ (path : Path) (addr : BitVec 27) (be : BitVec 4) (data : Word), Says.writeInReset path addr be data s)
    ∧ (∀ (addr : BitVec 26) (be : BitVec 4) (head : SmbHead), Says.readPlain addr be head s)
    ∧ (∀ (addr : BitVec 27) (be : BitVec 4), Says.readInReset addr be s)
    ∧ (∀ (path : Path) (addr : BitVec 27) (be : BitVec 4) (data : Word) (n o : Nat), Says.writeSlot path addr be data n o s)
    ∧ (∀ (path : Path) (p : Fin 48) (k : Fin 8) (be : BitVec 4) (data : Word), Says.writeMap path p k be data s)
    ∧ (∀ (path : Path) (p : Fin 48) (sub : Fin 8) (be : BitVec 4) (data : Word), Says.writeShare path p sub be data s)
    ∧ (∀ (path : Path) (p : Fin 48) (k : Fin 16) (be : BitVec 4) (data : Word), Says.writeLimit path p k be data s)
    ∧ (∀ (path : Path) (be : BitVec 4) (data : Word), Says.writeTbcfg path be data s)
    ∧ (∀ (path : Path) (p : Fin 48) (be : BitVec 4) (data : Word), Says.writeEsmc path p be data s)
    ∧ (∀ (path : Path) (be : BitVec 4) (data : Word), Says.writeInject path be data s)
    ∧ (∀ (path : Path) (e : Fin 8) (be : BitVec 4) (data : Word), Says.writeDma path e be data s)

/-- Wide registers (R33, R34) and NOW (R171). That a held low word keeps its byte enables is the model's choice (log
14). -/
def Obligations.WideRegistersMoveWhole : Prop :=
  ∀ s : State,
    (∀ (path : Path) (be : BitVec 4) (lo : Word), Says.wideWriteLow path be lo s)
    ∧ (∀ (path : Path) (lo hi : Word), Says.wideWriteHigh path lo hi s)
    ∧ (∀ (path : Path) (base : BitVec 26) (be : BitVec 4) (lo hi : Word), Says.wideWriteAny path base be lo hi s)
    ∧ (∀ path : Path, Says.wideLowRead path s)
    ∧ (∀ (path : Path) (base : BitVec 26) (n : Nat), Says.wideLowReadAny path base n s)
    ∧ (∀ (path : Path) (lag : Fin 4), Says.nowRead path lag s)

/-- The conversion, session and archive windows (R187, R212, R240). STEP_SINCE under EXPIRED is the model's reading
(log 73), and what SESS_DATA holds under RESULT 4 its choice (log 94). -/
def Obligations.WindowsCaptureAndAnswer : Prop :=
  ∀ s : State,
    (∀ path : Path, Says.convert path s)
    ∧ (∀ path : Path, Says.convertBusy path s)
    ∧ (∀ x : Raw, Says.convertDone x s)
    ∧ (∀ (path : Path) (upset : Option (BitVec 256)), Says.sessRead path upset s)
    ∧ (∀ (n : Nat) (w : Bool), Says.sessReadDone n w s)
    ∧ (∀ (n : Nat) (w : Bool) (x : Session) (flips : BitVec 256), Says.sessReadUpset n w x flips s)
    ∧ (∀ path : Path, Says.archRead path s)
    ∧ (∀ e : BitVec 128, Says.archReadDone e s)

/-- The triggers of the table and scheduler windows (R110, R164). That HELD is judged at the trigger, and READ_ONLY
before HELD, is the model's reading (log 62). -/
def Obligations.TableWindowsCaptureAtTheTrigger : Prop :=
  ∀ s : State,
    (∀ (path : Path) (w : Fin 5) (data : Word), Says.tblRead path w data s)
    ∧ (∀ (path : Path) (w : Fin 5) (data : Word), Says.tblWrite path w data s)
    ∧ (∀ (path : Path) (w : Fin 2), Says.schdRead path w s)
    ∧ (∀ (path : Path) (w : Fin 2) (andRead : Bool), Says.schdWrite path w andRead s)

/-- TBL_OP_DONE (R111), and the errors its read meets (R117). That an INDEX beyond a read-only table gives RANGE is
the model's reading: it checks the INDEX first (log 62). -/
def Obligations.TableWindowResults : Prop :=
  ∀ s : State,
    (∀ (w : Fin 5) (o : WinOp), Says.tblReadDone w o s)
    ∧ (∀ (w : Fin 5) (o : WinOp) (flips : BitVec 128) (double : Bool), Says.tblReadUpset w o flips double s)
    ∧ (∀ (w : Fin 5) (o : WinOp), Says.tblWriteReadOnly w o s)
    ∧ (∀ (w : Fin 5) (o : WinOp), Says.tblRange w o s)

/-- TBL_OP_DONE and SCHD_OP_DONE of a WRITE (R110, R113, R114, R153, R164). The order of their refusals is the model's
reading (log 62). -/
def Obligations.WindowWritesReachTheirEntries : Prop :=
  ∀ s : State,
    (∀ o : WinOp, Says.tblWriteDone o s)
    ∧ (∀ (w : Fin 2) (o : WinOp), Says.schdReadDone w o s)
    ∧ (∀ (w : Fin 2) (o : WinOp), Says.schdWriteDone w o s)

/-- SLATE_W0_READ of a reel with a slate, outside MODE 2, returns the head slate's first word, shadows the rest and
removes it, and LEVEL follows. BANK_DATA_READ returns the bank word at BANK_INDEX and advances it by one modulo
262,144. PROBE_COUNT_READ returns the count and latches that of a CHAIN probe above it. Each clause names the
registers and the parts of State that may change; all else stands. -/
def Obligations.ReadsThatAct : Prop :=
  ∀ s : State,
    (∀ (path : Path) (e : Fin 8) (w : BitVec 128) (l : List (BitVec 128)), Says.slateRead path e w l s)
    ∧ (∀ path : Path, Says.bankDataRead path s)
    ∧ (∀ (path : Path) (k : Fin 64), Says.probeCountRead path k s)

/-- The user window and small requests (R23, R26, R352). What a closed window counts, and that AER logs an Unsupported
Request, are the model's readings (logs 61 and 19). -/
def Obligations.UserWindowAndSmallRequests : Prop :=
  ∀ s : State,
    (∀ (offset : BitVec 20) (count : Nat), Says.bar4Read offset count s)
    ∧ (∀ (offset : BitVec 20) (data : Word), Says.bar4Write offset data s)
    ∧ (∀ be : BitVec 4, Says.memRead be s)
    ∧ (∀ (firstBe lastBe : BitVec 4) (d0 d1 : Word), Says.memWrite firstBe lastBe d0 d1 s)

/-- PCIE_MEM_REQUEST (R24, R26, R305), for every aligned address, both directions and all enables. That AER logs an
Unsupported Request, what D3hot answers, what the endpoint holds and its masks are the model's, from the PCIe
specification (logs 19 and 71); so is how a cut request comes (log 18). -/
def Obligations.PcieRequestsAreTheirAccessesInOrder : Prop :=
  ∀ s : State,
    (∀ (isWrite : Bool) (addr : BitVec 27) (firstBe lastBe : BitVec 4) (count : Nat) (data : List Word), Says.memRefused isWrite addr firstBe lastBe count data s)
    ∧ (∀ (addr : BitVec 27) (firstBe lastBe : BitVec 4) (d : Word), Says.memOne addr firstBe lastBe d s)
    ∧ (∀ (isWrite : Bool) (addr : BitVec 27) (firstBe lastBe : BitVec 4) (n : Nat) (data : List Word), Says.memInTurn isWrite addr firstBe lastBe n data s)
    ∧ (∀ (addr : BitVec 27) (firstBe lastBe : BitVec 4) (n count : Nat) (data : List Word), Says.memCut addr firstBe lastBe n count data s)
    ∧ (∀ (d3hot : Bool) (addr : BitVec 27) (firstBe lastBe : BitVec 4) (count : Nat) (data : List Word), Says.powerState d3hot addr firstBe lastBe count data s)
    ∧ (∀ (v : Fin 64) (addr : BitVec 27) (firstBe lastBe : BitVec 4) (data : Word), Says.vectorMasks v addr firstBe lastBe data s)

/-- SMBus (R377, R378). That a write cut short is never made is the model's reading (log 20), and the polynomial of
the PEC byte and the alert response are those of the SMBus specification, presumed (log 121). -/
def Obligations.SmbusTransactions : Prop :=
  ∀ s : State,
    (∀ (head : SmbHead) (data : Word), Says.blockWrite head data s)
    ∧ (∀ (head : SmbHead) (offset : BitVec 26) (data : Word) (pec : Pec), Says.blockWriteAny head offset data pec s)
    ∧ (∀ head : SmbHead, Says.processCall head s)
    ∧ Says.smbusTimeout s
    ∧ (∀ (head : SmbHead) (offset : BitVec 26) (data : Word) (pec : Pec), Says.blockWriteNot head offset data pec s)
    ∧ (∀ (head : SmbHead) (count : BitVec 8) (offset data : Word) (pec : Pec), Says.smbusNot head count offset data pec s)
    ∧ (∀ (head : SmbHead) (count : BitVec 8) (offset : Word), Says.alertAnswers head count offset s)

/-- GO latches the command of an idle slot; a busy slot, and any slot while control is lost, ignores it (R14, R323).
-/
def Obligations.GoLatchesACommand : Prop :=
  ∀ s : State,
    (∀ (path : Path) (slot : Fin 16) (tag opcode : BitVec 8) (irq : Bool), Says.go path slot tag opcode irq s)
    ∧ (∀ (path : Path) (slot : Fin 16) (tag opcode : BitVec 8) (irq : Bool), Says.goBusy path slot tag opcode irq s)

/-- APPLY and its check (R153), and the injections (R145). When a subport takes the tree is the model's reading (log
40). -/
def Obligations.TreesApplyOnlyWhenTheyPass : Prop :=
  ∀ s : State,
    (∀ (path : Path) (p : Fin 48), Says.apply path p s)
    ∧ (∀ p : Fin 48, Says.treePasses p s)
    ∧ (∀ (p : Fin 48) (r n c : Nat), Says.treeFails p r n c s)
    ∧ (∀ path : Path, Says.injectA path s)
    ∧ (∀ path : Path, Says.injectB path s)
    ∧ (∀ path : Path, Says.injectBoth path s)

/-- Port configuration (R79, R89, R116). What a MODE written in the dark leaves until the wake is the model's reading
of R51 and R96 (log 68). -/
def Obligations.PortConfigurationIsHeldWhileInUse : Prop :=
  ∀ s : State,
    (∀ (path : Path) (p : Fin 48) (be : BitVec 4) (data : Word), Says.portMode path p be data s)
    ∧ (∀ (path : Path) (p : Fin 48) (be : BitVec 4) (data : Word), Says.portModeHeld path p be data s)
    ∧ (∀ (path : Path) (p : Fin 48) (be : BitVec 4) (data : Word), Says.maxframeWrite path p be data s)
    ∧ (∀ (path : Path) (p : Fin 48) (be : BitVec 4) (data : Word), Says.twoShot path p be data s)
    ∧ (∀ (path : Path) (p : Fin 48) (be : BitVec 4) (data : Word), Says.twoShotHeld path p be data s)
    ∧ (∀ (path : Path) (p : Fin 48) (be : BitVec 4) (data : Word), Says.twoShotDark path p be data s)
    ∧ (∀ (path : Path) (p : Fin 48) (be : BitVec 4) (data : Word), Says.upperHeld path p be data s)

/-- ENABLE_WRITE (R83, R85, R247) and LOOPBACK (R84). That a cleared ENABLE bit is the loss of the link is the model's
choice (log 90), and what a change of LOOPBACK does to the links its reading (log 86). -/
def Obligations.EnableStartsAndStopsLinks : Prop :=
  ∀ s : State,
    (∀ (path : Path) (p : Fin 48) (be : BitVec 4) (data : Word), Says.enableRises path p be data s)
    ∧ (∀ (path : Path) (p : Fin 48) (be : BitVec 4) (data : Word), Says.enableFalls path p be data s)
    ∧ (∀ (path : Path) (p : Fin 48) (be : BitVec 4) (data : Word), Says.loopTurns path p be data s)

/-- Preemption (R67, R68). A verify process that a link loss ended takes no result (log 65), and a respond frame goes
out whatever MERGE_EN holds (log 114). The stamp, the class and the length of such frames are the model's (logs 85 and
111). -/
def Obligations.MergeEnStartsAndEndsPreemption : Prop :=
  ∀ s : State,
    (∀ (path : Path) (p : Fin 48) (be : BitVec 4) (data : Word), Says.mergeEnSet path p be data s)
    ∧ (∀ (path : Path) (p : Fin 48) (be : BitVec 4) (data : Word), Says.mergeEnClear path p be data s)
    ∧ (∀ (p : Fin 48) (sub : Fin 8) (ok : Bool), Says.verifies p sub ok s)
    ∧ (∀ f : RxFrame, Says.receiveVerify f s)

/-- CLKOUT, PPSOUT and EV configuration (R252 to R254, R272). When RUNNING of a pulse output first reads 1 is the
model's choice (log 50), and that WIDTH_NS is network time its reading (log 125). -/
def Obligations.OutputsAndChannelsTakeTheirConfiguration : Prop :=
  ∀ s : State,
    (∀ (path : Path) (n : Fin 8) (be : BitVec 4) (data : Word), Says.clkoutCfg path n be data s)
    ∧ (∀ (path : Path) (n : Fin 4) (be : BitVec 4) (data : Word), Says.ppsoutCfg path n be data s)
    ∧ (∀ (path : Path) (n : Fin 4) (reg : Fin 3) (be : BitVec 4) (data : Word), Says.ppsoutShape path n reg be data s)
    ∧ (∀ n : Fin 4, Says.pulses n s)
    ∧ (∀ (path : Path) (e : Fin 8) (be : BitVec 4) (data : Word), Says.evModeSet path e be data s)

/-- Persistent words (R313 to R315). That a commit is made whole is the model's reading (log 56). -/
def Obligations.PersistentWordsCommitInOrder : Prop :=
  ∀ s : State,
    (∀ (path : Path) (be : BitVec 4) (data : Word), Says.rwpSet path be data s)
    ∧ (∀ (path : Path) (be : BitVec 4) (data : Word), Says.rwpWorn path be data s)
    ∧ (∀ (i : Nat) (v : Word) (l : List (Nat × Word)), Says.commits i v l s)

/-- FRAME_RECEIVE on a port of no fused pair (R82, R86, R97 to R107, R283). A miss is judged before the TTL, and the
tag takes the flow's class (log 112); a ring without ENABLE has no descriptor (log 80), and TAIL = HEAD hands over
none (log 79). The channels by which a bank stamps, and what a probe is, are the model's (logs 101, 108 and 110). -/
def Obligations.FramesAreLookedUp : Prop :=
  ∀ s : State,
    (∀ f : RxFrame, Says.receiveNot f s)
    ∧ (∀ f : RxFrame, Says.receiveControl f s)
    ∧ (∀ (f : RxFrame) (e cur : BitVec 32) (rest : List (BitVec 32)), Says.receiveMiss f e cur rest s)
    ∧ (∀ (f : RxFrame) (e cur : BitVec 32) (rest : List (BitVec 32)), Says.receiveSwap f e cur rest s)
    ∧ (∀ (f : RxFrame) (r : CalRun), Says.receiveProbe f r s)
    ∧ (∀ f : RxFrame, Says.receiveElsewhere f s)
    ∧ (∀ f : RxFrame, Says.receiveNonMpls f s)
    ∧ (∀ f : RxFrame, Says.receiveSlow f s)
    ∧ (∀ (f : RxFrame) (e cur : BitVec 32) (rest : List (BitVec 32)), Says.receiveEnds f e cur rest s)
    ∧ (∀ (f : RxFrame) (e cur : BitVec 32) (rest : List (BitVec 32)), Says.receivePopsOut f e cur rest s)
    ∧ (∀ (f : RxFrame) (e cur : BitVec 32) (rest : List (BitVec 32)), Says.receivePush f e cur rest s)
    ∧ (∀ (f : RxFrame) (e cur y : BitVec 32) (rest : List (BitVec 32)), Says.receivePop f e cur y rest s)
    ∧ (∀ (f : RxFrame) (e cur : BitVec 32), Says.receiveExpose f e cur s)

/-- Admission and cells at the input (R62 to R66, R119, R123, R143). When a store's cells become free is the model's
choice (log 35), and so is how a failed mark between match and admission counts (log 37). That a frame ended after its
start breaks its promise is its reading (log 97). -/
def Obligations.AdmissionTakesConformingFrames : Prop :=
  ∀ s : State,
    (∀ (f : Frame) (i : Nat), Says.admitConforming f i s)
    ∧ (∀ f : Frame, Says.admitOther f s)
    ∧ (∀ (f : Frame) (r : Tail), Says.tailGood f r s)
    ∧ (∀ (f : Frame) (r : Tail) (badFec : Bool), Says.tailBad f r badFec s)
    ∧ (∀ f : Frame, Says.cellForms f s)
    ∧ (∀ f : Frame, Says.cellDrop f s)
    ∧ (∀ (id : Nat) (r : Tail) (how : TailEnd), Says.tailAfter id r how s)
    ∧ (∀ (f : Frame) (r : Tail), Says.cellShows f r s)
    ∧ (∀ f : Frame, Says.cellBreaks f s)

/-- FRAME_ADMISSION of a frame of a standing flow whose bucket falls short takes no tokens. With DROP set the frame is
gone before any cell forms and DROPPED counts; otherwise it goes on without a promise in the flow's DEMOTE class and
DEMOTED counts. No other frame and no other register changes. -/
def Obligations.NonconformingFramesAreDemotedOrDropped : Prop :=
  ∀ s : State,
    (∀ (f : Frame) (i : Nat), Says.admitShort f i s)

/-- FRAME_ADMISSION of a conforming frame longer than its flow's maxf cuts it at maxf and marks it to end with an
inverted FCS; FRAME_TAIL_ADMISSION of it counts OVERSIZE and leaves every bucket as it was. No other register changes.
-/
def Obligations.OverlongFramesAreCutAtMaxf : Prop :=
  ∀ s : State,
    (∀ (f : Frame) (i : Nat), Says.overlong f i s)

/-- Two-shot receive order (R93, R94), fuse markers (R90) and transmit rings (R107, R108). SEQ_LOST counts on subport
0 of the member that received the frame (log 81), TAIL = HEAD hands over no descriptor (log 79), and FRAMES counts one
in error (log 115). The stamp, the class and the length of a fuse marker are the model's (logs 85 and 111). -/
def Obligations.TwoShotOrderAndHostRings : Prop :=
  ∀ s : State,
    (∀ (p : Nat) (express : Bool) (k : Early), Says.seqWait p express k s)
    ∧ (∀ (p : Fin 48) (m : FuseMarker), Says.fuseMarker p m s)
    ∧ (∀ (f : RxFrame) (n : Nat), Says.ringBad f n s)
    ∧ (∀ (f : RxFrame) (n : Nat), Says.ringDirect f n s)
    ∧ (∀ id : Nat, Says.seqWaitNone id s)
    ∧ (∀ (m : MarkerIn) (r : Int) (p : Fin 42), Says.markerFuses m r p s)

/-- SCHEDULER_SLOT (R125, R126), for a frame alone in the block. How many slots a cell takes is the pipeline of log
35. -/
def Obligations.SchedulerSlotsGrant : Prop :=
  ∀ s : State,
    (∀ f : Frame, Says.slotGrants f s)

/-- The continuity checker (R128 to R130). The slots of Table 6-4 are the pipeline of log 35, and that BREAK_FABRIC
counts a frame past its start too is the model's reading (log 97). -/
def Obligations.ContinuityCheckerFencesOrResets : Prop :=
  ∀ s : State,
    (∀ (fault : SlotFault) (ecc : List StoreHit) (isB : Bool), Says.slotFences fault ecc isB s)
    ∧ (∀ (fault : SlotFault) (ecc : List StoreHit), Says.slotDual fault ecc s)
    ∧ (∀ (m : MarkerIn) (r : Int), Says.markerReloads m r s)

/-- Audits and sweeps (R141, R142). What drifts comes with the command (log 36). -/
def Obligations.AuditsFindAndSweepsRestore : Prop :=
  ∀ s : State,
    Says.auditRight s
    ∧ (∀ k : Nat, Says.auditShort k s)
    ∧ (∀ k : Fin 96, Says.sweepEnds k s)

/-- The take gate (R155 to R163). An event acts at the edge at which network time reaches it (log 42). -/
def Obligations.TakesFollowNetworkTime : Prop :=
  ∀ s : State,
    (∀ p : Fin 48, Says.boundary p s)
    ∧ (∀ p : Fin 48, Says.gateMoves p s)
    ∧ (∀ p : Fin 48, Says.gateError p s)
    ∧ (∀ (p : Fin 48) (k : CutOver), Says.cutsOver p k s)

/-- Links (R67, R68, R85 to R87, R90, R94). Where a bring-up restarts after a loss is the model's choice (log 118),
and so is EPOCH after the loss of both members (log 87). What a frame cut at the ingress counts, and which waits end
with a member, are its readings (logs 82 and 117). -/
def Obligations.LinksFallHoldAndReturn : Prop :=
  ∀ s : State,
    (∀ (p : Fin 48) (sub : Fin 8) (faultOnly : Bool), Says.linkDrops p sub faultOnly s)
    ∧ (∀ (p : Fin 48) (faultOnly : Bool), Says.linkDropsFused p faultOnly s)
    ∧ (∀ (p : Fin 48) (sub : Fin 8) (faultOnly : Bool), Says.linkStaysDown p sub faultOnly s)
    ∧ (∀ (p : Fin 48) (sub : Fin 8), Says.holdEnds p sub s)
    ∧ (∀ (p : Fin 48) (sub : Fin 8), Says.linkRises p sub s)
    ∧ (∀ p : Fin 48, Says.linkRisesFused p s)

/-- Bring-up (R81, R85, R86). What each row does, and when, is the model's reading (log 65); taps beyond a sum of 63
are rounded free (log 72). -/
def Obligations.BringUpStepsInOrder : Prop :=
  ∀ s : State,
    (∀ (p : Fin 48) (sub : Fin 8), Says.aligns p sub s)
    ∧ (∀ (p : Fin 48) (sub : Fin 8) (lanes : List TrainedLane), Says.trains p sub lanes s)
    ∧ (∀ (p : Fin 48) (sub : Fin 8), Says.anFails p sub s)
    ∧ (∀ (p : Fin 48) (sub : Fin 8), Says.anRetries p sub s)

/-- Upsets (R39, R40, R117). The commands bring the upset bits (logs 15, 16 and 21), and the order of mismatches in a
scan is the model's choice (log 95). -/
def Obligations.UpsetsAreMetByTheirProtection : Prop :=
  ∀ s : State,
    (∀ h : ScrubHit, Says.scrubs h s)
    ∧ (∀ a b : List ScrubHit, Says.scrubsInOrder a b s)
    ∧ (∀ a : Nat, Says.scanFinds a s)
    ∧ (∀ (addr : BitVec 26) (flip : Word) (f : FieldRow), Says.votes addr flip f s)

/-- ADMIT_FLOW and RELEASE_FLOW (R329, R331). The order of checks within a refusal is the model's reading of R325 (log
30). -/
def Obligations.FlowCommandsStageTheirResults : Prop :=
  ∀ s : State,
    (∀ (n : Fin 16) (i : Nat) (bounds : List Nat), Says.admitOk n i bounds s)
    ∧ (∀ n : Fin 16, Says.admitNot n s)
    ∧ (∀ (n : Fin 16) (f : LFlow), Says.releaseOk n f s)
    ∧ (∀ n : Fin 16, Says.releaseNot n s)
    ∧ (∀ (n : Fin 16) (f : LFlow), Says.releaseOther n f s)
    ∧ (∀ n : Fin 16, Says.stepBusy n s)

/-- SET_TAKE and TABLE_COMMIT (R332, R333). The splice closure is computed at the instant the director finds (log 42).
-/
def Obligations.TakeAndTableCommandsStage : Prop :=
  ∀ s : State,
    (∀ n : Fin 16, Says.takeOk n s)
    ∧ (∀ n : Fin 16, Says.takeCancel n s)
    ∧ (∀ n : Fin 16, Says.commitOk n s)
    ∧ (∀ (n : Fin 16) (j : Nat), Says.commitNot n j s)

/-- Commands of time and sessions (R335 to R339). ACCEPT_STEP, RESLATE and SNAPSHOT are evaluated at the marker (log
28). -/
def Obligations.TimeAndSessionCommandsStage : Prop :=
  ∀ s : State,
    (∀ n : Fin 16, Says.acceptStages n s)
    ∧ (∀ n : Fin 16, Says.reslateStages n s)
    ∧ (∀ n : Fin 16, Says.asymOk n s)
    ∧ (∀ n : Fin 16, Says.openOk n s)
    ∧ (∀ n : Fin 16, Says.closeOk n s)
    ∧ (∀ n : Fin 16, Says.snapshotStages n s)
    ∧ (∀ n : Fin 16, Says.dailiesPart n s)

/-- Reset and power commands (R340 to R342) and their markers (R95, R96, R306, R308 to R311). When a transition takes
effect is the model's reading (log 34). -/
def Obligations.ResetAndPowerCommandsStage : Prop :=
  ∀ s : State,
    (∀ n : Fin 16, Says.deviceResetStages n s)
    ∧ (∀ n : Fin 16, Says.groupResetStages n s)
    ∧ (∀ n : Fin 16, Says.portResetStages n s)
    ∧ (∀ n : Fin 16, Says.powerStages n s)
    ∧ (∀ n : Fin 16, Says.transitionEnds n s)
    ∧ (∀ n : Fin 16, Says.groupStillWakes n s)
    ∧ (∀ (m : MarkerIn) (r : Int) (n : Fin 16) (group : Bool) (k : Nat) (rs : List Word), Says.markerResets m r n group k rs s)
    ∧ (∀ (m : MarkerIn) (r : Int) (n : Fin 16) (rs : List Word), Says.markerDevice m r n rs s)
    ∧ (∀ (m : MarkerIn) (r : Int) (n : Fin 16) (scope k st : Nat) (rs : List Word), Says.markerDark m r n scope k st rs s)

/-- The calibration rows (R275, R276): each brings what its run measured (log 4), and the markers that end them (R276
to R282). Which operands agree is the model's reading of R264 and R278 (log 122), and so is when the lines of a bank
change roles (log 99); the numbers of its channels are its choice (log 110). -/
def Obligations.CalibrationMeasurementsAreStaged : Prop :=
  ∀ s : State,
    (∀ (n : Fin 16) (lines : List (List TdcPass)) (grid : TdcGrid), Says.calStages (.calTdc n lines grid) n 0 (.tdc lines grid) s)
    ∧ (∀ (n : Fin 16) (tx : List Nat) (rx : List Nat), Says.calStages (.calLaneDelay n tx rx) n 1 (.lanes tx rx) s)
    ∧ (∀ (n : Fin 16) (delays : List Nat), Says.calStages (.calDieLink n delays) n 2 (.links delays) s)
    ∧ (∀ (n : Fin 16) (d : Int), Says.calStages (.calPllPhase n d) n 3 (.phase d) s)
    ∧ (∀ (n : Fin 16) (loop : Nat) (ok : Bool), Says.calStages (.calAsym n loop ok) n 4 (.asym loop ok) s)
    ∧ (∀ (m : MarkerIn) (r : Int) (x : CalRun), Says.markerCalFails m r x s)
    ∧ (∀ (m : MarkerIn) (r : Int) (x : CalRun) (d : CalIn), Says.markerCalEnds m r x d s)
    ∧ (∀ (m : MarkerIn) (r : Int) (x : CalRun) (lines : List (List TdcPass)) (grid : TdcGrid), Says.markerExchanges m r x lines grid s)

/-- The cores (R12 to R14, R174). One report of moved steps per clapper, and when a mismatch counts, are the model's
choices (logs 26 and 33), and so is what an engine that reached nothing owes (log 46). -/
def Obligations.AgentsReportOverrunsAndMismatches : Prop :=
  ∀ s : State,
    Says.overrunDirector s
    ∧ Says.overrunGaffer s
    ∧ (∀ (g : Fin 8) (phases : List PhaseIn) (reached : Nat), Says.overrunGrip g phases reached s)
    ∧ (∀ (g : Fin 8) (phases : List PhaseIn) (n : Nat) (x : Session), Says.overrunOwes g phases n x s)
    ∧ Says.mismatch s
    ∧ Says.standbyFenced s
    ∧ (∀ pass : Bool, Says.pairTested pass s)

/-- CLAPPER_MARKER (R11, R170). That it comes at the planned anchor is the model's choice (log 23); the order and the
cost of steps (log 26), when a result is found (log 28) and the layout of the bank (log 67) are its readings. -/
def Obligations.MarkersApplyParametersAndEffects : Prop :=
  ∀ s : State,
    (∀ (m : MarkerIn) (r : Int), Says.markerParams m r s)
    ∧ (∀ (m : MarkerIn) (r : Int) (n : Fin 16) (f : LFlow) (e : BitVec 128) (b : List Nat) (rs : List Word), Says.markerAdmits m r n f e b rs s)
    ∧ (∀ (m : MarkerIn) (r : Int), Says.markerBegins m r s)
    ∧ (∀ (m : MarkerIn) (r : Int) (n : Fin 16) (f : LFlow) (rs : List Word), Says.markerReleases m r n f rs s)
    ∧ (∀ (m : MarkerIn) (r : Int) (n : Fin 16) (p : Fin 48) (k : Option CutOver) (rs : List Word), Says.markerTakes m r n p k rs s)
    ∧ (∀ (m : MarkerIn) (r : Int) (n : Fin 16) (first count : Nat) (rs : List Word), Says.markerCommits m r n first count rs s)
    ∧ (∀ (m : MarkerIn) (r : Int) (n : Fin 16) (p : Fin 48) (sub : Fin 8) (ext asym : Word) (rs : List Word), Says.markerAsym m r n p sub ext asym rs s)
    ∧ (∀ (m : MarkerIn) (r : Int) (n : Fin 16) (k : Nat) (cfg : BitVec 256) (rs : List Word), Says.markerOpens m r n k cfg rs s)
    ∧ (∀ (m : MarkerIn) (r : Int) (n : Fin 16) (k : Nat) (rs : List Word), Says.markerCloses m r n k rs s)
    ∧ (∀ (m : MarkerIn) (r : Int) (auto : Bool) (n : Fin 16) (rs : List Word), Says.markerSnaps m r auto n rs s)

/-- The servo (R180 to R184). The units of y are the model's (log 22), its state rules log 24's, and that ACCEPT_STEP
is found at the marker log 28's. -/
def Obligations.ServoStepsFollowTheirRules : Prop :=
  ∀ s : State,
    (∀ (p : Post) (src : Nat), Says.servoTakes p src s)
    ∧ Says.servoIdle s
    ∧ (∀ (p : Post) (src : Nat), Says.servoRefuses p src s)
    ∧ Says.coasts s
    ∧ (∀ (m : MarkerIn) (r : Int) (n : Fin 16) (st : Nat) (rs : List Word), Says.markerSteps m r n st rs s)

/-- Grip engines (R195 to R197, R203 to R206). How half a unit of the offset or the delay is rounded is free (log 72),
and a Sync's TX stamp is that of the TCLK edge at which it leaves, with no phase of a line (logs 45 and 85). A session
without new phases keeps those it had (log 92). -/
def Obligations.GripEnginesPostAndRestart : Prop :=
  ∀ s : State,
    (∀ (g : Fin 8) (n : Nat) (x : Session) (v : Int × Int) (a b : Half), Says.gripPosts g n x v a b s)
    ∧ (∀ (g : Fin 8) (n : Nat) (x : Session), Says.gripSyncs g n x s)
    ∧ (∀ g : Fin 8, Says.gripFails g s)
    ∧ (∀ (g : Fin 8) (phases : List PhaseIn), Says.gripBack g phases s)

/-- PTP messages (R191 to R196, R203). That a kind the role does not receive counts as unsupported, and that a message
of a closed session belongs to none, are the model's readings (logs 45 and 119); the channels by which a bank stamps
are its choice (logs 101 and 110). -/
def Obligations.TimingMessagesReachTheirSessions : Prop :=
  ∀ s : State,
    (∀ (m : PtpMsg) (n : Nat) (x : Session), Says.messageQueued m n x s)
    ∧ (∀ (m : PtpMsg) (n : Nat) (x : Session), Says.messageDropped m n x s)
    ∧ (∀ m : PtpMsg, Says.messageStray m s)
    ∧ (∀ (n : Fin 16384) (x : Session), Says.announceLost n x s)

/-- ESMC (R210). What stands as the QL last sent is the model's reading (log 47); the stamp, the class and the length
of a PDU are its choice (logs 85 and 111). -/
def Obligations.EsmcFollowsItsSecond : Prop :=
  ∀ s : State,
    (∀ (p : Fin 48) (sub : Fin 8), Says.esmcInfos p sub s)
    ∧ (∀ (p : Fin 48) (sub : Fin 8) (q : Nat), Says.esmcEvents p sub q s)
    ∧ (∀ (p : Fin 48) (sub : Fin 8) (d : EsmcPdu), Says.esmcTakes p sub d s)
    ∧ (∀ (p : Fin 48) (sub : Fin 8), Says.esmcLost p sub s)

/-- The reference planes (R216 to R226, R231 to R235). When a lost candidate stops qualifying, what counts as
activity, and what a held loop keeps, are the model's readings (logs 48 and 49); means are rounded free (log 72). -/
def Obligations.ReferencesQualifyAndSettle : Prop :=
  ∀ s : State,
    (∀ c : Cand, Says.holdoffEnds c s)
    ∧ (∀ c : Cand, Says.waitEnds c s)
    ∧ (∀ c : Cand, Says.activityGoes c s)
    ∧ (∀ i : Fin 10, Says.activityComes i s)
    ∧ Says.stageSettles s
    ∧ Says.selQl s
    ∧ (∀ (n : Fin 2) (stamp : Raw), Says.ppsEdge n stamp s)
    ∧ (∀ (m : MarkerIn) (r : Int) (x : Cand), Says.markerQualifies m r x s)
    ∧ (∀ (m : MarkerIn) (r : Int) (time : Bool), Says.markerSelects m r time s)
    ∧ (∀ (m : MarkerIn) (r : Int) (d : Fin 10), Says.markerHolds m r d s)
    ∧ (∀ (m : MarkerIn) (r : Int), Says.markerArchives m r s)

/-- The master clock PLL (R241 to R245). What PHASE_RETRIES counts is the model's reading (log 50), and which place
the dividers take while an output runs from fallback its choice (log 120). -/
def Obligations.MasterPllLocksAndFallsBack : Prop :=
  ∀ s : State,
    Says.masterLoses s
    ∧ (∀ (band : BitVec 4) (phi : Nat) (phis : List Nat), Says.masterLocks band phi phis s)
    ∧ (∀ (band : BitVec 4) (a b c : Nat), Says.masterFails band a b c s)
    ∧ (∀ (band : BitVec 4) (phi : Nat) (phis : List Nat), Says.coldLocks band phi phis s)
    ∧ Says.masterRetries s
    ∧ Says.fallbackBack s
    ∧ Says.lockTimesOut s

/-- The core and lane PLLs (R246 to R251). Which losses count, and what safe stop changes, are the model's readings
(logs 51 and 52). -/
def Obligations.CoreAndLanePllsSwapAndDrop : Prop :=
  ∀ s : State,
    (∀ pllB : Bool, Says.coreLoses pllB s)
    ∧ Says.settingChanges s
    ∧ Says.standbyLocks s
    ∧ (∀ (g : Fin 8) (k : Fin 2), Says.laneLoses g k s)
    ∧ (∀ (g : Fin 8) (k : Fin 2), Says.laneRelocks g k s)

/-- Supply and heat (R296 to R302). How a step is taken as read back (log 55), and that a trip within a held reset
holds it on (log 58), are the model's readings; before the rails stand the polls act as Table 14-4 has them. -/
def Obligations.SupplyAndHeatAreReported : Prop :=
  ∀ s : State,
    (∀ (readMv : Nat) (a : AvsChange), Says.avsSteps readMv a s)
    ∧ (∀ (readMv : Nat) (a : AvsChange), Says.avsRetries readMv a s)
    ∧ (∀ (readMv : Nat) (a : AvsChange), Says.avsGivesUp readMv a s)
    ∧ (∀ t0 t1 t2 : RegTelem, Says.polls t0 t1 t2 s)
    ∧ (∀ s0 s1 s2 : BitVec 16, Says.alerts s0 s1 s2 s)
    ∧ (∀ l : List (Fin 10 × Int), Says.heats l s)
    ∧ Says.trips s

/-- The gaffer pair (R285 to R290). How a degradation is rounded is free (log 72). That a raise is staged for the
marker, that a step under way returns to the set point read back, and that the pair comes back from the next marker
on, are the model's choices (log 106). -/
def Obligations.TheGafferPairKeepsItsHistories : Prop :=
  ∀ s : State,
    (∀ khz : List (Fin 64 × Nat), Says.senses khz s)
    ∧ (∀ taps : List (Fin 10 × Nat), Says.drifts taps s)
    ∧ Says.hours s
    ∧ (∀ linkMoved : Bool, Says.planDue linkMoved s)
    ∧ Says.gafferFalls s
    ∧ (∀ pass : Bool, Says.gafferTested pass s)

/-- Dips and supply loss (R295 to R300, R250). A dip after its end condition is a new dip (log 57), one whose end
condition comes before READY ends at once (log 25), which rails are watched when is log 124's, a commit is torn as the
row says (logs 56 and 63), and READY clears at XO_LOSS (log 58): each the model's reading. -/
def Obligations.SupplyLossBeginsTheRightReset : Prop :=
  ∀ s : State,
    (∀ (rail : Fin 5) (minMv : Nat), Says.dips rail minMv s)
    ∧ (∀ d : Dip, Says.dipEnds d s)
    ∧ (∀ d : Dip, Says.dipTimesOut d s)
    ∧ (∀ rail : Fin 5, Says.railFalls rail s)
    ∧ Says.xoReturns s
    ∧ Says.xoStops s
    ∧ Says.unpowers s

/-- The cold reset (R304, Table 14-4), whose steps the commands time (log 5). What the markers before READY leave (log
25), that the sequence brings what its reads of the MRAM met and whether a commit was cut (logs 56 and 63), and the
restart for a regulator that starts by itself (log 123), are the model's choices. -/
def Obligations.ColdResetRunsItsSequence : Prop :=
  ∀ s : State,
    (∀ x : PowerUp, Says.powersOn x s)
    ∧ (∀ rail : Fin 3, Says.railTimesOut rail s)
    ∧ (∀ straps : BitVec 16, Says.sequenceRuns straps s)
    ∧ (∀ (straps : BitVec 16) (u : MramUpset), Says.mramRepairs straps u s)
    ∧ (∀ (straps : BitVec 16) (u : MramUpset), Says.mramLost straps u s)
    ∧ (∀ (straps : BitVec 16) (i : Nat) (v : Word), Says.mramTorn straps i v s)
    ∧ (∀ pass0 pass1 gaffer : Bool, Says.becomesReady pass0 pass1 gaffer s)
    ∧ (∀ (straps : BitVec 16) (u : MramUpset) (m : Mram), Says.mramRestores straps u m s)

/-- The straps (R317) at every reset that samples them. Which sample a warm reset takes that something else holds on
is the model's reading (log 58), and so is the restart for a regulator that starts by itself (log 123). -/
def Obligations.StrapOverrideReplacesTheBalls : Prop :=
  ∀ s : State,
    (∀ (balls : BitVec 16) (mram : List MramUpset) (torn : Bool), Says.strapsCold balls mram torn s)
    ∧ (∀ balls : BitVec 16, Says.strapsWarm balls s)

/-- Warm resets (R302, R305, R380). CAUSE of a reset that the TAP holds, and the straps that it takes, are the model's
reading (log 58); Test-Logic-Reset and the boundary register are those of IEEE 1149.1, presumed (log 126). -/
def Obligations.WarmResetsHoldAndRelease : Prop :=
  ∀ s : State,
    Says.warmAsserts s
    ∧ (∀ straps : BitVec 16, Says.warmReleases straps s)
    ∧ (∀ straps : BitVec 16, Says.thermalReleases straps s)
    ∧ (∀ (i : TapInstr) (straps : BitVec 16), Says.tapPasses i straps s)
    ∧ (∀ (i : TapInstr) (straps : BitVec 16), Says.tapHoldsReset i straps s)
    ∧ (∀ x : TapEvent, Says.tapStands x s)
    ∧ (∀ (cells : List Bool) (straps : BitVec 16), Says.tapDrives cells straps s)
    ∧ (∀ (i : TapInstr) (straps : BitVec 16), Says.tapReleases i straps s)

/-- PCIe events (R25, R375). That the rings' counters return to reset too is the model's reading (log 60), and that
the AER log goes with the configuration space its choice (log 19). -/
def Obligations.PcieEventsResetTheEndpoint : Prop :=
  ∀ s : State,
    Says.flrActs s
    ∧ (∀ perst : Bool, Says.linkGoes perst s)
    ∧ Says.linkComes s

/-- Group resets (R307, R308, R310). That the history of faults survives warm and soft resets, and that a held group
does not wake, are the model's readings (logs 59 and 34). -/
def Obligations.GroupResetsStayWithinTheGroup : Prop :=
  ∀ s : State,
    (∀ g : Fin 8, Says.groupFails g s)
    ∧ (∀ g : Fin 8, Says.groupComes g s)
    ∧ (∀ page : BitVec 14, Says.handshakes page s)
    ∧ (∀ g : Fin 8, Says.groupWakes g s)

/-- Event inputs (R261 to R272). That the loss of TBIN clears LOCKED too, when a merged edge uses its SEQ value, and
where an edge in a switch stands, are the model's readings (log 53); tap widths held in ROM are free (log 54). -/
def Obligations.EventInputsStampAndDeliver : Prop :=
  ∀ s : State,
    (∀ multiplier : Bool, Says.baseLost multiplier s)
    ∧ Says.basePresent s
    ∧ Says.baseLocks s
    ∧ Says.baseReturns s
    ∧ (∀ (e : Fin 8) (rising : Bool) (edge : Nat) (tap : Fin 384) (inSwitch : Bool), Says.edgeStamps e rising edge tap inSwitch s)
    ∧ (∀ (e : Fin 8) (w : BitVec 128), Says.deadTimeEnds e w s)
    ∧ (∀ e : Fin 8, Says.batchLeaves e s)

/-- Transmission (R73, R138, R143, R148, R346). The promise is judged as the frame starts, by the stamp the command
brings (logs 43, 101 and 110), and what breaks one after its start is the model's reading (log 97); when its cells
become free is its choice (log 35). -/
def Obligations.TransmissionStartsAndEnds : Prop :=
  ∀ s : State,
    (∀ (p : Fin 48) (sub : Fin 8) (stamp : LineStamp) (f : Frame), Says.txExpress p sub stamp f s)
    ∧ (∀ (p : Fin 48) (sub : Fin 8) (stamp : LineStamp) (f g : Frame), Says.txPreempts p sub stamp f g s)
    ∧ (∀ (p : Fin 48) (sub : Fin 8) (stamp : LineStamp) (f : Frame) (c : Nat), Says.txTree p sub stamp f c s)
    ∧ (∀ (p : Fin 48) (sub : Fin 8) (stamp : LineStamp), Says.txNothing p sub stamp s)
    ∧ (∀ (p : Fin 48) (sub : Fin 8) (f : Frame), Says.txUnderruns p sub f s)
    ∧ (∀ (p : Fin 48) (sub : Fin 8) (f : Frame) (cells : List Ecc), Says.txEnds p sub f cells s)
    ∧ (∀ (p : Fin 48) (sub : Fin 8) (f : Frame) (cells : List Ecc), Says.txCellError p sub f cells s)
    ∧ (∀ (p : Fin 48) (sub : Fin 8) (stamp : LineStamp) (f : Frame), Says.txLate p sub stamp f s)

/-- Every command of the table answers a next state in every state, with the queue as it was; and where the conditions of
its clauses hold, it has the effect that they say. That a command outside its situation changes nothing is the model's
choice (log 3), and the clauses repeated here rest on the model's logs 10, 12, 14 to 16, 18 to 26, 28 to 31, 33 to 37, 40,
42, 43, 45 to 60, 62, 65, 67, 68, 71 to 74, 78 to 82, 85 to 92, 94, 95, 97 to 102, 104, 106, 108, 110 to 126. -/
def Obligations.EveryCommandCompletes : Prop :=
  ∀ (c : Instr) (s : State), Runs c s (fun _ => True) ∧ Says.row c s
end

