-- ==== Sys2Proof/Laws/Store.lean ====
section
/-! SUPPORT. Reads after writes of a sparse store, and that a write keeps its canonical form. -/

namespace Sys2Proof.Machine

variable {α : Type}

theorem store_find_insert (k j : Nat) (v : α) (l : Store α) :
    Store.find j (Store.insert k v l) = if j = k then some v else Store.find j l := by
  induction l with
  | nil =>
    by_cases h : j = k
    · simp [Store.insert, Store.find, h]
    · simp [Store.insert, Store.find, h, Ne.symm h]
  | cons e l ih =>
    by_cases hek : e.1 = k
    · subst hek
      by_cases h : j = e.1 <;> simp [Store.insert, Store.find, h, eq_comm]
    · by_cases hlt : k < e.1
      · by_cases h : j = k
        · simp [Store.insert, Store.find, hek, hlt, h]
        · have h' : ¬ k = j := fun x => h x.symm
          simp [Store.insert, Store.find, hek, hlt, h, h']
      · simp only [Store.insert, hek, hlt, if_false, Store.find, ih]
        by_cases h : j = k
        · subst h; simp [hek]
        · simp [h]

theorem store_find_erase (k j : Nat) (l : Store α) :
    Store.find j (Store.erase k l) = if j = k then none else Store.find j l := by
  induction l with
  | nil => simp [Store.erase, Store.find]
  | cons e l ih =>
    by_cases hek : e.1 = k
    · subst hek
      by_cases h : j = e.1
      · subst h; simpa [Store.erase] using ih
      · have h' : ¬ e.1 = j := fun x => h x.symm
        simpa [Store.erase, Store.find, h, h'] using ih
    · simp only [Store.erase, hek, if_false, Store.find, ih]
      by_cases h : j = k
      · subst h; simp [hek]
      · simp [h]

theorem store_rising_tail {e : Nat × α} {l : Store α} (h : Store.rising (e :: l) = true) : Store.rising l = true := by
  cases l with
  | nil => rfl
  | cons f l => simp [Store.rising] at h; exact h.2

theorem store_rising_lt {e : Nat × α} {l : Store α} (h : Store.rising (e :: l) = true) :
    ∀ f ∈ l, e.1 < f.1 := by
  induction l generalizing e with
  | nil => simp
  | cons g l ih =>
    simp only [Store.rising, Bool.and_eq_true, decide_eq_true_eq] at h
    intro f hf
    rcases List.mem_cons.1 hf with rfl | hf
    · exact h.1
    · exact lt_trans h.1 (ih h.2 f hf)

theorem store_rising_cons {e : Nat × α} {l : Store α} (h : Store.rising l = true) (hl : ∀ f ∈ l, e.1 < f.1) :
    Store.rising (e :: l) = true := by
  cases l with
  | nil => rfl
  | cons f l => simp [Store.rising, h, hl f (by simp)]

theorem store_mem_insert (k : Nat) (v : α) (l : Store α) :
    ∀ f ∈ Store.insert k v l, f = (k, v) ∨ f ∈ l := by
  induction l with
  | nil => simp [Store.insert]
  | cons e l ih =>
    intro f hf
    by_cases hek : e.1 = k
    · simp only [Store.insert, hek, if_true, List.mem_cons] at hf ⊢; tauto
    · by_cases hlt : k < e.1
      · simp only [Store.insert, hek, hlt, if_false, if_true, List.mem_cons] at hf ⊢; tauto
      · simp only [Store.insert, hek, hlt, if_false, List.mem_cons] at hf ⊢
        rcases hf with rfl | hf
        · tauto
        · rcases ih f hf with h | h <;> tauto

theorem store_rising_insert (k : Nat) (v : α) (l : Store α) (h : Store.rising l = true) :
    Store.rising (Store.insert k v l) = true := by
  induction l with
  | nil => rfl
  | cons e l ih =>
    have hlt := store_rising_lt h
    by_cases hek : e.1 = k
    · simp only [Store.insert, hek, if_true]
      exact store_rising_cons (store_rising_tail h) (fun f hf => by simpa [hek] using hlt f hf)
    · by_cases hke : k < e.1
      · simp only [Store.insert, hek, hke, if_false, if_true]
        refine store_rising_cons h (fun f hf => ?_)
        rcases List.mem_cons.1 hf with rfl | hf
        · exact hke
        · exact lt_trans hke (hlt f hf)
      · simp only [Store.insert, hek, hke, if_false]
        refine store_rising_cons (ih (store_rising_tail h)) (fun f hf => ?_)
        rcases store_mem_insert k v l f hf with rfl | hf
        · simp; omega
        · exact hlt f hf

theorem store_mem_erase (k : Nat) (l : Store α) : ∀ f ∈ Store.erase k l, f ∈ l := by
  induction l with
  | nil => simp [Store.erase]
  | cons e l ih =>
    intro f hf
    by_cases hek : e.1 = k
    · simp only [Store.erase, hek, if_true] at hf; exact List.mem_cons_of_mem _ (ih f hf)
    · simp only [Store.erase, hek, if_false, List.mem_cons] at hf
      rcases hf with rfl | hf
      · simp
      · exact List.mem_cons_of_mem _ (ih f hf)

theorem store_rising_erase (k : Nat) (l : Store α) (h : Store.rising l = true) :
    Store.rising (Store.erase k l) = true := by
  induction l with
  | nil => rfl
  | cons e l ih =>
    by_cases hek : e.1 = k
    · simpa only [Store.erase, hek, if_true] using ih (store_rising_tail h)
    · simp only [Store.erase, hek, if_false]
      exact store_rising_cons (ih (store_rising_tail h)) (fun f hf => store_rising_lt h f (store_mem_erase k l f hf))

variable [DecidableEq α]

/-- What a write lists under each key. -/
theorem store_find_write (d : α) (l : Store α) (k j : Nat) (v : α) :
    Store.find j (Store.write d l k v) = if j = k then (if v = d then none else some v) else Store.find j l := by
  by_cases hv : v = d
  · simp [Store.write, hv, store_find_erase]
  · simp [Store.write, hv, store_find_insert]

/-- A read after a write to the same key gives the value written, whatever value unlisted keys read. -/
@[simp] theorem store_read_write_same (d : α) (l : Store α) (k : Nat) (v : α) :
    Store.read d (Store.write d l k v) k = v := by
  by_cases hv : v = d <;> simp [Store.read, store_find_write, hv]

/-- A write leaves every other key alone. -/
theorem store_read_write_other (d d' : α) (l : Store α) {k j : Nat} (v : α) (h : j ≠ k) :
    Store.read d' (Store.write d l k v) j = Store.read d' l j := by
  simp [Store.read, store_find_write, h]

/-- Every write keeps the canonical form: keys strictly rising, and no entry equal to what an unlisted key reads. -/
theorem store_canonical_write (d : α) (l : Store α) (k : Nat) (v : α) (h : Store.canonical d l = true) :
    Store.canonical d (Store.write d l k v) = true := by
  simp only [Store.canonical, Bool.and_eq_true, List.all_eq_true, decide_eq_true_eq] at h ⊢
  by_cases hv : v = d
  · simp only [Store.write, hv, if_true]
    exact ⟨store_rising_erase k l h.1, fun f hf => h.2 f (store_mem_erase k l f hf)⟩
  · simp only [Store.write, hv, if_false]
    refine ⟨store_rising_insert k v l h.1, fun f hf => ?_⟩
    rcases store_mem_insert k v l f hf with rfl | hf
    · exact hv
    · exact h.2 f hf

end Sys2Proof.Machine
end

