-- ==== Sys2Proof/Laws/State.lean ====
section
/-! SUPPORT. Small laws of State: what each register accessor reads after each register update, and that an update of registers, a count, an interrupt or a fault leaves every other component alone. -/

namespace Sys2Proof.Machine

/-! ### Reading a field after a write -/

theorem word_toNat (n : Nat) : (word n).toNat = n % 2 ^ 32 := by simp [word]

@[simp] theorem get_set_same (s : Chip) (f : Fld) (v : Word) :
    (s.set f v).get f = word (v.toNat % 2 ^ f.width) := by simp [Chip.get, Chip.set]

theorem get_set_other (s : Chip) (f g : Fld) (v : Word) (h : g.key ≠ f.key) : (s.set f v).get g = s.get g := by
  simp only [Chip.get, Chip.set]
  exact store_read_write_other _ _ _ _ h

theorem mod_pow_le {w : Nat} (v : Nat) (h : w ≤ 32) : v % 2 ^ w % 2 ^ 32 = v % 2 ^ w := by
  apply Nat.mod_eq_of_lt
  calc v % 2 ^ w < 2 ^ w := Nat.mod_lt _ (by positivity)
    _ ≤ 2 ^ 32 := Nat.pow_le_pow_right (by norm_num) h

theorem getN_setN_same (s : Chip) (f : Fld) (v : Nat) (h : f.width ≤ 32) : (s.setN f v).getN f = v % 2 ^ f.width := by
  simp only [Chip.getN, Chip.setN, get_set_same, word_toNat]
  simp only [mod_pow_le _ h, Nat.mod_mod]

theorem get_setN_other (s : Chip) (f g : Fld) (v : Nat) (h : g.key ≠ f.key) : (s.setN f v).get g = s.get g :=
  get_set_other s f g _ h

theorem getN_setN_other (s : Chip) (f g : Fld) (v : Nat) (h : g.key ≠ f.key) : (s.setN f v).getN g = s.getN g := by
  simp [Chip.getN, get_setN_other s f g v h]

theorem flag_setN_other (s : Chip) (f g : Fld) (v : Nat) (h : g.key ≠ f.key) : (s.setN f v).flag g = s.flag g := by
  simp [Chip.flag, getN_setN_other s f g v h]

theorem get_setB_other (s : Chip) (f g : Fld) (b : Bool) (h : g.key ≠ f.key) : (s.setB f b).get g = s.get g :=
  get_set_other s f g _ h

theorem getN_setB_other (s : Chip) (f g : Fld) (b : Bool) (h : g.key ≠ f.key) : (s.setB f b).getN g = s.getN g :=
  getN_setN_other s f g _ h

theorem flag_setB_other (s : Chip) (f g : Fld) (b : Bool) (h : g.key ≠ f.key) : (s.setB f b).flag g = s.flag g :=
  flag_setN_other s f g _ h

theorem get_setBit_other (s : Chip) (f g : Fld) (k : Nat) (b : Bool) (h : g.key ≠ f.key) :
    (s.setBit f k b).get g = s.get g := get_set_other s f g _ h

theorem getN_setBit_other (s : Chip) (f g : Fld) (k : Nat) (b : Bool) (h : g.key ≠ f.key) :
    (s.setBit f k b).getN g = s.getN g := getN_setN_other s f g _ h

theorem getN_setB_same (s : Chip) (f : Fld) (b : Bool) (h1 : 1 ≤ f.width) (h : f.width ≤ 32) :
    (s.setB f b).getN f = ofBool b := by
  rw [Chip.setB, getN_setN_same s f _ h, Nat.mod_eq_of_lt]
  calc ofBool b < 2 ^ 1 := by cases b <;> simp [ofBool]
    _ ≤ 2 ^ f.width := Nat.pow_le_pow_right (by norm_num) h1

theorem flag_setB_same (s : Chip) (f : Fld) (b : Bool) (h1 : 1 ≤ f.width) (h : f.width ≤ 32) : (s.setB f b).flag f = b := by
  cases b <;> simp [Chip.flag, getN_setB_same s f _ h1 h, ofBool]

/-- A field read as a number is at most its width when its Reset value is, and every write keeps it so. -/
theorem getN_set_lt (s : Chip) (f : Fld) (v : Word) (h : f.width ≤ 32) : (s.set f v).getN f < 2 ^ f.width := by
  simp only [Chip.getN, get_set_same, word_toNat]
  rw [mod_pow_le _ h]; exact Nat.mod_lt _ (by positivity)

/-- Two fields in different words, or at different bits, have different keys. -/
theorem key_ne_of_addr {f g : Fld} (hf : f.lsb < 32) (hg : g.lsb < 32) (h : f.addr ≠ g.addr) : f.key ≠ g.key := by
  simp only [Fld.key]; omega

/-! ### Probes see events without disturbing anything else (R354) -/

/-- A change of registers only. -/
def Chip.withRegs (s : Chip) (r : Store Word) : Chip := { s with regs := r }

theorem set_withRegs (s : Chip) (f : Fld) (v : Word) : s.set f v = s.withRegs (s.set f v).regs := rfl

theorem probeAdd_withRegs (k n fuel : Nat) : ∀ (s : Chip), ∃ r, s.probeAdd k n fuel = s.withRegs r := by
  induction fuel generalizing k n with
  | zero => intro s; exact ⟨s.regs, rfl⟩
  | succ fuel ih =>
    intro s
    unfold Chip.probeAdd
    dsimp only
    split
    · exact ⟨_, rfl⟩
    · split
      · obtain ⟨r, hr⟩ := ih (k + 1) ((s.getN (F.pcnt1Count k) + n) / 2 ^ 32)
          (s.setN (F.pcnt1Count k) ((s.getN (F.pcnt1Count k) + n) % 2 ^ 32))
        exact ⟨r, hr⟩
      · exact ⟨_, rfl⟩

theorem foldl_withRegs {β : Type} (g : Chip → β → Chip) (h : ∀ t b, ∃ r, g t b = t.withRegs r) (l : List β) :
    ∀ s : Chip, ∃ r, l.foldl g s = s.withRegs r := by
  induction l with
  | nil => intro s; exact ⟨s.regs, rfl⟩
  | cons b l ih =>
    intro s
    obtain ⟨r, hr⟩ := h s b
    obtain ⟨r', hr'⟩ := ih (g s b)
    exact ⟨r', by rw [List.foldl_cons, hr', hr]; rfl⟩

theorem feed_withRegs (s : Chip) (a n : Nat) : ∃ r, s.feed a n = s.withRegs r := by
  refine foldl_withRegs _ (fun t k => ?_) _ s
  split
  · exact probeAdd_withRegs _ _ _ _
  · exact ⟨t.regs, rfl⟩

theorem access_withRegs (s : Chip) (k p m a : Nat) : ∃ r, s.access k p m a = s.withRegs r := by
  refine foldl_withRegs _ (fun t j => ?_) _ s
  split
  · exact probeAdd_withRegs _ _ _ _
  · exact ⟨t.regs, rfl⟩

theorem count_withRegs (s : Chip) (f : Fld) (n : Nat) : ∃ r, s.count f n = s.withRegs r := by
  unfold Chip.count
  split
  · exact ⟨s.regs, rfl⟩
  · obtain ⟨r, hr⟩ := feed_withRegs (s.setN f ((s.getN f + n) % 2 ^ 32)) f.addr n
    exact ⟨r, hr⟩

theorem bump_withRegs (s : Chip) (f : Fld) : ∃ r, s.bump f = s.withRegs r := count_withRegs s f 1




theorem pcnt_key {f : Fld} (h : f.offProbes) {k : Nat} (hk : k < 64) : f.key ≠ (F.pcnt1Count k).key := by
  obtain ⟨h1, h2⟩ := h
  simp only [Fld.key, F.pcnt1Count]
  omega

theorem enProbe_lt {key k : Nat} (h : enProbe key = some k) : k < 64 := by
  simp only [enProbe] at h
  split at h
  · simp only [Option.some.injEq] at h; omega
  · cases h

theorem enabledProbes_lt (s : Chip) : ∀ k ∈ s.enabledProbes, k < 64 := by
  intro k hk
  simp only [Chip.enabledProbes, List.mem_filterMap] at hk
  obtain ⟨e, -, he⟩ := hk
  exact enProbe_lt he

theorem get_probeAdd {f : Fld} (hf : f.offProbes) (fuel : Nat) : ∀ (k n : Nat) (s : Chip), k < 64 →
    (s.probeAdd k n fuel).get f = s.get f := by
  induction fuel with
  | zero => intro k n s _; rfl
  | succ fuel ih =>
    intro k n s hk
    have hne : f.key ≠ (F.pcnt1Count k).key := pcnt_key hf hk
    unfold Chip.probeAdd
    dsimp only
    split
    · exact get_setN_other _ _ _ _ hne
    · rename_i hc
      split
      · rw [ih _ _ _ (by omega)]
        exact get_setN_other _ _ _ _ hne
      · exact get_setN_other _ _ _ _ hne

theorem get_foldl_probes {f : Fld} (g : Chip → Nat → Chip) (h : ∀ t k, k < 64 → (g t k).get f = t.get f) (l : List Nat)
    (hl : ∀ k ∈ l, k < 64) : ∀ s : Chip, (l.foldl g s).get f = s.get f := by
  induction l with
  | nil => intro s; rfl
  | cons k l ih =>
    intro s
    rw [List.foldl_cons, ih (fun j hj => hl j (List.mem_cons_of_mem _ hj)), h s k (hl k (by simp))]

/-- An event fed to the probes changes no field but their counts. -/
theorem get_feed (s : Chip) (a n : Nat) (f : Fld) (hf : f.offProbes) : (s.feed a n).get f = s.get f := by
  refine get_foldl_probes _ (fun t k hk => ?_) _ (enabledProbes_lt s) s
  split
  · exact get_probeAdd hf _ _ _ _ hk
  · rfl

theorem get_access (s : Chip) (k p m a : Nat) (f : Fld) (hf : f.offProbes) : (s.access k p m a).get f = s.get f := by
  refine get_foldl_probes _ (fun t j hj => ?_) _ (enabledProbes_lt s) s
  split
  · exact get_probeAdd hf _ _ _ _ hj
  · rfl

/-! ### Event counters (R344) -/

theorem get_count_other (s : Chip) (f g : Fld) (n : Nat) (hg : g.offProbes) (h : g.key ≠ f.key) :
    (s.count f n).get g = s.get g := by
  unfold Chip.count
  split
  · rfl
  · rw [get_feed _ _ _ _ hg, get_setN_other _ _ _ _ h]

theorem get_bump_other (s : Chip) (f g : Fld) (hg : g.offProbes) (h : g.key ≠ f.key) : (s.bump f).get g = s.get g :=
  get_count_other s f g 1 hg h

theorem getN_bump_other (s : Chip) (f g : Fld) (hg : g.offProbes) (h : g.key ≠ f.key) : (s.bump f).getN g = s.getN g := by
  simp [Chip.getN, get_bump_other s f g hg h]

theorem flag_bump_other (s : Chip) (f g : Fld) (hg : g.offProbes) (h : g.key ≠ f.key) : (s.bump f).flag g = s.flag g := by
  simp [Chip.flag, getN_bump_other s f g hg h]

/-- On a page of a dark group nothing counts (R51). -/
theorem count_frozen (s : Chip) (f : Fld) (n : Nat) (hd : s.frozen f.addr = true) : s.count f n = s := by
  unfold Chip.count
  rw [if_pos (Or.inr hd)]

/-- A 32-bit event counter counts, wrapping (R344). -/
theorem getN_count_same (s : Chip) (f : Fld) (n : Nat) (hw : f.width = 32) (hf : f.offProbes) (hd : s.frozen f.addr = false) :
    (s.count f n).getN f = (s.getN f + n) % 2 ^ 32 := by
  unfold Chip.count
  split
  · next h =>
    rcases h with h | h
    · subst h; simp [Chip.getN, Nat.mod_eq_of_lt (s.get f).isLt]
    · rw [hd] at h; cases h
  · simp only [Chip.getN, get_feed _ _ _ _ hf]
    have := getN_setN_same s f ((s.getN f + n) % 2 ^ 32) (by omega)
    simp only [Chip.getN, hw, Nat.mod_mod] at this
    exact this

theorem getN_bump_same (s : Chip) (f : Fld) (hw : f.width = 32) (hf : f.offProbes) (hd : s.frozen f.addr = false) :
    (s.bump f).getN f = (s.getN f + 1) % 2 ^ 32 := getN_count_same s f 1 hw hf hd

/-! ### Status fields of group dies (R51) and saturating counters (R344) -/

theorem show_frozen (s : Chip) (f : Fld) (v : Nat) (hd : s.frozen f.addr = true) : s.show f v = s := by
  simp [Chip.show, hd]
theorem show_live (s : Chip) (f : Fld) (v : Nat) (hd : s.frozen f.addr = false) : s.show f v = s.setN f v := by
  simp [Chip.show, hd]

theorem show_withRegs (s : Chip) (f : Fld) (v : Nat) : ∃ r, s.show f v = s.withRegs r := by
  unfold Chip.show
  split
  · exact ⟨s.regs, rfl⟩
  · exact ⟨_, rfl⟩

theorem countSat_withRegs (s : Chip) (f : Fld) (n : Nat) : ∃ r, s.countSat f n = s.withRegs r := by
  unfold Chip.countSat
  split
  · exact ⟨s.regs, rfl⟩
  · obtain ⟨r, hr⟩ := feed_withRegs (s.addSat f n) f.addr n
    exact ⟨r, hr⟩

/-! ### Faults and interrupts (R318) -/

theorem raise_get (s : Chip) (v : Nat) (f : Fld) : (s.raise v).get f = s.get f := rfl
theorem raise_getN (s : Chip) (v : Nat) (f : Fld) : (s.raise v).getN f = s.getN f := rfl
theorem raise_flag (s : Chip) (v : Nat) (f : Fld) : (s.raise v).flag f = s.flag f := rfl

theorem get_fault_other (s : Chip) (k : Nat) (g : Fld) (h : g.key ≠ F.hlthFault.key) : (s.fault k).get g = s.get g := by
  unfold Chip.fault
  dsimp only
  split
  · rw [raise_get, get_setBit_other _ _ _ _ _ h]
  · rw [get_setBit_other _ _ _ _ _ h]

theorem getN_fault_other (s : Chip) (k : Nat) (g : Fld) (h : g.key ≠ F.hlthFault.key) : (s.fault k).getN g = s.getN g := by
  simp [Chip.getN, get_fault_other s k g h]

theorem flag_fault_other (s : Chip) (k : Nat) (g : Fld) (h : g.key ≠ F.hlthFault.key) : (s.fault k).flag g = s.flag g := by
  simp [Chip.flag, getN_fault_other s k g h]

/-! ### One law per component and update: what an update of registers leaves alone -/

@[simp] theorem set_badParity (s : Chip) (f : Fld) (v : Word) : (s.set f v).badParity = s.badParity := rfl
@[simp] theorem setN_badParity (s : Chip) (f : Fld) (v : Nat) : (s.setN f v).badParity = s.badParity := rfl
@[simp] theorem setB_badParity (s : Chip) (f : Fld) (v : Bool) : (s.setB f v).badParity = s.badParity := rfl
@[simp] theorem setBit_badParity (s : Chip) (f : Fld) (k : Nat) (v : Bool) : (s.setBit f k v).badParity = s.badParity := rfl
@[simp] theorem count_badParity (s : Chip) (f : Fld) (n : Nat) : (s.count f n).badParity = s.badParity := by
  obtain ⟨r, h⟩ := count_withRegs s f n; rw [h]; rfl
@[simp] theorem bump_badParity (s : Chip) (f : Fld) : (s.bump f).badParity = s.badParity := count_badParity s f 1
@[simp] theorem feed_badParity (s : Chip) (a n : Nat) : (s.feed a n).badParity = s.badParity := by
  obtain ⟨r, h⟩ := feed_withRegs s a n; rw [h]; rfl
@[simp] theorem access_badParity (s : Chip) (k p m a : Nat) : (s.access k p m a).badParity = s.badParity := by
  obtain ⟨r, h⟩ := access_withRegs s k p m a; rw [h]; rfl
@[simp] theorem raise_badParity (s : Chip) (v : Nat) : (s.raise v).badParity = s.badParity := rfl
@[simp] theorem fault_badParity (s : Chip) (k : Nat) : (s.fault k).badParity = s.badParity := by
  unfold Chip.fault; dsimp only; split <;> rfl
@[simp] theorem set_shadow (s : Chip) (f : Fld) (v : Word) : (s.set f v).shadow = s.shadow := rfl
@[simp] theorem setN_shadow (s : Chip) (f : Fld) (v : Nat) : (s.setN f v).shadow = s.shadow := rfl
@[simp] theorem setB_shadow (s : Chip) (f : Fld) (v : Bool) : (s.setB f v).shadow = s.shadow := rfl
@[simp] theorem setBit_shadow (s : Chip) (f : Fld) (k : Nat) (v : Bool) : (s.setBit f k v).shadow = s.shadow := rfl
@[simp] theorem count_shadow (s : Chip) (f : Fld) (n : Nat) : (s.count f n).shadow = s.shadow := by
  obtain ⟨r, h⟩ := count_withRegs s f n; rw [h]; rfl
@[simp] theorem bump_shadow (s : Chip) (f : Fld) : (s.bump f).shadow = s.shadow := count_shadow s f 1
@[simp] theorem feed_shadow (s : Chip) (a n : Nat) : (s.feed a n).shadow = s.shadow := by
  obtain ⟨r, h⟩ := feed_withRegs s a n; rw [h]; rfl
@[simp] theorem access_shadow (s : Chip) (k p m a : Nat) : (s.access k p m a).shadow = s.shadow := by
  obtain ⟨r, h⟩ := access_withRegs s k p m a; rw [h]; rfl
@[simp] theorem raise_shadow (s : Chip) (v : Nat) : (s.raise v).shadow = s.shadow := rfl
@[simp] theorem fault_shadow (s : Chip) (k : Nat) : (s.fault k).shadow = s.shadow := by
  unfold Chip.fault; dsimp only; split <;> rfl
@[simp] theorem set_held (s : Chip) (f : Fld) (v : Word) : (s.set f v).held = s.held := rfl
@[simp] theorem setN_held (s : Chip) (f : Fld) (v : Nat) : (s.setN f v).held = s.held := rfl
@[simp] theorem setB_held (s : Chip) (f : Fld) (v : Bool) : (s.setB f v).held = s.held := rfl
@[simp] theorem setBit_held (s : Chip) (f : Fld) (k : Nat) (v : Bool) : (s.setBit f k v).held = s.held := rfl
@[simp] theorem count_held (s : Chip) (f : Fld) (n : Nat) : (s.count f n).held = s.held := by
  obtain ⟨r, h⟩ := count_withRegs s f n; rw [h]; rfl
@[simp] theorem bump_held (s : Chip) (f : Fld) : (s.bump f).held = s.held := count_held s f 1
@[simp] theorem feed_held (s : Chip) (a n : Nat) : (s.feed a n).held = s.held := by
  obtain ⟨r, h⟩ := feed_withRegs s a n; rw [h]; rfl
@[simp] theorem access_held (s : Chip) (k p m a : Nat) : (s.access k p m a).held = s.held := by
  obtain ⟨r, h⟩ := access_withRegs s k p m a; rw [h]; rfl
@[simp] theorem raise_held (s : Chip) (v : Nat) : (s.raise v).held = s.held := rfl
@[simp] theorem fault_held (s : Chip) (k : Nat) : (s.fault k).held = s.held := by
  unfold Chip.fault; dsimp only; split <;> rfl
@[simp] theorem set_reply (s : Chip) (f : Fld) (v : Word) : (s.set f v).reply = s.reply := rfl
@[simp] theorem setN_reply (s : Chip) (f : Fld) (v : Nat) : (s.setN f v).reply = s.reply := rfl
@[simp] theorem setB_reply (s : Chip) (f : Fld) (v : Bool) : (s.setB f v).reply = s.reply := rfl
@[simp] theorem setBit_reply (s : Chip) (f : Fld) (k : Nat) (v : Bool) : (s.setBit f k v).reply = s.reply := rfl
@[simp] theorem count_reply (s : Chip) (f : Fld) (n : Nat) : (s.count f n).reply = s.reply := by
  obtain ⟨r, h⟩ := count_withRegs s f n; rw [h]; rfl
@[simp] theorem bump_reply (s : Chip) (f : Fld) : (s.bump f).reply = s.reply := count_reply s f 1
@[simp] theorem feed_reply (s : Chip) (a n : Nat) : (s.feed a n).reply = s.reply := by
  obtain ⟨r, h⟩ := feed_withRegs s a n; rw [h]; rfl
@[simp] theorem access_reply (s : Chip) (k p m a : Nat) : (s.access k p m a).reply = s.reply := by
  obtain ⟨r, h⟩ := access_withRegs s k p m a; rw [h]; rfl
@[simp] theorem raise_reply (s : Chip) (v : Nat) : (s.raise v).reply = s.reply := rfl
@[simp] theorem fault_reply (s : Chip) (k : Nat) : (s.fault k).reply = s.reply := by
  unfold Chip.fault; dsimp only; split <;> rfl
@[simp] theorem set_msix (s : Chip) (f : Fld) (v : Word) : (s.set f v).msix = s.msix := rfl
@[simp] theorem setN_msix (s : Chip) (f : Fld) (v : Nat) : (s.setN f v).msix = s.msix := rfl
@[simp] theorem setB_msix (s : Chip) (f : Fld) (v : Bool) : (s.setB f v).msix = s.msix := rfl
@[simp] theorem setBit_msix (s : Chip) (f : Fld) (k : Nat) (v : Bool) : (s.setBit f k v).msix = s.msix := rfl
@[simp] theorem count_msix (s : Chip) (f : Fld) (n : Nat) : (s.count f n).msix = s.msix := by
  obtain ⟨r, h⟩ := count_withRegs s f n; rw [h]; rfl
@[simp] theorem bump_msix (s : Chip) (f : Fld) : (s.bump f).msix = s.msix := count_msix s f 1
@[simp] theorem feed_msix (s : Chip) (a n : Nat) : (s.feed a n).msix = s.msix := by
  obtain ⟨r, h⟩ := feed_withRegs s a n; rw [h]; rfl
@[simp] theorem access_msix (s : Chip) (k p m a : Nat) : (s.access k p m a).msix = s.msix := by
  obtain ⟨r, h⟩ := access_withRegs s k p m a; rw [h]; rfl
@[simp] theorem set_pcie (s : Chip) (f : Fld) (v : Word) : (s.set f v).pcie = s.pcie := rfl
@[simp] theorem setN_pcie (s : Chip) (f : Fld) (v : Nat) : (s.setN f v).pcie = s.pcie := rfl
@[simp] theorem setB_pcie (s : Chip) (f : Fld) (v : Bool) : (s.setB f v).pcie = s.pcie := rfl
@[simp] theorem setBit_pcie (s : Chip) (f : Fld) (k : Nat) (v : Bool) : (s.setBit f k v).pcie = s.pcie := rfl
@[simp] theorem count_pcie (s : Chip) (f : Fld) (n : Nat) : (s.count f n).pcie = s.pcie := by
  obtain ⟨r, h⟩ := count_withRegs s f n; rw [h]; rfl
@[simp] theorem bump_pcie (s : Chip) (f : Fld) : (s.bump f).pcie = s.pcie := count_pcie s f 1
@[simp] theorem feed_pcie (s : Chip) (a n : Nat) : (s.feed a n).pcie = s.pcie := by
  obtain ⟨r, h⟩ := feed_withRegs s a n; rw [h]; rfl
@[simp] theorem access_pcie (s : Chip) (k p m a : Nat) : (s.access k p m a).pcie = s.pcie := by
  obtain ⟨r, h⟩ := access_withRegs s k p m a; rw [h]; rfl
@[simp] theorem raise_pcie (s : Chip) (v : Nat) : (s.raise v).pcie = s.pcie := rfl
@[simp] theorem fault_pcie (s : Chip) (k : Nat) : (s.fault k).pcie = s.pcie := by
  unfold Chip.fault; dsimp only; split <;> rfl
@[simp] theorem set_smbHeld (s : Chip) (f : Fld) (v : Word) : (s.set f v).smbHeld = s.smbHeld := rfl
@[simp] theorem setN_smbHeld (s : Chip) (f : Fld) (v : Nat) : (s.setN f v).smbHeld = s.smbHeld := rfl
@[simp] theorem setB_smbHeld (s : Chip) (f : Fld) (v : Bool) : (s.setB f v).smbHeld = s.smbHeld := rfl
@[simp] theorem setBit_smbHeld (s : Chip) (f : Fld) (k : Nat) (v : Bool) : (s.setBit f k v).smbHeld = s.smbHeld := rfl
@[simp] theorem count_smbHeld (s : Chip) (f : Fld) (n : Nat) : (s.count f n).smbHeld = s.smbHeld := by
  obtain ⟨r, h⟩ := count_withRegs s f n; rw [h]; rfl
@[simp] theorem bump_smbHeld (s : Chip) (f : Fld) : (s.bump f).smbHeld = s.smbHeld := count_smbHeld s f 1
@[simp] theorem feed_smbHeld (s : Chip) (a n : Nat) : (s.feed a n).smbHeld = s.smbHeld := by
  obtain ⟨r, h⟩ := feed_withRegs s a n; rw [h]; rfl
@[simp] theorem access_smbHeld (s : Chip) (k p m a : Nat) : (s.access k p m a).smbHeld = s.smbHeld := by
  obtain ⟨r, h⟩ := access_withRegs s k p m a; rw [h]; rfl
@[simp] theorem raise_smbHeld (s : Chip) (v : Nat) : (s.raise v).smbHeld = s.smbHeld := rfl
@[simp] theorem fault_smbHeld (s : Chip) (k : Nat) : (s.fault k).smbHeld = s.smbHeld := by
  unfold Chip.fault; dsimp only; split <;> rfl
@[simp] theorem set_ringMem (s : Chip) (f : Fld) (v : Word) : (s.set f v).ringMem = s.ringMem := rfl
@[simp] theorem setN_ringMem (s : Chip) (f : Fld) (v : Nat) : (s.setN f v).ringMem = s.ringMem := rfl
@[simp] theorem setB_ringMem (s : Chip) (f : Fld) (v : Bool) : (s.setB f v).ringMem = s.ringMem := rfl
@[simp] theorem setBit_ringMem (s : Chip) (f : Fld) (k : Nat) (v : Bool) : (s.setBit f k v).ringMem = s.ringMem := rfl
@[simp] theorem count_ringMem (s : Chip) (f : Fld) (n : Nat) : (s.count f n).ringMem = s.ringMem := by
  obtain ⟨r, h⟩ := count_withRegs s f n; rw [h]; rfl
@[simp] theorem bump_ringMem (s : Chip) (f : Fld) : (s.bump f).ringMem = s.ringMem := count_ringMem s f 1
@[simp] theorem feed_ringMem (s : Chip) (a n : Nat) : (s.feed a n).ringMem = s.ringMem := by
  obtain ⟨r, h⟩ := feed_withRegs s a n; rw [h]; rfl
@[simp] theorem access_ringMem (s : Chip) (k p m a : Nat) : (s.access k p m a).ringMem = s.ringMem := by
  obtain ⟨r, h⟩ := access_withRegs s k p m a; rw [h]; rfl
@[simp] theorem raise_ringMem (s : Chip) (v : Nat) : (s.raise v).ringMem = s.ringMem := rfl
@[simp] theorem fault_ringMem (s : Chip) (k : Nat) : (s.fault k).ringMem = s.ringMem := by
  unfold Chip.fault; dsimp only; split <;> rfl
@[simp] theorem set_hostTokens (s : Chip) (f : Fld) (v : Word) : (s.set f v).hostTokens = s.hostTokens := rfl
@[simp] theorem setN_hostTokens (s : Chip) (f : Fld) (v : Nat) : (s.setN f v).hostTokens = s.hostTokens := rfl
@[simp] theorem setB_hostTokens (s : Chip) (f : Fld) (v : Bool) : (s.setB f v).hostTokens = s.hostTokens := rfl
@[simp] theorem setBit_hostTokens (s : Chip) (f : Fld) (k : Nat) (v : Bool) : (s.setBit f k v).hostTokens = s.hostTokens := rfl
@[simp] theorem count_hostTokens (s : Chip) (f : Fld) (n : Nat) : (s.count f n).hostTokens = s.hostTokens := by
  obtain ⟨r, h⟩ := count_withRegs s f n; rw [h]; rfl
@[simp] theorem bump_hostTokens (s : Chip) (f : Fld) : (s.bump f).hostTokens = s.hostTokens := count_hostTokens s f 1
@[simp] theorem feed_hostTokens (s : Chip) (a n : Nat) : (s.feed a n).hostTokens = s.hostTokens := by
  obtain ⟨r, h⟩ := feed_withRegs s a n; rw [h]; rfl
@[simp] theorem access_hostTokens (s : Chip) (k p m a : Nat) : (s.access k p m a).hostTokens = s.hostTokens := by
  obtain ⟨r, h⟩ := access_withRegs s k p m a; rw [h]; rfl
@[simp] theorem raise_hostTokens (s : Chip) (v : Nat) : (s.raise v).hostTokens = s.hostTokens := rfl
@[simp] theorem fault_hostTokens (s : Chip) (k : Nat) : (s.fault k).hostTokens = s.hostTokens := by
  unfold Chip.fault; dsimp only; split <;> rfl
@[simp] theorem set_ringTokens (s : Chip) (f : Fld) (v : Word) : (s.set f v).ringTokens = s.ringTokens := rfl
@[simp] theorem setN_ringTokens (s : Chip) (f : Fld) (v : Nat) : (s.setN f v).ringTokens = s.ringTokens := rfl
@[simp] theorem setB_ringTokens (s : Chip) (f : Fld) (v : Bool) : (s.setB f v).ringTokens = s.ringTokens := rfl
@[simp] theorem setBit_ringTokens (s : Chip) (f : Fld) (k : Nat) (v : Bool) : (s.setBit f k v).ringTokens = s.ringTokens := rfl
@[simp] theorem count_ringTokens (s : Chip) (f : Fld) (n : Nat) : (s.count f n).ringTokens = s.ringTokens := by
  obtain ⟨r, h⟩ := count_withRegs s f n; rw [h]; rfl
@[simp] theorem bump_ringTokens (s : Chip) (f : Fld) : (s.bump f).ringTokens = s.ringTokens := count_ringTokens s f 1
@[simp] theorem feed_ringTokens (s : Chip) (a n : Nat) : (s.feed a n).ringTokens = s.ringTokens := by
  obtain ⟨r, h⟩ := feed_withRegs s a n; rw [h]; rfl
@[simp] theorem access_ringTokens (s : Chip) (k p m a : Nat) : (s.access k p m a).ringTokens = s.ringTokens := by
  obtain ⟨r, h⟩ := access_withRegs s k p m a; rw [h]; rfl
@[simp] theorem raise_ringTokens (s : Chip) (v : Nat) : (s.raise v).ringTokens = s.ringTokens := rfl
@[simp] theorem fault_ringTokens (s : Chip) (k : Nat) : (s.fault k).ringTokens = s.ringTokens := by
  unfold Chip.fault; dsimp only; split <;> rfl
@[simp] theorem set_txTurn (s : Chip) (f : Fld) (v : Word) : (s.set f v).txTurn = s.txTurn := rfl
@[simp] theorem setN_txTurn (s : Chip) (f : Fld) (v : Nat) : (s.setN f v).txTurn = s.txTurn := rfl
@[simp] theorem setB_txTurn (s : Chip) (f : Fld) (v : Bool) : (s.setB f v).txTurn = s.txTurn := rfl
@[simp] theorem setBit_txTurn (s : Chip) (f : Fld) (k : Nat) (v : Bool) : (s.setBit f k v).txTurn = s.txTurn := rfl
@[simp] theorem count_txTurn (s : Chip) (f : Fld) (n : Nat) : (s.count f n).txTurn = s.txTurn := by
  obtain ⟨r, h⟩ := count_withRegs s f n; rw [h]; rfl
@[simp] theorem bump_txTurn (s : Chip) (f : Fld) : (s.bump f).txTurn = s.txTurn := count_txTurn s f 1
@[simp] theorem feed_txTurn (s : Chip) (a n : Nat) : (s.feed a n).txTurn = s.txTurn := by
  obtain ⟨r, h⟩ := feed_withRegs s a n; rw [h]; rfl
@[simp] theorem access_txTurn (s : Chip) (k p m a : Nat) : (s.access k p m a).txTurn = s.txTurn := by
  obtain ⟨r, h⟩ := access_withRegs s k p m a; rw [h]; rfl
@[simp] theorem raise_txTurn (s : Chip) (v : Nat) : (s.raise v).txTurn = s.txTurn := rfl
@[simp] theorem fault_txTurn (s : Chip) (k : Nat) : (s.fault k).txTurn = s.txTurn := by
  unfold Chip.fault; dsimp only; split <;> rfl
@[simp] theorem set_dmaOut (s : Chip) (f : Fld) (v : Word) : (s.set f v).dmaOut = s.dmaOut := rfl
@[simp] theorem setN_dmaOut (s : Chip) (f : Fld) (v : Nat) : (s.setN f v).dmaOut = s.dmaOut := rfl
@[simp] theorem setB_dmaOut (s : Chip) (f : Fld) (v : Bool) : (s.setB f v).dmaOut = s.dmaOut := rfl
@[simp] theorem setBit_dmaOut (s : Chip) (f : Fld) (k : Nat) (v : Bool) : (s.setBit f k v).dmaOut = s.dmaOut := rfl
@[simp] theorem count_dmaOut (s : Chip) (f : Fld) (n : Nat) : (s.count f n).dmaOut = s.dmaOut := by
  obtain ⟨r, h⟩ := count_withRegs s f n; rw [h]; rfl
@[simp] theorem bump_dmaOut (s : Chip) (f : Fld) : (s.bump f).dmaOut = s.dmaOut := count_dmaOut s f 1
@[simp] theorem feed_dmaOut (s : Chip) (a n : Nat) : (s.feed a n).dmaOut = s.dmaOut := by
  obtain ⟨r, h⟩ := feed_withRegs s a n; rw [h]; rfl
@[simp] theorem access_dmaOut (s : Chip) (k p m a : Nat) : (s.access k p m a).dmaOut = s.dmaOut := by
  obtain ⟨r, h⟩ := access_withRegs s k p m a; rw [h]; rfl
@[simp] theorem raise_dmaOut (s : Chip) (v : Nat) : (s.raise v).dmaOut = s.dmaOut := rfl
@[simp] theorem fault_dmaOut (s : Chip) (k : Nat) : (s.fault k).dmaOut = s.dmaOut := by
  unfold Chip.fault; dsimp only; split <;> rfl
@[simp] theorem set_windows (s : Chip) (f : Fld) (v : Word) : (s.set f v).windows = s.windows := rfl
@[simp] theorem setN_windows (s : Chip) (f : Fld) (v : Nat) : (s.setN f v).windows = s.windows := rfl
@[simp] theorem setB_windows (s : Chip) (f : Fld) (v : Bool) : (s.setB f v).windows = s.windows := rfl
@[simp] theorem setBit_windows (s : Chip) (f : Fld) (k : Nat) (v : Bool) : (s.setBit f k v).windows = s.windows := rfl
@[simp] theorem count_windows (s : Chip) (f : Fld) (n : Nat) : (s.count f n).windows = s.windows := by
  obtain ⟨r, h⟩ := count_withRegs s f n; rw [h]; rfl
@[simp] theorem bump_windows (s : Chip) (f : Fld) : (s.bump f).windows = s.windows := count_windows s f 1
@[simp] theorem feed_windows (s : Chip) (a n : Nat) : (s.feed a n).windows = s.windows := by
  obtain ⟨r, h⟩ := feed_withRegs s a n; rw [h]; rfl
@[simp] theorem access_windows (s : Chip) (k p m a : Nat) : (s.access k p m a).windows = s.windows := by
  obtain ⟨r, h⟩ := access_withRegs s k p m a; rw [h]; rfl
@[simp] theorem raise_windows (s : Chip) (v : Nat) : (s.raise v).windows = s.windows := rfl
@[simp] theorem fault_windows (s : Chip) (k : Nat) : (s.fault k).windows = s.windows := by
  unfold Chip.fault; dsimp only; split <;> rfl
@[simp] theorem set_convBusy (s : Chip) (f : Fld) (v : Word) : (s.set f v).convBusy = s.convBusy := rfl
@[simp] theorem setN_convBusy (s : Chip) (f : Fld) (v : Nat) : (s.setN f v).convBusy = s.convBusy := rfl
@[simp] theorem setB_convBusy (s : Chip) (f : Fld) (v : Bool) : (s.setB f v).convBusy = s.convBusy := rfl
@[simp] theorem setBit_convBusy (s : Chip) (f : Fld) (k : Nat) (v : Bool) : (s.setBit f k v).convBusy = s.convBusy := rfl
@[simp] theorem count_convBusy (s : Chip) (f : Fld) (n : Nat) : (s.count f n).convBusy = s.convBusy := by
  obtain ⟨r, h⟩ := count_withRegs s f n; rw [h]; rfl
@[simp] theorem bump_convBusy (s : Chip) (f : Fld) : (s.bump f).convBusy = s.convBusy := count_convBusy s f 1
@[simp] theorem feed_convBusy (s : Chip) (a n : Nat) : (s.feed a n).convBusy = s.convBusy := by
  obtain ⟨r, h⟩ := feed_withRegs s a n; rw [h]; rfl
@[simp] theorem access_convBusy (s : Chip) (k p m a : Nat) : (s.access k p m a).convBusy = s.convBusy := by
  obtain ⟨r, h⟩ := access_withRegs s k p m a; rw [h]; rfl
@[simp] theorem raise_convBusy (s : Chip) (v : Nat) : (s.raise v).convBusy = s.convBusy := rfl
@[simp] theorem fault_convBusy (s : Chip) (k : Nat) : (s.fault k).convBusy = s.convBusy := by
  unfold Chip.fault; dsimp only; split <;> rfl
@[simp] theorem set_conv (s : Chip) (f : Fld) (v : Word) : (s.set f v).conv = s.conv := rfl
@[simp] theorem setN_conv (s : Chip) (f : Fld) (v : Nat) : (s.setN f v).conv = s.conv := rfl
@[simp] theorem setB_conv (s : Chip) (f : Fld) (v : Bool) : (s.setB f v).conv = s.conv := rfl
@[simp] theorem setBit_conv (s : Chip) (f : Fld) (k : Nat) (v : Bool) : (s.setBit f k v).conv = s.conv := rfl
@[simp] theorem count_conv (s : Chip) (f : Fld) (n : Nat) : (s.count f n).conv = s.conv := by
  obtain ⟨r, h⟩ := count_withRegs s f n; rw [h]; rfl
@[simp] theorem bump_conv (s : Chip) (f : Fld) : (s.bump f).conv = s.conv := count_conv s f 1
@[simp] theorem feed_conv (s : Chip) (a n : Nat) : (s.feed a n).conv = s.conv := by
  obtain ⟨r, h⟩ := feed_withRegs s a n; rw [h]; rfl
@[simp] theorem access_conv (s : Chip) (k p m a : Nat) : (s.access k p m a).conv = s.conv := by
  obtain ⟨r, h⟩ := access_withRegs s k p m a; rw [h]; rfl
@[simp] theorem raise_conv (s : Chip) (v : Nat) : (s.raise v).conv = s.conv := rfl
@[simp] theorem fault_conv (s : Chip) (k : Nat) : (s.fault k).conv = s.conv := by
  unfold Chip.fault; dsimp only; split <;> rfl
@[simp] theorem set_sessBusy (s : Chip) (f : Fld) (v : Word) : (s.set f v).sessBusy = s.sessBusy := rfl
@[simp] theorem setN_sessBusy (s : Chip) (f : Fld) (v : Nat) : (s.setN f v).sessBusy = s.sessBusy := rfl
@[simp] theorem setB_sessBusy (s : Chip) (f : Fld) (v : Bool) : (s.setB f v).sessBusy = s.sessBusy := rfl
@[simp] theorem setBit_sessBusy (s : Chip) (f : Fld) (k : Nat) (v : Bool) : (s.setBit f k v).sessBusy = s.sessBusy := rfl
@[simp] theorem count_sessBusy (s : Chip) (f : Fld) (n : Nat) : (s.count f n).sessBusy = s.sessBusy := by
  obtain ⟨r, h⟩ := count_withRegs s f n; rw [h]; rfl
@[simp] theorem bump_sessBusy (s : Chip) (f : Fld) : (s.bump f).sessBusy = s.sessBusy := count_sessBusy s f 1
@[simp] theorem feed_sessBusy (s : Chip) (a n : Nat) : (s.feed a n).sessBusy = s.sessBusy := by
  obtain ⟨r, h⟩ := feed_withRegs s a n; rw [h]; rfl
@[simp] theorem access_sessBusy (s : Chip) (k p m a : Nat) : (s.access k p m a).sessBusy = s.sessBusy := by
  obtain ⟨r, h⟩ := access_withRegs s k p m a; rw [h]; rfl
@[simp] theorem raise_sessBusy (s : Chip) (v : Nat) : (s.raise v).sessBusy = s.sessBusy := rfl
@[simp] theorem fault_sessBusy (s : Chip) (k : Nat) : (s.fault k).sessBusy = s.sessBusy := by
  unfold Chip.fault; dsimp only; split <;> rfl
@[simp] theorem set_archBusy (s : Chip) (f : Fld) (v : Word) : (s.set f v).archBusy = s.archBusy := rfl
@[simp] theorem setN_archBusy (s : Chip) (f : Fld) (v : Nat) : (s.setN f v).archBusy = s.archBusy := rfl
@[simp] theorem setB_archBusy (s : Chip) (f : Fld) (v : Bool) : (s.setB f v).archBusy = s.archBusy := rfl
@[simp] theorem setBit_archBusy (s : Chip) (f : Fld) (k : Nat) (v : Bool) : (s.setBit f k v).archBusy = s.archBusy := rfl
@[simp] theorem count_archBusy (s : Chip) (f : Fld) (n : Nat) : (s.count f n).archBusy = s.archBusy := by
  obtain ⟨r, h⟩ := count_withRegs s f n; rw [h]; rfl
@[simp] theorem bump_archBusy (s : Chip) (f : Fld) : (s.bump f).archBusy = s.archBusy := count_archBusy s f 1
@[simp] theorem feed_archBusy (s : Chip) (a n : Nat) : (s.feed a n).archBusy = s.archBusy := by
  obtain ⟨r, h⟩ := feed_withRegs s a n; rw [h]; rfl
@[simp] theorem access_archBusy (s : Chip) (k p m a : Nat) : (s.access k p m a).archBusy = s.archBusy := by
  obtain ⟨r, h⟩ := access_withRegs s k p m a; rw [h]; rfl
@[simp] theorem raise_archBusy (s : Chip) (v : Nat) : (s.raise v).archBusy = s.archBusy := rfl
@[simp] theorem fault_archBusy (s : Chip) (k : Nat) : (s.fault k).archBusy = s.archBusy := by
  unfold Chip.fault; dsimp only; split <;> rfl
@[simp] theorem set_checking (s : Chip) (f : Fld) (v : Word) : (s.set f v).checking = s.checking := rfl
@[simp] theorem setN_checking (s : Chip) (f : Fld) (v : Nat) : (s.setN f v).checking = s.checking := rfl
@[simp] theorem setB_checking (s : Chip) (f : Fld) (v : Bool) : (s.setB f v).checking = s.checking := rfl
@[simp] theorem setBit_checking (s : Chip) (f : Fld) (k : Nat) (v : Bool) : (s.setBit f k v).checking = s.checking := rfl
@[simp] theorem count_checking (s : Chip) (f : Fld) (n : Nat) : (s.count f n).checking = s.checking := by
  obtain ⟨r, h⟩ := count_withRegs s f n; rw [h]; rfl
@[simp] theorem bump_checking (s : Chip) (f : Fld) : (s.bump f).checking = s.checking := count_checking s f 1
@[simp] theorem feed_checking (s : Chip) (a n : Nat) : (s.feed a n).checking = s.checking := by
  obtain ⟨r, h⟩ := feed_withRegs s a n; rw [h]; rfl
@[simp] theorem access_checking (s : Chip) (k p m a : Nat) : (s.access k p m a).checking = s.checking := by
  obtain ⟨r, h⟩ := access_withRegs s k p m a; rw [h]; rfl
@[simp] theorem raise_checking (s : Chip) (v : Nat) : (s.raise v).checking = s.checking := rfl
@[simp] theorem fault_checking (s : Chip) (k : Nat) : (s.fault k).checking = s.checking := by
  unfold Chip.fault; dsimp only; split <;> rfl
@[simp] theorem set_path (s : Chip) (f : Fld) (v : Word) : (s.set f v).path = s.path := rfl
@[simp] theorem setN_path (s : Chip) (f : Fld) (v : Nat) : (s.setN f v).path = s.path := rfl
@[simp] theorem setB_path (s : Chip) (f : Fld) (v : Bool) : (s.setB f v).path = s.path := rfl
@[simp] theorem setBit_path (s : Chip) (f : Fld) (k : Nat) (v : Bool) : (s.setBit f k v).path = s.path := rfl
@[simp] theorem count_path (s : Chip) (f : Fld) (n : Nat) : (s.count f n).path = s.path := by
  obtain ⟨r, h⟩ := count_withRegs s f n; rw [h]; rfl
@[simp] theorem bump_path (s : Chip) (f : Fld) : (s.bump f).path = s.path := count_path s f 1
@[simp] theorem feed_path (s : Chip) (a n : Nat) : (s.feed a n).path = s.path := by
  obtain ⟨r, h⟩ := feed_withRegs s a n; rw [h]; rfl
@[simp] theorem access_path (s : Chip) (k p m a : Nat) : (s.access k p m a).path = s.path := by
  obtain ⟨r, h⟩ := access_withRegs s k p m a; rw [h]; rfl
@[simp] theorem raise_path (s : Chip) (v : Nat) : (s.raise v).path = s.path := rfl
@[simp] theorem fault_path (s : Chip) (k : Nat) : (s.fault k).path = s.path := by
  unfold Chip.fault; dsimp only; split <;> rfl
@[simp] theorem set_nh (s : Chip) (f : Fld) (v : Word) : (s.set f v).nh = s.nh := rfl
@[simp] theorem setN_nh (s : Chip) (f : Fld) (v : Nat) : (s.setN f v).nh = s.nh := rfl
@[simp] theorem setB_nh (s : Chip) (f : Fld) (v : Bool) : (s.setB f v).nh = s.nh := rfl
@[simp] theorem setBit_nh (s : Chip) (f : Fld) (k : Nat) (v : Bool) : (s.setBit f k v).nh = s.nh := rfl
@[simp] theorem count_nh (s : Chip) (f : Fld) (n : Nat) : (s.count f n).nh = s.nh := by
  obtain ⟨r, h⟩ := count_withRegs s f n; rw [h]; rfl
@[simp] theorem bump_nh (s : Chip) (f : Fld) : (s.bump f).nh = s.nh := count_nh s f 1
@[simp] theorem feed_nh (s : Chip) (a n : Nat) : (s.feed a n).nh = s.nh := by
  obtain ⟨r, h⟩ := feed_withRegs s a n; rw [h]; rfl
@[simp] theorem access_nh (s : Chip) (k p m a : Nat) : (s.access k p m a).nh = s.nh := by
  obtain ⟨r, h⟩ := access_withRegs s k p m a; rw [h]; rfl
@[simp] theorem raise_nh (s : Chip) (v : Nat) : (s.raise v).nh = s.nh := rfl
@[simp] theorem fault_nh (s : Chip) (k : Nat) : (s.fault k).nh = s.nh := by
  unfold Chip.fault; dsimp only; split <;> rfl
@[simp] theorem set_flow (s : Chip) (f : Fld) (v : Word) : (s.set f v).flow = s.flow := rfl
@[simp] theorem setN_flow (s : Chip) (f : Fld) (v : Nat) : (s.setN f v).flow = s.flow := rfl
@[simp] theorem setB_flow (s : Chip) (f : Fld) (v : Bool) : (s.setB f v).flow = s.flow := rfl
@[simp] theorem setBit_flow (s : Chip) (f : Fld) (k : Nat) (v : Bool) : (s.setBit f k v).flow = s.flow := rfl
@[simp] theorem count_flow (s : Chip) (f : Fld) (n : Nat) : (s.count f n).flow = s.flow := by
  obtain ⟨r, h⟩ := count_withRegs s f n; rw [h]; rfl
@[simp] theorem bump_flow (s : Chip) (f : Fld) : (s.bump f).flow = s.flow := count_flow s f 1
@[simp] theorem feed_flow (s : Chip) (a n : Nat) : (s.feed a n).flow = s.flow := by
  obtain ⟨r, h⟩ := feed_withRegs s a n; rw [h]; rfl
@[simp] theorem access_flow (s : Chip) (k p m a : Nat) : (s.access k p m a).flow = s.flow := by
  obtain ⟨r, h⟩ := access_withRegs s k p m a; rw [h]; rfl
@[simp] theorem raise_flow (s : Chip) (v : Nat) : (s.raise v).flow = s.flow := rfl
@[simp] theorem fault_flow (s : Chip) (k : Nat) : (s.fault k).flow = s.flow := by
  unfold Chip.fault; dsimp only; split <;> rfl
@[simp] theorem set_dn (s : Chip) (f : Fld) (v : Word) : (s.set f v).dn = s.dn := rfl
@[simp] theorem setN_dn (s : Chip) (f : Fld) (v : Nat) : (s.setN f v).dn = s.dn := rfl
@[simp] theorem setB_dn (s : Chip) (f : Fld) (v : Bool) : (s.setB f v).dn = s.dn := rfl
@[simp] theorem setBit_dn (s : Chip) (f : Fld) (k : Nat) (v : Bool) : (s.setBit f k v).dn = s.dn := rfl
@[simp] theorem count_dn (s : Chip) (f : Fld) (n : Nat) : (s.count f n).dn = s.dn := by
  obtain ⟨r, h⟩ := count_withRegs s f n; rw [h]; rfl
@[simp] theorem bump_dn (s : Chip) (f : Fld) : (s.bump f).dn = s.dn := count_dn s f 1
@[simp] theorem feed_dn (s : Chip) (a n : Nat) : (s.feed a n).dn = s.dn := by
  obtain ⟨r, h⟩ := feed_withRegs s a n; rw [h]; rfl
@[simp] theorem access_dn (s : Chip) (k p m a : Nat) : (s.access k p m a).dn = s.dn := by
  obtain ⟨r, h⟩ := access_withRegs s k p m a; rw [h]; rfl
@[simp] theorem raise_dn (s : Chip) (v : Nat) : (s.raise v).dn = s.dn := rfl
@[simp] theorem fault_dn (s : Chip) (k : Nat) : (s.fault k).dn = s.dn := by
  unfold Chip.fault; dsimp only; split <;> rfl
@[simp] theorem set_stage (s : Chip) (f : Fld) (v : Word) : (s.set f v).stage = s.stage := rfl
@[simp] theorem setN_stage (s : Chip) (f : Fld) (v : Nat) : (s.setN f v).stage = s.stage := rfl
@[simp] theorem setB_stage (s : Chip) (f : Fld) (v : Bool) : (s.setB f v).stage = s.stage := rfl
@[simp] theorem setBit_stage (s : Chip) (f : Fld) (k : Nat) (v : Bool) : (s.setBit f k v).stage = s.stage := rfl
@[simp] theorem count_stage (s : Chip) (f : Fld) (n : Nat) : (s.count f n).stage = s.stage := by
  obtain ⟨r, h⟩ := count_withRegs s f n; rw [h]; rfl
@[simp] theorem bump_stage (s : Chip) (f : Fld) : (s.bump f).stage = s.stage := count_stage s f 1
@[simp] theorem feed_stage (s : Chip) (a n : Nat) : (s.feed a n).stage = s.stage := by
  obtain ⟨r, h⟩ := feed_withRegs s a n; rw [h]; rfl
@[simp] theorem access_stage (s : Chip) (k p m a : Nat) : (s.access k p m a).stage = s.stage := by
  obtain ⟨r, h⟩ := access_withRegs s k p m a; rw [h]; rfl
@[simp] theorem raise_stage (s : Chip) (v : Nat) : (s.raise v).stage = s.stage := rfl
@[simp] theorem fault_stage (s : Chip) (k : Nat) : (s.fault k).stage = s.stage := by
  unfold Chip.fault; dsimp only; split <;> rfl
@[simp] theorem set_stageTgt (s : Chip) (f : Fld) (v : Word) : (s.set f v).stageTgt = s.stageTgt := rfl
@[simp] theorem setN_stageTgt (s : Chip) (f : Fld) (v : Nat) : (s.setN f v).stageTgt = s.stageTgt := rfl
@[simp] theorem setB_stageTgt (s : Chip) (f : Fld) (v : Bool) : (s.setB f v).stageTgt = s.stageTgt := rfl
@[simp] theorem setBit_stageTgt (s : Chip) (f : Fld) (k : Nat) (v : Bool) : (s.setBit f k v).stageTgt = s.stageTgt := rfl
@[simp] theorem count_stageTgt (s : Chip) (f : Fld) (n : Nat) : (s.count f n).stageTgt = s.stageTgt := by
  obtain ⟨r, h⟩ := count_withRegs s f n; rw [h]; rfl
@[simp] theorem bump_stageTgt (s : Chip) (f : Fld) : (s.bump f).stageTgt = s.stageTgt := count_stageTgt s f 1
@[simp] theorem feed_stageTgt (s : Chip) (a n : Nat) : (s.feed a n).stageTgt = s.stageTgt := by
  obtain ⟨r, h⟩ := feed_withRegs s a n; rw [h]; rfl
@[simp] theorem access_stageTgt (s : Chip) (k p m a : Nat) : (s.access k p m a).stageTgt = s.stageTgt := by
  obtain ⟨r, h⟩ := access_withRegs s k p m a; rw [h]; rfl
@[simp] theorem raise_stageTgt (s : Chip) (v : Nat) : (s.raise v).stageTgt = s.stageTgt := rfl
@[simp] theorem fault_stageTgt (s : Chip) (k : Nat) : (s.fault k).stageTgt = s.stageTgt := by
  unfold Chip.fault; dsimp only; split <;> rfl
@[simp] theorem set_eccMarked (s : Chip) (f : Fld) (v : Word) : (s.set f v).eccMarked = s.eccMarked := rfl
@[simp] theorem setN_eccMarked (s : Chip) (f : Fld) (v : Nat) : (s.setN f v).eccMarked = s.eccMarked := rfl
@[simp] theorem setB_eccMarked (s : Chip) (f : Fld) (v : Bool) : (s.setB f v).eccMarked = s.eccMarked := rfl
@[simp] theorem setBit_eccMarked (s : Chip) (f : Fld) (k : Nat) (v : Bool) : (s.setBit f k v).eccMarked = s.eccMarked := rfl
@[simp] theorem count_eccMarked (s : Chip) (f : Fld) (n : Nat) : (s.count f n).eccMarked = s.eccMarked := by
  obtain ⟨r, h⟩ := count_withRegs s f n; rw [h]; rfl
@[simp] theorem bump_eccMarked (s : Chip) (f : Fld) : (s.bump f).eccMarked = s.eccMarked := count_eccMarked s f 1
@[simp] theorem feed_eccMarked (s : Chip) (a n : Nat) : (s.feed a n).eccMarked = s.eccMarked := by
  obtain ⟨r, h⟩ := feed_withRegs s a n; rw [h]; rfl
@[simp] theorem access_eccMarked (s : Chip) (k p m a : Nat) : (s.access k p m a).eccMarked = s.eccMarked := by
  obtain ⟨r, h⟩ := access_withRegs s k p m a; rw [h]; rfl
@[simp] theorem raise_eccMarked (s : Chip) (v : Nat) : (s.raise v).eccMarked = s.eccMarked := rfl
@[simp] theorem fault_eccMarked (s : Chip) (k : Nat) : (s.fault k).eccMarked = s.eccMarked := by
  unfold Chip.fault; dsimp only; split <;> rfl
@[simp] theorem set_tokens (s : Chip) (f : Fld) (v : Word) : (s.set f v).tokens = s.tokens := rfl
@[simp] theorem setN_tokens (s : Chip) (f : Fld) (v : Nat) : (s.setN f v).tokens = s.tokens := rfl
@[simp] theorem setB_tokens (s : Chip) (f : Fld) (v : Bool) : (s.setB f v).tokens = s.tokens := rfl
@[simp] theorem setBit_tokens (s : Chip) (f : Fld) (k : Nat) (v : Bool) : (s.setBit f k v).tokens = s.tokens := rfl
@[simp] theorem count_tokens (s : Chip) (f : Fld) (n : Nat) : (s.count f n).tokens = s.tokens := by
  obtain ⟨r, h⟩ := count_withRegs s f n; rw [h]; rfl
@[simp] theorem bump_tokens (s : Chip) (f : Fld) : (s.bump f).tokens = s.tokens := count_tokens s f 1
@[simp] theorem feed_tokens (s : Chip) (a n : Nat) : (s.feed a n).tokens = s.tokens := by
  obtain ⟨r, h⟩ := feed_withRegs s a n; rw [h]; rfl
@[simp] theorem access_tokens (s : Chip) (k p m a : Nat) : (s.access k p m a).tokens = s.tokens := by
  obtain ⟨r, h⟩ := access_withRegs s k p m a; rw [h]; rfl
@[simp] theorem raise_tokens (s : Chip) (v : Nat) : (s.raise v).tokens = s.tokens := rfl
@[simp] theorem fault_tokens (s : Chip) (k : Nat) : (s.fault k).tokens = s.tokens := by
  unfold Chip.fault; dsimp only; split <;> rfl
@[simp] theorem set_tails (s : Chip) (f : Fld) (v : Word) : (s.set f v).tails = s.tails := rfl
@[simp] theorem setN_tails (s : Chip) (f : Fld) (v : Nat) : (s.setN f v).tails = s.tails := rfl
@[simp] theorem setB_tails (s : Chip) (f : Fld) (v : Bool) : (s.setB f v).tails = s.tails := rfl
@[simp] theorem setBit_tails (s : Chip) (f : Fld) (k : Nat) (v : Bool) : (s.setBit f k v).tails = s.tails := rfl
@[simp] theorem count_tails (s : Chip) (f : Fld) (n : Nat) : (s.count f n).tails = s.tails := by
  obtain ⟨r, h⟩ := count_withRegs s f n; rw [h]; rfl
@[simp] theorem bump_tails (s : Chip) (f : Fld) : (s.bump f).tails = s.tails := count_tails s f 1
@[simp] theorem feed_tails (s : Chip) (a n : Nat) : (s.feed a n).tails = s.tails := by
  obtain ⟨r, h⟩ := feed_withRegs s a n; rw [h]; rfl
@[simp] theorem access_tails (s : Chip) (k p m a : Nat) : (s.access k p m a).tails = s.tails := by
  obtain ⟨r, h⟩ := access_withRegs s k p m a; rw [h]; rfl
@[simp] theorem raise_tails (s : Chip) (v : Nat) : (s.raise v).tails = s.tails := rfl
@[simp] theorem fault_tails (s : Chip) (k : Nat) : (s.fault k).tails = s.tails := by
  unfold Chip.fault; dsimp only; split <;> rfl
@[simp] theorem set_ledger (s : Chip) (f : Fld) (v : Word) : (s.set f v).ledger = s.ledger := rfl
@[simp] theorem setN_ledger (s : Chip) (f : Fld) (v : Nat) : (s.setN f v).ledger = s.ledger := rfl
@[simp] theorem setB_ledger (s : Chip) (f : Fld) (v : Bool) : (s.setB f v).ledger = s.ledger := rfl
@[simp] theorem setBit_ledger (s : Chip) (f : Fld) (k : Nat) (v : Bool) : (s.setBit f k v).ledger = s.ledger := rfl
@[simp] theorem count_ledger (s : Chip) (f : Fld) (n : Nat) : (s.count f n).ledger = s.ledger := by
  obtain ⟨r, h⟩ := count_withRegs s f n; rw [h]; rfl
@[simp] theorem bump_ledger (s : Chip) (f : Fld) : (s.bump f).ledger = s.ledger := count_ledger s f 1
@[simp] theorem feed_ledger (s : Chip) (a n : Nat) : (s.feed a n).ledger = s.ledger := by
  obtain ⟨r, h⟩ := feed_withRegs s a n; rw [h]; rfl
@[simp] theorem access_ledger (s : Chip) (k p m a : Nat) : (s.access k p m a).ledger = s.ledger := by
  obtain ⟨r, h⟩ := access_withRegs s k p m a; rw [h]; rfl
@[simp] theorem raise_ledger (s : Chip) (v : Nat) : (s.raise v).ledger = s.ledger := rfl
@[simp] theorem fault_ledger (s : Chip) (k : Nat) : (s.fault k).ledger = s.ledger := by
  unfold Chip.fault; dsimp only; split <;> rfl
@[simp] theorem set_frames (s : Chip) (f : Fld) (v : Word) : (s.set f v).frames = s.frames := rfl
@[simp] theorem setN_frames (s : Chip) (f : Fld) (v : Nat) : (s.setN f v).frames = s.frames := rfl
@[simp] theorem setB_frames (s : Chip) (f : Fld) (v : Bool) : (s.setB f v).frames = s.frames := rfl
@[simp] theorem setBit_frames (s : Chip) (f : Fld) (k : Nat) (v : Bool) : (s.setBit f k v).frames = s.frames := rfl
@[simp] theorem count_frames (s : Chip) (f : Fld) (n : Nat) : (s.count f n).frames = s.frames := by
  obtain ⟨r, h⟩ := count_withRegs s f n; rw [h]; rfl
@[simp] theorem bump_frames (s : Chip) (f : Fld) : (s.bump f).frames = s.frames := count_frames s f 1
@[simp] theorem feed_frames (s : Chip) (a n : Nat) : (s.feed a n).frames = s.frames := by
  obtain ⟨r, h⟩ := feed_withRegs s a n; rw [h]; rfl
@[simp] theorem access_frames (s : Chip) (k p m a : Nat) : (s.access k p m a).frames = s.frames := by
  obtain ⟨r, h⟩ := access_withRegs s k p m a; rw [h]; rfl
@[simp] theorem raise_frames (s : Chip) (v : Nat) : (s.raise v).frames = s.frames := rfl
@[simp] theorem fault_frames (s : Chip) (k : Nat) : (s.fault k).frames = s.frames := by
  unfold Chip.fault; dsimp only; split <;> rfl
@[simp] theorem set_nextFrame (s : Chip) (f : Fld) (v : Word) : (s.set f v).nextFrame = s.nextFrame := rfl
@[simp] theorem setN_nextFrame (s : Chip) (f : Fld) (v : Nat) : (s.setN f v).nextFrame = s.nextFrame := rfl
@[simp] theorem setB_nextFrame (s : Chip) (f : Fld) (v : Bool) : (s.setB f v).nextFrame = s.nextFrame := rfl
@[simp] theorem setBit_nextFrame (s : Chip) (f : Fld) (k : Nat) (v : Bool) : (s.setBit f k v).nextFrame = s.nextFrame := rfl
@[simp] theorem count_nextFrame (s : Chip) (f : Fld) (n : Nat) : (s.count f n).nextFrame = s.nextFrame := by
  obtain ⟨r, h⟩ := count_withRegs s f n; rw [h]; rfl
@[simp] theorem bump_nextFrame (s : Chip) (f : Fld) : (s.bump f).nextFrame = s.nextFrame := count_nextFrame s f 1
@[simp] theorem feed_nextFrame (s : Chip) (a n : Nat) : (s.feed a n).nextFrame = s.nextFrame := by
  obtain ⟨r, h⟩ := feed_withRegs s a n; rw [h]; rfl
@[simp] theorem access_nextFrame (s : Chip) (k p m a : Nat) : (s.access k p m a).nextFrame = s.nextFrame := by
  obtain ⟨r, h⟩ := access_withRegs s k p m a; rw [h]; rfl
@[simp] theorem raise_nextFrame (s : Chip) (v : Nat) : (s.raise v).nextFrame = s.nextFrame := rfl
@[simp] theorem fault_nextFrame (s : Chip) (k : Nat) : (s.fault k).nextFrame = s.nextFrame := by
  unfold Chip.fault; dsimp only; split <;> rfl
@[simp] theorem set_nextLink (s : Chip) (f : Fld) (v : Word) : (s.set f v).nextLink = s.nextLink := rfl
@[simp] theorem setN_nextLink (s : Chip) (f : Fld) (v : Nat) : (s.setN f v).nextLink = s.nextLink := rfl
@[simp] theorem setB_nextLink (s : Chip) (f : Fld) (v : Bool) : (s.setB f v).nextLink = s.nextLink := rfl
@[simp] theorem setBit_nextLink (s : Chip) (f : Fld) (k : Nat) (v : Bool) : (s.setBit f k v).nextLink = s.nextLink := rfl
@[simp] theorem count_nextLink (s : Chip) (f : Fld) (n : Nat) : (s.count f n).nextLink = s.nextLink := by
  obtain ⟨r, h⟩ := count_withRegs s f n; rw [h]; rfl
@[simp] theorem bump_nextLink (s : Chip) (f : Fld) : (s.bump f).nextLink = s.nextLink := count_nextLink s f 1
@[simp] theorem feed_nextLink (s : Chip) (a n : Nat) : (s.feed a n).nextLink = s.nextLink := by
  obtain ⟨r, h⟩ := feed_withRegs s a n; rw [h]; rfl
@[simp] theorem access_nextLink (s : Chip) (k p m a : Nat) : (s.access k p m a).nextLink = s.nextLink := by
  obtain ⟨r, h⟩ := access_withRegs s k p m a; rw [h]; rfl
@[simp] theorem raise_nextLink (s : Chip) (v : Nat) : (s.raise v).nextLink = s.nextLink := rfl
@[simp] theorem fault_nextLink (s : Chip) (k : Nat) : (s.fault k).nextLink = s.nextLink := by
  unfold Chip.fault; dsimp only; split <;> rfl
@[simp] theorem set_frameNos (s : Chip) (f : Fld) (v : Word) : (s.set f v).frameNos = s.frameNos := rfl
@[simp] theorem setN_frameNos (s : Chip) (f : Fld) (v : Nat) : (s.setN f v).frameNos = s.frameNos := rfl
@[simp] theorem setB_frameNos (s : Chip) (f : Fld) (v : Bool) : (s.setB f v).frameNos = s.frameNos := rfl
@[simp] theorem setBit_frameNos (s : Chip) (f : Fld) (k : Nat) (v : Bool) : (s.setBit f k v).frameNos = s.frameNos := rfl
@[simp] theorem count_frameNos (s : Chip) (f : Fld) (n : Nat) : (s.count f n).frameNos = s.frameNos := by
  obtain ⟨r, h⟩ := count_withRegs s f n; rw [h]; rfl
@[simp] theorem bump_frameNos (s : Chip) (f : Fld) : (s.bump f).frameNos = s.frameNos := count_frameNos s f 1
@[simp] theorem feed_frameNos (s : Chip) (a n : Nat) : (s.feed a n).frameNos = s.frameNos := by
  obtain ⟨r, h⟩ := feed_withRegs s a n; rw [h]; rfl
@[simp] theorem access_frameNos (s : Chip) (k p m a : Nat) : (s.access k p m a).frameNos = s.frameNos := by
  obtain ⟨r, h⟩ := access_withRegs s k p m a; rw [h]; rfl
@[simp] theorem raise_frameNos (s : Chip) (v : Nat) : (s.raise v).frameNos = s.frameNos := rfl
@[simp] theorem fault_frameNos (s : Chip) (k : Nat) : (s.fault k).frameNos = s.frameNos := by
  unfold Chip.fault; dsimp only; split <;> rfl
@[simp] theorem set_links (s : Chip) (f : Fld) (v : Word) : (s.set f v).links = s.links := rfl
@[simp] theorem setN_links (s : Chip) (f : Fld) (v : Nat) : (s.setN f v).links = s.links := rfl
@[simp] theorem setB_links (s : Chip) (f : Fld) (v : Bool) : (s.setB f v).links = s.links := rfl
@[simp] theorem setBit_links (s : Chip) (f : Fld) (k : Nat) (v : Bool) : (s.setBit f k v).links = s.links := rfl
@[simp] theorem count_links (s : Chip) (f : Fld) (n : Nat) : (s.count f n).links = s.links := by
  obtain ⟨r, h⟩ := count_withRegs s f n; rw [h]; rfl
@[simp] theorem bump_links (s : Chip) (f : Fld) : (s.bump f).links = s.links := count_links s f 1
@[simp] theorem feed_links (s : Chip) (a n : Nat) : (s.feed a n).links = s.links := by
  obtain ⟨r, h⟩ := feed_withRegs s a n; rw [h]; rfl
@[simp] theorem access_links (s : Chip) (k p m a : Nat) : (s.access k p m a).links = s.links := by
  obtain ⟨r, h⟩ := access_withRegs s k p m a; rw [h]; rfl
@[simp] theorem raise_links (s : Chip) (v : Nat) : (s.raise v).links = s.links := rfl
@[simp] theorem fault_links (s : Chip) (k : Nat) : (s.fault k).links = s.links := by
  unfold Chip.fault; dsimp only; split <;> rfl
@[simp] theorem set_fuses (s : Chip) (f : Fld) (v : Word) : (s.set f v).fuses = s.fuses := rfl
@[simp] theorem setN_fuses (s : Chip) (f : Fld) (v : Nat) : (s.setN f v).fuses = s.fuses := rfl
@[simp] theorem setB_fuses (s : Chip) (f : Fld) (v : Bool) : (s.setB f v).fuses = s.fuses := rfl
@[simp] theorem setBit_fuses (s : Chip) (f : Fld) (k : Nat) (v : Bool) : (s.setBit f k v).fuses = s.fuses := rfl
@[simp] theorem count_fuses (s : Chip) (f : Fld) (n : Nat) : (s.count f n).fuses = s.fuses := by
  obtain ⟨r, h⟩ := count_withRegs s f n; rw [h]; rfl
@[simp] theorem bump_fuses (s : Chip) (f : Fld) : (s.bump f).fuses = s.fuses := count_fuses s f 1
@[simp] theorem feed_fuses (s : Chip) (a n : Nat) : (s.feed a n).fuses = s.fuses := by
  obtain ⟨r, h⟩ := feed_withRegs s a n; rw [h]; rfl
@[simp] theorem access_fuses (s : Chip) (k p m a : Nat) : (s.access k p m a).fuses = s.fuses := by
  obtain ⟨r, h⟩ := access_withRegs s k p m a; rw [h]; rfl
@[simp] theorem raise_fuses (s : Chip) (v : Nat) : (s.raise v).fuses = s.fuses := rfl
@[simp] theorem fault_fuses (s : Chip) (k : Nat) : (s.fault k).fuses = s.fuses := by
  unfold Chip.fault; dsimp only; split <;> rfl
@[simp] theorem set_fab (s : Chip) (f : Fld) (v : Word) : (s.set f v).fab = s.fab := rfl
@[simp] theorem setN_fab (s : Chip) (f : Fld) (v : Nat) : (s.setN f v).fab = s.fab := rfl
@[simp] theorem setB_fab (s : Chip) (f : Fld) (v : Bool) : (s.setB f v).fab = s.fab := rfl
@[simp] theorem setBit_fab (s : Chip) (f : Fld) (k : Nat) (v : Bool) : (s.setBit f k v).fab = s.fab := rfl
@[simp] theorem count_fab (s : Chip) (f : Fld) (n : Nat) : (s.count f n).fab = s.fab := by
  obtain ⟨r, h⟩ := count_withRegs s f n; rw [h]; rfl
@[simp] theorem bump_fab (s : Chip) (f : Fld) : (s.bump f).fab = s.fab := count_fab s f 1
@[simp] theorem feed_fab (s : Chip) (a n : Nat) : (s.feed a n).fab = s.fab := by
  obtain ⟨r, h⟩ := feed_withRegs s a n; rw [h]; rfl
@[simp] theorem access_fab (s : Chip) (k p m a : Nat) : (s.access k p m a).fab = s.fab := by
  obtain ⟨r, h⟩ := access_withRegs s k p m a; rw [h]; rfl
@[simp] theorem raise_fab (s : Chip) (v : Nat) : (s.raise v).fab = s.fab := rfl
@[simp] theorem fault_fab (s : Chip) (k : Nat) : (s.fault k).fab = s.fab := by
  unfold Chip.fault; dsimp only; split <;> rfl
@[simp] theorem set_scheds (s : Chip) (f : Fld) (v : Word) : (s.set f v).scheds = s.scheds := rfl
@[simp] theorem setN_scheds (s : Chip) (f : Fld) (v : Nat) : (s.setN f v).scheds = s.scheds := rfl
@[simp] theorem setB_scheds (s : Chip) (f : Fld) (v : Bool) : (s.setB f v).scheds = s.scheds := rfl
@[simp] theorem setBit_scheds (s : Chip) (f : Fld) (k : Nat) (v : Bool) : (s.setBit f k v).scheds = s.scheds := rfl
@[simp] theorem count_scheds (s : Chip) (f : Fld) (n : Nat) : (s.count f n).scheds = s.scheds := by
  obtain ⟨r, h⟩ := count_withRegs s f n; rw [h]; rfl
@[simp] theorem bump_scheds (s : Chip) (f : Fld) : (s.bump f).scheds = s.scheds := count_scheds s f 1
@[simp] theorem feed_scheds (s : Chip) (a n : Nat) : (s.feed a n).scheds = s.scheds := by
  obtain ⟨r, h⟩ := feed_withRegs s a n; rw [h]; rfl
@[simp] theorem access_scheds (s : Chip) (k p m a : Nat) : (s.access k p m a).scheds = s.scheds := by
  obtain ⟨r, h⟩ := access_withRegs s k p m a; rw [h]; rfl
@[simp] theorem raise_scheds (s : Chip) (v : Nat) : (s.raise v).scheds = s.scheds := rfl
@[simp] theorem fault_scheds (s : Chip) (k : Nat) : (s.fault k).scheds = s.scheds := by
  unfold Chip.fault; dsimp only; split <;> rfl
@[simp] theorem set_gates (s : Chip) (f : Fld) (v : Word) : (s.set f v).gates = s.gates := rfl
@[simp] theorem setN_gates (s : Chip) (f : Fld) (v : Nat) : (s.setN f v).gates = s.gates := rfl
@[simp] theorem setB_gates (s : Chip) (f : Fld) (v : Bool) : (s.setB f v).gates = s.gates := rfl
@[simp] theorem setBit_gates (s : Chip) (f : Fld) (k : Nat) (v : Bool) : (s.setBit f k v).gates = s.gates := rfl
@[simp] theorem count_gates (s : Chip) (f : Fld) (n : Nat) : (s.count f n).gates = s.gates := by
  obtain ⟨r, h⟩ := count_withRegs s f n; rw [h]; rfl
@[simp] theorem bump_gates (s : Chip) (f : Fld) : (s.bump f).gates = s.gates := count_gates s f 1
@[simp] theorem feed_gates (s : Chip) (a n : Nat) : (s.feed a n).gates = s.gates := by
  obtain ⟨r, h⟩ := feed_withRegs s a n; rw [h]; rfl
@[simp] theorem access_gates (s : Chip) (k p m a : Nat) : (s.access k p m a).gates = s.gates := by
  obtain ⟨r, h⟩ := access_withRegs s k p m a; rw [h]; rfl
@[simp] theorem raise_gates (s : Chip) (v : Nat) : (s.raise v).gates = s.gates := rfl
@[simp] theorem fault_gates (s : Chip) (k : Nat) : (s.fault k).gates = s.gates := by
  unfold Chip.fault; dsimp only; split <;> rfl
@[simp] theorem set_time (s : Chip) (f : Fld) (v : Word) : (s.set f v).time = s.time := rfl
@[simp] theorem setN_time (s : Chip) (f : Fld) (v : Nat) : (s.setN f v).time = s.time := rfl
@[simp] theorem setB_time (s : Chip) (f : Fld) (v : Bool) : (s.setB f v).time = s.time := rfl
@[simp] theorem setBit_time (s : Chip) (f : Fld) (k : Nat) (v : Bool) : (s.setBit f k v).time = s.time := rfl
@[simp] theorem count_time (s : Chip) (f : Fld) (n : Nat) : (s.count f n).time = s.time := by
  obtain ⟨r, h⟩ := count_withRegs s f n; rw [h]; rfl
@[simp] theorem bump_time (s : Chip) (f : Fld) : (s.bump f).time = s.time := count_time s f 1
@[simp] theorem feed_time (s : Chip) (a n : Nat) : (s.feed a n).time = s.time := by
  obtain ⟨r, h⟩ := feed_withRegs s a n; rw [h]; rfl
@[simp] theorem access_time (s : Chip) (k p m a : Nat) : (s.access k p m a).time = s.time := by
  obtain ⟨r, h⟩ := access_withRegs s k p m a; rw [h]; rfl
@[simp] theorem raise_time (s : Chip) (v : Nat) : (s.raise v).time = s.time := rfl
@[simp] theorem fault_time (s : Chip) (k : Nat) : (s.fault k).time = s.time := by
  unfold Chip.fault; dsimp only; split <;> rfl
@[simp] theorem set_slateSeq (s : Chip) (f : Fld) (v : Word) : (s.set f v).slateSeq = s.slateSeq := rfl
@[simp] theorem setN_slateSeq (s : Chip) (f : Fld) (v : Nat) : (s.setN f v).slateSeq = s.slateSeq := rfl
@[simp] theorem setB_slateSeq (s : Chip) (f : Fld) (v : Bool) : (s.setB f v).slateSeq = s.slateSeq := rfl
@[simp] theorem setBit_slateSeq (s : Chip) (f : Fld) (k : Nat) (v : Bool) : (s.setBit f k v).slateSeq = s.slateSeq := rfl
@[simp] theorem count_slateSeq (s : Chip) (f : Fld) (n : Nat) : (s.count f n).slateSeq = s.slateSeq := by
  obtain ⟨r, h⟩ := count_withRegs s f n; rw [h]; rfl
@[simp] theorem bump_slateSeq (s : Chip) (f : Fld) : (s.bump f).slateSeq = s.slateSeq := count_slateSeq s f 1
@[simp] theorem feed_slateSeq (s : Chip) (a n : Nat) : (s.feed a n).slateSeq = s.slateSeq := by
  obtain ⟨r, h⟩ := feed_withRegs s a n; rw [h]; rfl
@[simp] theorem access_slateSeq (s : Chip) (k p m a : Nat) : (s.access k p m a).slateSeq = s.slateSeq := by
  obtain ⟨r, h⟩ := access_withRegs s k p m a; rw [h]; rfl
@[simp] theorem raise_slateSeq (s : Chip) (v : Nat) : (s.raise v).slateSeq = s.slateSeq := rfl
@[simp] theorem fault_slateSeq (s : Chip) (k : Nat) : (s.fault k).slateSeq = s.slateSeq := by
  unfold Chip.fault; dsimp only; split <;> rfl
@[simp] theorem set_slateStep (s : Chip) (f : Fld) (v : Word) : (s.set f v).slateStep = s.slateStep := rfl
@[simp] theorem setN_slateStep (s : Chip) (f : Fld) (v : Nat) : (s.setN f v).slateStep = s.slateStep := rfl
@[simp] theorem setB_slateStep (s : Chip) (f : Fld) (v : Bool) : (s.setB f v).slateStep = s.slateStep := rfl
@[simp] theorem setBit_slateStep (s : Chip) (f : Fld) (k : Nat) (v : Bool) : (s.setBit f k v).slateStep = s.slateStep := rfl
@[simp] theorem count_slateStep (s : Chip) (f : Fld) (n : Nat) : (s.count f n).slateStep = s.slateStep := by
  obtain ⟨r, h⟩ := count_withRegs s f n; rw [h]; rfl
@[simp] theorem bump_slateStep (s : Chip) (f : Fld) : (s.bump f).slateStep = s.slateStep := count_slateStep s f 1
@[simp] theorem feed_slateStep (s : Chip) (a n : Nat) : (s.feed a n).slateStep = s.slateStep := by
  obtain ⟨r, h⟩ := feed_withRegs s a n; rw [h]; rfl
@[simp] theorem access_slateStep (s : Chip) (k p m a : Nat) : (s.access k p m a).slateStep = s.slateStep := by
  obtain ⟨r, h⟩ := access_withRegs s k p m a; rw [h]; rfl
@[simp] theorem raise_slateStep (s : Chip) (v : Nat) : (s.raise v).slateStep = s.slateStep := rfl
@[simp] theorem fault_slateStep (s : Chip) (k : Nat) : (s.fault k).slateStep = s.slateStep := by
  unfold Chip.fault; dsimp only; split <;> rfl
@[simp] theorem set_slateLost (s : Chip) (f : Fld) (v : Word) : (s.set f v).slateLost = s.slateLost := rfl
@[simp] theorem setN_slateLost (s : Chip) (f : Fld) (v : Nat) : (s.setN f v).slateLost = s.slateLost := rfl
@[simp] theorem setB_slateLost (s : Chip) (f : Fld) (v : Bool) : (s.setB f v).slateLost = s.slateLost := rfl
@[simp] theorem setBit_slateLost (s : Chip) (f : Fld) (k : Nat) (v : Bool) : (s.setBit f k v).slateLost = s.slateLost := rfl
@[simp] theorem count_slateLost (s : Chip) (f : Fld) (n : Nat) : (s.count f n).slateLost = s.slateLost := by
  obtain ⟨r, h⟩ := count_withRegs s f n; rw [h]; rfl
@[simp] theorem bump_slateLost (s : Chip) (f : Fld) : (s.bump f).slateLost = s.slateLost := count_slateLost s f 1
@[simp] theorem feed_slateLost (s : Chip) (a n : Nat) : (s.feed a n).slateLost = s.slateLost := by
  obtain ⟨r, h⟩ := feed_withRegs s a n; rw [h]; rfl
@[simp] theorem access_slateLost (s : Chip) (k p m a : Nat) : (s.access k p m a).slateLost = s.slateLost := by
  obtain ⟨r, h⟩ := access_withRegs s k p m a; rw [h]; rfl
@[simp] theorem raise_slateLost (s : Chip) (v : Nat) : (s.raise v).slateLost = s.slateLost := rfl
@[simp] theorem fault_slateLost (s : Chip) (k : Nat) : (s.fault k).slateLost = s.slateLost := by
  unfold Chip.fault; dsimp only; split <;> rfl
@[simp] theorem set_sessions (s : Chip) (f : Fld) (v : Word) : (s.set f v).sessions = s.sessions := rfl
@[simp] theorem setN_sessions (s : Chip) (f : Fld) (v : Nat) : (s.setN f v).sessions = s.sessions := rfl
@[simp] theorem setB_sessions (s : Chip) (f : Fld) (v : Bool) : (s.setB f v).sessions = s.sessions := rfl
@[simp] theorem setBit_sessions (s : Chip) (f : Fld) (k : Nat) (v : Bool) : (s.setBit f k v).sessions = s.sessions := rfl
@[simp] theorem count_sessions (s : Chip) (f : Fld) (n : Nat) : (s.count f n).sessions = s.sessions := by
  obtain ⟨r, h⟩ := count_withRegs s f n; rw [h]; rfl
@[simp] theorem bump_sessions (s : Chip) (f : Fld) : (s.bump f).sessions = s.sessions := count_sessions s f 1
@[simp] theorem feed_sessions (s : Chip) (a n : Nat) : (s.feed a n).sessions = s.sessions := by
  obtain ⟨r, h⟩ := feed_withRegs s a n; rw [h]; rfl
@[simp] theorem access_sessions (s : Chip) (k p m a : Nat) : (s.access k p m a).sessions = s.sessions := by
  obtain ⟨r, h⟩ := access_withRegs s k p m a; rw [h]; rfl
@[simp] theorem raise_sessions (s : Chip) (v : Nat) : (s.raise v).sessions = s.sessions := rfl
@[simp] theorem fault_sessions (s : Chip) (k : Nat) : (s.fault k).sessions = s.sessions := by
  unfold Chip.fault; dsimp only; split <;> rfl
@[simp] theorem set_rxq (s : Chip) (f : Fld) (v : Word) : (s.set f v).rxq = s.rxq := rfl
@[simp] theorem setN_rxq (s : Chip) (f : Fld) (v : Nat) : (s.setN f v).rxq = s.rxq := rfl
@[simp] theorem setB_rxq (s : Chip) (f : Fld) (v : Bool) : (s.setB f v).rxq = s.rxq := rfl
@[simp] theorem setBit_rxq (s : Chip) (f : Fld) (k : Nat) (v : Bool) : (s.setBit f k v).rxq = s.rxq := rfl
@[simp] theorem count_rxq (s : Chip) (f : Fld) (n : Nat) : (s.count f n).rxq = s.rxq := by
  obtain ⟨r, h⟩ := count_withRegs s f n; rw [h]; rfl
@[simp] theorem bump_rxq (s : Chip) (f : Fld) : (s.bump f).rxq = s.rxq := count_rxq s f 1
@[simp] theorem feed_rxq (s : Chip) (a n : Nat) : (s.feed a n).rxq = s.rxq := by
  obtain ⟨r, h⟩ := feed_withRegs s a n; rw [h]; rfl
@[simp] theorem access_rxq (s : Chip) (k p m a : Nat) : (s.access k p m a).rxq = s.rxq := by
  obtain ⟨r, h⟩ := access_withRegs s k p m a; rw [h]; rfl
@[simp] theorem raise_rxq (s : Chip) (v : Nat) : (s.raise v).rxq = s.rxq := rfl
@[simp] theorem fault_rxq (s : Chip) (k : Nat) : (s.fault k).rxq = s.rxq := by
  unfold Chip.fault; dsimp only; split <;> rfl
@[simp] theorem set_posts (s : Chip) (f : Fld) (v : Word) : (s.set f v).posts = s.posts := rfl
@[simp] theorem setN_posts (s : Chip) (f : Fld) (v : Nat) : (s.setN f v).posts = s.posts := rfl
@[simp] theorem setB_posts (s : Chip) (f : Fld) (v : Bool) : (s.setB f v).posts = s.posts := rfl
@[simp] theorem setBit_posts (s : Chip) (f : Fld) (k : Nat) (v : Bool) : (s.setBit f k v).posts = s.posts := rfl
@[simp] theorem count_posts (s : Chip) (f : Fld) (n : Nat) : (s.count f n).posts = s.posts := by
  obtain ⟨r, h⟩ := count_withRegs s f n; rw [h]; rfl
@[simp] theorem bump_posts (s : Chip) (f : Fld) : (s.bump f).posts = s.posts := count_posts s f 1
@[simp] theorem feed_posts (s : Chip) (a n : Nat) : (s.feed a n).posts = s.posts := by
  obtain ⟨r, h⟩ := feed_withRegs s a n; rw [h]; rfl
@[simp] theorem access_posts (s : Chip) (k p m a : Nat) : (s.access k p m a).posts = s.posts := by
  obtain ⟨r, h⟩ := access_withRegs s k p m a; rw [h]; rfl
@[simp] theorem raise_posts (s : Chip) (v : Nat) : (s.raise v).posts = s.posts := rfl
@[simp] theorem fault_posts (s : Chip) (k : Nat) : (s.fault k).posts = s.posts := by
  unfold Chip.fault; dsimp only; split <;> rfl
@[simp] theorem set_esmc (s : Chip) (f : Fld) (v : Word) : (s.set f v).esmc = s.esmc := rfl
@[simp] theorem setN_esmc (s : Chip) (f : Fld) (v : Nat) : (s.setN f v).esmc = s.esmc := rfl
@[simp] theorem setB_esmc (s : Chip) (f : Fld) (v : Bool) : (s.setB f v).esmc = s.esmc := rfl
@[simp] theorem setBit_esmc (s : Chip) (f : Fld) (k : Nat) (v : Bool) : (s.setBit f k v).esmc = s.esmc := rfl
@[simp] theorem count_esmc (s : Chip) (f : Fld) (n : Nat) : (s.count f n).esmc = s.esmc := by
  obtain ⟨r, h⟩ := count_withRegs s f n; rw [h]; rfl
@[simp] theorem bump_esmc (s : Chip) (f : Fld) : (s.bump f).esmc = s.esmc := count_esmc s f 1
@[simp] theorem feed_esmc (s : Chip) (a n : Nat) : (s.feed a n).esmc = s.esmc := by
  obtain ⟨r, h⟩ := feed_withRegs s a n; rw [h]; rfl
@[simp] theorem access_esmc (s : Chip) (k p m a : Nat) : (s.access k p m a).esmc = s.esmc := by
  obtain ⟨r, h⟩ := access_withRegs s k p m a; rw [h]; rfl
@[simp] theorem raise_esmc (s : Chip) (v : Nat) : (s.raise v).esmc = s.esmc := rfl
@[simp] theorem fault_esmc (s : Chip) (k : Nat) : (s.fault k).esmc = s.esmc := by
  unfold Chip.fault; dsimp only; split <;> rfl
@[simp] theorem set_out (s : Chip) (f : Fld) (v : Word) : (s.set f v).out = s.out := rfl
@[simp] theorem setN_out (s : Chip) (f : Fld) (v : Nat) : (s.setN f v).out = s.out := rfl
@[simp] theorem setB_out (s : Chip) (f : Fld) (v : Bool) : (s.setB f v).out = s.out := rfl
@[simp] theorem setBit_out (s : Chip) (f : Fld) (k : Nat) (v : Bool) : (s.setBit f k v).out = s.out := rfl
@[simp] theorem count_out (s : Chip) (f : Fld) (n : Nat) : (s.count f n).out = s.out := by
  obtain ⟨r, h⟩ := count_withRegs s f n; rw [h]; rfl
@[simp] theorem bump_out (s : Chip) (f : Fld) : (s.bump f).out = s.out := count_out s f 1
@[simp] theorem feed_out (s : Chip) (a n : Nat) : (s.feed a n).out = s.out := by
  obtain ⟨r, h⟩ := feed_withRegs s a n; rw [h]; rfl
@[simp] theorem access_out (s : Chip) (k p m a : Nat) : (s.access k p m a).out = s.out := by
  obtain ⟨r, h⟩ := access_withRegs s k p m a; rw [h]; rfl
@[simp] theorem raise_out (s : Chip) (v : Nat) : (s.raise v).out = s.out := rfl
@[simp] theorem fault_out (s : Chip) (k : Nat) : (s.fault k).out = s.out := by
  unfold Chip.fault; dsimp only; split <;> rfl
@[simp] theorem set_refs (s : Chip) (f : Fld) (v : Word) : (s.set f v).refs = s.refs := rfl
@[simp] theorem setN_refs (s : Chip) (f : Fld) (v : Nat) : (s.setN f v).refs = s.refs := rfl
@[simp] theorem setB_refs (s : Chip) (f : Fld) (v : Bool) : (s.setB f v).refs = s.refs := rfl
@[simp] theorem setBit_refs (s : Chip) (f : Fld) (k : Nat) (v : Bool) : (s.setBit f k v).refs = s.refs := rfl
@[simp] theorem count_refs (s : Chip) (f : Fld) (n : Nat) : (s.count f n).refs = s.refs := by
  obtain ⟨r, h⟩ := count_withRegs s f n; rw [h]; rfl
@[simp] theorem bump_refs (s : Chip) (f : Fld) : (s.bump f).refs = s.refs := count_refs s f 1
@[simp] theorem feed_refs (s : Chip) (a n : Nat) : (s.feed a n).refs = s.refs := by
  obtain ⟨r, h⟩ := feed_withRegs s a n; rw [h]; rfl
@[simp] theorem access_refs (s : Chip) (k p m a : Nat) : (s.access k p m a).refs = s.refs := by
  obtain ⟨r, h⟩ := access_withRegs s k p m a; rw [h]; rfl
@[simp] theorem raise_refs (s : Chip) (v : Nat) : (s.raise v).refs = s.refs := rfl
@[simp] theorem fault_refs (s : Chip) (k : Nat) : (s.fault k).refs = s.refs := by
  unfold Chip.fault; dsimp only; split <;> rfl
@[simp] theorem set_pulses (s : Chip) (f : Fld) (v : Word) : (s.set f v).pulses = s.pulses := rfl
@[simp] theorem setN_pulses (s : Chip) (f : Fld) (v : Nat) : (s.setN f v).pulses = s.pulses := rfl
@[simp] theorem setB_pulses (s : Chip) (f : Fld) (v : Bool) : (s.setB f v).pulses = s.pulses := rfl
@[simp] theorem setBit_pulses (s : Chip) (f : Fld) (k : Nat) (v : Bool) : (s.setBit f k v).pulses = s.pulses := rfl
@[simp] theorem count_pulses (s : Chip) (f : Fld) (n : Nat) : (s.count f n).pulses = s.pulses := by
  obtain ⟨r, h⟩ := count_withRegs s f n; rw [h]; rfl
@[simp] theorem bump_pulses (s : Chip) (f : Fld) : (s.bump f).pulses = s.pulses := count_pulses s f 1
@[simp] theorem feed_pulses (s : Chip) (a n : Nat) : (s.feed a n).pulses = s.pulses := by
  obtain ⟨r, h⟩ := feed_withRegs s a n; rw [h]; rfl
@[simp] theorem access_pulses (s : Chip) (k p m a : Nat) : (s.access k p m a).pulses = s.pulses := by
  obtain ⟨r, h⟩ := access_withRegs s k p m a; rw [h]; rfl
@[simp] theorem raise_pulses (s : Chip) (v : Nat) : (s.raise v).pulses = s.pulses := rfl
@[simp] theorem fault_pulses (s : Chip) (k : Nat) : (s.fault k).pulses = s.pulses := by
  unfold Chip.fault; dsimp only; split <;> rfl
@[simp] theorem set_clk (s : Chip) (f : Fld) (v : Word) : (s.set f v).clk = s.clk := rfl
@[simp] theorem setN_clk (s : Chip) (f : Fld) (v : Nat) : (s.setN f v).clk = s.clk := rfl
@[simp] theorem setB_clk (s : Chip) (f : Fld) (v : Bool) : (s.setB f v).clk = s.clk := rfl
@[simp] theorem setBit_clk (s : Chip) (f : Fld) (k : Nat) (v : Bool) : (s.setBit f k v).clk = s.clk := rfl
@[simp] theorem count_clk (s : Chip) (f : Fld) (n : Nat) : (s.count f n).clk = s.clk := by
  obtain ⟨r, h⟩ := count_withRegs s f n; rw [h]; rfl
@[simp] theorem bump_clk (s : Chip) (f : Fld) : (s.bump f).clk = s.clk := count_clk s f 1
@[simp] theorem feed_clk (s : Chip) (a n : Nat) : (s.feed a n).clk = s.clk := by
  obtain ⟨r, h⟩ := feed_withRegs s a n; rw [h]; rfl
@[simp] theorem access_clk (s : Chip) (k p m a : Nat) : (s.access k p m a).clk = s.clk := by
  obtain ⟨r, h⟩ := access_withRegs s k p m a; rw [h]; rfl
@[simp] theorem raise_clk (s : Chip) (v : Nat) : (s.raise v).clk = s.clk := rfl
@[simp] theorem fault_clk (s : Chip) (k : Nat) : (s.fault k).clk = s.clk := by
  unfold Chip.fault; dsimp only; split <;> rfl
@[simp] theorem set_tdc (s : Chip) (f : Fld) (v : Word) : (s.set f v).tdc = s.tdc := rfl
@[simp] theorem setN_tdc (s : Chip) (f : Fld) (v : Nat) : (s.setN f v).tdc = s.tdc := rfl
@[simp] theorem setB_tdc (s : Chip) (f : Fld) (v : Bool) : (s.setB f v).tdc = s.tdc := rfl
@[simp] theorem setBit_tdc (s : Chip) (f : Fld) (k : Nat) (v : Bool) : (s.setBit f k v).tdc = s.tdc := rfl
@[simp] theorem count_tdc (s : Chip) (f : Fld) (n : Nat) : (s.count f n).tdc = s.tdc := by
  obtain ⟨r, h⟩ := count_withRegs s f n; rw [h]; rfl
@[simp] theorem bump_tdc (s : Chip) (f : Fld) : (s.bump f).tdc = s.tdc := count_tdc s f 1
@[simp] theorem feed_tdc (s : Chip) (a n : Nat) : (s.feed a n).tdc = s.tdc := by
  obtain ⟨r, h⟩ := feed_withRegs s a n; rw [h]; rfl
@[simp] theorem access_tdc (s : Chip) (k p m a : Nat) : (s.access k p m a).tdc = s.tdc := by
  obtain ⟨r, h⟩ := access_withRegs s k p m a; rw [h]; rfl
@[simp] theorem raise_tdc (s : Chip) (v : Nat) : (s.raise v).tdc = s.tdc := rfl
@[simp] theorem fault_tdc (s : Chip) (k : Nat) : (s.fault k).tdc = s.tdc := by
  unfold Chip.fault; dsimp only; split <;> rfl
@[simp] theorem set_banks (s : Chip) (f : Fld) (v : Word) : (s.set f v).banks = s.banks := rfl
@[simp] theorem setN_banks (s : Chip) (f : Fld) (v : Nat) : (s.setN f v).banks = s.banks := rfl
@[simp] theorem setB_banks (s : Chip) (f : Fld) (v : Bool) : (s.setB f v).banks = s.banks := rfl
@[simp] theorem setBit_banks (s : Chip) (f : Fld) (k : Nat) (v : Bool) : (s.setBit f k v).banks = s.banks := rfl
@[simp] theorem count_banks (s : Chip) (f : Fld) (n : Nat) : (s.count f n).banks = s.banks := by
  obtain ⟨r, h⟩ := count_withRegs s f n; rw [h]; rfl
@[simp] theorem bump_banks (s : Chip) (f : Fld) : (s.bump f).banks = s.banks := count_banks s f 1
@[simp] theorem feed_banks (s : Chip) (a n : Nat) : (s.feed a n).banks = s.banks := by
  obtain ⟨r, h⟩ := feed_withRegs s a n; rw [h]; rfl
@[simp] theorem access_banks (s : Chip) (k p m a : Nat) : (s.access k p m a).banks = s.banks := by
  obtain ⟨r, h⟩ := access_withRegs s k p m a; rw [h]; rfl
@[simp] theorem raise_banks (s : Chip) (v : Nat) : (s.raise v).banks = s.banks := rfl
@[simp] theorem fault_banks (s : Chip) (k : Nat) : (s.fault k).banks = s.banks := by
  unfold Chip.fault; dsimp only; split <;> rfl
@[simp] theorem set_calRun (s : Chip) (f : Fld) (v : Word) : (s.set f v).calRun = s.calRun := rfl
@[simp] theorem setN_calRun (s : Chip) (f : Fld) (v : Nat) : (s.setN f v).calRun = s.calRun := rfl
@[simp] theorem setB_calRun (s : Chip) (f : Fld) (v : Bool) : (s.setB f v).calRun = s.calRun := rfl
@[simp] theorem setBit_calRun (s : Chip) (f : Fld) (k : Nat) (v : Bool) : (s.setBit f k v).calRun = s.calRun := rfl
@[simp] theorem count_calRun (s : Chip) (f : Fld) (n : Nat) : (s.count f n).calRun = s.calRun := by
  obtain ⟨r, h⟩ := count_withRegs s f n; rw [h]; rfl
@[simp] theorem bump_calRun (s : Chip) (f : Fld) : (s.bump f).calRun = s.calRun := count_calRun s f 1
@[simp] theorem feed_calRun (s : Chip) (a n : Nat) : (s.feed a n).calRun = s.calRun := by
  obtain ⟨r, h⟩ := feed_withRegs s a n; rw [h]; rfl
@[simp] theorem access_calRun (s : Chip) (k p m a : Nat) : (s.access k p m a).calRun = s.calRun := by
  obtain ⟨r, h⟩ := access_withRegs s k p m a; rw [h]; rfl
@[simp] theorem raise_calRun (s : Chip) (v : Nat) : (s.raise v).calRun = s.calRun := rfl
@[simp] theorem fault_calRun (s : Chip) (k : Nat) : (s.fault k).calRun = s.calRun := by
  unfold Chip.fault; dsimp only; split <;> rfl
@[simp] theorem set_lOut (s : Chip) (f : Fld) (v : Word) : (s.set f v).lOut = s.lOut := rfl
@[simp] theorem setN_lOut (s : Chip) (f : Fld) (v : Nat) : (s.setN f v).lOut = s.lOut := rfl
@[simp] theorem setB_lOut (s : Chip) (f : Fld) (v : Bool) : (s.setB f v).lOut = s.lOut := rfl
@[simp] theorem setBit_lOut (s : Chip) (f : Fld) (k : Nat) (v : Bool) : (s.setBit f k v).lOut = s.lOut := rfl
@[simp] theorem count_lOut (s : Chip) (f : Fld) (n : Nat) : (s.count f n).lOut = s.lOut := by
  obtain ⟨r, h⟩ := count_withRegs s f n; rw [h]; rfl
@[simp] theorem bump_lOut (s : Chip) (f : Fld) : (s.bump f).lOut = s.lOut := count_lOut s f 1
@[simp] theorem feed_lOut (s : Chip) (a n : Nat) : (s.feed a n).lOut = s.lOut := by
  obtain ⟨r, h⟩ := feed_withRegs s a n; rw [h]; rfl
@[simp] theorem access_lOut (s : Chip) (k p m a : Nat) : (s.access k p m a).lOut = s.lOut := by
  obtain ⟨r, h⟩ := access_withRegs s k p m a; rw [h]; rfl
@[simp] theorem raise_lOut (s : Chip) (v : Nat) : (s.raise v).lOut = s.lOut := rfl
@[simp] theorem fault_lOut (s : Chip) (k : Nat) : (s.fault k).lOut = s.lOut := by
  unfold Chip.fault; dsimp only; split <;> rfl
@[simp] theorem set_linkTrim (s : Chip) (f : Fld) (v : Word) : (s.set f v).linkTrim = s.linkTrim := rfl
@[simp] theorem setN_linkTrim (s : Chip) (f : Fld) (v : Nat) : (s.setN f v).linkTrim = s.linkTrim := rfl
@[simp] theorem setB_linkTrim (s : Chip) (f : Fld) (v : Bool) : (s.setB f v).linkTrim = s.linkTrim := rfl
@[simp] theorem setBit_linkTrim (s : Chip) (f : Fld) (k : Nat) (v : Bool) : (s.setBit f k v).linkTrim = s.linkTrim := rfl
@[simp] theorem count_linkTrim (s : Chip) (f : Fld) (n : Nat) : (s.count f n).linkTrim = s.linkTrim := by
  obtain ⟨r, h⟩ := count_withRegs s f n; rw [h]; rfl
@[simp] theorem bump_linkTrim (s : Chip) (f : Fld) : (s.bump f).linkTrim = s.linkTrim := count_linkTrim s f 1
@[simp] theorem feed_linkTrim (s : Chip) (a n : Nat) : (s.feed a n).linkTrim = s.linkTrim := by
  obtain ⟨r, h⟩ := feed_withRegs s a n; rw [h]; rfl
@[simp] theorem access_linkTrim (s : Chip) (k p m a : Nat) : (s.access k p m a).linkTrim = s.linkTrim := by
  obtain ⟨r, h⟩ := access_withRegs s k p m a; rw [h]; rfl
@[simp] theorem raise_linkTrim (s : Chip) (v : Nat) : (s.raise v).linkTrim = s.linkTrim := rfl
@[simp] theorem fault_linkTrim (s : Chip) (k : Nat) : (s.fault k).linkTrim = s.linkTrim := by
  unfold Chip.fault; dsimp only; split <;> rfl
@[simp] theorem set_power (s : Chip) (f : Fld) (v : Word) : (s.set f v).power = s.power := rfl
@[simp] theorem setN_power (s : Chip) (f : Fld) (v : Nat) : (s.setN f v).power = s.power := rfl
@[simp] theorem setB_power (s : Chip) (f : Fld) (v : Bool) : (s.setB f v).power = s.power := rfl
@[simp] theorem setBit_power (s : Chip) (f : Fld) (k : Nat) (v : Bool) : (s.setBit f k v).power = s.power := rfl
@[simp] theorem count_power (s : Chip) (f : Fld) (n : Nat) : (s.count f n).power = s.power := by
  obtain ⟨r, h⟩ := count_withRegs s f n; rw [h]; rfl
@[simp] theorem bump_power (s : Chip) (f : Fld) : (s.bump f).power = s.power := count_power s f 1
@[simp] theorem feed_power (s : Chip) (a n : Nat) : (s.feed a n).power = s.power := by
  obtain ⟨r, h⟩ := feed_withRegs s a n; rw [h]; rfl
@[simp] theorem access_power (s : Chip) (k p m a : Nat) : (s.access k p m a).power = s.power := by
  obtain ⟨r, h⟩ := access_withRegs s k p m a; rw [h]; rfl
@[simp] theorem raise_power (s : Chip) (v : Nat) : (s.raise v).power = s.power := rfl
@[simp] theorem fault_power (s : Chip) (k : Nat) : (s.fault k).power = s.power := by
  unfold Chip.fault; dsimp only; split <;> rfl
@[simp] theorem set_cores (s : Chip) (f : Fld) (v : Word) : (s.set f v).cores = s.cores := rfl
@[simp] theorem setN_cores (s : Chip) (f : Fld) (v : Nat) : (s.setN f v).cores = s.cores := rfl
@[simp] theorem setB_cores (s : Chip) (f : Fld) (v : Bool) : (s.setB f v).cores = s.cores := rfl
@[simp] theorem setBit_cores (s : Chip) (f : Fld) (k : Nat) (v : Bool) : (s.setBit f k v).cores = s.cores := rfl
@[simp] theorem count_cores (s : Chip) (f : Fld) (n : Nat) : (s.count f n).cores = s.cores := by
  obtain ⟨r, h⟩ := count_withRegs s f n; rw [h]; rfl
@[simp] theorem bump_cores (s : Chip) (f : Fld) : (s.bump f).cores = s.cores := count_cores s f 1
@[simp] theorem feed_cores (s : Chip) (a n : Nat) : (s.feed a n).cores = s.cores := by
  obtain ⟨r, h⟩ := feed_withRegs s a n; rw [h]; rfl
@[simp] theorem access_cores (s : Chip) (k p m a : Nat) : (s.access k p m a).cores = s.cores := by
  obtain ⟨r, h⟩ := access_withRegs s k p m a; rw [h]; rfl
@[simp] theorem raise_cores (s : Chip) (v : Nat) : (s.raise v).cores = s.cores := rfl
@[simp] theorem fault_cores (s : Chip) (k : Nat) : (s.fault k).cores = s.cores := by
  unfold Chip.fault; dsimp only; split <;> rfl
@[simp] theorem set_gaffer (s : Chip) (f : Fld) (v : Word) : (s.set f v).gaffer = s.gaffer := rfl
@[simp] theorem setN_gaffer (s : Chip) (f : Fld) (v : Nat) : (s.setN f v).gaffer = s.gaffer := rfl
@[simp] theorem setB_gaffer (s : Chip) (f : Fld) (v : Bool) : (s.setB f v).gaffer = s.gaffer := rfl
@[simp] theorem setBit_gaffer (s : Chip) (f : Fld) (k : Nat) (v : Bool) : (s.setBit f k v).gaffer = s.gaffer := rfl
@[simp] theorem count_gaffer (s : Chip) (f : Fld) (n : Nat) : (s.count f n).gaffer = s.gaffer := by
  obtain ⟨r, h⟩ := count_withRegs s f n; rw [h]; rfl
@[simp] theorem bump_gaffer (s : Chip) (f : Fld) : (s.bump f).gaffer = s.gaffer := count_gaffer s f 1
@[simp] theorem feed_gaffer (s : Chip) (a n : Nat) : (s.feed a n).gaffer = s.gaffer := by
  obtain ⟨r, h⟩ := feed_withRegs s a n; rw [h]; rfl
@[simp] theorem access_gaffer (s : Chip) (k p m a : Nat) : (s.access k p m a).gaffer = s.gaffer := by
  obtain ⟨r, h⟩ := access_withRegs s k p m a; rw [h]; rfl
@[simp] theorem raise_gaffer (s : Chip) (v : Nat) : (s.raise v).gaffer = s.gaffer := rfl
@[simp] theorem fault_gaffer (s : Chip) (k : Nat) : (s.fault k).gaffer = s.gaffer := by
  unfold Chip.fault; dsimp only; split <;> rfl
@[simp] theorem set_mail (s : Chip) (f : Fld) (v : Word) : (s.set f v).mail = s.mail := rfl
@[simp] theorem setN_mail (s : Chip) (f : Fld) (v : Nat) : (s.setN f v).mail = s.mail := rfl
@[simp] theorem setB_mail (s : Chip) (f : Fld) (v : Bool) : (s.setB f v).mail = s.mail := rfl
@[simp] theorem setBit_mail (s : Chip) (f : Fld) (k : Nat) (v : Bool) : (s.setBit f k v).mail = s.mail := rfl
@[simp] theorem count_mail (s : Chip) (f : Fld) (n : Nat) : (s.count f n).mail = s.mail := by
  obtain ⟨r, h⟩ := count_withRegs s f n; rw [h]; rfl
@[simp] theorem bump_mail (s : Chip) (f : Fld) : (s.bump f).mail = s.mail := count_mail s f 1
@[simp] theorem feed_mail (s : Chip) (a n : Nat) : (s.feed a n).mail = s.mail := by
  obtain ⟨r, h⟩ := feed_withRegs s a n; rw [h]; rfl
@[simp] theorem access_mail (s : Chip) (k p m a : Nat) : (s.access k p m a).mail = s.mail := by
  obtain ⟨r, h⟩ := access_withRegs s k p m a; rw [h]; rfl
@[simp] theorem raise_mail (s : Chip) (v : Nat) : (s.raise v).mail = s.mail := rfl
@[simp] theorem fault_mail (s : Chip) (k : Nat) : (s.fault k).mail = s.mail := by
  unfold Chip.fault; dsimp only; split <;> rfl
@[simp] theorem set_bank (s : Chip) (f : Fld) (v : Word) : (s.set f v).bank = s.bank := rfl
@[simp] theorem setN_bank (s : Chip) (f : Fld) (v : Nat) : (s.setN f v).bank = s.bank := rfl
@[simp] theorem setB_bank (s : Chip) (f : Fld) (v : Bool) : (s.setB f v).bank = s.bank := rfl
@[simp] theorem setBit_bank (s : Chip) (f : Fld) (k : Nat) (v : Bool) : (s.setBit f k v).bank = s.bank := rfl
@[simp] theorem count_bank (s : Chip) (f : Fld) (n : Nat) : (s.count f n).bank = s.bank := by
  obtain ⟨r, h⟩ := count_withRegs s f n; rw [h]; rfl
@[simp] theorem bump_bank (s : Chip) (f : Fld) : (s.bump f).bank = s.bank := count_bank s f 1
@[simp] theorem feed_bank (s : Chip) (a n : Nat) : (s.feed a n).bank = s.bank := by
  obtain ⟨r, h⟩ := feed_withRegs s a n; rw [h]; rfl
@[simp] theorem access_bank (s : Chip) (k p m a : Nat) : (s.access k p m a).bank = s.bank := by
  obtain ⟨r, h⟩ := access_withRegs s k p m a; rw [h]; rfl
@[simp] theorem raise_bank (s : Chip) (v : Nat) : (s.raise v).bank = s.bank := rfl
@[simp] theorem fault_bank (s : Chip) (k : Nat) : (s.fault k).bank = s.bank := by
  unfold Chip.fault; dsimp only; split <;> rfl
@[simp] theorem set_kib (s : Chip) (f : Fld) (v : Word) : (s.set f v).kib = s.kib := rfl
@[simp] theorem setN_kib (s : Chip) (f : Fld) (v : Nat) : (s.setN f v).kib = s.kib := rfl
@[simp] theorem setB_kib (s : Chip) (f : Fld) (v : Bool) : (s.setB f v).kib = s.kib := rfl
@[simp] theorem setBit_kib (s : Chip) (f : Fld) (k : Nat) (v : Bool) : (s.setBit f k v).kib = s.kib := rfl
@[simp] theorem count_kib (s : Chip) (f : Fld) (n : Nat) : (s.count f n).kib = s.kib := by
  obtain ⟨r, h⟩ := count_withRegs s f n; rw [h]; rfl
@[simp] theorem bump_kib (s : Chip) (f : Fld) : (s.bump f).kib = s.kib := count_kib s f 1
@[simp] theorem feed_kib (s : Chip) (a n : Nat) : (s.feed a n).kib = s.kib := by
  obtain ⟨r, h⟩ := feed_withRegs s a n; rw [h]; rfl
@[simp] theorem access_kib (s : Chip) (k p m a : Nat) : (s.access k p m a).kib = s.kib := by
  obtain ⟨r, h⟩ := access_withRegs s k p m a; rw [h]; rfl
@[simp] theorem raise_kib (s : Chip) (v : Nat) : (s.raise v).kib = s.kib := rfl
@[simp] theorem fault_kib (s : Chip) (k : Nat) : (s.fault k).kib = s.kib := by
  unfold Chip.fault; dsimp only; split <;> rfl
@[simp] theorem raise_regs (s : Chip) (v : Nat) : (s.raise v).regs = s.regs := rfl

end Sys2Proof.Machine
end

