-- ==== Sys2Proof/Laws/Bits.lean ====
section
/-! SUPPORT. Bits of fields: what one bit of a field reads after a write, and the bits that byte enables turn on; and the two neighbours of a quotient whose rounding is open. -/

namespace Sys2Proof.Machine

/-- A quotient whose rounding is open is one of its two neighbours. -/
theorem freeDiv_eq_or (place : Config.Rounded) (a b : Int) :
    freeDiv place a b = a / b ∨ freeDiv place a b = a / b + 1 := by
  unfold freeDiv
  split
  · exact .inr rfl
  · exact .inl (Int.add_zero _)

/-- A quotient that is whole is itself. -/
theorem freeDiv_of_dvd (place : Config.Rounded) {a b : Int} (h : b ∣ a) : freeDiv place a b = a / b := by
  simp [freeDiv, Int.emod_eq_zero_of_dvd h]

/-- One bit of a word is its bit in Lean's bit vectors. -/
theorem bit_eq_getLsbD {n : Nat} (w : BitVec n) (k : Nat) : bit w k = w.getLsbD k := by
  simp only [bit, bits, BitVec.getLsbD, Nat.testBit_eq_decide_div_mod_eq]
  rw [show k - k + 1 = 1 by omega, pow_one]
  by_cases h : w.toNat / 2 ^ k % 2 = 1 <;> simp [h]

theorem word_getLsbD (n k : Nat) : (word n).getLsbD k = (decide (k < 32) && n.testBit k) := by
  simp [word, BitVec.getLsbD_ofNat]

/-- Bits of a part of a word. -/
theorem bits_testBit {n : Nat} (w : BitVec n) (hi lo k : Nat) :
    (bits w hi lo).testBit k = (decide (k < hi - lo + 1) && w.getLsbD (lo + k)) := by
  simp only [bits, BitVec.getLsbD, Nat.testBit_mod_two_pow, Nat.testBit_div_two_pow]
  rw [Nat.add_comm k lo]

theorem getBit_set_same (s : Chip) (f : Fld) (v : Word) (k : Nat) :
    (s.set f v).getBit f k = (decide (k < f.width) && v.getLsbD k) := by
  rw [Chip.getBit, get_set_same, bit_eq_getLsbD, word_getLsbD, Nat.testBit_mod_two_pow]
  by_cases hk : k < 32
  · simp [hk, BitVec.getLsbD]
  · have : v.getLsbD k = false := BitVec.getLsbD_of_ge v k (by omega)
    simp [hk, this]

theorem getBit_of_get {s t : Chip} {f : Fld} (h : t.get f = s.get f) (k : Nat) : t.getBit f k = s.getBit f k := by
  rw [Chip.getBit, Chip.getBit, h]

theorem getBit_set_other (s : Chip) (f g : Fld) (v : Word) (k : Nat) (h : g.key ≠ f.key) :
    (s.set f v).getBit g k = s.getBit g k := getBit_of_get (get_set_other s f g v h) k

theorem get_getLsbD (s : Chip) (f : Fld) (k : Nat) : (s.get f).getLsbD k = s.getBit f k := by
  rw [Chip.getBit, bit_eq_getLsbD]

/-- The mask of byte enables has bit k exactly where the enable of its byte is on (R36). -/
theorem beMask_getLsbD (be : BitVec 4) (k : Nat) (hk : k < 32) : (beMask be).getLsbD k = bit be (k / 8) := by
  have h : ∀ (b : BitVec 4) (j : Fin 32), (beMask b).getLsbD j.val = bit b (j.val / 8) := by decide
  exact h be ⟨k, hk⟩

end Sys2Proof.Machine
end

