-- ==== Sys2Proof/Laws/Fields.lean ====
section
/-! SUPPORT. The fields of a register word stand at bits of their own (Tables 0-1 to 16-5). -/

namespace Sys2Proof.Machine

/-- Every row of a list gives its fields least bits of their own. -/
def rowsOk (l : List RegRow) : Bool := l.all (fun r => decide ((r.fields.map (fun f => f.lsb)).Nodup))

theorem rowsOk_append (a b : List RegRow) : rowsOk (a ++ b) = (rowsOk a && rowsOk b) := by simp [rowsOk]

theorem rowsSys_ok : rowsOk rowsSys = true := by decide
theorem rowsHdr_ok : rowsOk rowsHdr = true := by decide
theorem rowsAdm_ok : rowsOk rowsAdm = true := by decide
theorem rowsPort0_ok : rowsOk rowsPort0 = true := by decide
theorem rowsPort1_ok : rowsOk rowsPort1 = true := by decide
theorem rowsPort2_ok : rowsOk rowsPort2 = true := by decide
theorem rowsPort3_ok : rowsOk rowsPort3 = true := by decide
theorem rowsRing_ok : rowsOk rowsRing = true := by decide
theorem rowsTbl_ok : rowsOk rowsTbl = true := by decide
theorem rowsTblnh_ok : rowsOk rowsTblnh = true := by decide
theorem rowsTblstage_ok : rowsOk rowsTblstage = true := by decide
theorem rowsFab_ok : rowsOk rowsFab = true := by decide
theorem rowsBuf0_ok : rowsOk rowsBuf0 = true := by decide
theorem rowsBuf1_ok : rowsOk rowsBuf1 = true := by decide
theorem rowsBuf2_ok : rowsOk rowsBuf2 = true := by decide
theorem rowsBuf3_ok : rowsOk rowsBuf3 = true := by decide
theorem rowsPort4_ok : rowsOk rowsPort4 = true := by decide
theorem rowsSchd_ok : rowsOk rowsSchd = true := by decide
theorem rowsPort5_ok : rowsOk rowsPort5 = true := by decide
theorem rowsTime0_ok : rowsOk rowsTime0 = true := by decide
theorem rowsTime1_ok : rowsOk rowsTime1 = true := by decide
theorem rowsGrp2_ok : rowsOk rowsGrp2 = true := by decide
theorem rowsPort6_ok : rowsOk rowsPort6 = true := by decide
theorem rowsPers2_ok : rowsOk rowsPers2 = true := by decide
theorem rowsRef0_ok : rowsOk rowsRef0 = true := by decide
theorem rowsRef1_ok : rowsOk rowsRef1 = true := by decide
theorem rowsRef2_ok : rowsOk rowsRef2 = true := by decide
theorem rowsRef3_ok : rowsOk rowsRef3 = true := by decide
theorem rowsPll0_ok : rowsOk rowsPll0 = true := by decide
theorem rowsPll1_ok : rowsOk rowsPll1 = true := by decide
theorem rowsTdc0_ok : rowsOk rowsTdc0 = true := by decide
theorem rowsEv_ok : rowsOk rowsEv = true := by decide
theorem rowsCal0_ok : rowsOk rowsCal0 = true := by decide
theorem rowsCal1_ok : rowsOk rowsCal1 = true := by decide
theorem rowsCal2_ok : rowsOk rowsCal2 = true := by decide
theorem rowsPers3_ok : rowsOk rowsPers3 = true := by decide
theorem rowsRst_ok : rowsOk rowsRst = true := by decide
theorem rowsPwr_ok : rowsOk rowsPwr = true := by decide
theorem rowsHlth_ok : rowsOk rowsHlth = true := by decide
theorem rowsPers0_ok : rowsOk rowsPers0 = true := by decide
theorem rowsPers1_ok : rowsOk rowsPers1 = true := by decide
theorem rowsCmd_ok : rowsOk rowsCmd = true := by decide
theorem rowsCmd0_ok : rowsOk rowsCmd0 = true := by decide
theorem rowsTraf_ok : rowsOk rowsTraf = true := by decide
theorem rowsPcnt0_ok : rowsOk rowsPcnt0 = true := by decide
theorem rowsPcnt1_ok : rowsOk rowsPcnt1 = true := by decide
theorem rowsNil_ok : rowsOk [] = true := by decide

theorem pageRows_ok (pg : Nat) : rowsOk (pageRows pg) = true := by
  simp only [pageRows, apply_ite rowsOk, rowsOk_append, rowsNil_ok, Bool.and_self, ite_self,
    rowsSys_ok, rowsAdm_ok, rowsPort0_ok, rowsPort1_ok, rowsPort2_ok, rowsPort3_ok, rowsTbl_ok, rowsTblnh_ok, rowsTblstage_ok, rowsFab_ok, rowsBuf0_ok, rowsBuf1_ok, rowsBuf2_ok, rowsBuf3_ok, rowsPort4_ok, rowsSchd_ok, rowsPort5_ok, rowsTime0_ok, rowsTime1_ok, rowsGrp2_ok, rowsPort6_ok, rowsPers2_ok, rowsRef0_ok, rowsRef1_ok, rowsRef2_ok, rowsRef3_ok, rowsPll0_ok, rowsPll1_ok, rowsTdc0_ok, rowsEv_ok, rowsCal0_ok, rowsCal1_ok, rowsCal2_ok, rowsPers3_ok, rowsRst_ok, rowsPwr_ok, rowsHlth_ok, rowsPers0_ok, rowsPers1_ok, rowsCmd_ok, rowsCmd0_ok, rowsTraf_ok, rowsPcnt0_ok, rowsPcnt1_ok]

theorem fieldsIn_nodup (o : Nat) (l : List RegRow) (h : rowsOk l = true) : ((fieldsIn o l).map (fun f => f.lsb)).Nodup := by
  induction l with
  | nil => simp [fieldsIn]
  | cons r l ih =>
    simp only [rowsOk, List.all_cons, Bool.and_eq_true, decide_eq_true_eq] at h
    unfold fieldsIn
    split
    · rename_i i _
      have : ((r.fields.map (fun f => if f.idx = true then { f with reset := word i } else f)).map (fun f => f.lsb))
          = r.fields.map (fun f => f.lsb) := by
        rw [List.map_map]
        apply List.map_congr_left
        intro f _
        by_cases hf : f.idx = true <;> simp [hf]
      rw [this]; exact h.1
    · exact ih h.2

/-- Two fields of one register word have different least bits. -/
theorem fieldsAt_nodup (addr : Nat) : ((fieldsAt addr).map (fun f => f.lsb)).Nodup := by
  unfold fieldsAt
  split
  · split
    · exact fieldsIn_nodup _ _ rowsRing_ok
    · simp
  · split
    · exact fieldsIn_nodup _ _ rowsHdr_ok
    · exact fieldsIn_nodup _ _ (pageRows_ok _)

end Sys2Proof.Machine
end

