-- ==== Sys2Proof/Laws/Frame.lean ====
section
/-! SUPPORT. The registers that each shared update leaves alone. -/

namespace Sys2Proof.Machine

theorem keeps_refl (s : Chip) (l : List Fld) : s.keeps s l := fun _ _ _ => rfl

theorem keeps_of_regs {s t : Chip} (l : List Fld) (h : t.regs = s.regs) : s.keeps t l := fun k _ _ => by rw [h]

theorem keeps_trans {a b c : Chip} {l m : List Fld} (h : a.keeps b l) (h' : b.keeps c m) : a.keeps c (l ++ m) := by
  intro k hk hn
  rw [h' k hk (fun g hg => hn g (by simp [hg])), h k hk (fun g hg => hn g (by simp [hg]))]

theorem keeps_mono {a b : Chip} {l m : List Fld} (h : a.keeps b l) (hs : ∀ g ∈ l, g ∈ m) : a.keeps b m :=
  fun k hk hn => h k hk (fun g hg => hn g (hs g hg))

theorem get_of_keeps {s t : Chip} {l : List Fld} (h : s.keeps t l) (f : Fld) (hp : f.offProbes) (hn : ∀ g ∈ l, f.key ≠ g.key) :
    t.get f = s.get f := by
  have hk : f.key / 131072 ≠ 0x81 := by
    obtain ⟨h1, h2⟩ := hp
    simp only [Fld.key]; omega
  simp only [Chip.get, Store.read, h f.key hk hn]

theorem keeps_set (s : Chip) (f : Fld) (v : Word) : s.keeps (s.set f v) [f] := by
  intro k _ hn
  have : k ≠ f.key := hn f (by simp)
  simp [Chip.set, store_find_write, this]

theorem keeps_setN (s : Chip) (f : Fld) (v : Nat) : s.keeps (s.setN f v) [f] := keeps_set s f _
theorem keeps_setB (s : Chip) (f : Fld) (v : Bool) : s.keeps (s.setB f v) [f] := keeps_set s f _
theorem keeps_setBit (s : Chip) (f : Fld) (k : Nat) (v : Bool) : s.keeps (s.setBit f k v) [f] := keeps_set s f _

theorem pcnt1Count_key {k : Nat} (hk : k < 64) : (F.pcnt1Count k).key / 131072 = 0x81 := by
  simp only [Fld.key, F.pcnt1Count]; omega

theorem keeps_probeAdd (fuel : Nat) : ∀ (k n : Nat) (s : Chip), k < 64 → s.keeps (s.probeAdd k n fuel) [] := by
  induction fuel with
  | zero => intro k n s _; exact keeps_refl s []
  | succ fuel ih =>
    intro k n s hk
    have h0 : s.keeps (s.setN (F.pcnt1Count k) ((s.getN (F.pcnt1Count k) + n) % 2 ^ 32)) [] := by
      intro j hj _
      exact keeps_setN s (F.pcnt1Count k) _ j hj (by
        intro g hg; simp only [List.mem_singleton] at hg; subst hg
        intro he; rw [he] at hj; exact hj (pcnt1Count_key hk))
    unfold Chip.probeAdd
    dsimp only
    split
    · exact h0
    · rename_i hc
      split
      · exact keeps_trans h0 (ih _ _ _ (by omega))
      · exact h0

theorem keeps_foldl {β : Type} (g : Chip → β → Chip) (l : List β) (h : ∀ t : Chip, ∀ b ∈ l, t.keeps (g t b) []) :
    ∀ s : Chip, s.keeps (l.foldl g s) [] := by
  induction l with
  | nil => intro s; exact keeps_refl s []
  | cons b l ih =>
    intro s
    exact keeps_trans (h s b (by simp)) (ih (fun t c hc => h t c (List.mem_cons_of_mem _ hc)) (g s b))

theorem keeps_feed (s : Chip) (a n : Nat) : s.keeps (s.feed a n) [] := by
  refine keeps_foldl _ _ (fun t k hk => ?_) s
  split
  · exact keeps_probeAdd _ _ _ _ (enabledProbes_lt s k hk)
  · exact keeps_refl t []

theorem keeps_access (s : Chip) (k p m a : Nat) : s.keeps (s.access k p m a) [] := by
  refine keeps_foldl _ _ (fun t j hj => ?_) s
  split
  · exact keeps_probeAdd _ _ _ _ (enabledProbes_lt s j hj)
  · exact keeps_refl t []

theorem keeps_count (s : Chip) (f : Fld) (n : Nat) : s.keeps (s.count f n) [f] := by
  unfold Chip.count
  split
  · exact keeps_refl s _
  · exact keeps_trans (keeps_setN s f _) (keeps_feed _ _ _)

theorem keeps_bump (s : Chip) (f : Fld) : s.keeps (s.bump f) [f] := keeps_count s f 1

theorem keeps_show (s : Chip) (f : Fld) (v : Nat) : s.keeps (s.show f v) [f] := by
  unfold Chip.show
  split
  · exact keeps_refl s _
  · exact keeps_setN s f v

theorem keeps_showB (s : Chip) (f : Fld) (v : Bool) : s.keeps (s.showB f v) [f] := keeps_show s f _

theorem keeps_addSat (s : Chip) (f : Fld) (n : Nat) : s.keeps (s.addSat f n) [f] := keeps_setN s f _

theorem keeps_countSat (s : Chip) (f : Fld) (n : Nat) : s.keeps (s.countSat f n) [f] := by
  unfold Chip.countSat
  split
  · exact keeps_refl s _
  · exact keeps_trans (keeps_addSat s f n) (keeps_feed _ _ _)

/-- What a broken promise does: it counts once, under the counter given, and a frame that broke one before counts nothing
(R71). -/
theorem breakPromise_spec (s : Chip) (f : Frame) (ctr : Nat → Nat → Fld) :
    s.keeps (s.breakPromise f ctr) [ctr f.outPort f.outSub] ∧ (f.broken = true → s.breakPromise f ctr = s) := by
  unfold Chip.breakPromise
  refine ⟨?_, fun h => by simp [h]⟩
  split
  · exact keeps_bump s _
  · exact keeps_refl s _

theorem keeps_raise (s : Chip) (v : Nat) : s.keeps (s.raise v) [] := keeps_refl s []

theorem keeps_fault (s : Chip) (k : Nat) : s.keeps (s.fault k) [F.hlthFault] := by
  unfold Chip.fault
  dsimp only
  split
  · exact keeps_trans (keeps_setBit s _ _ _) (keeps_raise _ _)
  · exact keeps_setBit s _ _ _

/-- What a register access does to the block as the ACCESS probes see it: their counts, and nothing else (R354). -/
theorem access_spec (s : Chip) (k p m a : Nat) : ∃ r, s.access k p m a = s.withRegs r ∧ s.keeps (s.withRegs r) [] := by
  obtain ⟨r, h⟩ := access_withRegs s k p m a
  exact ⟨r, h, by rw [← h]; exact keeps_access s k p m a⟩

/-- What counting does: the counter, the probes' counts, and nothing else (R344). -/
theorem count_spec (s : Chip) (f : Fld) (n : Nat) : ∃ r, s.count f n = s.withRegs r ∧ s.keeps (s.withRegs r) [f] := by
  obtain ⟨r, h⟩ := count_withRegs s f n
  exact ⟨r, h, by rw [← h]; exact keeps_count s f n⟩

end Sys2Proof.Machine
end

