-- ==== Sys2Proof/Laws/Host.lean ====
section
/-! SUPPORT. What a host access of a page that serves does: once for every write and once for every read. -/

namespace Sys2Proof.Machine

theorem serves_dark {s : Chip} {path : Path} {pg : Nat} (h : s.serves path pg) : s.groupShadow pg = false := by
  obtain ⟨-, -, -, -, -, hd, -⟩ := h
  simp only [Chip.pageDark, Bool.or_eq_false_iff] at hd
  unfold Chip.groupShadow
  exact hd.2

/-- A host write of a served page, outside its header and the mailbox slots, is seen by the ACCESS probes and then
made as the register takes it (R30, R354). -/
theorem hostWrite_serves (s : Chip) (path : Path) (addr : Nat) (be : BitVec 4) (w : Word)
    (h : s.serves path (addr / 4096)) (ha : addr < 0x04000000) (h4 : addr % 4 = 0) (h40 : 0x40 ≤ addr % 4096)
    (hs : slotAt addr = none) (hp : addr / 4096 ≠ 0x81) :
    s.hostWrite path addr be w =
      ((s.access 1 1 (pathMaster path) addr).writeReg s path addr (pathEnables path be) w).answer1 [] false false := by
  have hg := serves_dark h
  obtain ⟨hr, ho, hst, hu, hun, hd, hl⟩ := h
  have hal : addr / 4 * 4 = addr := by omega
  have hlock : s.locked addr (pathEnables path be) = false := by simp [Chip.locked, hl]
  have hd1 : s.discards addr (pathEnables path be) w = false := by
    simp [Chip.discards, hu, hun, hst, hlock, Chip.slotRefuses, hs, hd]
  have hl' : (s.access 1 1 (pathMaster path) addr).flag (F.hdrPgLockLock (addr / 4096)) = false := by
    rw [Chip.flag, Chip.getN, get_access _ _ _ _ _ _ ?_]
    · exact hl
    · refine ⟨by simp [F.hdrPgLockLock], ?_⟩
      simp only [F.hdrPgLockLock]; omega
  have hd' : (s.access 1 1 (pathMaster path) addr).pageDark (addr / 4096) = false := by
    simpa [Chip.pageDark, Chip.portIsDark, Chip.groupIsDark] using hd
  have hg' : (s.access 1 1 (pathMaster path) addr).groupShadow (addr / 4096) = false := by
    simpa [Chip.groupShadow, Chip.groupIsDark] using hg
  have h40' : ¬ addr % 4096 < 0x40 := by omega
  simp only [Chip.hostWrite, hr, Bool.not_true, Bool.false_eq_true, if_false, ha, if_true, hal, Chip.busWrite, hd1, ho,
    hst, hu, hun, Bool.or_self, Chip.pageWrite, Chip.locked, hl', Bool.false_and, Chip.slotRefuses, hs, h40', hd', hg']

/-- A host read of a served page is made as the register gives it, its parity checked, and seen by the ACCESS probes
(R40, R354). -/
theorem hostRead_serves (s : Chip) (path : Path) (addr lag : Nat)
    (h : s.serves path (addr / 4096)) (h4 : addr % 4 = 0) :
    s.hostRead path addr lag =
      (((s.readReg path addr lag).2.parityCheck addr).access 0 1 (pathMaster path) addr).answer1
        [(s.readReg path addr lag).1] false false := by
  obtain ⟨hr, ho, hst, hu, hun, hd, hl⟩ := h
  have hal : addr / 4 * 4 = addr := by omega
  simp [Chip.hostRead, hr, hal, Chip.busRead, Chip.pageRead, ho, hst, hu, hun]

end Sys2Proof.Machine
end

