-- ==== Sys2Proof/WellFormed.lean ====
section
/-! DEFINITION. Which terms are commands that the hardware can be given: addresses aligned and in range, lists as long as the hardware makes them. -/

namespace Sys2Proof

/-- A word of BAR0, or over PCIe of the rings of BAR2. -/
def hostAddr (path : Path) (addr : Nat) : Bool :=
  addr % 4 == 0 && (decide (addr < 0x04000000) || (decide (path = .pcie) && decide (0x05000000 ≤ addr ∧ addr < 0x06000000)))

/-- The lowest word of a wide value other than NOW and the slates, whose reads are rows of their own. -/
def wideLow (addr : Nat) : Bool :=
  match Machine.wideAt addr with
  | some (base, _) => addr == base && base != 0x20048 && !(decide (0x51000 ≤ base ∧ base < 0x59000) && base % 4096 == 0x48)
  | none => false

/-- A word of a wide value that the host writes. -/
def wideWord (addr : Nat) : Bool :=
  match Machine.wideAt addr with
  | some (base, _) => addr % 4 == 0 && Machine.writableWide base
  | none => false

/-- A frame of legal length. -/
def frameOk (f : RxFrame) : Bool := decide (64 ≤ f.len)

/-- The words that a request to the PCIe function brings. -/
def dataWords (op : PcieOp) (count : Nat) : Nat :=
  match op with
  | .write _ => count
  | .tableWrite _ => 1
  | .read _ | .powerState _ => 0

/-- Two lines for every channel of some TDC bank (R278). -/
def lineCount (n : Nat) : Bool := n == 2 * Machine.bankChannels 0 || n == 2 * Machine.bankChannels 8 || n == 2 * Machine.bankChannels 9

/-- The checks of a command's operands. -/
def Instr.wellFormed : Instr → Bool
  | .registerWrite path addr _ _ => hostAddr path addr.toNat
  | .wideLowRead _ addr => wideLow addr.toNat
  | .wideWrite _ addr _ _ => wideWord addr.toNat
  | .bar4Read offset count =>
    offset.toNat % 4 == 0 && decide (1 ≤ count ∧ count ≤ 1024 ∧ offset.toNat % 4096 + 4 * count ≤ 4096)
  | .bar4Write offset _ => offset.toNat % 4 == 0
  | .pcieMemRequest op addr _ _ count data =>
    hostAddr .pcie addr.toNat && decide (1 ≤ count ∧ count ≤ 1024) && data.length == dataWords op count
  | .calTdc _ lines _ => lineCount lines.length && lines.all (fun l => decide (1 ≤ l.length ∧ l.length ≤ 3))
  | .calLaneDelay _ tx rx => tx.length == 8 && rx.length == 8
  | .calDieLink _ delays => delays.length == 17
  | .masterPllLock _ phis => phis != []
  | .linkTrainingDone _ _ lanes => decide (1 ≤ lanes.length ∧ lanes.length ≤ 8)
  | .frameReceive f => frameOk f
  | .txRingServe f => frameOk f
  | .parityScan upsets => upsets.all (fun x => x.1.toNat % 4 == 0)
  | .voteRepair addr _ _ _ => addr.toNat % 4 == 0
  | .nowRead .. | .convert .. | .convertDone .. | .tblRead .. | .tblWrite .. | .tblOpDone .. | .schdRead ..
  | .schdWrite .. | .schdOpDone .. | .sessRead .. | .sessReadDone .. | .archRead .. | .archReadDone ..
  | .apply .. | .treeCheckDone .. | .injectA .. | .injectB .. | .injectBoth .. | .slateW0Read ..
  | .bankDataRead .. | .probeCountRead .. | .smbusBlockWrite .. | .smbusProcessCall .. | .smbusTimeout ..
  | .go .. | .admitFlow .. | .releaseFlow .. | .setTake .. | .tableCommit .. | .acceptStep .. | .reslate ..
  | .setAsym .. | .sessionOpen .. | .sessionClose .. | .calPllPhase .. | .calAsym .. | .snapshot ..
  | .readDailies .. | .deviceReset .. | .groupReset .. | .portReset .. | .setPowerState ..
  | .powerTransitionDone .. | .portModeWrite .. | .twoShotWrite .. | .enableWrite .. | .mergeEnWrite ..
  | .clkoutCfgWrite .. | .ppsoutCfgWrite .. | .evModeWrite .. | .rwpWrite .. | .persCommit ..
  | .dmaBatchWrite .. | .clapperMarker .. | .gripClapper .. | .gripOverrun .. | .directorOverrun ..
  | .servoCompute .. | .coastEntry .. | .directorMismatch .. | .directorSelftestDone .. | .gafferMismatch ..
  | .gafferSelftestDone .. | .sensorReading .. | .driftMeasure .. | .oscHourly .. | .dailyPlan ..
  | .avsStep .. | .avsReadbackTimeout .. | .telemetryPoll .. | .pmbAlert .. | .tempReading ..
  | .thermalTrip .. | .dipEntry .. | .dipEndCondition .. | .dipTimeout .. | .railResetLevel .. | .powerOn ..
  | .sequenceRailTimeout .. | .sequenceRestart .. | .masterLockTimeout .. | .resetReady ..
  | .warmResetAssert .. | .warmResetRelease .. | .thermalHoldRelease .. | .xoLoss .. | .xoReturn ..
  | .groupFault .. | .groupResetReady .. | .handshakeComplete .. | .pcieFlr .. | .pcieLinkDown ..
  | .masterPllLol .. | .masterPllRetry .. | .fallbackReturn .. | .corePllLol .. | .coreSettingChange ..
  | .coreStandbyLocked .. | .lanePllLol .. | .lanePllRelock .. | .ppsoutPulse .. | .tbinLoss ..
  | .tbinReturn .. | .eventEdge .. | .deadTimeEnd .. | .frameAdmission .. | .frameTailAdmission ..
  | .cellForm .. | .schedulerSlot .. | .bufferAudit .. | .bufferSweepDone .. | .txFrameStart ..
  | .txUnderrun .. | .txFrameEnd .. | .seqWaitExpiry .. | .fuseMarkerRx .. | .linkDown .. | .holdExpiry ..
  | .linkUp .. | .anFail .. | .anRetry .. | .mergeVerifyDone .. | .tableScrub .. | .takeBoundary ..
  | .gateEvent .. | .takeCutover .. | .esmcInfoTx .. | .esmcEventTx .. | .esmcPduRx .. | .esmcFailed ..
  | .ptpMessageRx .. | .annTimeout .. | .gripFault .. | .gripRestartDone .. | .ppsinPulse ..
  | .holdoffExpiry .. | .wtrExpiry .. | .refActivityLoss .. | .acquireStageSettle .. | .jtagInstruction ..
  | .pcsAlignment .. | .standbyPairMismatch .. | .gafferOverrun .. | .tbinPresent .. | .multiplierLock ..
  | .refActivityReturn .. | .vddAuxRemoval .. | .pcieLinkUp .. => true

end Sys2Proof
end

