-- ==== Sys2Proof/Tests/Slice0.lean ====
section
/-! SUPPORT. Tests: worked examples of the spec, terms that are not commands, and for every statement with hypotheses a
state and operands that meet them, at the ends of their ranges. -/


namespace Sys2Proof.Tests

open Sys2Proof.Machine Sys2Proof.Says

/-! ### Small states for the tests -/

/-- The block after reset. -/
def up : Chip := Chip.afterReset

/-- The block after reset with some fields set. -/
def reg (l : List (Fld × Nat)) : Chip := l.foldl (fun c e => c.setN e.1 e.2) up

/-- What the stamp logic reads of a frame at the instant of reset. -/
def stamp0 : LineStamp := ⟨0, 0, 0⟩

/-- A frame of one cell, from port 3 to port 47. -/
def frame1 : Frame :=
  { id := 7, order := 0, inPort := 3, inSub := 0, frameNo := 0, fromHost := false, direct := false, outPort := 47,
    outSub := 0, cls := 3, express := false, unadmitted := false, flow := none, entry := 0, len := 60, full := 60,
    inLen := 64, rxStamp := 0, hdr := ⟨[], 0, 0, 0, none, []⟩, tag := none, waiting := false, taken := false,
    stored := false, tailSeen := false, bad := false, ended := false, formed := 0, crossed := 0, upperCells := 0,
    link := 0, linkedAt := 0, rsv := 0, started := false, preempted := false, held := false, broken := false, member := 0 }

/-- The block with one frame in it. -/
def withFrame (f : Frame) : Chip := { up with frames := [f] }

/-- A label stack entry: label 5, S = 1, TTL 2. -/
def rx1 : BitVec 32 := 0x5102

/-- A received frame of one label on port 47. -/
def rx : RxFrame :=
  { port := 47, sub := 0, stamp := stamp0, len := 9216, da := 0, sa := 0, tags := [], etype := 0x8847, esmc := false,
    stack := [rx1], dcw := 0, nibble := 0, preempt := false, tag := none, fec := 0, upsets := [], tooLate := false, smd := .frame }

/-- A valid path entry of one label: its action, class and next hop 5. -/
def pathTo (label action cls : Nat) : BitVec 128 :=
  BitVec.ofNat 128 (2 ^ 127 + action * 2 ^ 115 + 2 ^ 112 + cls * 2 ^ 108 + 5 * 2 ^ 80 + label * 2 ^ 60)

/-- The same that writes no label. -/
def pathTo0 (label action cls : Nat) : BitVec 128 :=
  BitVec.ofNat 128 (2 ^ 127 + action * 2 ^ 115 + cls * 2 ^ 108 + 5 * 2 ^ 80 + label * 2 ^ 60)

/-- A valid next hop by a port, without a tag. -/
def hopTo (port : Nat) : BitVec 128 := BitVec.ofNat 128 (2 ^ 127 + port * 2 ^ 113)

/-- A valid flow entry of generation 5. -/
def flowTo (port cls maxf burst : Nat) (drop : Bool) : BitVec 128 :=
  BitVec.ofNat 128 (2 ^ 127 + 5 * 2 ^ 119 + port * 2 ^ 72 + cls * 2 ^ 65 + 3 * 2 ^ 61 + ofBool drop * 2 ^ 60
    + burst * 2 ^ 18 + maxf * 2 ^ 4)

/-- An admitted flow. -/
def flow1 : LFlow := ⟨8, 0, 5, 47, 7, 15, 1, 300, 300, 3, 0, 0, false, false⟩

/-- A SLAVE session on port 3, domain 4, whose last exchange is complete. -/
def session1 : Session :=
  { cfg := BitVec.ofNat 256 (3 * 2 ^ 243 + 4 * 2 ^ 232), peer := 0, learned := false, annTimeout := false,
    member := false, fresh := false, speid := 0, tlv := none, tlvSeen := 257, e := 0, delay := 0, nIn := none,
    nOut := none, run := 0, wIn := 0, wOut := 0, dIn := 0, dOut := 0, phases := [], ann := none, l1 := none, age := 0,
    sync := some ⟨1, 7, 0, 1, false, 0, 5⟩, syncPend := none, dly := some ⟨2, 4, 0, 1, false, 0, 9⟩, dlyPend := none,
    newPair := true, asked := [], seqs := ⟨0, 0, 0, 0⟩, owed := [], finished := none }

/-- A Sync message to that session. -/
def message1 : PtpMsg :=
  { port := 3, sub := 0, stamp := stamp0, transport := 0, vid := 0, label := 0, labelBottom := true, domain := 4,
    source := 0, kind := .sync, seqId := 0, twoStep := false, badTlv := false, time := 0, corr := 0, requester := true,
    ann := ⟨0, 0, 0, 0, 0, 0, 0, 0, 0, 0⟩, l1 := none, speid := none }

/-- What a quiet clapper measures. -/
def measured0 : MarkerIn := ⟨0, [], 0, 0, 0, 0, []⟩

/-- The block whose slot 15 holds a command due in this clapper. -/
def cmd (op : Nat) (params : List Word) : Chip :=
  { up with mail := { up.mail with slots := [(15, ⟨.due, op, 1, false, params, 0, []⟩)], order := [15], left := [15] } }

/-- A gate list of two entries of 1,000 ns. -/
def twoEntries : GateList := ⟨[(0, 1000 * 2 ^ 32 + 0xFFFF), (1, 1000 * 2 ^ 32 + 0xF)], 2, 2000, 0, []⟩

/-! ### Examples of the spec -/

/-- A cold reset's steps in order (Table 14-4) end in the state that the model calls reset. -/
theorem test_boot_is_reset :
    ((Chip.zero.powersOn ⟨0, [], false⟩).masterLock 0 [430]).resetEnds true true true = Chip.afterReset := by decide

/-- No row of the opcode table gives bits, so no word spells a command. -/
theorem test_no_words : decodeTableWord 32 5 = none ∧ State.reset.withFetchWord 32 5 = State.reset := by decide

/-- P40 with MAC Merge active and P9 split in eight. -/
def chip33 : Chip := reg [(F.admStatusMergeActive 40, 1), (F.port0ModeSplit 9, 3)]

/-- The flows of Table 3-3, with F3 of b bytes, on P40; F3 enters on subport 9.3 at 200 Gb/s. -/
def ledger33 (b : Nat) : List LFlow :=
  [⟨0, 0, 0, 40, 0, 15, 100000, 6080, 1500, 1, 0, chip33.hold16 1500 1 40, false, true⟩,
   ⟨1, 1, 0, 40, 0, 13, 50000, 9120, 1500, 1, 0, chip33.hold16 1500 1 40, false, true⟩,
   ⟨2, 2, 0, 40, 0, 14, 100000, b, 1500, 9, 3, chip33.hold16 1500 9 40, false, true⟩]

/-- Table 3-3: the bounds of C12 to C15 after F3 is admitted with b = 3,040 B. -/
theorem test_table_3_3 :
    chip33.bounds 40 0 (ledger33 3040) (fun _ => (1, 1, 0)) = [0, 105046, 109247, 38000] := by decide

/-- The worked example of R60: with b = 9,120 B, C14 is in conflict at 141,674 ps. -/
theorem test_ledger_conflict :
    chip33.checkClasses 40 0 (ledger33 9120) (fun _ => (1, 1, 0)) [15, 14, 13, 12] = .conflict 14 141674 := by decide

/-- The list of R158's example: C13 closed for `a` ns of 1,024. -/
def list73 (a : Nat) : GateList :=
  ⟨[(0, BitVec.ofNat 64 (a * 2 ^ 32 + 0xDFFF)), (1, BitVec.ofNat 64 ((1024 - a) * 2 ^ 32 + 0xFFFF))], 2, 1024, 0, []⟩

/-- The example after R159: the bound of C13 is 209.521 ns with 90 ns closed, rounded up, 118,946 ps with 10 ns. -/
theorem test_take_bounds :
    chip33.bound 40 0 (ledger33 3040) (list73 90).figures 13 = some (some 209522)
    ∧ chip33.bound 40 0 (ledger33 3040) (list73 10).figures 13 = some (some 118946) := by decide

/-- The example of R103: the labels 24,017 and 900,101 hash to 0xD62E, and of 6 members the frame takes 5. -/
theorem test_hash_r103 : hashLabels 0 [24017, 900101] = 0xD62E ∧ 4096 + hashLabels 0 [24017, 900101] * 6 / 65536 = 4101 := by
  decide

/-- The path entry written in the example of R103. -/
theorem test_path_entry_r103 :
    let e := entry128 0 0 0x1000493E 0x8081E714
    pathBad e = false ∧ pathGen e = 1 ∧ pathAction e = actSwap ∧ pathLcount e = 1 ∧ pathClass e = 14 ∧ pathUniform e = true
      ∧ pathTcCopy e = true ∧ pathIsGroup e = true ∧ pathGroupSize e = 5 ∧ pathNh e = 4096 ∧ pathLabel e 0 = 300000 := by
  decide

/-- The example of R104: TOP = 24,017 and SECOND = 900,101 give set 483. -/
theorem test_flow_set_r104 : flowSet true 24017 900101 = 483 := by decide

/-- The parameters of the example of R168. -/
def q168 : ParamSet := ⟨0, netTime 1700000000 999937500 + 3, 0x10000000, true, 0⟩

/-- The example of R168: 40,000 ns after ANCHOR. -/
theorem test_net_r168 : q168.netAt (BitVec.ofNat 64 (40000 * 65536)) = netTime 1700000000 999977500 + 0x9C7 := by decide

/-- The example of R170: NEXT_ANCHOR lies 62,500 ns after ANCHOR, and BASE is then 0x0F45 past the second. -/
theorem test_anchor_r170 :
    q168.reach (netTime 1700000001 0) = 0xF4240000 ∧ q168.netAt 0xF4240000 = netTime 1700000001 0 + 0xF45 := by decide

/-- The example of R173: the marker after the first alignment falls 112,655 ns later and carries number 6,402. -/
theorem test_align_r173 :
    let t := ({ up with time := { up.time with cur := ⟨0, netTime 1700000100 400012345, 0, true, 0⟩ } } : Chip).placeMarker true
    t.time.nextAnchor = BitVec.ofNat 64 (112655 * 65536) ∧ t.time.nextNumber = 6402 := by decide

/-- The example of R182: e = +10 ns gives RATE = 0xFD60956C with the default shifts. -/
theorem test_servo_r182 :
    ((up.slew (some (10 * 65536 * 2 ^ 32))).time.nextRate).map (fun r => word (twos 32 r)) = some 0xFD60956C := by decide

/-- Table 9-5: the 1588 offset +0.325 ns, N_in = N_out = 7,658, and the Speid offset +0.030 ns. -/
theorem test_table_9_5 :
    (offset1588 3212096962 3212028149 200 = 21299 ∨ offset1588 3212096962 3212028149 200 = 21300)
    ∧ (resolve 3212096962 25125558682).1 = 7658 ∧ (resolve 3212028149 15247134328).1 = 7658
    ∧ (offset1588 3212074680 3212044534 200 = 1965 ∨ offset1588 3212074680 3212044534 200 = 1966) := by
  refine ⟨freeDiv_eq_or _ _ _, by decide, by decide, freeDiv_eq_or _ _ _⟩

/-- The channel of the example of R263: the map of EVCLK, the subtracted term of 105,800.1 units as that of tap 150 on the
common grid, and SEQ 0x1F40. -/
def chip263 : Chip :=
  { reg [(F.tdc0TbstatusInUse, 1), (F.cal0StatusTdcDone, 0x100)] with
    slateSeq := [(eventSource 3, 0x1F40)]
    banks := { up.banks with
      mapRaw := 0x0000010000008000, mapEdge := 7, mapRho := 2199023, grid := [6933715354]
      intervals := [(3, List.replicate 151 0)] } }

/-- The example of R263: the slate of EV3 for a rising edge sampled 40,000 edges after C_k, past 150 taps. -/
theorem test_slate_r263 :
    chip263.openSlate 3 true (chip263.edgeStamp 3 40007 150 false) (chip263.edgeBare 40007 false) false
      = 0x000001009C3EF7332003040000001F40 := by decide

/-- The example of R33: the high word of RAW comes from the shadow that the read of the low word latched. -/
theorem test_shadow_r33 :
    let s : Chip := { up with time := { up.time with raw := 0x3FFFF0000 } }
    let a := s.hostRead .pcie 0x20040 0
    let b := ({ a with time := { a.time with raw := 0x400000000 } } : Chip).hostRead .pcie 0x20044 0
    a.reply.data = [0xFFFF0000] ∧ b.reply.data = [3] := by decide

/-- The example of R349: BREAK_LINK of subport 0 of P40 lies at bank offset 0x2902C. -/
theorem test_bank_r349 : bankOffset (F.admSubBreakLink 40 0).addr = some 0x2902C := by decide

/-- The example of R62: with maxf = 1,500 and b = 3,040 two frames conform, and then the bucket is empty. -/
theorem test_bucket_r62 :
    let s : Chip := { up with flow := [(8, flowTo 40 14 1500 3040 true)] }
    s.bucketHolds 8 1520 = true ∧ (s.bucketTake 8 1520).bucketHolds 8 1520 = true
      ∧ ((s.bucketTake 8 1520).bucketTake 8 1520).bucketHolds 8 1 = false := by decide

/-! ### Terms that are not commands of the hardware -/

theorem test_ill_formed_register : (Instr.registerWrite .pcie 0x3041 0xF 0).wellFormed = false
    ∧ (Instr.registerWrite .smbus 0x5000000 0xF 0).wellFormed = false := by decide
theorem test_ill_formed_wide : (Instr.wideLowRead .pcie 0x20048).wellFormed = false
    ∧ (Instr.wideWrite .pcie 0x3040 0xF 0).wellFormed = false := by decide
theorem test_ill_formed_bank : (Instr.bar4Read 0xFFC 2).wellFormed = false ∧ (Instr.bar4Write 2 0).wellFormed = false := by
  decide
theorem test_ill_formed_request : (Instr.pcieMemRequest (.write none) 0x3040 0xF 0 1 []).wellFormed = false
    ∧ (Instr.pcieMemRequest (.read none) 0x3040 0xF 0 0 []).wellFormed = false := by decide
theorem test_ill_formed_cal : (Instr.calTdc 0 [[]] ⟨[], [], []⟩).wellFormed = false
    ∧ (Instr.calTdc 0 (List.replicate 12 []) ⟨[], [], []⟩).wellFormed = false
    ∧ (Instr.calLaneDelay 0 [] []).wellFormed = false ∧ (Instr.calDieLink 0 []).wellFormed = false := by decide
theorem test_ill_formed_links : (Instr.masterPllLock 0 []).wellFormed = false
    ∧ (Instr.linkTrainingDone 0 0 []).wellFormed = false := by decide
theorem test_ill_formed_frame : (Instr.frameReceive { rx with len := 63 }).wellFormed = false
    ∧ (Instr.txRingServe { rx with len := 63 }).wellFormed = false := by decide
theorem test_ill_formed_upsets : (Instr.parityScan [(2, 1)]).wellFormed = false
    ∧ (Instr.voteRepair 2 0 0 0).wellFormed = false := by decide
theorem test_well_formed : (Instr.registerWrite .pcie 0x5000040 0xF 0).wellFormed = true
    ∧ (Instr.wideLowRead .smbus 0x20040).wellFormed = true ∧ (Instr.frameReceive rx).wellFormed = true := by decide

/-! ### What meets the hypotheses of the statements -/

theorem witness_IdleStepPassesOneEdge : ∃ s : State, s.pending = [] ∧ s.chip.time.running = true := ⟨State.reset, by decide⟩

theorem witness_StepKeepsRawTimeWhole : ∃ s t : State, RawWhole s ∧ step s = .next t :=
  ⟨State.reset, ⟨State.reset.chip.elapse 1, []⟩, by dsimp only [RawWhole]; decide, rfl⟩

theorem witness_StepKeepsFramesInRange : ∃ s t : State, s.chip.framesInRange ∧ step s = .next t :=
  ⟨⟨withFrame frame1, []⟩, ⟨(withFrame frame1).elapse 1, []⟩, by dsimp only [Chip.framesInRange]; decide, rfl⟩

theorem witness_StepKeepsRingMemoryCanonical : ∃ s t : State, Store.canonical 0 s.chip.ringMem = true ∧ step s = .next t :=
  ⟨⟨{ up with ringMem := [(descKey 8 0 2, 60)] }, []⟩, ⟨({ up with ringMem := [(descKey 8 0 2, 60)] } : Chip).elapse 1, []⟩,
    by decide, rfl⟩

theorem witness_RegisterWritesActByAccessCode :
    (∃ (path : Path) (addr : BitVec 27) (be : BitVec 4) (data : Word) (s : State), let a := addr.toNat; a < 0x04000000 ∧
        a % 4 = 0 ∧ a / 4096 ≠ 0x81 ∧ actingAddr a = false ∧ s.chip.serves path (a / 4096) ∧ (heldWord a = true → s.chip.fusedUpper (a / 0x10000 - 0x200) = false) ∧
        (∀ x, slotAt a = some x → x.2 ≤ 0xE0 → s.chip.slotHeld x.1 = false))
    ∧ (∃ (path : Path) (addr : BitVec 27) (be : BitVec 4) (data : Word) (s : State), let a := addr.toNat; a < 0x04000000 ∧
        a % 4 = 0 ∧ a / 4096 ≠ 0x81 ∧ actingAddr a = false ∧ s.chip.serves path (a / 4096) ∧ (heldWord a = true → s.chip.fusedUpper (a / 0x10000 - 0x200) = false) ∧
        (∀ x, slotAt a = some x → x.2 ≤ 0xE0 → s.chip.slotHeld x.1 = false))
    ∧ (∃ (path : Path) (be : BitVec 4) (data : Word) (s : State), s.chip.serves path 3)
    ∧ (∃ (path : Path) (be : BitVec 4) (data : Word) (s : State), s.chip.serves path 3)
    ∧ (∃ (path : Path) (be : BitVec 4) (data : Word) (s : State), s.chip.serves path 3)
    ∧ (∃ (path : Path) (be : BitVec 4) (data : Word) (s : State), s.chip.serves path 3)
    ∧ (∃ (path : Path) (addr : BitVec 27) (be : BitVec 4) (data : Word) (s : State), let a := addr.toNat; let pg := a / 4096;
        a < 0x04000000 ∧ a % 4 = 0 ∧ 0x40 ≤ a % 4096 ∧ pg ≠ 0x81 ∧ s.chip.reaches path = true ∧ occupied pg = true ∧
        s.chip.stopped pg = false ∧ s.chip.unpowered pg = false ∧ s.chip.unreachable pg = false ∧ s.chip.locked a (pathEnables path be) = true)
    ∧ (∃ (path : Path) (addr : BitVec 27) (be : BitVec 4) (data : Word) (s : State), let a := addr.toNat; let pg := a / 4096;
        a < 0x04000000 ∧ a % 4 = 0 ∧ s.chip.reaches path = true ∧ occupied pg = true ∧ s.chip.stopped pg = false ∧
        s.chip.unpowered pg = false ∧ s.chip.unreachable pg = true)
    ∧ (∃ (addr : BitVec 26) (be : BitVec 4) (head : SmbHead) (s : State), let a := addr.toNat; a % 4 = 0 ∧ a / 4096 ≠ 0x81 ∧
        a ≠ bankDataAddr ∧ wideAt a = none ∧ occupied (a / 4096) = true ∧ s.chip.stopped (a / 4096) = false ∧
        s.chip.unpowered (a / 4096) = false ∧ s.chip.unreachable (a / 4096) = false ∧ s.chip.badParity.contains a = false ∧
        s.chip.reaches .pcie = true)
    ∧ (∃ (addr : BitVec 27) (be : BitVec 4) (s : State), let a := addr.toNat; let pg := a / 4096; a < 0x04000000 ∧ a % 4 = 0 ∧
        a % 4096 ≠ 0 ∧ a % 4096 ≠ 4 ∧ s.chip.reaches .pcie = true ∧ occupied pg = true ∧ s.chip.stopped pg = false ∧
        s.chip.unpowered pg = false ∧ s.chip.unreachable pg = true)
    ∧ (∃ (path : Path) (addr : BitVec 27) (be : BitVec 4) (data : Word) (n : Nat) (o : Nat) (s : State), let a := addr.toNat;
        a % 4 = 0 ∧ slotAt a = some (n, o) ∧ o ≤ 0xE0 ∧ (o = 0 → bit (data &&& beMask (pathEnables path be)) 31 = false) ∧
        s.chip.serves path (a / 4096))
    ∧ (∃ (path : Path) (addr : BitVec 27) (be : BitVec 4) (data : Word) (n : Nat) (o : Nat) (s : State), let a := addr.toNat;
        a % 4 = 0 ∧ slotAt a = some (n, o) ∧ o ≤ 0xE0 ∧ (o = 0 → bit (data &&& beMask (pathEnables path be)) 31 = false) ∧
        s.chip.serves path (a / 4096))
    ∧ (∃ (path : Path) (p : Fin 48) (k : Fin 8) (be : BitVec 4) (data : Word) (s : State), s.chip.serves path (0x2001 + p.val * 16))
    ∧ (∃ (path : Path) (p : Fin 48) (sub : Fin 8) (be : BitVec 4) (data : Word) (s : State), s.chip.serves path (0x140 + p.val))
    ∧ (∃ (path : Path) (p : Fin 48) (k : Fin 16) (be : BitVec 4) (data : Word) (s : State), s.chip.serves path 0x120)
    ∧ (∃ (path : Path) (be : BitVec 4) (data : Word) (s : State), s.chip.serves path 0x50)
    ∧ (∃ (path : Path) (p : Fin 48) (be : BitVec 4) (data : Word) (s : State), s.chip.serves path (0x2006 + p.val * 16))
    ∧ (∃ (path : Path) (be : BitVec 4) (data : Word) (s : State), s.chip.serves path 0x100)
    ∧ (∃ (path : Path) (e : Fin 8) (be : BitVec 4) (data : Word) (s : State), s.chip.serves path (0x51 + e.val) ∧
        s.chip.getN (F.evCtrlMode e) = 2) :=
  ⟨⟨.pcie, 0x3040, 0xF, 1, ⟨up, []⟩, by dsimp only [Chip.serves]; decide⟩,
   ⟨.smbus, 0x22F2040, 0xF, 1, ⟨up, []⟩, by dsimp only [Chip.serves]; decide⟩,
   ⟨.pcie, 0xF, 1, ⟨up, []⟩, by dsimp only [Chip.serves]; decide⟩,
   ⟨.smbus, 0, 1, ⟨up, []⟩, by dsimp only [Chip.serves]; decide⟩,
   ⟨.pcie, 0xF, 1, ⟨up, []⟩, by dsimp only [Chip.serves]; decide⟩,
   ⟨.smbus, 0, 1, ⟨up, []⟩, by dsimp only [Chip.serves]; decide⟩,
   ⟨.pcie, 0x3044, 0xF, 1, ⟨reg [(F.hdrPgLockLock 3, 1)], []⟩, by dsimp only; decide⟩,
   ⟨.pcie, 0x2000FFC, 0xF, 1, ⟨{ up with power := { up.power with inReset := [0x2000] } }, []⟩,
       by dsimp only; decide⟩,
   ⟨0x3040, 0xF, ⟨0x58, 2, true⟩, ⟨up, []⟩, by dsimp only; decide⟩,
   ⟨0x2000040, 0xF, ⟨{ up with power := { up.power with inReset := [0x2000] } }, []⟩, by dsimp only; decide⟩,
   ⟨.pcie, BitVec.ofNat 27 ((F.cmdSlotCmdGo 15).addr + 0xE0), 0xF, 1, 15, 0xE0, ⟨{ up with mail := { up.mail with slots := [(15, ⟨.waiting, 1, 0, false, [], 0, []⟩)] } }, []⟩,
       by dsimp only [Chip.serves]; decide⟩,
   ⟨.pcie, BitVec.ofNat 27 (F.cmdSlotCmdGo 0).addr, 0xF, 0x7FFFFFFF, 0, 0, ⟨up, []⟩,
       by dsimp only [Chip.serves]; decide⟩,
   ⟨.pcie, 47, 7, 0xF, 1, ⟨up, []⟩, by dsimp only [Chip.serves]; decide⟩,
   ⟨.pcie, 47, 7, 0xF, 1, ⟨up, []⟩, by dsimp only [Chip.serves]; decide⟩,
   ⟨.pcie, 47, 15, 0xF, 1, ⟨up, []⟩, by dsimp only [Chip.serves]; decide⟩,
   ⟨.pcie, 0xF, 1, ⟨up, []⟩, by dsimp only [Chip.serves]; decide⟩,
   ⟨.pcie, 47, 0xF, 1, ⟨up, []⟩, by dsimp only [Chip.serves]; decide⟩,
   ⟨.pcie, 0xF, 7, ⟨up, []⟩, by dsimp only [Chip.serves]; decide⟩,
   ⟨.pcie, 7, 0xF, 1, ⟨reg [(F.evCtrlMode 7, 2)], []⟩, by dsimp only [Chip.serves]; decide⟩⟩

theorem witness_WideRegistersMoveWhole :
    (∃ (path : Path) (be : BitVec 4) (lo : Word) (s : State), s.chip.serves path 0x20)
    ∧ (∃ (path : Path) (lo : Word) (hi : Word) (s : State), s.chip.serves path 0x20 ∧ Store.read (0, 0) s.chip.held (F.time0ConvRawLo.addr * 2 + pathNo path) = (0xF, lo))
    ∧ (∃ (path : Path) (base : BitVec 26) (be : BitVec 4) (lo : Word) (hi : Word) (s : State), let a := base.toNat;
        writableWide a = true ∧ (a < 0x51000 ∨ 0x59000 ≤ a) ∧ s.chip.serves path (a / 4096) ∧ (0x02000000 ≤ a → s.chip.fusedUpper (a / 0x10000 - 0x200) = false) ∧
        Store.read (0, 0) s.chip.held (a * 2 + pathNo path) = (0xF, lo))
    ∧ (∃ (path : Path) (s : State), s.chip.serves path 0x20 ∧ s.chip.badParity.contains 0x20060 = false)
    ∧ (∃ (path : Path) (base : BitVec 26) (n : Nat) (s : State), let a := base.toNat; wideAt a = some (a, n) ∧ (a < 0x51000 ∨ 0x59000 ≤ a ∨ a % 4096 ≠ 0x48) ∧
        s.chip.serves path (a / 4096) ∧ s.chip.badParity.contains a = false)
    ∧ (∃ (path : Path) (lag : Fin 4) (s : State), s.chip.serves path 0x20 ∧ s.chip.badParity.contains 0x20048 = false) :=
  ⟨⟨.pcie, 0xF, 1, ⟨up, []⟩, by dsimp only [Chip.serves]; decide⟩,
   ⟨.smbus, 5, 1, ⟨{ up with held := [(F.time0ConvRawLo.addr * 2 + 1, (0xF, 5))] }, []⟩,
       by dsimp only [Chip.serves]; decide⟩,
   ⟨.smbus, BitVec.ofNat 26 F.time0ConvRawLo.addr, 0xF, 5, 1, ⟨{ up with held := [(F.time0ConvRawLo.addr * 2 + 1, (0xF, 5))] }, []⟩,
       by dsimp only [Chip.serves]; decide⟩,
   ⟨.pcie, ⟨up, []⟩, by dsimp only [Chip.serves]; decide⟩,
   ⟨.pcie, 0x20060, 2, ⟨up, []⟩, by dsimp only [Chip.serves]; decide⟩,
   ⟨.pcie, 3, ⟨up, []⟩, by dsimp only [Chip.serves]; decide⟩⟩

theorem witness_WindowsCaptureAndAnswer :
    (∃ (path : Path) (s : State), s.chip.serves path 0x20 ∧ s.chip.convBusy = none)
    ∧ (∃ (path : Path) (s : State), s.chip.serves path 0x20 ∧ s.chip.convBusy.isSome = true)
    ∧ (∃ (x : Raw) (s : State), s.chip.convBusy = some x ∧ s.chip.setAt x ≠ none)
    ∧ (∃ (x : Raw) (s : State), s.chip.convBusy = some x ∧ s.chip.setAt x = none)
    ∧ (∃ (x : Raw) (s : State), s.chip.convBusy = some x ∧ (s.chip.setAt x).map (fun q => q.isSet) = some true)
    ∧ (∃ (path : Path) (upset : Option (BitVec 256)) (s : State), s.chip.serves path 0x21 ∧ s.chip.sessBusy = none)
    ∧ (∃ (n : Nat) (w : Bool) (s : State), s.chip.sessBusy = some (n, w, none) ∧ s.chip.session n = none)
    ∧ (∃ (n : Nat) (w : Bool) (s : State), s.chip.sessBusy = some (n, w, none) ∧ s.chip.session n ≠ none)
    ∧ (∃ (n : Nat) (w : Bool) (x : Session) (flips : BitVec 256) (s : State), s.chip.sessBusy = some (n, w, some flips) ∧
        s.chip.session n = some x)
    ∧ (∃ (path : Path) (s : State), s.chip.serves path 0x33 ∧ s.chip.archBusy = none)
    ∧ (∃ (e : BitVec 128) (s : State), s.chip.archBusy = some e) :=
  ⟨⟨.pcie, ⟨up, []⟩, by dsimp only [Chip.serves]; decide⟩,
   ⟨.pcie, ⟨{ up with convBusy := some 5 }, []⟩, by dsimp only [Chip.serves]; decide⟩,
   ⟨5, ⟨{ up with convBusy := some 5 }, []⟩, by decide⟩,
   ⟨5, ⟨{ up with convBusy := some 5, time := { up.time with hist := [] } }, []⟩, by decide⟩,
   ⟨5, ⟨{ up with convBusy := some 5, time := { up.time with cur := { up.time.cur with isSet := true }, hist := [{ up.time.cur with isSet := true }] } }, []⟩,
       by decide⟩,
   ⟨.pcie, some 1, ⟨up, []⟩, by dsimp only [Chip.serves]; decide⟩,
   ⟨16383, true, ⟨{ up with sessBusy := some (16383, true, none) }, []⟩, by decide⟩,
   ⟨3, true, ⟨{ up with sessBusy := some (3, true, none), sessions := [(3, session1)] }, []⟩, by decide⟩,
   ⟨3, true, session1, 1, ⟨{ up with sessBusy := some (3, true, some 1), sessions := [(3, session1)] }, []⟩,
       by decide⟩,
   ⟨.pcie, ⟨up, []⟩, by dsimp only [Chip.serves]; decide⟩,
   ⟨5, ⟨{ up with archBusy := some 5 }, []⟩, by decide⟩⟩

theorem witness_TableWindowsCaptureAtTheTrigger :
    (∃ (path : Path) (w : Fin 5) (data : Word) (s : State), s.chip.serves path (0x200 + w.val) ∧ Store.find w.val s.chip.windows = none)
    ∧ (∃ (path : Path) (w : Fin 5) (data : Word) (s : State), s.chip.serves path (0x200 + w.val) ∧ Store.find w.val s.chip.windows = none)
    ∧ (∃ (path : Path) (w : Fin 2) (s : State), s.chip.serves path (0x110 + w.val) ∧ Store.find (5 + w.val) s.chip.windows = none)
    ∧ (∃ (path : Path) (w : Fin 2) (andRead : Bool) (s : State), s.chip.serves path (0x110 + w.val) ∧ Store.find (5 + w.val) s.chip.windows = none) :=
  ⟨⟨.pcie, 4, 1, ⟨up, []⟩, by dsimp only [Chip.serves]; decide⟩,
   ⟨.pcie, 4, 1, ⟨up, []⟩, by dsimp only [Chip.serves]; decide⟩,
   ⟨.pcie, 1, ⟨up, []⟩, by dsimp only [Chip.serves]; decide⟩,
   ⟨.pcie, 1, true, ⟨up, []⟩, by dsimp only [Chip.serves]; decide⟩⟩

theorem witness_TableWindowResults :
    (∃ (w : Fin 5) (o : WinOp) (s : State), Store.find w.val s.chip.windows = some o ∧ o.read = true ∧ o.write = false ∧
        o.index < tableSize w.val ∧ s.chip.failed w.val o.index = false)
    ∧ (∃ (w : Fin 5) (o : WinOp) (s : State), Store.find w.val s.chip.windows = some o ∧ o.read = true ∧ o.write = false ∧
        tableSize w.val ≤ o.index)
    ∧ (∃ (w : Fin 5) (o : WinOp) (flips : BitVec 128) (double : Bool) (s : State), Store.find w.val s.chip.windows = some o ∧
        o.read = true ∧ o.write = false ∧ o.index < tableSize w.val ∧ s.chip.failed w.val o.index = false ∧ double = true)
    ∧ (∃ (w : Fin 5) (o : WinOp) (flips : BitVec 128) (double : Bool) (s : State), Store.find w.val s.chip.windows = some o ∧
        o.read = true ∧ o.write = false ∧ o.index < tableSize w.val ∧ s.chip.failed w.val o.index = false ∧ double = false)
    ∧ (∃ (w : Fin 5) (o : WinOp) (s : State), (w.val = 2 ∨ w.val = 3) ∧ Store.find w.val s.chip.windows = some o ∧
        o.read = false ∧ o.write = true ∧ o.index < tableSize w.val)
    ∧ (∃ (w : Fin 5) (o : WinOp) (s : State), (w.val = 2 ∨ w.val = 3) ∧ Store.find w.val s.chip.windows = some o ∧
        o.read = false ∧ o.write = true ∧ o.index < tableSize w.val)
    ∧ (∃ (w : Fin 5) (o : WinOp) (s : State), Store.find w.val s.chip.windows = some o ∧ (o.read = true ∨ o.write = true) ∧
        tableSize w.val ≤ o.index) :=
  ⟨⟨4, ⟨true, false, 1023, false, 0, false, 0, 0⟩, ⟨{ up with windows := [(4, ⟨true, false, 1023, false, 0, false, 0, 0⟩)] }, []⟩,
       by decide⟩,
   ⟨4, ⟨true, false, 1024, false, 0, false, 0, 0⟩, ⟨{ up with windows := [(4, ⟨true, false, 1024, false, 0, false, 0, 0⟩)] }, []⟩,
       by decide⟩,
   ⟨4, ⟨true, false, 1023, false, 0, false, 0, 0⟩, 1, true, ⟨{ up with windows := [(4, ⟨true, false, 1023, false, 0, false, 0, 0⟩)] }, []⟩,
       by decide⟩,
   ⟨4, ⟨true, false, 1023, false, 0, false, 0, 0⟩, 1, false, ⟨{ up with windows := [(4, ⟨true, false, 1023, false, 0, false, 0, 0⟩)] }, []⟩,
       by decide⟩,
   ⟨2, ⟨false, true, 65535, false, 0, false, 0, 0⟩, ⟨{ up with windows := [(2, ⟨false, true, 65535, false, 0, false, 0, 0⟩)] }, []⟩,
       by decide⟩,
   ⟨3, ⟨false, true, 65535, false, 0, false, 0, 0⟩, ⟨{ up with windows := [(3, ⟨false, true, 65535, false, 0, false, 0, 0⟩)] }, []⟩,
       by decide⟩,
   ⟨4, ⟨true, false, 1024, false, 0, false, 0, 0⟩, ⟨{ up with windows := [(4, ⟨true, false, 1024, false, 0, false, 0, 0⟩)] }, []⟩,
       by decide⟩⟩

theorem witness_WindowWritesReachTheirEntries :
    (∃ (o : WinOp) (s : State), Store.find 0 s.chip.windows = some o ∧ o.read = false ∧ o.write = true ∧ o.index < tableSize 0 ∧
        pathBad o.data = false ∧ (o.checkGen = false ∨ bits (s.chip.tentry 0 o.index) 126 119 = o.expectGen.toNat))
    ∧ (∃ (w : Fin 2) (o : WinOp) (s : State), let k := 5 + w.val; Store.find k s.chip.windows = some o ∧ o.read = true ∧
        o.write = false ∧ schdPort k o.index < 48 ∧ s.chip.schdBad k (schdPort k o.index) (schdEntry k o.index) o.bank = false)
    ∧ (∃ (w : Fin 2) (o : WinOp) (s : State), let k := 5 + w.val; Store.find k s.chip.windows = some o ∧ o.read = true ∧
        o.write = false ∧ schdPort k o.index < 48 ∧ s.chip.schdBad k (schdPort k o.index) (schdEntry k o.index) o.bank = false)
    ∧ (∃ (w : Fin 2) (o : WinOp) (s : State), let k := 5 + w.val; let p := schdPort k o.index; Store.find k s.chip.windows = some o ∧
        o.read = false ∧ o.write = true ∧ p < 48 ∧ o.bank = true)
    ∧ (∃ (w : Fin 2) (o : WinOp) (s : State), let k := 5 + w.val; let p := schdPort k o.index; Store.find k s.chip.windows = some o ∧
        o.read = false ∧ o.write = true ∧ p < 48 ∧ o.bank = false ∧ o.target = 0)
    ∧ (∃ (w : Fin 2) (o : WinOp) (s : State), let k := 5 + w.val; let p := schdPort k o.index; Store.find k s.chip.windows = some o ∧
        o.read = false ∧ o.write = true ∧ p < 48 ∧ o.bank = false ∧ o.target ≠ 0) :=
  ⟨⟨⟨false, true, 1048575, false, 0, false, 0, 0⟩, ⟨{ up with windows := [(0, ⟨false, true, 1048575, false, 0, false, 0, 0⟩)] }, []⟩,
       by decide⟩,
   ⟨0, ⟨true, false, 12287, true, 0, false, 0, 0⟩, ⟨{ up with windows := [(5, ⟨true, false, 12287, true, 0, false, 0, 0⟩)] }, []⟩,
       by dsimp only; decide⟩,
   ⟨1, ⟨true, false, 49151, false, 0, false, 0, 0⟩, ⟨{ up with windows := [(6, ⟨true, false, 49151, false, 0, false, 0, 0⟩)] }, []⟩,
       by dsimp only; decide⟩,
   ⟨0, ⟨false, true, 12287, true, 0, false, 0, 0⟩, ⟨{ up with windows := [(5, ⟨false, true, 12287, true, 0, false, 0, 0⟩)] }, []⟩,
       by dsimp only; decide⟩,
   ⟨0, ⟨false, true, 12287, false, 0, false, 0, 0⟩, ⟨{ up with windows := [(5, ⟨false, true, 12287, false, 0, false, 0, 0⟩)] }, []⟩,
       by dsimp only; decide⟩,
   ⟨1, ⟨false, true, 49151, false, 5, false, 0, 1⟩, ⟨{ up with windows := [(6, ⟨false, true, 49151, false, 5, false, 0, 1⟩)] }, []⟩,
       by dsimp only; decide⟩⟩

theorem witness_ReadsThatAct :
    (∃ (path : Path) (e : Fin 8) (w : BitVec 128) (l : List (BitVec 128)) (s : State), s.chip.serves path (0x51 + e.val) ∧
        s.chip.badParity.contains (0x51048 + e.val * 0x1000) = false ∧ (s.chip.channel e.val).reel = w :: l ∧
        s.chip.evMode e.val ≠ 2)
    ∧ (∃ (path : Path) (s : State), s.chip.serves path 0x80 ∧ s.chip.badParity.contains 0x8005C = false)
    ∧ (∃ (path : Path) (k : Fin 64) (s : State), s.chip.serves path 0x81 ∧ s.chip.badParity.contains (F.pcnt1Count k.val).addr = false ∧
        k.val < 63 ∧ s.chip.getN (F.pcnt1CfgSource (k.val + 1)) = 2)
    ∧ (∃ (path : Path) (k : Fin 64) (s : State), s.chip.serves path 0x81 ∧ s.chip.badParity.contains (F.pcnt1Count k.val).addr = false) :=
  ⟨⟨.pcie, 7, 1, [2], ⟨{ up with tdc := [(7, ⟨[1, 2], [0, 0], none, false, none⟩)] }, []⟩,
       by dsimp only [Chip.serves]; decide⟩,
   ⟨.pcie, ⟨up, []⟩, by dsimp only [Chip.serves]; decide⟩,
   ⟨.pcie, 62, ⟨reg [(F.pcnt1CfgSource 63, 2)], []⟩, by dsimp only [Chip.serves]; decide⟩,
   ⟨.pcie, 63, ⟨up, []⟩, by dsimp only [Chip.serves]; decide⟩⟩

theorem witness_UserWindowAndSmallRequests :
    (∃ (offset : BitVec 20) (count : Nat) (s : State), s.chip.pcieServes = true ∧ s.chip.ready = true ∧
        s.chip.safeStop = false ∧ s.chip.flag F.sysCtrlUserRead = true)
    ∧ (∃ (offset : BitVec 20) (count : Nat) (s : State), s.chip.pcieServes = true ∧ s.chip.ready = true ∧
        s.chip.safeStop = false ∧ s.chip.flag F.sysCtrlUserRead = false)
    ∧ (∃ (offset : BitVec 20) (data : Word) (s : State), s.chip.pcieServes = true)
    ∧ (∃ (be : BitVec 4) (s : State), s.chip.serves .pcie 3 ∧ s.chip.badParity = [])
    ∧ (∃ (firstBe : BitVec 4) (lastBe : BitVec 4) (d0 : Word) (d1 : Word) (s : State), s.chip.serves .pcie 3) :=
  ⟨⟨0, 1024, ⟨reg [(F.sysCtrlUserRead, 1)], []⟩, by decide⟩,
   ⟨0xFFFFC, 1, ⟨up, []⟩, by decide⟩,
   ⟨0, 1, ⟨up, []⟩, by decide⟩,
   ⟨0xF, ⟨up, []⟩, by dsimp only [Chip.serves]; decide⟩,
   ⟨0x3, 0xC, 1, 1, ⟨up, []⟩, by dsimp only [Chip.serves]; decide⟩⟩

theorem witness_PcieRequestsAreTheirAccessesInOrder :
    (∃ (isWrite : Bool) (addr : BitVec 27) (firstBe : BitVec 4) (lastBe : BitVec 4) (count : Nat) (data : List Word) (s : State),
        s.chip.reaches .pcie = true ∧ addr.toNat % 4 = 0 ∧ addr.toNat < 0x04000000 ∧ (16 < count ∨ 4096 < addr.toNat % 4096 + 4 * count))
    ∧ (∃ (isWrite : Bool) (addr : BitVec 27) (firstBe : BitVec 4) (lastBe : BitVec 4) (count : Nat) (data : List Word) (s : State),
        s.chip.reaches .pcie = true ∧ addr.toNat % 4 = 0 ∧ addr.toNat < 0x04000000 ∧ (16 < count ∨ 4096 < addr.toNat % 4096 + 4 * count))
    ∧ (∃ (addr : BitVec 27) (firstBe : BitVec 4) (lastBe : BitVec 4) (d : Word) (s : State), s.chip.reaches .pcie = true ∧
        addr.toNat % 4 = 0 ∧ addr.toNat < 0x04000000)
    ∧ (∃ (isWrite : Bool) (addr : BitVec 27) (firstBe : BitVec 4) (lastBe : BitVec 4) (n : Nat) (data : List Word) (s : State),
        s.chip.reaches .pcie = true ∧ addr.toNat % 4 = 0 ∧ addr.toNat < 0x04000000 ∧ 1 ≤ n ∧ n + 1 ≤ 16 ∧ addr.toNat % 4096 + 4 * (n + 1) ≤ 4096)
    ∧ (∃ (isWrite : Bool) (addr : BitVec 27) (firstBe : BitVec 4) (lastBe : BitVec 4) (n : Nat) (data : List Word) (s : State),
        s.chip.reaches .pcie = true ∧ addr.toNat % 4 = 0 ∧ addr.toNat < 0x04000000 ∧ 1 ≤ n ∧ n + 1 ≤ 16 ∧ addr.toNat % 4096 + 4 * (n + 1) ≤ 4096)
    ∧ (∃ (addr : BitVec 27) (firstBe : BitVec 4) (lastBe : BitVec 4) (n : Nat) (count : Nat) (data : List Word) (s : State),
        s.chip.reaches .pcie = true ∧ addr.toNat % 4 = 0 ∧ addr.toNat < 0x04000000 ∧ 1 ≤ n ∧ n < count ∧ count ≤ 16 ∧
        addr.toNat % 4096 + 4 * count ≤ 4096)
    ∧ (∃ (addr : BitVec 27) (firstBe : BitVec 4) (lastBe : BitVec 4) (n : Nat) (count : Nat) (data : List Word) (s : State),
        s.chip.reaches .pcie = true ∧ addr.toNat % 4 = 0 ∧ addr.toNat < 0x04000000 ∧ 1 ≤ n ∧ n < count ∧ count ≤ 16 ∧
        addr.toNat % 4096 + 4 * count ≤ 4096)
    ∧ (∃ (d3hot : Bool) (addr : BitVec 27) (firstBe : BitVec 4) (lastBe : BitVec 4) (count : Nat) (data : List Word) (s : State),
        s.chip.pcieAnswers = true)
    ∧ (∃ (v : Fin 64) (addr : BitVec 27) (firstBe : BitVec 4) (lastBe : BitVec 4) (data : Word) (s : State),
        s.chip.pcieServes = true) :=
  ⟨⟨true, 0x3FFFFFC, 0xF, 0xF, 2, [1, 2], ⟨up, []⟩, by decide⟩,
   ⟨false, 0x3000, 0xF, 0xF, 17, [], ⟨up, []⟩, by decide⟩,
   ⟨0x3FFFFFC, 0xF, 0xF, 1, ⟨up, []⟩, by decide⟩,
   ⟨true, 0x3FC0, 0xF, 0xF, 15, [], ⟨up, []⟩, by decide⟩,
   ⟨false, 0x3FF8, 0xF, 0xF, 1, [], ⟨up, []⟩, by decide⟩,
   ⟨0x3FC0, 0xF, 0xF, 1, 16, [], ⟨up, []⟩, by decide⟩,
   ⟨0x3FC0, 0xF, 0xF, 15, 16, [], ⟨up, []⟩, by decide⟩,
   ⟨true, 0x3040, 0xF, 0xF, 1, [], ⟨up, []⟩, by decide⟩,
   ⟨63, 0x3040, 0xF, 0xF, 1, ⟨up, []⟩, by decide⟩⟩

theorem witness_SmbusTransactions :
    (∃ (head : SmbHead) (data : Word) (s : State), s.chip.serves .smbus 3 ∧ head.addr.toNat = s.chip.smbAddress ∧
        head.cmd = 1)
    ∧ (∃ (head : SmbHead) (offset : BitVec 26) (data : Word) (pec : Pec) (s : State), s.chip.alwaysOn = true ∧
        head.addr.toNat = s.chip.smbAddress ∧ head.cmd = 1 ∧ offset.toNat % 4 = 0 ∧ (pec = .good ∨ (pec = .none ∧
        s.chip.pecRequired = false)))
    ∧ (∃ (head : SmbHead) (s : State), s.chip.serves .smbus 3 ∧ s.chip.badParity = [] ∧ head.addr.toNat = s.chip.smbAddress ∧
        head.cmd = 2)
    ∧ (∃ (head : SmbHead) (offset : BitVec 26) (data : Word) (pec : Pec) (s : State), s.chip.alwaysOn = true ∧
        head.addr.toNat = s.chip.smbAddress ∧ head.cmd = 1 ∧ offset.toNat % 4 = 0)
    ∧ (∃ (head : SmbHead) (count : BitVec 8) (offset : Word) (data : Word) (pec : Pec) (s : State), s.chip.alwaysOn = true)
    ∧ (∃ (head : SmbHead) (count : BitVec 8) (offset : Word) (s : State), s.chip.alwaysOn = true ∧ head.addr = 0x0C ∧
        (∃ k, s.chip.getBit F.hlthFault k = true ∧ s.chip.getBit F.hlthFaultEn k = true)) :=
  ⟨⟨⟨0x58, 1, true⟩, 1, ⟨up, []⟩, by dsimp only [Chip.serves]; decide⟩,
   ⟨⟨0x58, 1, true⟩, 0x3FFFFFC, 1, .good, ⟨up, []⟩, by decide⟩,
   ⟨⟨0x58, 2, true⟩, ⟨up, []⟩, by dsimp only [Chip.serves]; decide⟩,
   ⟨⟨0x58, 1, true⟩, 0x3040, 1, .cut, ⟨up, []⟩, by decide⟩,
   ⟨⟨0x59, 1, true⟩, 8, 0x3040, 1, .good, ⟨up, []⟩, by decide⟩,
   ⟨⟨0x0C, 0, true⟩, 0, 0, ⟨reg [(F.hlthFault, 1), (F.hlthFaultEn, 1)], []⟩, by exact ⟨by decide, by decide, 0, by decide, by decide⟩⟩⟩

theorem witness_GoLatchesACommand :
    (∃ (path : Path) (slot : Fin 16) (tag : BitVec 8) (opcode : BitVec 8) (irq : Bool) (s : State), s.chip.serves path (4 + slot.val / 4) ∧
        s.chip.slotHeld slot.val = false ∧ s.chip.controlLost = false)
    ∧ (∃ (path : Path) (slot : Fin 16) (tag : BitVec 8) (opcode : BitVec 8) (irq : Bool) (s : State), s.chip.serves path (4 + slot.val / 4) ∧
        (s.chip.slotHeld slot.val = true ∨ s.chip.controlLost = true)) :=
  ⟨⟨.pcie, 15, 1, 1, true, ⟨up, []⟩, by dsimp only [Chip.serves]; decide⟩,
   ⟨.pcie, 15, 1, 1, true, ⟨{ up with mail := { up.mail with slots := [(15, ⟨.waiting, 1, 0, false, [], 0, []⟩)] } }, []⟩,
       by dsimp only [Chip.serves]; decide⟩⟩

theorem witness_TreesApplyOnlyWhenTheyPass :
    (∃ (path : Path) (p : Fin 48) (s : State), s.chip.serves path (0x2005 + p.val * 16) ∧ s.chip.fusedUpper p.val = false ∧
        s.chip.checking.contains p.val = false)
    ∧ (∃ (p : Fin 48) (s : State), s.chip.checking.contains p.val = true ∧ s.chip.groupIsDark (p.val / 6) = false ∧
        (s.chip.sched p.val).shadow.firstFailure (s.chip.subports p.val) (s.chip.sched p.val).shadowBad = none)
    ∧ (∃ (p : Fin 48) (r : Nat) (n : Nat) (c : Nat) (s : State), s.chip.checking.contains p.val = true ∧
        s.chip.groupIsDark (p.val / 6) = false ∧ (s.chip.sched p.val).shadow.firstFailure (s.chip.subports p.val) (s.chip.sched p.val).shadowBad = some (r, n, c))
    ∧ (∃ (path : Path) (s : State), s.chip.serves path 0x100 ∧ s.chip.fab.injectA = false)
    ∧ (∃ (path : Path) (s : State), s.chip.serves path 0x100 ∧ s.chip.fab.injectB = false)
    ∧ (∃ (path : Path) (s : State), s.chip.serves path 0x100 ∧ s.chip.fab.injectA = false ∧ s.chip.fab.injectB = false) :=
  ⟨⟨.pcie, 47, ⟨up, []⟩, by dsimp only [Chip.serves]; decide⟩,
   ⟨47, ⟨{ up with checking := [47] }, []⟩, by decide⟩,
   ⟨47, (((schedReset 1).shadow.firstFailure 1 [255]).getD (0, 0, 0)).1, (((schedReset 1).shadow.firstFailure 1 [255]).getD (0, 0, 0)).2.1,
       (((schedReset 1).shadow.firstFailure 1 [255]).getD (0, 0, 0)).2.2, ⟨{ up with checking := [47], scheds := [(47, { schedReset 1 with shadowBad := [255] })] }, []⟩,
       by decide⟩,
   ⟨.pcie, ⟨up, []⟩, by dsimp only [Chip.serves]; decide⟩,
   ⟨.pcie, ⟨up, []⟩, by dsimp only [Chip.serves]; decide⟩,
   ⟨.pcie, ⟨up, []⟩, by dsimp only [Chip.serves]; decide⟩⟩

theorem witness_PortConfigurationIsHeldWhileInUse :
    (∃ (path : Path) (p : Fin 48) (be : BitVec 4) (data : Word) (s : State), let w := mergeWord (s.chip.wordAt (F.port0ModeSplit p.val).addr) data (pathEnables path be);
        let split := bits w 1 0; s.chip.serves path (0x2000 + p.val * 16) ∧ s.chip.fusedUpper p.val = false ∧
        s.chip.flag (F.port0ModeTwoShot p.val) = false ∧ s.chip.memberDark p.val = false ∧ Store.find p.val s.chip.power.modeRun = none ∧
        (bit w 8 = false ∨ 42 ≤ p.val) ∧ s.chip.getN (F.port0CtrlEnable p.val) = 0 ∧ s.chip.getN (F.admStatusFlows p.val) = 0 ∧
        s.chip.someSession (fun c => cfgPort c == p.val && decide (2 ^ split ≤ cfgSub c)) = false)
    ∧ (∃ (path : Path) (p : Fin 48) (be : BitVec 4) (data : Word) (s : State), let w := mergeWord (s.chip.wordAt (F.port0ModeSplit p.val).addr) data (pathEnables path be);
        let split := bits w 1 0; s.chip.serves path (0x2000 + p.val * 16) ∧ s.chip.fusedUpper p.val = false ∧
        s.chip.flag (F.port0ModeTwoShot p.val) = false ∧ s.chip.memberDark p.val = false ∧ Store.find p.val s.chip.power.modeRun = none ∧
        (bit w 8 = false ∨ 42 ≤ p.val) ∧ s.chip.getN (F.port0CtrlEnable p.val) = 0 ∧ s.chip.getN (F.admStatusFlows p.val) = 0 ∧
        s.chip.someSession (fun c => cfgPort c == p.val && decide (2 ^ split ≤ cfgSub c)) = false)
    ∧ (∃ (path : Path) (p : Fin 48) (be : BitVec 4) (data : Word) (s : State), let w := mergeWord (s.chip.wordAt (F.port0ModeSplit p.val).addr) data (pathEnables path be);
        s.chip.serves path (0x2000 + p.val * 16) ∧ s.chip.fusedUpper p.val = false ∧ (bits w 1 0 ≠ s.chip.getN (F.port0ModeSplit p.val) ∨ bits w 5 4 ≠ s.chip.getN (F.port0ModeIfType p.val)) ∧
        (s.chip.getN (F.port0CtrlEnable p.val) ≠ 0 ∨ s.chip.getN (F.admStatusFlows p.val) ≠ 0))
    ∧ (∃ (path : Path) (p : Fin 48) (be : BitVec 4) (data : Word) (s : State), let w := mergeWord (s.chip.wordAt (F.port0ModeSplit p.val).addr) data (pathEnables path be);
        s.chip.serves path (0x2000 + p.val * 16) ∧ s.chip.fusedUpper p.val = false ∧ (bits w 1 0 ≠ s.chip.getN (F.port0ModeSplit p.val) ∨ bits w 5 4 ≠ s.chip.getN (F.port0ModeIfType p.val)) ∧
        (s.chip.getN (F.port0CtrlEnable p.val) ≠ 0 ∨ s.chip.getN (F.admStatusFlows p.val) ≠ 0))
    ∧ (∃ (path : Path) (p : Fin 48) (be : BitVec 4) (data : Word) (s : State), let n := bits (mergeWord (s.chip.wordAt (F.port0Maxframe p.val).addr) data (pathEnables path be)) 13 0;
        s.chip.serves path (0x2000 + p.val * 16) ∧ s.chip.fusedUpper p.val = false ∧ s.chip.getN (F.port0Maxframe p.val) < n ∧
        s.chip.getN (F.admStatusFlows p.val) ≠ 0)
    ∧ (∃ (path : Path) (p : Fin 48) (be : BitVec 4) (data : Word) (s : State), let n := bits (mergeWord (s.chip.wordAt (F.port0Maxframe p.val).addr) data (pathEnables path be)) 13 0;
        s.chip.serves path (0x2000 + p.val * 16) ∧ s.chip.fusedUpper p.val = false ∧ (n ≤ s.chip.getN (F.port0Maxframe p.val) ∨ s.chip.getN (F.admStatusFlows p.val) = 0))
    ∧ (∃ (path : Path) (p : Fin 48) (be : BitVec 4) (data : Word) (s : State), let w := mergeWord (s.chip.wordAt (F.port0ModeTwoShot p.val).addr) data (pathEnables path be);
        s.chip.serves path (0x2000 + p.val * 16) ∧ p.val < 42 ∧ s.chip.fusedUpper p.val = false ∧ bit w 8 ≠ s.chip.fusedLower p.val ∧
        s.chip.fuseAllowed p.val (bits w 1 0) = true ∧ s.chip.memberDark p.val = false ∧ s.chip.memberDark (p.val + 6) = false ∧
        Store.find p.val s.chip.power.modeRun = none)
    ∧ (∃ (path : Path) (p : Fin 48) (be : BitVec 4) (data : Word) (s : State), let w := mergeWord (s.chip.wordAt (F.port0ModeTwoShot p.val).addr) data (pathEnables path be);
        s.chip.serves path (0x2000 + p.val * 16) ∧ (s.chip.fusedUpper p.val = true ∨ (p.val < 42 ∧ bit w 8 ≠ s.chip.fusedLower p.val ∧
        s.chip.fuseAllowed p.val (bits w 1 0) = false)))
    ∧ (∃ (path : Path) (p : Fin 48) (be : BitVec 4) (data : Word) (s : State), let w := mergeWord (s.chip.wordAt (F.port0ModeTwoShot p.val).addr) data (pathEnables path be);
        s.chip.serves path (0x2000 + p.val * 16) ∧ (s.chip.fusedUpper p.val = true ∨ (p.val < 42 ∧ bit w 8 ≠ s.chip.fusedLower p.val ∧
        s.chip.fuseAllowed p.val (bits w 1 0) = false)))
    ∧ (∃ (path : Path) (p : Fin 48) (be : BitVec 4) (data : Word) (s : State), let w := mergeWord (s.chip.wordAt (F.port0ModeTwoShot p.val).addr) data (pathEnables path be);
        s.chip.serves path (0x2000 + p.val * 16) ∧ p.val < 42 ∧ s.chip.fusedUpper p.val = false ∧ bit w 8 ≠ s.chip.fusedLower p.val ∧
        s.chip.fuseAllowed p.val (bits w 1 0) = true ∧ s.chip.memberDark (p.val + 6) = true ∧ Store.find p.val s.chip.power.modeRun = none)
    ∧ (∃ (path : Path) (p : Fin 48) (be : BitVec 4) (data : Word) (s : State), s.chip.serves path (0x2000 + p.val * 16) ∧
        s.chip.fusedUpper p.val = true) :=
  ⟨⟨.pcie, 47, 0xF, 0x113, ⟨up, []⟩, by dsimp only [Chip.serves]; decide⟩,
   ⟨.pcie, 5, 0xF, 0x003, ⟨up, []⟩, by dsimp only [Chip.serves]; decide⟩,
   ⟨.pcie, 47, 0xF, 1, ⟨reg [(F.port0CtrlEnable 47, 1)], []⟩, by dsimp only [Chip.serves]; decide⟩,
   ⟨.pcie, 47, 0xF, 0x20, ⟨reg [(F.admStatusFlows 47, 1)], []⟩, by dsimp only [Chip.serves]; decide⟩,
   ⟨.pcie, 47, 0xF, 9216, ⟨reg [(F.admStatusFlows 47, 1), (F.port0Maxframe 47, 2000)], []⟩,
       by dsimp only [Chip.serves]; decide⟩,
   ⟨.pcie, 47, 0xF, 9216, ⟨up, []⟩, by dsimp only [Chip.serves]; decide⟩,
   ⟨.pcie, 41, 0xF, 0x100, ⟨up, []⟩, by dsimp only [Chip.serves]; decide⟩,
   ⟨.pcie, 47, 0xF, 1, ⟨reg [(F.port0ModeTwoShot 41, 1)], []⟩, by dsimp only [Chip.serves]; decide⟩,
   ⟨.pcie, 41, 0xF, 0x100, ⟨reg [(F.port0CtrlEnable 47, 1)], []⟩, by dsimp only [Chip.serves]; decide⟩,
   ⟨.pcie, 41, 0xF, 0x100, ⟨{ up with power := { up.power with portDark := 1 <<< 47 } }, []⟩,
       by dsimp only [Chip.serves]; decide⟩,
   ⟨.pcie, 47, 0xF, 1, ⟨reg [(F.port0ModeTwoShot 41, 1)], []⟩, by dsimp only [Chip.serves]; decide⟩⟩

theorem witness_EnableStartsAndStopsLinks :
    (∃ (path : Path) (p : Fin 48) (be : BitVec 4) (data : Word) (s : State), let w := mergeWord (s.chip.wordAt (F.port0CtrlEnable p.val).addr) data (pathEnables path be);
        s.chip.serves path (0x2000 + p.val * 16) ∧ s.chip.fusedUpper p.val = false ∧ s.chip.getN (F.port0CtrlEnable p.val) = 0 ∧
        bits w 7 0 ≠ 0 ∧ (s.chip.members p.val).all s.chip.memberDark = false ∧ (loopback (s.chip.getN (F.port0CtrlLoopback p.val)) = 1 ↔ loopback (bits w 9 8) = 1) ∧
        (s.chip.members p.val).all s.chip.mapsOk = true)
    ∧ (∃ (path : Path) (p : Fin 48) (be : BitVec 4) (data : Word) (s : State), let w := mergeWord (s.chip.wordAt (F.port0CtrlEnable p.val).addr) data (pathEnables path be);
        s.chip.serves path (0x2000 + p.val * 16) ∧ s.chip.fusedUpper p.val = false ∧ s.chip.getN (F.port0CtrlEnable p.val) = 0 ∧
        bits w 7 0 ≠ 0 ∧ (s.chip.members p.val).all s.chip.memberDark = false ∧ (loopback (s.chip.getN (F.port0CtrlLoopback p.val)) = 1 ↔ loopback (bits w 9 8) = 1) ∧
        (s.chip.members p.val).all s.chip.mapsOk = false)
    ∧ (∃ (path : Path) (p : Fin 48) (be : BitVec 4) (data : Word) (s : State), let w := mergeWord (s.chip.wordAt (F.port0CtrlEnable p.val).addr) data (pathEnables path be);
        s.chip.serves path (0x2000 + p.val * 16) ∧ s.chip.fusedUpper p.val = false ∧ bits w 7 0 = 0 ∧
        s.chip.framesInRange ∧ (loopback (s.chip.getN (F.port0CtrlLoopback p.val)) = 1 ↔ loopback (bits w 9 8) = 1))
    ∧ (∃ (path : Path) (p : Fin 48) (be : BitVec 4) (data : Word) (s : State), let w := mergeWord (s.chip.wordAt (F.port0CtrlEnable p.val).addr) data (pathEnables path be);
        s.chip.serves path (0x2000 + p.val * 16) ∧ s.chip.fusedUpper p.val = false ∧ s.chip.framesInRange ∧
        s.chip.getN (F.port0CtrlEnable p.val) = bits w 7 0 ∧ s.chip.flag (F.port0StatusMapBad p.val) = false ∧ ¬ (loopback (s.chip.getN (F.port0CtrlLoopback p.val)) = 1 ↔ loopback (bits w 9 8) = 1)) :=
  ⟨⟨.pcie, 47, 0xF, 0xFF, ⟨up, []⟩, by dsimp only [Chip.serves]; decide⟩,
   ⟨.pcie, 47, 0xF, 0xFF, ⟨reg [(F.port1MapTxPhys 47 0, 1)], []⟩, by dsimp only [Chip.serves]; decide⟩,
   ⟨.pcie, 47, 0xF, 0, ⟨reg [(F.port0CtrlEnable 47, 255)], []⟩,
       by dsimp only [Chip.serves, Chip.framesInRange]; decide⟩,
   ⟨.pcie, 47, 0xF, 0x100, ⟨up, []⟩, by dsimp only [Chip.serves, Chip.framesInRange]; decide⟩⟩

theorem witness_MergeEnStartsAndEndsPreemption :
    (∃ (path : Path) (p : Fin 48) (be : BitVec 4) (data : Word) (s : State), let w := mergeWord (s.chip.wordAt (F.port0MergeMergeEn p.val).addr) data (pathEnables path be);
        s.chip.serves path (0x2000 + p.val * 16) ∧ s.chip.fusedUpper p.val = false ∧ s.chip.flag (F.port0MergeMergeEn p.val) = false ∧
        bit w 0 = true ∧ s.chip.coresRun = true ∧ s.chip.farLoop p.val = false)
    ∧ (∃ (path : Path) (p : Fin 48) (be : BitVec 4) (data : Word) (s : State), let w := mergeWord (s.chip.wordAt (F.port0MergeMergeEn p.val).addr) data (pathEnables path be);
        s.chip.serves path (0x2000 + p.val * 16) ∧ s.chip.fusedUpper p.val = false ∧ s.chip.flag (F.port0MergeMergeEn p.val) = true ∧
        bit w 0 = false)
    ∧ (∃ (p : Fin 48) (sub : Fin 8) (ok : Bool) (s : State), (s.chip.link p.val sub.val).verifying = true)
    ∧ (∃ (p : Fin 48) (sub : Fin 8) (ok : Bool) (s : State), (s.chip.link p.val sub.val).verifying = true ∧
        s.chip.getBit (F.admStatusMergeActive p.val) sub.val = true ∧ s.chip.underMerge (s.chip.lowerOf p.val) sub.val = true)
    ∧ (∃ (f : RxFrame) (s : State), s.chip.coresRun = true ∧ s.chip.getBit (F.port0StatusLinkUp f.port.val) f.sub.val = true ∧
        s.chip.farLoop f.port.val = false ∧ f.smd = .verify)
    ∧ (∃ (f : RxFrame) (s : State), s.chip.coresRun = true ∧ s.chip.getBit (F.port0StatusLinkUp f.port.val) f.sub.val = true ∧
        s.chip.farLoop f.port.val = false ∧ f.smd = .respond) :=
  ⟨⟨.pcie, 47, 0xF, 1, ⟨up, []⟩, by dsimp only [Chip.serves]; decide⟩,
   ⟨.pcie, 47, 0xF, 0, ⟨reg [(F.port0MergeMergeEn 47, 1)], []⟩, by dsimp only [Chip.serves]; decide⟩,
   ⟨47, 7, true, ⟨{ up with links := [(47 * 8 + 7, { linkDefault with phase := .up, verifying := true })] }, []⟩,
       by decide⟩,
   ⟨47, 7, false, ⟨{ { reg [(F.admStatusMergeActive 47, 255)] with links := [(47 * 8 + 7, { linkDefault with phase := .up, verifying := true })] } with ledger := [{ flow1 with underMerge := true }] }, []⟩,
       by decide⟩,
   ⟨{ rx with smd := .verify }, ⟨reg [(F.port0StatusLinkUp 47, 1)], []⟩, by decide⟩,
   ⟨{ rx with smd := .respond }, ⟨reg [(F.port0StatusLinkUp 47, 1)], []⟩, by decide⟩⟩

theorem witness_OutputsAndChannelsTakeTheirConfiguration :
    (∃ (path : Path) (n : Fin 8) (be : BitVec 4) (data : Word) (s : State), s.chip.serves path 0x41)
    ∧ (∃ (path : Path) (n : Fin 4) (be : BitVec 4) (data : Word) (s : State), s.chip.serves path 0x41)
    ∧ (∃ (path : Path) (n : Fin 4) (reg : Fin 3) (be : BitVec 4) (data : Word) (s : State), s.chip.serves path 0x41 ∧
        reg ≠ 0 ∧ s.chip.ppsOn n.val = true)
    ∧ (∃ (path : Path) (n : Fin 4) (reg : Fin 3) (be : BitVec 4) (data : Word) (s : State), s.chip.serves path 0x41 ∧
        reg ≠ 0 ∧ s.chip.ppsOn n.val = true)
    ∧ (∃ (n : Fin 4) (s : State), let y := (s.chip.pulse n.val).settle (s.chip.pulse n.val).pending; s.chip.ppsOn n.val = true ∧
        s.chip.time.running = true ∧ y.next ≤ (s.chip.net : Int))
    ∧ (∃ (path : Path) (e : Fin 8) (be : BitVec 4) (data : Word) (s : State), s.chip.serves path (0x51 + e.val)) :=
  ⟨⟨.pcie, 7, 0xF, 1, ⟨up, []⟩, by dsimp only [Chip.serves]; decide⟩,
   ⟨.pcie, 3, 0xF, 1, ⟨up, []⟩, by dsimp only [Chip.serves]; decide⟩,
   ⟨.pcie, 3, 1, 0xF, 1, ⟨reg [(F.pll1PpsCfgEn 3, 1), (F.pll1PpsCfgPeriodNs 3, 1000000000)], []⟩,
       by dsimp only [Chip.serves]; decide⟩,
   ⟨.pcie, 3, 2, 0xF, 1, ⟨reg [(F.pll1PpsCfgEn 3, 1), (F.pll1PpsCfgPeriodNs 3, 1000000000)], []⟩,
       by dsimp only [Chip.serves]; decide⟩,
   ⟨3, ⟨{ reg [(F.pll1PpsCfgEn 3, 1), (F.pll1PpsCfgPeriodNs 3, 1000000000)] with pulses := [(3, ⟨0, 1000000000, 100, 0, 0, [], none, none, none⟩)], time := { up.time with raw := 65536 * 1000000100 } }, []⟩,
       by dsimp only; decide⟩,
   ⟨.pcie, 7, 0xF, 1, ⟨up, []⟩, by dsimp only [Chip.serves]; decide⟩⟩

theorem witness_PersistentWordsCommitInOrder :
    (∃ (path : Path) (be : BitVec 4) (data : Word) (s : State), s.chip.serves path 0x11 ∧ s.chip.worn strapIndex = false ∧
        s.chip.inDip = false ∧ s.chip.power.commits.length < 64)
    ∧ (∃ (path : Path) (be : BitVec 4) (data : Word) (s : State), s.chip.serves path 0x11 ∧ s.chip.worn strapIndex = true)
    ∧ (∃ (i : Nat) (v : Word) (l : List (Nat × Word)) (s : State), s.chip.powered = true ∧ s.chip.power.commits = (i, v) :: l ∧
        s.chip.inDip = false)
    ∧ (∃ (i : Nat) (v : Word) (l : List (Nat × Word)) (s : State), s.chip.powered = true ∧ s.chip.power.commits = (i, v) :: l ∧
        s.chip.inDip = true) :=
  ⟨⟨.pcie, 0xF, 1, ⟨up, []⟩, by dsimp only [Chip.serves]; decide⟩,
   ⟨.pcie, 0xF, 1, ⟨{ up with power := { up.power with mram := [(strapIndex, ⟨0, 0, 0, 0, true, true, 2000000⟩)] } }, []⟩,
       by dsimp only [Chip.serves]; decide⟩,
   ⟨3, 5, [], ⟨{ up with power := { up.power with commits := [(3, 5)] } }, []⟩, by decide⟩,
   ⟨3, 5, [], ⟨{ reg [(F.pwrStatusDip, 1)] with power := { up.power with commits := [(3, 5)] } }, []⟩, by decide⟩⟩

theorem witness_FramesAreLookedUp :
    (∃ (f : RxFrame) (s : State), ((f.smd = .frame ∧ s.chip.receives f.port.val f.sub.val = false) ∨ s.chip.coresRun = false ∨ s.chip.getBit (F.port0StatusLinkUp f.port.val) f.sub.val = false))
    ∧ (∃ (f : RxFrame) (s : State), s.chip.receives f.port.val f.sub.val = true ∧ s.chip.lowerOf f.port.val = f.port.val ∧
        f.smd = .frame ∧ f.etype = 0x8808)
    ∧ (∃ (f : RxFrame) (e : BitVec 32) (cur : BitVec 32) (rest : List (BitVec 32)) (s : State), Says.comesTo f e cur rest s.chip ∧
        pathValid (s.chip.tentry 0 (labelOf cur)) = false ∧ s.chip.flag (F.port3LkpCtrlMissHost f.port.val) = false)
    ∧ (∃ (f : RxFrame) (e : BitVec 32) (cur : BitVec 32) (rest : List (BitVec 32)) (s : State), Says.comesTo f e cur rest s.chip ∧
        pathValid (s.chip.tentry 0 (labelOf cur)) = false ∧ s.chip.flag (F.port3LkpCtrlMissHost f.port.val) = true)
    ∧ (∃ (f : RxFrame) (e : BitVec 32) (cur : BitVec 32) (rest : List (BitVec 32)) (s : State), let x := s.chip.tentry 0 (labelOf cur);
        let n := pathLcount x; Says.comesTo f e cur rest s.chip ∧ pathValid x = true ∧ 2 ≤ ttlOf e ∧ 1 ≤ n ∧ n ≤ 4 ∧
        (pathAction x = actSwap ∨ pathAction x = actNodeSeg))
    ∧ (∃ (f : RxFrame) (e : BitVec 32) (cur : BitVec 32) (rest : List (BitVec 32)) (s : State), let x := s.chip.tentry 0 (labelOf cur);
        let n := pathLcount x; Says.comesTo f e cur rest s.chip ∧ pathValid x = true ∧ 2 ≤ ttlOf e ∧ 1 ≤ n ∧ n ≤ 4 ∧
        (pathAction x = actSwap ∨ pathAction x = actNodeSeg))
    ∧ (∃ (f : RxFrame) (e : BitVec 32) (cur : BitVec 32) (rest : List (BitVec 32)) (s : State), let x := s.chip.tentry 0 (labelOf cur);
        let n := pathLcount x; Says.comesTo f e cur rest s.chip ∧ pathValid x = true ∧ 2 ≤ ttlOf e ∧ 1 ≤ n ∧ n ≤ 4 ∧
        (pathAction x = actSwap ∨ pathAction x = actNodeSeg) ∧ 12 ≤ pathClass x ∧ (List.range 4).all (fun w => !flowValid (s.chip.tentry 2 (flowSet false 5 0 * 4 + w))) = true)
    ∧ (∃ (f : RxFrame) (e : BitVec 32) (cur : BitVec 32) (rest : List (BitVec 32)) (s : State), let x := s.chip.tentry 0 (labelOf cur);
        let n := pathLcount x; Says.comesTo f e cur rest s.chip ∧ pathValid x = true ∧ 2 ≤ ttlOf e ∧ 1 ≤ n ∧ n ≤ 4 ∧
        (pathAction x = actSwap ∨ pathAction x = actNodeSeg) ∧ 12 ≤ pathClass x ∧ pathDetnet x = true ∧ Says.inWay f (flowSet false 5 0 * 4) s.chip ∧
        flowSeqLen (s.chip.tentry 2 (flowSet false 5 0 * 4)) = 1)
    ∧ (∃ (f : RxFrame) (r : CalRun) (s : State), let src := f.port.val * 8 + f.sub.val; s.chip.receives f.port.val f.sub.val = true ∧
        f.len ≤ s.chip.maxframe f.port.val ∧ f.smd = .frame ∧ f.etype = 0x88B5 ∧ f.da = peerAddress ∧ f.tags = [] ∧
        s.chip.calRun = some r ∧ r.kind = 4 ∧ r.target = src ∧ r.probes ≠ 0)
    ∧ (∃ (f : RxFrame) (s : State), Says.parsed f s.chip ∧ ¬ Says.addressed f s.chip)
    ∧ (∃ (f : RxFrame) (s : State), let c := s.chip; let p := f.port.val; Says.parsed f c ∧ Says.addressed f c ∧
        (tagsOk f.tags = false ∨ (f.etype ≠ 0x88F7 ∧ f.etype ≠ 0x8809 ∧ f.etype ≠ 0x8847)) ∧ c.getN (F.port3LkpCtrlNonmpls p) = 0)
    ∧ (∃ (f : RxFrame) (s : State), let c := s.chip; let p := f.port.val; Says.parsed f c ∧ Says.addressed f c ∧
        (tagsOk f.tags = false ∨ (f.etype ≠ 0x88F7 ∧ f.etype ≠ 0x8809 ∧ f.etype ≠ 0x8847)) ∧ c.getN (F.port3LkpCtrlNonmpls p) = 1)
    ∧ (∃ (f : RxFrame) (s : State), let c := s.chip; let p := f.port.val; Says.parsed f c ∧ Says.addressed f c ∧
        (tagsOk f.tags = false ∨ (f.etype ≠ 0x88F7 ∧ f.etype ≠ 0x8809 ∧ f.etype ≠ 0x8847)) ∧ c.getN (F.port3LkpCtrlNonmpls p) = 2)
    ∧ (∃ (f : RxFrame) (s : State), Says.parsed f s.chip ∧ Says.addressed f s.chip ∧ tagsOk f.tags = true)
    ∧ (∃ (f : RxFrame) (s : State), Says.parsed f s.chip ∧ Says.addressed f s.chip ∧ tagsOk f.tags = true)
    ∧ (∃ (f : RxFrame) (e : BitVec 32) (cur : BitVec 32) (rest : List (BitVec 32)) (s : State), let x := s.chip.tentry 0 (labelOf cur);
        Says.comesTo f e cur rest s.chip ∧ pathValid x = true ∧ pathAction x = actTrap)
    ∧ (∃ (f : RxFrame) (e : BitVec 32) (cur : BitVec 32) (rest : List (BitVec 32)) (s : State), let x := s.chip.tentry 0 (labelOf cur);
        Says.comesTo f e cur rest s.chip ∧ pathValid x = true ∧ pathAction x = actToGrip)
    ∧ (∃ (f : RxFrame) (e : BitVec 32) (cur : BitVec 32) (rest : List (BitVec 32)) (s : State), let x := s.chip.tentry 0 (labelOf cur);
        Says.comesTo f e cur rest s.chip ∧ pathValid x = true ∧ pathAction x = actDrop)
    ∧ (∃ (f : RxFrame) (e : BitVec 32) (cur : BitVec 32) (rest : List (BitVec 32)) (s : State), let x := s.chip.tentry 0 (labelOf cur);
        Says.comesTo f e cur rest s.chip ∧ pathValid x = true ∧ ttlOf e ≤ 1)
    ∧ (∃ (f : RxFrame) (e : BitVec 32) (cur : BitVec 32) (rest : List (BitVec 32)) (s : State), let x := s.chip.tentry 0 (labelOf cur);
        Says.comesTo f e cur rest s.chip ∧ pathValid x = true ∧ pathAction x = actPopLookup ∧ 2 ≤ ttlOf e ∧ (bottomOf cur = true ∨ f.stack.length = rest.length + 3))
    ∧ (∃ (f : RxFrame) (e : BitVec 32) (cur : BitVec 32) (rest : List (BitVec 32)) (s : State), let x := s.chip.tentry 0 (labelOf cur);
        Says.comesTo f e cur rest s.chip ∧ pathValid x = true ∧ pathAction x = actPopLookup ∧ 2 ≤ ttlOf e ∧ (bottomOf cur = true ∨ f.stack.length = rest.length + 3))
    ∧ (∃ (f : RxFrame) (e : BitVec 32) (cur : BitVec 32) (rest : List (BitVec 32)) (s : State), let x := s.chip.tentry 0 (labelOf cur);
        let n := pathLcount x; Says.comesTo f e cur rest s.chip ∧ pathValid x = true ∧ 2 ≤ ttlOf e ∧ n ≤ 4 ∧
        pathAction x = actPush)
    ∧ (∃ (f : RxFrame) (e : BitVec 32) (cur : BitVec 32) (y : BitVec 32) (rest : List (BitVec 32)) (s : State), let x := s.chip.tentry 0 (labelOf cur);
        let n := pathLcount x; Says.comesTo f e cur (y :: rest) s.chip ∧ pathValid x = true ∧ 2 ≤ ttlOf e ∧ n ≤ 4 ∧
        Says.removes x)
    ∧ (∃ (f : RxFrame) (e : BitVec 32) (cur : BitVec 32) (y : BitVec 32) (rest : List (BitVec 32)) (s : State), let x := s.chip.tentry 0 (labelOf cur);
        let n := pathLcount x; Says.comesTo f e cur (y :: rest) s.chip ∧ pathValid x = true ∧ 2 ≤ ttlOf e ∧ n ≤ 4 ∧
        Says.removes x)
    ∧ (∃ (f : RxFrame) (e : BitVec 32) (cur : BitVec 32) (s : State), let x := s.chip.tentry 0 (labelOf cur); let n := pathLcount x;
        Says.comesTo f e cur [] s.chip ∧ pathValid x = true ∧ 2 ≤ ttlOf e ∧ n ≤ 4 ∧ Says.removes x ∧ n = 0)
    ∧ (∃ (f : RxFrame) (e : BitVec 32) (cur : BitVec 32) (s : State), let x := s.chip.tentry 0 (labelOf cur); let n := pathLcount x;
        Says.comesTo f e cur [] s.chip ∧ pathValid x = true ∧ 2 ≤ ttlOf e ∧ n ≤ 4 ∧ Says.removes x ∧ n = 0)
    ∧ (∃ (f : RxFrame) (e : BitVec 32) (cur : BitVec 32) (s : State), let x := s.chip.tentry 0 (labelOf cur); let n := pathLcount x;
        Says.comesTo f e cur [] s.chip ∧ pathValid x = true ∧ 2 ≤ ttlOf e ∧ n ≤ 4 ∧ Says.removes x ∧ n = 0)
    ∧ (∃ (f : RxFrame) (e : BitVec 32) (cur : BitVec 32) (s : State), let x := s.chip.tentry 0 (labelOf cur); let n := pathLcount x;
        Says.comesTo f e cur [] s.chip ∧ pathValid x = true ∧ 2 ≤ ttlOf e ∧ n ≤ 4 ∧ Says.removes x ∧ n ≠ 0) :=
  ⟨⟨rx, ⟨up, []⟩, by decide⟩,
   ⟨{ rx with etype := 0x8808 }, ⟨reg [(F.port0StatusLinkUp 47, 1), (F.port3LkpCtrlDaCheck 47, 0)], []⟩, by decide⟩,
   ⟨rx, rx1, rx1, [], ⟨reg [(F.port0StatusLinkUp 47, 1), (F.port3LkpCtrlDaCheck 47, 0), (F.port3LkpCtrlMissHost 47, 0)], []⟩,
       by dsimp only [Says.comesTo, Says.parsed, Says.addressed, Says.popsOn]; decide⟩,
   ⟨rx, rx1, rx1, [], ⟨reg [(F.port0StatusLinkUp 47, 1), (F.port3LkpCtrlDaCheck 47, 0), (F.port3LkpCtrlMissHost 47, 1)], []⟩,
       by dsimp only [Says.comesTo, Says.parsed, Says.addressed, Says.popsOn]; decide⟩,
   ⟨rx, rx1, rx1, [], ⟨{ reg [(F.port0StatusLinkUp 47, 1), (F.port3LkpCtrlDaCheck 47, 0)] with path := [(5, pathTo 5 actSwap 11), (6, pathTo0 6 actPopLookup 11)], nh := [(5, hopTo 47)] }, []⟩,
       by dsimp only [Says.comesTo, Says.parsed, Says.addressed, Says.popsOn]; decide⟩,
   ⟨{ rx with stack := [0x6002, 0x6002, 0x5102] }, 0x6002, 0x5102, [], ⟨{ reg [(F.port0StatusLinkUp 47, 1), (F.port3LkpCtrlDaCheck 47, 0)] with path := [(5, pathTo 5 actNodeSeg 11), (6, pathTo0 6 actPopLookup 11)], nh := [(5, hopTo 47)] }, []⟩,
       by dsimp only [Says.comesTo, Says.parsed, Says.addressed, Says.popsOn]; decide⟩,
   ⟨rx, rx1, rx1, [], ⟨{ reg [(F.port0StatusLinkUp 47, 1), (F.port3LkpCtrlDaCheck 47, 0)] with path := [(5, pathTo 5 actSwap 15), (6, pathTo0 6 actPopLookup 11)], nh := [(5, hopTo 47)] }, []⟩,
       by dsimp only [Says.comesTo, Says.parsed, Says.addressed, Says.popsOn]; decide⟩,
   ⟨rx, rx1, rx1, [], ⟨{ { reg [(F.port0StatusLinkUp 47, 1), (F.port3LkpCtrlDaCheck 47, 0)] with path := [(5, pathTo 5 actSwap 15 + BitVec.ofNat 128 (2 ^ 107)), (6, pathTo0 6 actPopLookup 11)], nh := [(5, hopTo 47)] } with flow := [((flowSet false 5 0 * 4), (flowTo 47 15 300 600 false + BitVec.ofNat 128 (5 * 2 ^ 98 + 2 ^ 2)))] }, []⟩,
       by dsimp only [Says.comesTo, Says.inWay, Says.parsed, Says.addressed, Says.popsOn]; decide⟩,
   ⟨{ rx with len := 64, etype := 0x88B5, da := peerAddress }, ⟨15, 4, 47 * 8, [], 0, none, 3⟩, ⟨{ reg [(F.port0StatusLinkUp 47, 1), (F.port3LkpCtrlDaCheck 47, 0)] with calRun := some ⟨15, 4, 47 * 8, [], 0, none, 3⟩ }, []⟩,
       by dsimp only; decide⟩,
   ⟨{ rx with da := 0xFEFFFFFFFFFF }, ⟨reg [(F.port0StatusLinkUp 47, 1), (F.port3LkpCtrlDaCheck 47, 1)], []⟩,
       by dsimp only [Says.parsed, Says.addressed]; decide⟩,
   ⟨{ rx with tags := [(0x9100, 0)] }, ⟨{ reg [(F.port0StatusLinkUp 47, 1), (F.port3LkpCtrlDaCheck 47, 0), (F.port3LkpCtrlNonmpls 47, 0)] with nh := [(0, hopTo 47)] }, []⟩,
       by dsimp only [Says.parsed, Says.addressed]; decide⟩,
   ⟨{ rx with etype := 0x0800 }, ⟨{ reg [(F.port0StatusLinkUp 47, 1), (F.port3LkpCtrlDaCheck 47, 0), (F.port3LkpCtrlNonmpls 47, 1)] with nh := [(0, hopTo 47)] }, []⟩,
       by dsimp only [Says.parsed, Says.addressed]; decide⟩,
   ⟨{ rx with etype := 0x0800 }, ⟨{ reg [(F.port0StatusLinkUp 47, 1), (F.port3LkpCtrlDaCheck 47, 0), (F.port3LkpCtrlNonmpls 47, 2)] with nh := [(0, hopTo 47)] }, []⟩,
       by dsimp only [Says.parsed, Says.addressed]; decide⟩,
   ⟨{ rx with etype := 0x8809, esmc := true }, ⟨reg [(F.port0StatusLinkUp 47, 1), (F.port3LkpCtrlDaCheck 47, 0)], []⟩,
       by dsimp only [Says.parsed, Says.addressed]; decide⟩,
   ⟨{ rx with etype := 0x8809 }, ⟨reg [(F.port0StatusLinkUp 47, 1), (F.port3LkpCtrlDaCheck 47, 0)], []⟩,
       by dsimp only [Says.parsed, Says.addressed]; decide⟩,
   ⟨{ rx with stack := [0x6002, 0x6002, 0x5102] }, 0x6002, 0x5102, [], ⟨{ reg [(F.port0StatusLinkUp 47, 1), (F.port3LkpCtrlDaCheck 47, 0)] with path := [(5, pathTo 5 actTrap 11), (6, pathTo0 6 actPopLookup 11)], nh := [(5, hopTo 47)] }, []⟩,
       by dsimp only [Says.comesTo, Says.parsed, Says.addressed, Says.popsOn]; decide⟩,
   ⟨rx, rx1, rx1, [], ⟨{ reg [(F.port0StatusLinkUp 47, 1), (F.port3LkpCtrlDaCheck 47, 0)] with path := [(5, pathTo 5 actToGrip 11), (6, pathTo0 6 actPopLookup 11)], nh := [(5, hopTo 47)] }, []⟩,
       by dsimp only [Says.comesTo, Says.parsed, Says.addressed, Says.popsOn]; decide⟩,
   ⟨rx, rx1, rx1, [], ⟨{ reg [(F.port0StatusLinkUp 47, 1), (F.port3LkpCtrlDaCheck 47, 0)] with path := [(5, pathTo 5 actDrop 11), (6, pathTo0 6 actPopLookup 11)], nh := [(5, hopTo 47)] }, []⟩,
       by dsimp only [Says.comesTo, Says.parsed, Says.addressed, Says.popsOn]; decide⟩,
   ⟨{ rx with stack := [0x5101] }, 0x5101, 0x5101, [], ⟨{ reg [(F.port0StatusLinkUp 47, 1), (F.port3LkpCtrlDaCheck 47, 0)] with path := [(5, pathTo 5 actSwap 11), (6, pathTo0 6 actPopLookup 11)], nh := [(5, hopTo 47)] }, []⟩,
       by dsimp only [Says.comesTo, Says.parsed, Says.addressed, Says.popsOn]; decide⟩,
   ⟨rx, rx1, rx1, [], ⟨{ reg [(F.port0StatusLinkUp 47, 1), (F.port3LkpCtrlDaCheck 47, 0)] with path := [(5, pathTo 5 actPopLookup 11), (6, pathTo0 6 actPopLookup 11)], nh := [(5, hopTo 47)] }, []⟩,
       by dsimp only [Says.comesTo, Says.parsed, Says.addressed, Says.popsOn]; decide⟩,
   ⟨{ rx with stack := [0x6002, 0x6002, 0x5002] }, 0x6002, 0x5002, [], ⟨{ reg [(F.port0StatusLinkUp 47, 1), (F.port3LkpCtrlDaCheck 47, 0)] with path := [(5, pathTo 5 actPopLookup 11), (6, pathTo0 6 actPopLookup 11)], nh := [(5, hopTo 47)] }, []⟩,
       by dsimp only [Says.comesTo, Says.parsed, Says.addressed, Says.popsOn]; decide⟩,
   ⟨rx, rx1, rx1, [], ⟨{ reg [(F.port0StatusLinkUp 47, 1), (F.port3LkpCtrlDaCheck 47, 0)] with path := [(5, pathTo 7 actPush 11), (6, pathTo0 6 actPopLookup 11)], nh := [(5, hopTo 47)] }, []⟩,
       by dsimp only [Says.comesTo, Says.parsed, Says.addressed, Says.popsOn]; decide⟩,
   ⟨{ rx with stack := [0x5002, 0x5102] }, 0x5002, 0x5002, 0x5102, [], ⟨{ reg [(F.port0StatusLinkUp 47, 1), (F.port3LkpCtrlDaCheck 47, 0)] with path := [(5, pathTo 5 actPop 11), (6, pathTo0 6 actPopLookup 11)], nh := [(5, hopTo 47)] }, []⟩,
       by dsimp only [Says.comesTo, Says.removes, Says.parsed, Says.addressed, Says.popsOn]; decide⟩,
   ⟨{ rx with stack := [0x5002, 0x5102] }, 0x5002, 0x5002, 0x5102, [], ⟨{ reg [(F.port0StatusLinkUp 47, 1), (F.port3LkpCtrlDaCheck 47, 0)] with path := [(5, pathTo0 5 actNodeSeg 11), (6, pathTo0 6 actPopLookup 11)], nh := [(5, hopTo 47)] }, []⟩,
       by dsimp only [Says.comesTo, Says.removes, Says.parsed, Says.addressed, Says.popsOn]; decide⟩,
   ⟨{ rx with nibble := 4 }, rx1, rx1, ⟨{ reg [(F.port0StatusLinkUp 47, 1), (F.port3LkpCtrlDaCheck 47, 0)] with path := [(5, pathTo0 5 actPop 11), (6, pathTo0 6 actPopLookup 11)], nh := [(5, hopTo 47)] }, []⟩,
       by dsimp only [Says.comesTo, Says.removes, Says.parsed, Says.addressed, Says.popsOn]; decide⟩,
   ⟨{ rx with nibble := 6 }, rx1, rx1, ⟨{ reg [(F.port0StatusLinkUp 47, 1), (F.port3LkpCtrlDaCheck 47, 0)] with path := [(5, pathTo0 5 actPop 11), (6, pathTo0 6 actPopLookup 11)], nh := [(5, hopTo 47)] }, []⟩,
       by dsimp only [Says.comesTo, Says.removes, Says.parsed, Says.addressed, Says.popsOn]; decide⟩,
   ⟨{ rx with nibble := 0 }, rx1, rx1, ⟨{ reg [(F.port0StatusLinkUp 47, 1), (F.port3LkpCtrlDaCheck 47, 0)] with path := [(5, pathTo0 5 actPop 11), (6, pathTo0 6 actPopLookup 11)], nh := [(5, hopTo 47)] }, []⟩,
       by dsimp only [Says.comesTo, Says.removes, Says.parsed, Says.addressed, Says.popsOn]; decide⟩,
   ⟨rx, rx1, rx1, ⟨{ reg [(F.port0StatusLinkUp 47, 1), (F.port3LkpCtrlDaCheck 47, 0)] with path := [(5, pathTo 5 actAdjSeg 11), (6, pathTo0 6 actPopLookup 11)], nh := [(5, hopTo 47)] }, []⟩,
       by dsimp only [Says.comesTo, Says.removes, Says.parsed, Says.addressed, Says.popsOn]; decide⟩⟩

theorem witness_AdmissionTakesConformingFrames :
    (∃ (f : Frame) (i : Nat) (s : State), let e := f.entry; s.chip.coresRun = true ∧ s.chip.frame f.id = some f ∧
        f.taken = false ∧ 12 ≤ f.cls ∧ f.flow = some i ∧ f.unadmitted = false ∧ s.chip.flowStands f i = true ∧
        s.chip.bucketHolds i (flowMaxf e + 20) = true)
    ∧ (∃ (f : Frame) (i : Nat) (s : State), let e := f.entry; s.chip.coresRun = true ∧ s.chip.frame f.id = some f ∧
        f.taken = false ∧ 12 ≤ f.cls ∧ f.flow = some i ∧ f.unadmitted = false ∧ s.chip.flowStands f i = true ∧
        s.chip.bucketHolds i (flowMaxf e + 20) = true)
    ∧ (∃ (f : Frame) (s : State), s.chip.coresRun = true ∧ s.chip.frame f.id = some f ∧ f.taken = false ∧ (f.cls < 12 ∨ f.flow = none))
    ∧ (∃ (f : Frame) (s : State), s.chip.coresRun = true ∧ s.chip.frame f.id = some f ∧ f.taken = false ∧ (f.cls < 12 ∨ f.flow = none))
    ∧ (∃ (f : Frame) (r : Tail) (s : State), s.chip.coresRun = true ∧ s.chip.frame f.id = some f ∧ f.taken = true ∧
        f.tailSeen = false ∧ Store.find f.id s.chip.tails = some r)
    ∧ (∃ (f : Frame) (r : Tail) (s : State), s.chip.coresRun = true ∧ s.chip.frame f.id = some f ∧ f.taken = true ∧
        f.tailSeen = false ∧ Store.find f.id s.chip.tails = some r)
    ∧ (∃ (f : Frame) (r : Tail) (badFec : Bool) (s : State), s.chip.coresRun = true ∧ s.chip.frame f.id = some f ∧
        f.taken = true ∧ f.tailSeen = false ∧ f.express = true ∧ f.bad = false ∧ Store.find f.id s.chip.tails = some r ∧
        s.chip.framesInRange)
    ∧ (∃ (f : Frame) (r : Tail) (badFec : Bool) (s : State), s.chip.coresRun = true ∧ s.chip.frame f.id = some f ∧
        f.taken = true ∧ f.tailSeen = false ∧ f.express = true ∧ f.bad = false ∧ Store.find f.id s.chip.tails = some r ∧
        s.chip.framesInRange)
    ∧ (∃ (f : Frame) (s : State), s.chip.coresRun = true ∧ s.chip.frame f.id = some f ∧ f.taken = true ∧ f.ended = false ∧
        f.direct = false ∧ f.formed < f.cells ∧ (f.formed + 1 = f.cells → f.tailSeen = true ∨ f.bad = true) ∧
        (f.express = true → s.chip.inputUsed f.inPort true < 256) ∧ (f.express = false → f.stored = true ∨ s.chip.inputUsed f.inPort false + 24 ≤ 1792) ∧
        showsOver f s.chip = false)
    ∧ (∃ (f : Frame) (s : State), s.chip.coresRun = true ∧ s.chip.frame f.id = some f ∧ f.taken = true ∧ f.ended = false ∧
        f.direct = false ∧ f.formed < f.cells ∧ (f.formed + 1 = f.cells → f.tailSeen = true ∨ f.bad = true) ∧
        (f.express = true → s.chip.inputUsed f.inPort true < 256) ∧ (f.express = false → f.stored = true ∨ s.chip.inputUsed f.inPort false + 24 ≤ 1792) ∧
        showsOver f s.chip = false)
    ∧ (∃ (f : Frame) (s : State), s.chip.coresRun = true ∧ s.chip.frame f.id = some f ∧ f.taken = true ∧ f.ended = false ∧
        f.direct = false ∧ f.formed < f.cells ∧ (f.formed + 1 = f.cells → f.tailSeen = true ∨ f.bad = true) ∧
        f.express = false ∧ f.stored = false ∧ 1792 < s.chip.inputUsed f.inPort false + 24 ∧ s.chip.framesInRange)
    ∧ (∃ (id : Nat) (r : Tail) (how : TailEnd) (s : State), s.chip.coresRun = true ∧ s.chip.frame id = none ∧
        Store.find id s.chip.tails = some r)
    ∧ (∃ (id : Nat) (r : Tail) (how : TailEnd) (s : State), s.chip.coresRun = true ∧ s.chip.frame id = none ∧
        Store.find id s.chip.tails = some r)
    ∧ (∃ (id : Nat) (r : Tail) (how : TailEnd) (s : State), s.chip.coresRun = true ∧ s.chip.frame id = none ∧
        Store.find id s.chip.tails = some r)
    ∧ (∃ (f : Frame) (r : Tail) (s : State), s.chip.coresRun = true ∧ s.chip.frame f.id = some f ∧ f.taken = true ∧
        f.ended = false ∧ f.direct = false ∧ f.formed + 1 = f.cells ∧ f.bad = true ∧ f.express = true ∧
        s.chip.inputUsed f.inPort true < 256 ∧ Store.find f.id s.chip.tails = some r ∧ flowMaxf r.entry < r.len ∧
        r.counted = false)
    ∧ (∃ (f : Frame) (s : State), s.chip.coresRun = true ∧ s.chip.frame f.id = some f ∧ f.taken = true ∧ f.ended = false ∧
        f.direct = false ∧ f.formed < f.cells ∧ (f.formed + 1 = f.cells → f.tailSeen = true ∨ f.bad = true) ∧
        f.express = true ∧ 256 ≤ s.chip.inputUsed f.inPort true ∧ s.chip.framesInRange) :=
  ⟨⟨{ frame1 with cls := 15, flow := some 8, entry := flowTo 47 15 300 600 false, inLen := 300, len := 300 }, 8, ⟨{ withFrame { frame1 with cls := 15, flow := some 8, entry := flowTo 47 15 300 600 false, inLen := 300, len := 300 } with flow := [(8, flowTo 47 15 300 600 false)] }, []⟩,
       by dsimp only; decide⟩,
   ⟨{ frame1 with cls := 15, flow := some 8, entry := flowTo 47 15 280 300 false, inLen := 300, len := 300 }, 8, ⟨{ withFrame { frame1 with cls := 15, flow := some 8, entry := flowTo 47 15 280 300 false, inLen := 300, len := 300 } with flow := [(8, flowTo 47 15 280 300 false)] }, []⟩,
       by dsimp only; decide⟩,
   ⟨{ frame1 with cls := 11, flow := some 8 }, ⟨withFrame { frame1 with cls := 11, flow := some 8 }, []⟩, by decide⟩,
   ⟨{ frame1 with cls := 12 }, ⟨withFrame { frame1 with cls := 12 }, []⟩, by decide⟩,
   ⟨{ frame1 with taken := true }, ⟨8, flowTo 47 15 300 600 false, 300, true, false⟩, ⟨{ withFrame { frame1 with taken := true } with tails := [(7, ⟨8, flowTo 47 15 300 600 false, 300, true, false⟩)] }, []⟩,
       by decide⟩,
   ⟨{ frame1 with taken := true }, ⟨8, flowTo 47 15 300 600 false, 301, true, false⟩, ⟨{ withFrame { frame1 with taken := true } with tails := [(7, ⟨8, flowTo 47 15 300 600 false, 301, true, false⟩)] }, []⟩,
       by decide⟩,
   ⟨{ frame1 with taken := true, express := true }, ⟨8, flowTo 47 15 300 600 false, 300, true, false⟩, true, ⟨{ withFrame { frame1 with taken := true, express := true } with tails := [(7, ⟨8, flowTo 47 15 300 600 false, 300, true, false⟩)] }, []⟩,
       by dsimp only [Chip.framesInRange]; decide⟩,
   ⟨{ frame1 with taken := true, express := true }, ⟨8, flowTo 47 15 300 600 false, 300, true, false⟩, false, ⟨{ withFrame { frame1 with taken := true, express := true } with tails := [(7, ⟨8, flowTo 47 15 300 600 false, 300, true, false⟩)] }, []⟩,
       by dsimp only [Chip.framesInRange]; decide⟩,
   ⟨{ frame1 with taken := true, tailSeen := true }, ⟨withFrame { frame1 with taken := true, tailSeen := true }, []⟩,
       by decide⟩,
   ⟨{ frame1 with taken := true, tailSeen := true, express := true }, ⟨withFrame { frame1 with taken := true, tailSeen := true, express := true }, []⟩,
       by decide⟩,
   ⟨{ frame1 with taken := true, tailSeen := true }, ⟨{ up with frames := { frame1 with taken := true, tailSeen := true } :: (List.range 74).map (fun k => { frame1 with id := 100 + k, stored := true, len := 9216 }) }, []⟩,
       by dsimp only [Chip.framesInRange]; decide⟩,
   ⟨7, ⟨8, flowTo 47 15 300 600 false, 301, true, false⟩, .good, ⟨{ up with tails := [(7, ⟨8, flowTo 47 15 300 600 false, 301, true, false⟩)] }, []⟩,
       by decide⟩,
   ⟨7, ⟨8, flowTo 47 15 300 600 false, 301, true, false⟩, .badFcs, ⟨{ up with tails := [(7, ⟨8, flowTo 47 15 300 600 false, 301, true, false⟩)] }, []⟩,
       by decide⟩,
   ⟨7, ⟨8, flowTo 47 15 300 600 false, 301, true, false⟩, .badFec, ⟨{ up with tails := [(7, ⟨8, flowTo 47 15 300 600 false, 301, true, false⟩)] }, []⟩,
       by decide⟩,
   ⟨{ frame1 with taken := true, express := true, bad := true }, ⟨8, flowTo 47 15 300 600 false, 301, true, false⟩,
       ⟨{ withFrame { frame1 with taken := true, express := true, bad := true } with tails := [(7, ⟨8, flowTo 47 15 300 600 false, 301, true, false⟩)] }, []⟩,
       by decide⟩,
   ⟨{ frame1 with taken := true, tailSeen := true, express := true, started := true }, ⟨{ up with frames := { frame1 with taken := true, tailSeen := true, express := true, started := true } :: [{ frame1 with id := 100, taken := true, express := true, tailSeen := true, stored := true, len := 9216, formed := 144 }, { frame1 with id := 101, taken := true, express := true, tailSeen := true, stored := true, len := 9216, formed := 100 }, { frame1 with id := 102, taken := true, express := true, tailSeen := true, stored := true, len := 9216, formed := 12 }] }, []⟩,
       by dsimp only [Chip.framesInRange]; decide⟩⟩

theorem witness_NonconformingFramesAreDemotedOrDropped :
    (∃ (f : Frame) (i : Nat) (s : State), let e := f.entry; s.chip.coresRun = true ∧ s.chip.frame f.id = some f ∧
        f.taken = false ∧ 12 ≤ f.cls ∧ f.flow = some i ∧ f.unadmitted = false ∧ s.chip.flowStands f i = true ∧
        s.chip.bucketHolds i (flowMaxf e + 20) = false ∧ flowDrop e = true)
    ∧ (∃ (f : Frame) (i : Nat) (s : State), let e := f.entry; s.chip.coresRun = true ∧ s.chip.frame f.id = some f ∧
        f.taken = false ∧ 12 ≤ f.cls ∧ f.flow = some i ∧ f.unadmitted = false ∧ s.chip.flowStands f i = true ∧
        s.chip.bucketHolds i (flowMaxf e + 20) = false ∧ flowDrop e = false) :=
  ⟨⟨{ frame1 with cls := 15, flow := some 8, entry := flowTo 47 15 300 319 true, inLen := 300, len := 300 }, 8, ⟨{ withFrame { frame1 with cls := 15, flow := some 8, entry := flowTo 47 15 300 319 true, inLen := 300, len := 300 } with flow := [(8, flowTo 47 15 300 319 true)] }, []⟩,
       by dsimp only; decide⟩,
   ⟨{ frame1 with cls := 15, flow := some 8, entry := flowTo 47 15 300 319 false, inLen := 300, len := 300 }, 8, ⟨{ withFrame { frame1 with cls := 15, flow := some 8, entry := flowTo 47 15 300 319 false, inLen := 300, len := 300 } with flow := [(8, flowTo 47 15 300 319 false)] }, []⟩,
       by dsimp only; decide⟩⟩

theorem witness_OverlongFramesAreCutAtMaxf :
    (∃ (f : Frame) (i : Nat) (s : State), let e := f.entry; s.chip.coresRun = true ∧ s.chip.frame f.id = some f ∧
        f.taken = false ∧ 12 ≤ f.cls ∧ f.flow = some i ∧ f.unadmitted = false ∧ s.chip.flowStands f i = true ∧
        s.chip.bucketHolds i (flowMaxf e + 20) = true ∧ flowMaxf e < f.inLen)
    ∧ (∃ (f : Frame) (i : Nat) (s : State), let e := f.entry; s.chip.coresRun = true ∧ s.chip.frame f.id = some f ∧
        f.taken = true ∧ f.tailSeen = false ∧ Store.find f.id s.chip.tails = some ⟨i, e, f.inLen, true, false⟩ ∧
        flowMaxf e < f.inLen) :=
  ⟨⟨{ frame1 with cls := 15, flow := some 8, entry := flowTo 47 15 300 600 false, inLen := 320, len := 320 }, 8, ⟨{ withFrame { frame1 with cls := 15, flow := some 8, entry := flowTo 47 15 300 600 false, inLen := 320, len := 320 } with flow := [(8, flowTo 47 15 300 600 false)] }, []⟩,
       by dsimp only; decide⟩,
   ⟨{ frame1 with taken := true, entry := flowTo 47 15 300 600 false, inLen := 301 }, 8, ⟨{ withFrame { frame1 with taken := true, entry := flowTo 47 15 300 600 false, inLen := 301 } with flow := [(8, flowTo 47 15 300 600 false)], tails := [(7, ⟨8, flowTo 47 15 300 600 false, 301, true, false⟩)] }, []⟩,
       by dsimp only; decide⟩⟩

theorem witness_TwoShotOrderAndHostRings :
    (∃ (p : Nat) (express : Bool) (k : Early) (s : State), let x := s.chip.fuse p; s.chip.fuses.findSome? (fun e => (e.2.findEarly k.id).map (fun r => (e.1, r))) = some (p, express, k) ∧
        k ∈ x.earlyOf express ∧ k.inPort < 48)
    ∧ (∃ (p : Nat) (express : Bool) (k : Early) (s : State), let x := s.chip.fuse p; s.chip.fuses.findSome? (fun e => (e.2.findEarly k.id).map (fun r => (e.1, r))) = some (p, express, k) ∧
        k ∈ x.earlyOf express ∧ k.inPort < 48)
    ∧ (∃ (p : Fin 48) (m : FuseMarker) (s : State), let q := s.chip.lowerOf p.val; s.chip.fusedLower q = true ∧
        ((s.chip.link p.val 0).phase = .aligned ∨ (s.chip.link p.val 0).phase = .up) ∧ s.chip.framesInRange ∧ p.val ≠ q)
    ∧ (∃ (p : Fin 48) (m : FuseMarker) (s : State), let q := s.chip.lowerOf p.val; s.chip.fusedLower q = true ∧
        ((s.chip.link p.val 0).phase = .aligned ∨ (s.chip.link p.val 0).phase = .up) ∧ s.chip.framesInRange ∧ p.val = q)
    ∧ (∃ (f : RxFrame) (n : Nat) (s : State), let k := s.chip.getN (F.ringHead n) % s.chip.ringSize n; let port := bits (s.chip.desc n k 3) 29 24;
        let len := bits (s.chip.desc n k 2) 15 0; s.chip.coresRun = true ∧ s.chip.power.standby = false ∧
        s.chip.nextTxRing = some n ∧ (48 ≤ port ∨ s.chip.subports (s.chip.lowerOf port) ≤ bits (s.chip.desc n k 3) 23 21 ∨ len < 60 ∨ s.chip.maxframe port < len + 4))
    ∧ (∃ (f : RxFrame) (n : Nat) (s : State), let k := s.chip.getN (F.ringHead n) % s.chip.ringSize n; let port := bits (s.chip.desc n k 3) 29 24;
        let len := bits (s.chip.desc n k 2) 15 0; s.chip.coresRun = true ∧ s.chip.power.standby = false ∧
        s.chip.nextTxRing = some n ∧ (48 ≤ port ∨ s.chip.subports (s.chip.lowerOf port) ≤ bits (s.chip.desc n k 3) 23 21 ∨ len < 60 ∨ s.chip.maxframe port < len + 4))
    ∧ (∃ (f : RxFrame) (n : Nat) (s : State), let k := s.chip.getN (F.ringHead n) % s.chip.ringSize n; let port := bits (s.chip.desc n k 3) 29 24;
        let len := bits (s.chip.desc n k 2) 15 0; s.chip.coresRun = true ∧ s.chip.power.standby = false ∧
        s.chip.nextTxRing = some n ∧ (48 ≤ port ∨ s.chip.subports (s.chip.lowerOf port) ≤ bits (s.chip.desc n k 3) 23 21 ∨ len < 60 ∨ s.chip.maxframe port < len + 4))
    ∧ (∃ (f : RxFrame) (n : Nat) (s : State), let k := s.chip.getN (F.ringHead n) % s.chip.ringSize n; let w3 := s.chip.desc n k 3;
        let port := bits w3 29 24; let len := bits (s.chip.desc n k 2) 15 0; s.chip.coresRun = true ∧
        s.chip.power.standby = false ∧ s.chip.nextTxRing = some n ∧ port < 48 ∧ bits w3 23 21 < s.chip.subports (s.chip.lowerOf port) ∧
        60 ≤ len ∧ len + 4 ≤ s.chip.maxframe port ∧ bit w3 20 = false)
    ∧ (∃ (f : RxFrame) (n : Nat) (s : State), let k := s.chip.getN (F.ringHead n) % s.chip.ringSize n; let w3 := s.chip.desc n k 3;
        let port := bits w3 29 24; let len := bits (s.chip.desc n k 2) 15 0; s.chip.coresRun = true ∧
        s.chip.power.standby = false ∧ s.chip.nextTxRing = some n ∧ port < 48 ∧ bits w3 23 21 < s.chip.subports (s.chip.lowerOf port) ∧
        60 ≤ len ∧ len + 4 ≤ s.chip.maxframe port ∧ bit w3 20 = false)
    ∧ (∃ (id : Nat) (s : State), s.chip.fuses.findSome? (fun e => (e.2.findEarly id).map (fun r => (e.1, r))) = none)
    ∧ (∃ (m : MarkerIn) (r : Int) (p : Fin 42) (s : State), let c := s.chip; Says.quietMarker c r ∧ c.mail.staged = [] ∧
        c.coresRun = true ∧ c.fusedLower p.val = true ∧ c.farLoop p.val = false ∧ c.farLoop (p.val + 6) = false)
    ∧ (∃ (m : MarkerIn) (r : Int) (p : Fin 42) (s : State), let c := s.chip; Says.quietMarker c r ∧ c.mail.staged = [] ∧
        c.coresRun = true ∧ c.fusedLower p.val = true ∧ c.farLoop p.val = false ∧ c.farLoop (p.val + 6) = false) :=
  ⟨⟨41, true, ⟨7, 41, 9, none⟩, ⟨{ withFrame { frame1 with waiting := true } with fuses := [(41, { fuseDefault with rxSeqX := some 0x80009, earlyX := [⟨7, 41, 9, none⟩] })] }, []⟩,
       by dsimp only; decide⟩,
   ⟨41, false, ⟨9, 47, 9, some (1, 0, 64, false)⟩, ⟨{ up with fuses := [(41, { fuseDefault with rxSeq := some 1, early := [⟨9, 47, 9, some (1, 0, 64, false)⟩] })] }, []⟩,
       by dsimp only; decide⟩,
   ⟨47, ⟨1, true, 0, stamp0⟩, ⟨{ reg [(F.port0ModeTwoShot 41, 1)] with links := [(47 * 8 + 0, { linkDefault with phase := .up })] }, []⟩,
       by dsimp only [Chip.framesInRange]; decide⟩,
   ⟨41, ⟨1, false, 0, stamp0⟩, ⟨{ reg [(F.port0ModeTwoShot 41, 1)] with links := [(41 * 8 + 0, { linkDefault with phase := .aligned })] }, []⟩,
       by dsimp only [Chip.framesInRange]; decide⟩,
   ⟨rx, 8, ⟨{ reg [(F.ringCtrlEnable 8, 1), (F.ringTail 8, 1)] with ringMem := [(descKey 8 0 2, 60), (descKey 8 0 3, 0xB0000000)] }, []⟩,
       by dsimp only; decide⟩,
   ⟨rx, 8, ⟨{ reg [(F.ringCtrlEnable 8, 1), (F.ringTail 8, 1)] with ringMem := [(descKey 8 0 2, 59), (descKey 8 0 3, 0xAF000000)] }, []⟩,
       by dsimp only; decide⟩,
   ⟨rx, 8, ⟨{ reg [(F.ringCtrlEnable 8, 1), (F.ringTail 8, 1)] with ringMem := [(descKey 8 0 2, 9213), (descKey 8 0 3, 0xAF000000)] }, []⟩,
       by dsimp only; decide⟩,
   ⟨rx, 8, ⟨{ reg [(F.ringCtrlEnable 8, 1), (F.ringTail 8, 1)] with ringMem := [(descKey 8 0 2, 9212), (descKey 8 0 3, 0xAF0F0000)] }, []⟩,
       by dsimp only; decide⟩,
   ⟨rx, 8, ⟨{ reg [(F.ringCtrlEnable 8, 1), (F.ringTail 8, 1)] with ringMem := [(descKey 8 0 2, 60), (descKey 8 0 3, 0x80000000)] }, []⟩,
       by dsimp only; decide⟩,
   ⟨7, ⟨up, []⟩, by decide⟩,
   ⟨measured0, -5, 41, ⟨{ reg [(F.port0ModeTwoShot 41, 1)] with time := { up.time with nextRate := some (-5), nextNumber := 3 }, links := [(41 * 8, { linkDefault with phase := .aligned }), (47 * 8, { linkDefault with phase := .up })] }, []⟩,
       by dsimp only [Says.quietMarker]; decide⟩,
   ⟨measured0, -5, 41, ⟨{ reg [(F.port0ModeTwoShot 41, 1)] with time := { up.time with nextRate := some (-5), nextNumber := 3 } }, []⟩,
       by dsimp only [Says.quietMarker]; decide⟩⟩

theorem witness_SchedulerSlotsGrant :
    ∃ (f : Frame) (s : State), let c := s.chip; c.coresRun = true ∧ c.power.standby = false ∧ c.fab.pause = 0 ∧
        c.settle .none = .pass ∧ c.flag F.fabCcStatusAFenced = false ∧ c.flag F.fabCcStatusBFenced = false ∧ c.frames = [f] ∧
        c.fab.crossing = [] ∧ f.stored = true ∧ f.direct = false ∧ f.ended = false ∧ f.waiting = false ∧ f.crossed < f.formed ∧
        f.formed ≤ f.cells ∧ c.fusedLower f.outPort = false ∧ (f.crossed = 0 → c.answer f = .pass) ∧ f.inPort < 48 ∧
        f.outPort < 48 :=
  ⟨{ frame1 with stored := true, formed := 1 }, ⟨{ reg [(F.port0StatusLinkUp 47, 1)] with frames := [{ frame1 with stored := true, formed := 1 }] }, []⟩,
       by dsimp only; decide⟩

theorem witness_ContinuityCheckerFencesOrResets :
    (∃ (fault : SlotFault) (ecc : List StoreHit) (isB : Bool) (s : State), s.chip.coresRun = true ∧
        s.chip.power.standby = false ∧ s.chip.fab.pause = 0 ∧ s.chip.settle fault = (if isB then .fenceB else .fenceA) ∧
        s.chip.framesInRange)
    ∧ (∃ (fault : SlotFault) (ecc : List StoreHit) (isB : Bool) (s : State), s.chip.coresRun = true ∧
        s.chip.power.standby = false ∧ s.chip.fab.pause = 0 ∧ s.chip.settle fault = (if isB then .fenceB else .fenceA) ∧
        s.chip.framesInRange)
    ∧ (∃ (fault : SlotFault) (ecc : List StoreHit) (s : State), s.chip.coresRun = true ∧ s.chip.power.standby = false ∧
        s.chip.fab.pause = 0 ∧ s.chip.settle fault = .dual ∧ s.chip.framesInRange)
    ∧ (∃ (fault : SlotFault) (ecc : List StoreHit) (s : State), s.chip.coresRun = true ∧ s.chip.power.standby = false ∧
        s.chip.fab.pause = 0 ∧ s.chip.settle fault = .dual ∧ s.chip.framesInRange)
    ∧ (∃ (m : MarkerIn) (r : Int) (s : State), let c := s.chip; Says.quietMarker c r ∧ c.mail.staged = [] ∧ c.safeStop = false ∧
        c.power.standby = false ∧ c.flag F.fabCcStatusHeld = false)
    ∧ (∃ (m : MarkerIn) (r : Int) (s : State), let c := s.chip; Says.quietMarker c r ∧ c.mail.staged = [] ∧ c.safeStop = false ∧
        c.power.standby = false ∧ c.flag F.fabCcStatusHeld = false) :=
  ⟨⟨.none, [], false, ⟨{ up with fab := { up.fab with injectA := true } }, []⟩,
       by dsimp only [Chip.framesInRange]; decide⟩,
   ⟨.replicaB, [], true, ⟨up, []⟩, by dsimp only [Chip.framesInRange]; decide⟩,
   ⟨.silent, [], ⟨up, []⟩, by dsimp only [Chip.framesInRange]; decide⟩,
   ⟨.replicaB, [], ⟨{ reg [(F.fabCcStatusAFenced, 1)] with frames := [{ frame1 with stored := true, formed := 1, crossed := 1 }], fab := { up.fab with crossing := [(7, 47, 2)] } }, []⟩,
       by dsimp only [Chip.framesInRange]; decide⟩,
   ⟨measured0, -5, ⟨{ reg [(F.fabCcStatusAFenced, 1), (F.fabCcStatusSimplex, 1)] with time := { up.time with nextRate := some (-5), nextNumber := 3 }, fab := { up.fab with gptrB := List.replicate 48 7 } }, []⟩,
       by dsimp only [Says.quietMarker]; decide⟩,
   ⟨measured0, -5, ⟨{ reg [(F.fabCcStatusBFenced, 1), (F.fabCcStatusSimplex, 1)] with time := { up.time with nextRate := some (-5), nextNumber := 3 } }, []⟩,
       by dsimp only [Says.quietMarker]; decide⟩⟩

theorem witness_AuditsFindAndSweepsRestore :
    (∃ (s : State), s.chip.fab.sweeps = [] ∧ (∀ k < 96, s.chip.storeFree k + s.chip.storeHeld k = storeTotal k))
    ∧ (∃ (k : Nat) (s : State), s.chip.fab.sweeps = [] ∧ k < 48 ∧ s.chip.storeFree k + s.chip.storeHeld k < storeTotal k ∧
        (∀ j < 96, j ≠ k → s.chip.storeFree j + s.chip.storeHeld j = storeTotal j))
    ∧ (∃ (k : Fin 96) (s : State), s.chip.fab.sweeps.contains k.val = true) :=
  ⟨⟨⟨up, []⟩, by decide⟩,
   ⟨47, ⟨{ up with regs := Store.insert (F.buf3Free 47).key 12287 up.regs }, []⟩, by decide⟩,
   ⟨95, ⟨{ up with fab := { up.fab with sweeps := [95] } }, []⟩, by decide⟩⟩

theorem witness_TakesFollowNetworkTime :
    (∃ (p : Fin 48) (s : State), (s.chip.gate p.val).active.len ≠ 0 ∧ s.chip.atBoundary (s.chip.gate p.val).active = true ∧
        s.chip.groupIsDark (p.val / 6) = false)
    ∧ (∃ (p : Fin 48) (s : State), (s.chip.gate p.val).active.len ≠ 0)
    ∧ (∃ (p : Fin 48) (s : State), let l := (s.chip.gate p.val).active; l.len ≠ 0 ∧ l.badEntries.contains (l.entryAt (l.position s.chip.net)) = false)
    ∧ (∃ (p : Fin 48) (k : CutOver) (s : State), let g := s.chip.gate p.val; g.pending = some k ∧ s.chip.atBoundary (g.timer k) = true ∧
        k.at_ ≤ (g.timer k).boundaryAt s.chip.net ∧ s.chip.groupIsDark (p.val / 6) = false) :=
  ⟨⟨47, ⟨{ up with gates := [(47, { gateDefault with active := twoEntries, pending := some ⟨2, 2000, 0, 0, []⟩, shadow := twoEntries })] }, []⟩,
       by decide⟩,
   ⟨47, ⟨{ up with gates := [(47, { gateDefault with active := twoEntries, pending := some ⟨2, 2000, 0, 0, []⟩, shadow := twoEntries })] }, []⟩,
       by decide⟩,
   ⟨47, ⟨{ up with gates := [(47, { gateDefault with active := twoEntries, pending := some ⟨2, 2000, 0, 0, []⟩, shadow := twoEntries })] }, []⟩,
       by dsimp only; decide⟩,
   ⟨47, ⟨2, 2000, 0, 0, []⟩, ⟨{ up with gates := [(47, { gateDefault with active := twoEntries, pending := some ⟨2, 2000, 0, 0, []⟩, shadow := twoEntries })] }, []⟩,
       by dsimp only; decide⟩⟩

theorem witness_LinksFallHoldAndReturn :
    (∃ (p : Fin 48) (sub : Fin 8) (faultOnly : Bool) (s : State), s.chip.getBit (F.port0StatusLinkUp p.val) sub.val = true ∧
        s.chip.lowerOf p.val = p.val ∧ s.chip.fusedLower p.val = false ∧ s.chip.getN (F.port0HoldHoldNs p.val) ≠ 0 ∧
        s.chip.framesInRange)
    ∧ (∃ (p : Fin 48) (sub : Fin 8) (faultOnly : Bool) (s : State), s.chip.getBit (F.port0StatusLinkUp p.val) sub.val = true ∧
        s.chip.lowerOf p.val = p.val ∧ s.chip.fusedLower p.val = false ∧ s.chip.getN (F.port0HoldHoldNs p.val) ≠ 0 ∧
        s.chip.framesInRange)
    ∧ (∃ (p : Fin 48) (faultOnly : Bool) (s : State), let q := s.chip.lowerOf p.val; s.chip.getBit (F.port0StatusLinkUp p.val) 0 = true ∧
        s.chip.fusedLower q = true ∧ s.chip.framesInRange)
    ∧ (∃ (p : Fin 48) (faultOnly : Bool) (s : State), let q := s.chip.lowerOf p.val; s.chip.getBit (F.port0StatusLinkUp p.val) 0 = true ∧
        s.chip.fusedLower q = true ∧ s.chip.framesInRange)
    ∧ (∃ (p : Fin 48) (sub : Fin 8) (faultOnly : Bool) (s : State), s.chip.getBit (F.port0StatusLinkUp p.val) sub.val = false)
    ∧ (∃ (p : Fin 48) (sub : Fin 8) (faultOnly : Bool) (s : State), s.chip.getBit (F.port0StatusLinkUp p.val) sub.val = false)
    ∧ (∃ (p : Fin 48) (sub : Fin 8) (s : State), s.chip.getBit (F.port0StatusHolding p.val) sub.val = true ∧
        s.chip.framesInRange)
    ∧ (∃ (p : Fin 48) (sub : Fin 8) (s : State), (s.chip.link p.val sub.val).phase = .aligned ∧ s.chip.lowerOf p.val = p.val ∧
        s.chip.fusedLower p.val = false ∧ s.chip.coresRun = true ∧ s.chip.laneLocked p.val = true ∧
        s.chip.framesInRange)
    ∧ (∃ (p : Fin 48) (sub : Fin 8) (s : State), (s.chip.link p.val sub.val).phase = .aligned ∧ s.chip.lowerOf p.val = p.val ∧
        s.chip.fusedLower p.val = false ∧ s.chip.coresRun = true ∧ s.chip.laneLocked p.val = true ∧
        s.chip.framesInRange ∧ s.chip.getBit (F.port0StatusHolding p.val) sub.val = true ∧ s.chip.flag (F.port0MergeMergeEn p.val) = true)
    ∧ (∃ (p : Fin 48) (s : State), let q := s.chip.lowerOf p.val; (s.chip.link p.val 0).phase = .aligned ∧
        s.chip.fusedLower q = true ∧ s.chip.coresRun = true ∧ s.chip.laneLocked p.val = true ∧ s.chip.framesInRange) :=
  ⟨⟨47, 7, true, ⟨reg [(F.port0StatusLinkUp 47, 255), (F.port0HoldHoldNs 47, 1)], []⟩,
       by dsimp only [Chip.framesInRange]; decide⟩,
   ⟨47, 7, false, ⟨reg [(F.port0StatusLinkUp 47, 255), (F.port0HoldHoldNs 47, 1)], []⟩,
       by dsimp only [Chip.framesInRange]; decide⟩,
   ⟨47, false, ⟨reg [(F.port0ModeTwoShot 41, 1), (F.port0StatusLinkUp 41, 1), (F.port0StatusLinkUp 47, 1)], []⟩,
       by dsimp only [Chip.framesInRange]; decide⟩,
   ⟨41, false, ⟨reg [(F.port0ModeTwoShot 41, 1), (F.port0StatusLinkUp 41, 1), (F.port0StatusLinkUp 47, 1)], []⟩,
       by dsimp only [Chip.framesInRange]; decide⟩,
   ⟨47, 7, false, ⟨up, []⟩, by decide⟩,
   ⟨47, 7, true, ⟨up, []⟩, by decide⟩,
   ⟨47, 7, ⟨reg [(F.port0StatusHolding 47, 255)], []⟩, by dsimp only [Chip.framesInRange]; decide⟩,
   ⟨47, 7, ⟨{ up with links := [(47 * 8 + 7, { linkDefault with phase := .aligned })] }, []⟩,
       by dsimp only [Chip.framesInRange]; decide⟩,
   ⟨47, 7, ⟨{ reg [(F.port0StatusHolding 47, 255), (F.port0MergeMergeEn 47, 1)] with links := [(47 * 8 + 7, { linkDefault with phase := .aligned })] }, []⟩,
       by dsimp only [Chip.framesInRange]; decide⟩,
   ⟨47, ⟨{ reg [(F.port0ModeTwoShot 41, 1)] with links := [(47 * 8, { linkDefault with phase := .aligned })] }, []⟩,
       by dsimp only [Chip.framesInRange]; decide⟩⟩

theorem witness_BringUpStepsInOrder :
    (∃ (p : Fin 48) (sub : Fin 8) (s : State), (s.chip.link p.val sub.val).phase = .trained)
    ∧ (∃ (p : Fin 48) (sub : Fin 8) (lanes : List TrainedLane) (s : State), s.chip.isCr p.val = true ∧ (s.chip.link p.val sub.val).phase = .negotiating ∧
        sub.val < s.chip.subports (s.chip.lowerOf p.val))
    ∧ (∃ (p : Fin 48) (sub : Fin 8) (s : State), (s.chip.link p.val sub.val).phase = .negotiating)
    ∧ (∃ (p : Fin 48) (sub : Fin 8) (s : State), (s.chip.link p.val sub.val).phase = .anWait) :=
  ⟨⟨47, 7, ⟨{ up with links := [(47 * 8 + 7, { linkDefault with phase := .trained })] }, []⟩, by decide⟩,
   ⟨47, 7, [⟨0xFFFFFFFF, true, true⟩], ⟨{ reg [(F.port0ModeIfType 47, 1), (F.port0ModeSplit 47, 3)] with links := [(47 * 8 + 7, { linkDefault with phase := .negotiating })] }, []⟩,
       by decide⟩,
   ⟨47, 7, ⟨{ up with links := [(47 * 8 + 7, { linkDefault with phase := .negotiating })] }, []⟩, by decide⟩,
   ⟨47, 7, ⟨{ up with links := [(47 * 8 + 7, { linkDefault with phase := .anWait })] }, []⟩, by decide⟩⟩

theorem witness_UpsetsAreMetByTheirProtection :
    (∃ (h : ScrubHit) (s : State), h.index < tableSize h.table.val ∧ s.chip.failed h.table.val h.index = false)
    ∧ (∃ (h : ScrubHit) (s : State), h.index < tableSize h.table.val ∧ s.chip.failed h.table.val h.index = false)
    ∧ (∃ (a : Nat) (s : State), let pg := a / 4096; s.chip.powered = true ∧ s.chip.badParity = [a] ∧ s.chip.unpowered pg = false ∧
        s.chip.unreachable pg = false ∧ pg < 0x4000 ∧ pg ≠ 0x81)
    ∧ (∃ (addr : BitVec 26) (flip : Word) (f : FieldRow) (s : State), let a := addr.toNat; let pg := a / 4096; a % 4 = 0 ∧
        s.chip.powered = true ∧ occupied pg = true ∧ s.chip.unpowered pg = false ∧ s.chip.unreachable pg = false ∧ pg ≠ 0x81 ∧
        (fieldsAt a).filter (fun g => g.acc == .rwv) = [f] ∧ bits flip (f.lsb + f.width - 1) f.lsb ≠ 0 ∧ 0x40 ≤ a % 4096) :=
  ⟨⟨⟨0, 1048575, 1, true⟩, ⟨up, []⟩, by decide⟩,
   ⟨⟨4, 1023, 1, false⟩, ⟨up, []⟩, by decide⟩,
   ⟨0x3040, ⟨{ up with badParity := [0x3040] }, []⟩, by dsimp only; decide⟩,
   ⟨0x200004C, 0x2000, ⟨0, 14, .rwv, 0x2400, 0x3c, false⟩, ⟨up, []⟩, by dsimp only; decide⟩⟩

theorem witness_FlowCommandsStageTheirResults :
    (∃ (n : Fin 16) (i : Nat) (bounds : List Nat) (s : State), let x := s.chip.slot n.val; let v := s.chip.view;
        Says.nextStep 0x01 n s.chip ∧ v.power.standby = false ∧ v.admitRange x = none ∧ v.fusedUpper (bits (x.param 2) 21 16) = false ∧
        v.ledger.any (fun g => g.key == x.flowKey) = false ∧ v.admitCheck (v.newFlow x 0 0) = .ok bounds ∧ v.freeWay (flowSet (bit (x.param 0) 31) (bits (x.param 0) 19 0) (bits (x.param 1) 19 0)) = some i)
    ∧ (∃ (n : Fin 16) (s : State), let x := s.chip.slot n.val; let v := s.chip.view; Says.nextStep 0x01 n s.chip ∧
        v.power.standby = false ∧ v.admitRange x = none ∧ v.fusedUpper (bits (x.param 2) 21 16) = false ∧ v.ledger.any (fun g => g.key == x.flowKey) = true)
    ∧ (∃ (n : Fin 16) (s : State), let x := s.chip.slot n.val; let v := s.chip.view; Says.nextStep 0x01 n s.chip ∧
        v.power.standby = false ∧ v.admitRange x = none ∧ v.fusedUpper (bits (x.param 2) 21 16) = false ∧ v.ledger.any (fun g => g.key == x.flowKey) = false ∧
        (match v.admitCheck (v.newFlow x 0 0) with | .conflict _ _ => true | _ => false) = true)
    ∧ (∃ (n : Fin 16) (s : State), let x := s.chip.slot n.val; let v := s.chip.view; Says.nextStep 0x01 n s.chip ∧
        v.power.standby = false ∧ v.admitRange x = none ∧ v.fusedUpper (bits (x.param 2) 21 16) = false ∧ v.ledger.any (fun g => g.key == x.flowKey) = false ∧
        v.admitCheck (v.newFlow x 0 0) = .noResource)
    ∧ (∃ (n : Fin 16) (f : LFlow) (s : State), let x := s.chip.slot n.val; let v := s.chip.view; Says.nextStep 0x02 n s.chip ∧
        v.power.standby = false ∧ v.ledger.find? (fun g => g.index == bits (x.param 0) 15 0) = some f ∧ (v.failed 2 (bits (x.param 0) 15 0) = true ∨ flowGen (v.flowEntry (bits (x.param 0) 15 0)) = bits (x.param 1) 7 0))
    ∧ (∃ (n : Fin 16) (s : State), let v := s.chip.view; Says.nextStep 0x02 n s.chip ∧ v.power.standby = false ∧
        v.ledger.any (fun g => g.index == bits ((s.chip.slot n.val).param 0) 15 0) = false)
    ∧ (∃ (n : Fin 16) (f : LFlow) (s : State), let x := s.chip.slot n.val; let v := s.chip.view; Says.nextStep 0x02 n s.chip ∧
        v.power.standby = false ∧ v.ledger.find? (fun g => g.index == bits (x.param 0) 15 0) = some f ∧ v.failed 2 (bits (x.param 0) 15 0) = false ∧
        flowGen (v.flowEntry (bits (x.param 0) 15 0)) ≠ bits (x.param 1) 7 0)
    ∧ (∃ (n : Fin 16) (s : State), let c := s.chip; c.directorRuns = true ∧ c.mail.voided = false ∧ (c.slot n.val).opcode = 0x42 ∧
        c.mail.left.head? = some n.val ∧ c.objectTaken n.val (c.slot n.val) c.mail.taken = true) :=
  ⟨⟨15, (({ cmd 1 [0x80000010, 17, 0x2F00F0, 1000, 2000, 300] with regs := (reg [(F.admSubShare 47 0, 256)]).regs }).freeWay (flowSet true 16 17)).getD 0,
       match ({ cmd 1 [0x80000010, 17, 0x2F00F0, 1000, 2000, 300] with regs := (reg [(F.admSubShare 47 0, 256)]).regs }).view.admitCheck (({ cmd 1 [0x80000010, 17, 0x2F00F0, 1000, 2000, 300] with regs := (reg [(F.admSubShare 47 0, 256)]).regs }).view.newFlow (({ cmd 1 [0x80000010, 17, 0x2F00F0, 1000, 2000, 300] with regs := (reg [(F.admSubShare 47 0, 256)]).regs }).slot 15) 0 0) with | .ok b => b | _ => [],
       ⟨{ cmd 1 [0x80000010, 17, 0x2F00F0, 1000, 2000, 300] with regs := (reg [(F.admSubShare 47 0, 256)]).regs }, []⟩,
       by dsimp only [Says.nextStep]; decide⟩,
   ⟨15, ⟨{ { cmd 1 [0x80000010, 17, 0x2F00F0, 1000, 2000, 300] with regs := (reg [(F.admSubShare 47 0, 256)]).regs } with ledger := [{ flow1 with key := (({ cmd 1 [0x80000010, 17, 0x2F00F0, 1000, 2000, 300] with regs := (reg [(F.admSubShare 47 0, 256)]).regs }).slot 15).flowKey }] }, []⟩,
       by dsimp only [Says.nextStep]; decide⟩,
   ⟨15, ⟨{ cmd 1 [0x80000010, 17, 0x2F00F0, 100, 1048575, 300] with regs := (reg [(F.admSubShare 47 0, 256)]).regs }, []⟩,
       by dsimp only [Says.nextStep]; decide⟩,
   ⟨15, ⟨cmd 1 [0x80000010, 17, 0x2F00F0, 1600000, 2000, 300], []⟩, by dsimp only [Says.nextStep]; decide⟩,
   ⟨15, flow1, ⟨{ cmd 2 [8, 5] with ledger := [flow1], flow := [(8, flowTo 47 15 300 600 false)] }, []⟩,
       by dsimp only [Says.nextStep]; decide⟩,
   ⟨15, ⟨cmd 2 [65535, 0], []⟩, by dsimp only [Says.nextStep]; decide⟩,
   ⟨15, flow1, ⟨{ cmd 2 [8, 6] with ledger := [flow1], flow := [(8, flowTo 47 15 300 600 false)] }, []⟩,
       by dsimp only [Says.nextStep]; decide⟩,
   ⟨15, ⟨{ cmd 0x42 [47] with mail := { (cmd 0x42 [47]).mail with taken := (cmd 0x42 [47]).objects ((cmd 0x42 [47]).slot 15) } }, []⟩,
       by dsimp only; decide⟩⟩

theorem witness_TakeAndTableCommandsStage :
    (∃ (n : Fin 16) (s : State), let x := s.chip.slot n.val; let v := s.chip.view; let p := bits (x.param 0) 5 0;
        let g := v.gate p; let k : CutOver := ⟨bits (x.param 1) 10 0, bits (x.param 2) 20 0, x.time 3, x.time 6, []⟩;
        let l := g.newList k; let instant := g.cutInstant k v.net; let splice := spliceClosure g.active l (l.position instant);
        Says.nextStep 0x03 n s.chip ∧ v.power.standby = false ∧ p < 48 ∧ v.fusedUpper p = false ∧ bit (x.param 0) 31 = false ∧
        1 ≤ k.len ∧ k.len ≤ 1024 ∧ 1024 ≤ k.takeNs ∧ k.takeNs ≤ 1048576 ∧ x.badNs 5 = false ∧ x.badNs 8 = false ∧
        l.badEntry = none ∧ ((List.range k.len).map l.dur).sum = k.takeNs ∧ g.pending = none ∧ v.takeConflict p (fun c => ((l.figures c).1, (l.figures c).2.1, max (l.figures c).2.2 (splice.getD c 0))) (List.range 8) = none)
    ∧ (∃ (n : Fin 16) (s : State), let x := s.chip.slot n.val; let v := s.chip.view; let p := bits (x.param 0) 5 0;
        Says.nextStep 0x03 n s.chip ∧ v.power.standby = false ∧ p < 48 ∧ v.fusedUpper p = false ∧ bit (x.param 0) 31 = true ∧
        (v.gate p).pending.isSome = true)
    ∧ (∃ (n : Fin 16) (s : State), let x := s.chip.slot n.val; let v := s.chip.view; let first := bits (x.param 0) 9 0;
        let count := bits (x.param 1) 10 0; Says.nextStep 0x04 n s.chip ∧ v.power.standby = false ∧ 1 ≤ count ∧ first + count ≤ 1024 ∧
        (∀ i < count, v.failed 4 (first + i) = false ∧ stageBad (Store.read 0 v.stageTgt (first + i)) (v.tentry 4 (first + i)) = false))
    ∧ (∃ (n : Fin 16) (j : Nat) (s : State), let x := s.chip.slot n.val; let v := s.chip.view; let first := bits (x.param 0) 9 0;
        let count := bits (x.param 1) 10 0; Says.nextStep 0x04 n s.chip ∧ v.power.standby = false ∧ first + count ≤ 1024 ∧
        j < count ∧ (∀ i < j, v.failed 4 (first + i) = false ∧ stageBad (Store.read 0 v.stageTgt (first + i)) (v.tentry 4 (first + i)) = false) ∧
        (v.failed 4 (first + j) = true ∨ stageBad (Store.read 0 v.stageTgt (first + j)) (v.tentry 4 (first + j)) = true)) :=
  ⟨⟨15, ⟨{ cmd 3 [47, 2, 2000, 0, 0, 0, 0, 0, 0] with gates := [(47, { gateDefault with shadow := { twoEntries with len := 0, takeNs := 0, base := 0 } })] }, []⟩,
       by dsimp only [Says.nextStep]; decide⟩,
   ⟨15, ⟨{ cmd 3 [0x8000002F] with gates := [(47, { gateDefault with pending := some ⟨2, 2000, 0, 0, []⟩ })] }, []⟩,
       by dsimp only [Says.nextStep]; decide⟩,
   ⟨15, ⟨cmd 4 [1023, 1], []⟩, by dsimp only [Says.nextStep]; decide⟩,
   ⟨15, 1, ⟨{ cmd 4 [1022, 2] with stage := [(1023, pathTo 5 9 11)] }, []⟩, by dsimp only [Says.nextStep]; decide⟩⟩

theorem witness_TimeAndSessionCommandsStage :
    (∃ (n : Fin 16) (s : State), Says.nextStep 0x10 n s.chip)
    ∧ (∃ (n : Fin 16) (s : State), Says.nextStep 0x11 n s.chip)
    ∧ (∃ (n : Fin 16) (s : State), Says.nextStep 0x11 n s.chip)
    ∧ (∃ (n : Fin 16) (s : State), let x := s.chip.slot n.val; let v := s.chip.view; let p := bits (x.param 0) 5 0;
        let sub := bits (x.param 0) 10 8; let a := signed 24 (bits (x.param 2) 23 0); Says.nextStep 0x12 n s.chip ∧ p < 48 ∧
        x.param 2 = word (twos 32 a) ∧ v.firstWorn (ledgerWords p sub) = none)
    ∧ (∃ (n : Fin 16) (s : State), let x := s.chip.slot n.val; let v := s.chip.view; Says.nextStep 0x13 n s.chip ∧
        v.power.standby = false ∧ v.openRefused x.config = none ∧ v.sessions.length < 16384 ∧ (v.groupSessions (cfgPort x.config / 6)).length < 4096)
    ∧ (∃ (n : Fin 16) (s : State), let v := s.chip.view; Says.nextStep 0x14 n s.chip ∧ v.power.standby = false)
    ∧ (∃ (n : Fin 16) (s : State), Says.nextStep 0x30 n s.chip ∧ s.chip.view.power.standby = false)
    ∧ (∃ (n : Fin 16) (s : State), Says.nextStep 0x31 n s.chip ∧ bits ((s.chip.slot n.val).param 0) 1 0 = 0) :=
  ⟨⟨15, ⟨cmd 0x10 [], []⟩, by dsimp only [Says.nextStep]; decide⟩,
   ⟨15, ⟨cmd 0x11 [0], []⟩, by dsimp only [Says.nextStep]; decide⟩,
   ⟨15, ⟨cmd 0x11 [15], []⟩, by dsimp only [Says.nextStep]; decide⟩,
   ⟨15, ⟨cmd 0x12 [0x72F, 0xFFFF0000, 0xFFFFFFFF], []⟩, by dsimp only [Says.nextStep]; decide⟩,
   ⟨15, ⟨cmd 0x13 [0, 0, 0, 0, 0, 0, 0, 0x01780000], []⟩, by dsimp only [Says.nextStep]; decide⟩,
   ⟨15, ⟨cmd 0x14 [16383], []⟩, by dsimp only [Says.nextStep]; decide⟩,
   ⟨15, ⟨cmd 0x30 [], []⟩, by dsimp only [Says.nextStep]; decide⟩,
   ⟨15, ⟨cmd 0x31 [0], []⟩, by dsimp only [Says.nextStep]; decide⟩⟩

theorem witness_ResetAndPowerCommandsStage :
    (∃ (n : Fin 16) (s : State), Says.nextStep 0x40 n s.chip)
    ∧ (∃ (n : Fin 16) (s : State), Says.nextStep 0x40 n s.chip)
    ∧ (∃ (n : Fin 16) (s : State), Says.nextStep 0x41 n s.chip)
    ∧ (∃ (n : Fin 16) (s : State), let v := s.chip.view; let p := bits ((s.chip.slot n.val).param 0) 5 0;
        Says.nextStep 0x42 n s.chip ∧ p < 48 ∧ v.fusedUpper p = false)
    ∧ (∃ (n : Fin 16) (s : State), let v := s.chip.view; let p0 := (s.chip.slot n.val).param 0; Says.nextStep 0x43 n s.chip ∧
        v.power.standby = false ∧ bits p0 9 8 = 0 ∧ bits p0 17 16 = 1 ∧ bits p0 5 0 < 48 ∧ v.fusedUpper (bits p0 5 0) = false)
    ∧ (∃ (n : Fin 16) (s : State), let v := s.chip.view; let p0 := (s.chip.slot n.val).param 0; Says.nextStep 0x43 n s.chip ∧
        v.power.standby = false ∧ bits p0 9 8 = 2 ∧ bits p0 17 16 = 2)
    ∧ (∃ (n : Fin 16) (s : State), let x := s.chip.slot n.val; let p0 := x.param 0; x.phase = .running ∧ x.opcode = 0x43 ∧
        s.chip.stillWakes x = false ∧ bits p0 17 16 ≠ 0)
    ∧ (∃ (n : Fin 16) (s : State), let x := s.chip.slot n.val; let p0 := x.param 0; x.phase = .running ∧ x.opcode = 0x43 ∧
        s.chip.stillWakes x = false ∧ bits p0 17 16 = 0 ∧ bits p0 9 8 = 0 ∧ bits p0 5 0 < 48)
    ∧ (∃ (n : Fin 16) (s : State), let x := s.chip.slot n.val; let p0 := x.param 0; x.phase = .running ∧ x.opcode = 0x43 ∧
        s.chip.stillWakes x = false ∧ bits p0 17 16 = 0 ∧ bits p0 9 8 = 1 ∧ bits p0 5 0 < 8)
    ∧ (∃ (n : Fin 16) (s : State), let x := s.chip.slot n.val; let p0 := x.param 0; x.phase = .running ∧ x.opcode = 0x43 ∧
        s.chip.stillWakes x = false ∧ bits p0 17 16 = 0 ∧ bits p0 9 8 = 2)
    ∧ (∃ (n : Fin 16) (s : State), s.chip.stillWakes (s.chip.slot n.val) = true)
    ∧ (∃ (m : MarkerIn) (r : Int) (n : Fin 16) (group : Bool) (k : Nat) (rs : List Word) (s : State), let c := s.chip;
        Says.releases ⟨n.val, (if group then .groupReset k else .portReset k), stOk, rs⟩ r c ∧ c.framesInRange ∧
        (group = true → k < 8) ∧ (group = false → k < 48 ∧ c.lowerOf k = k ∧ c.groupIsDark (k / 6) = false))
    ∧ (∃ (m : MarkerIn) (r : Int) (n : Fin 16) (group : Bool) (k : Nat) (rs : List Word) (s : State), let c := s.chip;
        Says.releases ⟨n.val, (if group then .groupReset k else .portReset k), stOk, rs⟩ r c ∧ c.framesInRange ∧
        (group = true → k < 8) ∧ (group = false → k < 48 ∧ c.lowerOf k = k ∧ c.groupIsDark (k / 6) = false))
    ∧ (∃ (m : MarkerIn) (r : Int) (n : Fin 16) (rs : List Word) (s : State), let c := s.chip; Says.releases ⟨n.val, .deviceReset, stOk, rs⟩ r c ∧
        (Store.find n.val c.mail.slots).isSome = true)
    ∧ (∃ (m : MarkerIn) (r : Int) (n : Fin 16) (scope : Nat) (k : Nat) (st : Nat) (rs : List Word) (s : State), let c := s.chip;
        Says.releases ⟨n.val, .power scope k st, stOk, rs⟩ r c ∧ c.framesInRange ∧ st ≠ 0 ∧ scope < 3 ∧ (scope = 0 → k < 48 ∧
        c.lowerOf k = k) ∧ (scope = 1 → k < 8))
    ∧ (∃ (m : MarkerIn) (r : Int) (n : Fin 16) (scope : Nat) (k : Nat) (st : Nat) (rs : List Word) (s : State), let c := s.chip;
        Says.releases ⟨n.val, .power scope k st, stOk, rs⟩ r c ∧ c.framesInRange ∧ st ≠ 0 ∧ scope < 3 ∧ (scope = 0 → k < 48 ∧
        c.lowerOf k = k) ∧ (scope = 1 → k < 8))
    ∧ (∃ (m : MarkerIn) (r : Int) (n : Fin 16) (scope : Nat) (k : Nat) (st : Nat) (rs : List Word) (s : State), let c := s.chip;
        Says.releases ⟨n.val, .power scope k st, stOk, rs⟩ r c ∧ c.framesInRange ∧ st ≠ 0 ∧ scope < 3 ∧ (scope = 0 → k < 48 ∧
        c.lowerOf k = k) ∧ (scope = 1 → k < 8)) :=
  ⟨⟨15, ⟨cmd 0x40 [0xA5], []⟩, by dsimp only [Says.nextStep]; decide⟩,
   ⟨15, ⟨cmd 0x40 [0xA4], []⟩, by dsimp only [Says.nextStep]; decide⟩,
   ⟨15, ⟨cmd 0x41 [7], []⟩, by dsimp only [Says.nextStep]; decide⟩,
   ⟨15, ⟨cmd 0x42 [47], []⟩, by dsimp only [Says.nextStep]; decide⟩,
   ⟨15, ⟨cmd 0x43 [0x1002F], []⟩, by dsimp only [Says.nextStep]; decide⟩,
   ⟨15, ⟨cmd 0x43 [0x20200], []⟩, by dsimp only [Says.nextStep]; decide⟩,
   ⟨15, ⟨{ up with mail := { up.mail with slots := [(15, ⟨.running, 0x43, 1, false, [0x1002F], 0, []⟩)] } }, []⟩,
       by dsimp only; decide⟩,
   ⟨15, ⟨{ up with mail := { up.mail with slots := [(15, ⟨.running, 0x43, 1, false, [0x2F], 0, []⟩)] } }, []⟩,
       by dsimp only; decide⟩,
   ⟨15, ⟨{ up with mail := { up.mail with slots := [(15, ⟨.running, 0x43, 1, false, [0x107], 0, []⟩)] } }, []⟩,
       by dsimp only; decide⟩,
   ⟨15, ⟨{ up with mail := { up.mail with slots := [(15, ⟨.running, 0x43, 1, false, [0x200], 0, []⟩)] } }, []⟩,
       by dsimp only; decide⟩,
   ⟨15, ⟨{ up with mail := { up.mail with slots := [(15, ⟨.running, 0x43, 1, false, [0x107], 0, []⟩)] }, power := { up.power with groupDark := 0x80 } }, []⟩,
       by decide⟩,
   ⟨measured0, -5, 15, true, 7, [8], ⟨{ reg [(F.port0StatusLinkUp 47, 255), (F.rstStatusGroupHeld, 0x80)] with time := { up.time with nextRate := some (-5) }, mail := { up.mail with slots := [(15, ⟨.ran, 0x41, 1, true, [7], 0, []⟩)], staged := [⟨15, .groupReset 7, stOk, [8]⟩] } }, []⟩,
       by dsimp only [Chip.framesInRange, Says.releases, Says.quietMarker]; decide⟩,
   ⟨measured0, -5, 15, false, 41, [8], ⟨{ reg [(F.port0StatusLinkUp 47, 1), (F.port0ModeTwoShot 41, 1)] with time := { up.time with nextRate := some (-5) }, mail := { up.mail with slots := [(15, ⟨.ran, 0x42, 1, true, [41], 0, []⟩)], staged := [⟨15, .portReset 41, stOk, [8]⟩] } }, []⟩,
       by dsimp only [Chip.framesInRange, Says.releases, Says.quietMarker]; decide⟩,
   ⟨measured0, -5, 15, [8], ⟨{ up with time := { up.time with nextRate := some (-5) }, mail := { up.mail with slots := [(15, ⟨.ran, 0x40, 1, true, [], 0, []⟩)], staged := [⟨15, .deviceReset, stOk, [8]⟩] }, sessions := [(3, session1)] }, []⟩,
       by dsimp only [Says.releases, Says.quietMarker]; decide⟩,
   ⟨measured0, -5, 15, 0, 47, 1, [8], ⟨{ reg [(F.port0StatusLinkUp 47, 255)] with time := { up.time with nextRate := some (-5) }, mail := { up.mail with slots := [(15, ⟨.ran, 0x43, 1, true, [], 0, []⟩)], staged := [⟨15, .power 0 47 1, stOk, [8]⟩] } }, []⟩,
       by dsimp only [Chip.framesInRange, Says.releases, Says.quietMarker]; decide⟩,
   ⟨measured0, -5, 15, 1, 7, 1, [8], ⟨{ reg [(F.port0StatusLinkUp 47, 255)] with time := { up.time with nextRate := some (-5) }, mail := { up.mail with slots := [(15, ⟨.ran, 0x43, 1, true, [], 0, []⟩)], staged := [⟨15, .power 1 7 1, stOk, [8]⟩] } }, []⟩,
       by dsimp only [Chip.framesInRange, Says.releases, Says.quietMarker]; decide⟩,
   ⟨measured0, -5, 15, 2, 0, 2, [8], ⟨{ reg [(F.port0StatusLinkUp 47, 255)] with time := { up.time with nextRate := some (-5) }, mail := { up.mail with slots := [(15, ⟨.ran, 0x43, 1, true, [], 0, []⟩)], staged := [⟨15, .power 2 0 2, stOk, [8]⟩] }, ledger := [flow1], sessions := [(3, session1)] }, []⟩,
       by dsimp only [Chip.framesInRange, Says.releases, Says.quietMarker]; decide⟩⟩

theorem witness_CalibrationMeasurementsAreStaged :
    (∀ k < 5, ∃ (n : Fin 16) (r : CalRun) (s : State), s.chip.calRun = some r ∧ s.chip.directorRuns = true ∧
        s.chip.mail.voided = false ∧ r.slot = n.val ∧ r.kind = k ∧ r.cause = 0 ∧ s.chip.mail.staged.any (fun e => e.slot == n.val) = false ∧
        s.chip.mail.moved.contains n.val = false)
    ∧ (∃ (m : MarkerIn) (r : Int) (x : CalRun) (s : State), Says.calMarks x none r s.chip ∧ x.cause = 4)
    ∧ (∃ (m : MarkerIn) (r : Int) (x : CalRun) (d : CalIn) (s : State), let c := s.chip; Says.calMarks x (some d) r c ∧
        x.cause = 0 ∧ c.calCondition (c.slot x.slot) x.kind x.target = 0 ∧ x.target < 48 ∧ (match d with | .lanes _ _ => x.kind = 1 | .links _ => x.kind = 2 | .phase _ => x.kind = 3 | _ => False))
    ∧ (∃ (m : MarkerIn) (r : Int) (x : CalRun) (d : CalIn) (s : State), let c := s.chip; Says.calMarks x (some d) r c ∧
        x.cause = 0 ∧ c.calCondition (c.slot x.slot) x.kind x.target = 0 ∧ x.target < 48 ∧ (match d with | .lanes _ _ => x.kind = 1 | .links _ => x.kind = 2 | .phase _ => x.kind = 3 | _ => False))
    ∧ (∃ (m : MarkerIn) (r : Int) (x : CalRun) (d : CalIn) (s : State), let c := s.chip; Says.calMarks x (some d) r c ∧
        x.cause = 0 ∧ c.calCondition (c.slot x.slot) x.kind x.target = 0 ∧ x.target < 48 ∧ (match d with | .lanes _ _ => x.kind = 1 | .links _ => x.kind = 2 | .phase _ => x.kind = 3 | _ => False))
    ∧ (∃ (m : MarkerIn) (r : Int) (x : CalRun) (d : CalIn) (s : State), let c := s.chip; Says.calMarks x (some d) r c ∧
        x.cause = 0 ∧ c.calCondition (c.slot x.slot) x.kind x.target = 0 ∧ x.target < 48 ∧ (match d with | .lanes _ _ => x.kind = 1 | .links _ => x.kind = 2 | .phase _ => x.kind = 3 | _ => False))
    ∧ (∃ (m : MarkerIn) (r : Int) (x : CalRun) (lines : List (List TdcPass)) (grid : TdcGrid) (s : State), let c := s.chip;
        let d := CalIn.tdc lines grid; Says.calMarks x (some d) r c ∧ x.cause = 0 ∧ x.kind = 0 ∧ x.half = none ∧
        c.calCondition (c.slot x.slot) 0 x.target = 0 ∧ c.calOut (c.slot x.slot) x.target d = false) :=
  ⟨fun k _ => ⟨15, ⟨15, k, 0, [], 0, none, 0⟩, ⟨{ up with calRun := some ⟨15, k, 0, [], 0, none, 0⟩ }, []⟩, rfl, by rfl, by rfl, rfl, rfl, rfl, by rfl, by rfl⟩,
   ⟨measured0, -5, ⟨15, 1, 47, [], 4, none, 0⟩, ⟨{ up with time := { up.time with nextRate := some (-5) }, calRun := some ⟨15, 1, 47, [], 4, none, 0⟩, mail := { up.mail with slots := [(15, ⟨.running, 0x20, 1, true, [0], 0, []⟩)], staged := [] } }, []⟩,
       by dsimp only [Says.calMarks]; decide⟩,
   ⟨measured0, -5, ⟨15, 1, 47, [], 0, none, 0⟩, .lanes [3200, 40000, 3200, 3200, 3200, 3200, 3200, 3200] [3200, 3200, 3200, 3200, 3200, 3200, 3200, 4000],
       ⟨{ reg [(F.pll0MstatusLocked, 1), (F.cal0StatusTdcDone, 0x200)] with time := { up.time with nextRate := some (-5) }, calRun := some ⟨15, 1, 47, [], 0, none, 0⟩, mail := { up.mail with slots := [(15, ⟨.running, 0x20, 1, true, [47], 0, []⟩)], staged := [⟨15, .cal 1 47 (.lanes [3200, 40000, 3200, 3200, 3200, 3200, 3200, 3200] [3200, 3200, 3200, 3200, 3200, 3200, 3200, 4000]), stOk, []⟩] } }, []⟩,
       by dsimp only [Says.calMarks]; decide⟩,
   ⟨measured0, -5, ⟨15, 1, 47, [], 0, none, 0⟩, .lanes [3199, 3200, 3200, 3200, 3200, 3200, 3200, 3200] [3200, 3200, 3200, 3200, 3200, 3200, 3200, 3200],
       ⟨{ reg [(F.pll0MstatusLocked, 1), (F.cal0StatusTdcDone, 0x200)] with time := { up.time with nextRate := some (-5) }, calRun := some ⟨15, 1, 47, [], 0, none, 0⟩, mail := { up.mail with slots := [(15, ⟨.running, 0x20, 1, true, [47], 0, []⟩)], staged := [⟨15, .cal 1 47 (.lanes [3199, 3200, 3200, 3200, 3200, 3200, 3200, 3200] [3200, 3200, 3200, 3200, 3200, 3200, 3200, 3200]), stOk, []⟩] } }, []⟩,
       by dsimp only [Says.calMarks]; decide⟩,
   ⟨measured0, -5, ⟨15, 3, 0, [], 0, none, 0⟩, .phase 1000, ⟨{ reg [(F.pll0MstatusLocked, 1), (F.cal0StatusTdcDone, 0x200)] with time := { up.time with nextRate := some (-5) }, calRun := some ⟨15, 3, 0, [], 0, none, 0⟩, mail := { up.mail with slots := [(15, ⟨.running, 0x20, 1, true, [0], 0, []⟩)], staged := [⟨15, .cal 3 0 (.phase 1000), stOk, []⟩] } }, []⟩,
       by dsimp only [Says.calMarks]; decide⟩,
   ⟨measured0, -5, ⟨15, 3, 0, [], 0, none, 0⟩, .phase 1001, ⟨{ reg [(F.pll0MstatusLocked, 1), (F.cal0StatusTdcDone, 0x200)] with time := { up.time with nextRate := some (-5) }, calRun := some ⟨15, 3, 0, [], 0, none, 0⟩, mail := { up.mail with slots := [(15, ⟨.running, 0x20, 1, true, [0], 0, []⟩)], staged := [⟨15, .cal 3 0 (.phase 1001), stOk, []⟩] } }, []⟩,
       by dsimp only [Says.calMarks]; decide⟩,
   ⟨measured0, -5, ⟨15, 0, 9, [], 0, none, 0⟩, [[⟨List.replicate 300 13981, []⟩], [⟨List.replicate 300 13981, []⟩]],
       ⟨[], [], []⟩, ⟨{ reg [(F.pll0MstatusLocked, 1)] with time := { up.time with nextRate := some (-5) }, calRun := some ⟨15, 0, 9, [], 0, none, 0⟩, mail := { up.mail with slots := [(15, ⟨.running, 0x20, 1, true, [9], 0, []⟩)], staged := [⟨15, .cal 0 9 (.tdc [[⟨List.replicate 300 13981, []⟩], [⟨List.replicate 300 13981, []⟩]] ⟨[], [], []⟩), stOk, []⟩] } }, []⟩,
       by dsimp only [Says.calMarks]; decide +kernel⟩⟩

theorem witness_AgentsReportOverrunsAndMismatches :
    (∃ (s : State), let m := s.chip.mail; s.chip.directorRuns = true ∧ m.voided = false ∧ m.moveSeen = false)
    ∧ (∃ (s : State), let m := s.chip.mail; s.chip.directorRuns = true ∧ m.voided = false ∧ m.moveSeen = false)
    ∧ (∃ (s : State), s.chip.coresRun = true)
    ∧ (∃ (g : Fin 8) (phases : List PhaseIn) (reached : Nat) (s : State), s.chip.engineHere g.val = true ∧ bit s.chip.cores.gripDone g.val = false)
    ∧ (∃ (g : Fin 8) (phases : List PhaseIn) (n : Nat) (x : Session) (s : State), s.chip.engineHere g.val = true ∧ bit s.chip.cores.gripDone g.val = false ∧
        s.chip.groupSessions g.val = [n] ∧ s.chip.session n = some x ∧ cfgSpeid x.cfg = false)
    ∧ (∃ (s : State), s.chip.directorRuns = true ∧ s.chip.mail.voided = false ∧ s.chip.flag F.sysDirectorStandbyReady = true)
    ∧ (∃ (s : State), s.chip.directorRuns = true ∧ s.chip.mail.voided = false ∧ s.chip.flag F.sysDirectorStandbyReady = false)
    ∧ (∃ (s : State), s.chip.directorRuns = true ∧ s.chip.mail.voided = false ∧ s.chip.flag F.sysDirectorStandbyReady = true)
    ∧ (∃ (pass : Bool) (s : State), s.chip.coresRun = true ∧ s.chip.flag F.sysDirectorStandbyFenced = true ∧
        s.chip.controlLost = false) :=
  ⟨⟨⟨up, []⟩, by dsimp only; decide⟩,
   ⟨⟨{ up with mail := { up.mail with moved := [3] } }, []⟩, by dsimp only; decide⟩,
   ⟨⟨up, []⟩, by decide⟩,
   ⟨7, [], 0, ⟨up, []⟩, by decide⟩,
   ⟨0, [], 3, session1, ⟨{ up with sessions := [(3, session1)] }, []⟩, by decide⟩,
   ⟨⟨up, []⟩, by decide⟩,
   ⟨⟨reg [(F.sysDirectorStandbyReady, 0)], []⟩, by decide⟩,
   ⟨⟨up, []⟩, by decide⟩,
   ⟨true, ⟨reg [(F.sysDirectorStandbyFenced, 1)], []⟩, by decide⟩⟩

theorem witness_MarkersApplyParametersAndEffects :
    (∃ (m : MarkerIn) (r : Int) (s : State), Says.quietMarker s.chip r ∧ s.chip.mail.staged = [])
    ∧ (∃ (m : MarkerIn) (r : Int) (n : Fin 16) (f : LFlow) (e : BitVec 128) (b : List Nat) (rs : List Word) (s : State),
        Says.quietMarker s.chip r ∧ s.chip.directorRuns = true ∧ s.chip.mail.voided = false ∧ s.chip.mail.staged = [⟨n.val, .addFlow f e b, stOk, rs⟩] ∧
        rs.length ≤ 64 ∧ f.port < 48 ∧ f.sub < 8)
    ∧ (∃ (m : MarkerIn) (r : Int) (s : State), let c := s.chip; Says.quietMarker c r ∧ c.mail.staged = [] ∧
        c.directorRuns = true ∧ c.mail.voided = false ∧ c.power.dip = none ∧ c.inDip = false ∧ (∀ e ∈ c.mail.slots, e.2.phase ≠ .ending) ∧
        Store.canonical slotDefault c.mail.slots = true)
    ∧ (∃ (m : MarkerIn) (r : Int) (s : State), let c := s.chip; Says.quietMarker c r ∧ c.mail.staged = [] ∧
        c.directorRuns = true ∧ c.mail.voided = false ∧ c.power.dip = none ∧ c.inDip = false ∧ (∀ e ∈ c.mail.slots, e.2.phase ≠ .ending) ∧
        Store.canonical slotDefault c.mail.slots = true)
    ∧ (∃ (m : MarkerIn) (r : Int) (n : Fin 16) (f : LFlow) (rs : List Word) (s : State), Says.releases ⟨n.val, .release f.index, stOk, rs⟩ r s.chip ∧
        s.chip.ledger.find? (fun g => g.index == f.index) = some f ∧ f.port < 48 ∧ f.sub < 8)
    ∧ (∃ (m : MarkerIn) (r : Int) (n : Fin 16) (p : Fin 48) (k : Option CutOver) (rs : List Word) (s : State),
        Says.releases ⟨n.val, (match k with | some x => .take p.val x | none => .cancel p.val), stOk, rs⟩ r s.chip)
    ∧ (∃ (m : MarkerIn) (r : Int) (n : Fin 16) (p : Fin 48) (k : Option CutOver) (rs : List Word) (s : State),
        Says.releases ⟨n.val, (match k with | some x => .take p.val x | none => .cancel p.val), stOk, rs⟩ r s.chip)
    ∧ (∃ (m : MarkerIn) (r : Int) (n : Fin 16) (first : Nat) (count : Nat) (rs : List Word) (s : State), let target := fun i => Store.read 0 s.chip.stageTgt (first + i);
        Says.releases ⟨n.val, .commit first count, stOk, rs⟩ r s.chip ∧ (∀ i < count, target i < 2 * 2 ^ 20))
    ∧ (∃ (m : MarkerIn) (r : Int) (n : Fin 16) (p : Fin 48) (sub : Fin 8) (ext : Word) (asym : Word) (rs : List Word) (s : State),
        Says.releases ⟨n.val, .asym p.val sub.val ext asym, stOk, rs⟩ r s.chip)
    ∧ (∃ (m : MarkerIn) (r : Int) (n : Fin 16) (k : Nat) (cfg : BitVec 256) (rs : List Word) (s : State),
        Says.releases ⟨n.val, .openSession k cfg, stOk, rs⟩ r s.chip)
    ∧ (∃ (m : MarkerIn) (r : Int) (n : Fin 16) (k : Nat) (rs : List Word) (s : State), Says.releases ⟨n.val, .closeSession k, stOk, rs⟩ r s.chip ∧
        k < 16384)
    ∧ (∃ (m : MarkerIn) (r : Int) (auto : Bool) (n : Fin 16) (rs : List Word) (s : State), let c := s.chip; (auto = false → Says.releases ⟨n.val, .snapshot, stOk, rs⟩ r c) ∧
        (auto = true → Says.quietMarker c r ∧ c.mail.staged = [] ∧ c.time.nextNumber = 0 ∧ c.flag F.pcnt0CtrlAuto = true))
    ∧ (∃ (m : MarkerIn) (r : Int) (auto : Bool) (n : Fin 16) (rs : List Word) (s : State), let c := s.chip; (auto = false → Says.releases ⟨n.val, .snapshot, stOk, rs⟩ r c) ∧
        (auto = true → Says.quietMarker c r ∧ c.mail.staged = [] ∧ c.time.nextNumber = 0 ∧ c.flag F.pcnt0CtrlAuto = true)) :=
  ⟨⟨measured0, -5, ⟨{ up with time := { up.time with nextRate := some (-5) } }, []⟩,
       by dsimp only [Says.quietMarker]; decide⟩,
   ⟨measured0, -5, 15, flow1, 1, [7], [8], ⟨{ up with time := { up.time with nextRate := some (-5) }, mail := { up.mail with staged := [⟨15, .addFlow flow1 1 [7], stOk, [8]⟩] } }, []⟩,
       by dsimp only [Says.quietMarker]; decide⟩,
   ⟨measured0, -5, ⟨{ up with time := { up.time with nextRate := some (-5), nextNumber := 3 }, mail := { up.mail with slots := [(0, ⟨.waiting, 1, 1, false, [0x80000010, 17], 0, []⟩), (7, ⟨.waiting, 0x77, 1, false, [], 0, []⟩), (15, ⟨.running, 0x43, 1, false, [], 0, []⟩)] } }, []⟩,
       by dsimp only [Says.quietMarker]; decide⟩,
   ⟨measured0, -5, ⟨{ up with time := { up.time with nextRate := some (-5), nextNumber := 3 }, mail := { up.mail with slots := (List.range 16).map (fun k => (k, ⟨.waiting, 3, 1, false, [47, 1024, 0], 0, []⟩)) } }, []⟩,
       by dsimp only [Says.quietMarker]; decide⟩,
   ⟨measured0, -5, 15, flow1, [8], ⟨{ up with time := { up.time with nextRate := some (-5) }, mail := { up.mail with slots := [(15, ⟨.ran, 1, 1, true, [], 0, []⟩)], staged := [⟨15, .release 8, stOk, [8]⟩] }, ledger := [flow1], flow := [(8, flowTo 47 15 300 600 false)], tokens := [(8, 5)], tails := [(7, ⟨8, 5, 300, true, false⟩)] }, []⟩,
       by dsimp only [Says.releases, Says.quietMarker]; decide⟩,
   ⟨measured0, -5, 15, 47, some ⟨2, 2000, 0, 0, []⟩, [8], ⟨{ up with time := { up.time with nextRate := some (-5) }, mail := { up.mail with slots := [(15, ⟨.ran, 1, 1, true, [], 0, []⟩)], staged := [⟨15, .take 47 ⟨2, 2000, 0, 0, []⟩, stOk, [8]⟩] } }, []⟩,
       by dsimp only [Says.releases, Says.quietMarker]; decide⟩,
   ⟨measured0, -5, 15, 47, none, [8], ⟨{ up with time := { up.time with nextRate := some (-5) }, mail := { up.mail with slots := [(15, ⟨.ran, 1, 1, true, [], 0, []⟩)], staged := [⟨15, .cancel 47, stOk, [8]⟩] }, gates := [(47, { gateDefault with pending := some ⟨2, 2000, 0, 0, []⟩ })] }, []⟩,
       by dsimp only [Says.releases, Says.quietMarker]; decide⟩,
   ⟨measured0, -5, 15, 1022, 2, [8], ⟨{ up with time := { up.time with nextRate := some (-5) }, mail := { up.mail with slots := [(15, ⟨.ran, 1, 1, true, [], 0, []⟩)], staged := [⟨15, .commit 1022 2, stOk, [8]⟩] }, stage := [(1023, hopTo 47), (1022, pathTo 5 0 11)], stageTgt := [(1022, 5), (1023, 2 ^ 20 + 7)] }, []⟩,
       by dsimp only [Says.releases, Says.quietMarker]; decide⟩,
   ⟨measured0, -5, 15, 47, 7, 0xFFFF0001, 0xFFFFFF, [8], ⟨{ up with time := { up.time with nextRate := some (-5) }, mail := { up.mail with slots := [(15, ⟨.ran, 1, 1, true, [], 0, []⟩)], staged := [⟨15, .asym 47 7 0xFFFF0001 0xFFFFFF, stOk, [8]⟩] } }, []⟩,
       by dsimp only [Says.releases, Says.quietMarker]; decide⟩,
   ⟨measured0, -5, 15, 16383, 5, [8], ⟨{ up with time := { up.time with nextRate := some (-5) }, mail := { up.mail with slots := [(15, ⟨.ran, 1, 1, true, [], 0, []⟩)], staged := [⟨15, .openSession 16383 5, stOk, [8]⟩] } }, []⟩,
       by dsimp only [Says.releases, Says.quietMarker]; decide⟩,
   ⟨measured0, -5, 15, 3, [8], ⟨{ up with time := { up.time with nextRate := some (-5) }, mail := { up.mail with slots := [(15, ⟨.ran, 1, 1, true, [], 0, []⟩)], staged := [⟨15, .closeSession 3, stOk, [8]⟩] }, sessions := [(3, session1), (4, session1)], rxq := [(0, [⟨3, message1, 0, 0⟩, ⟨4, message1, 0, 0⟩])] }, []⟩,
       by dsimp only [Says.releases, Says.quietMarker]; decide⟩,
   ⟨measured0, -5, false, 15, [8], ⟨{ reg [(F.trafRxFrames 47 0, 77), (F.trafRxFrames 47 5, 78)] with time := { up.time with nextRate := some (-5) }, mail := { up.mail with slots := [(15, ⟨.ran, 0x30, 1, true, [], 0, []⟩)], staged := [⟨15, .snapshot, stOk, [8]⟩] } }, []⟩,
       by dsimp only [Says.quietMarker, Says.releases]; decide⟩,
   ⟨measured0, -5, true, 15, [8], ⟨{ reg [(F.pcnt0CtrlAuto, 1), (F.trafRxFrames 3 0, 77)] with time := { up.time with nextRate := some (-5), nextNumber := 0 } }, []⟩,
       by dsimp only [Says.quietMarker, Says.releases]; decide⟩⟩

theorem witness_ServoStepsFollowTheirRules :
    (∃ (p : Post) (src : Nat) (s : State), let c := s.chip; c.time.nextRate = none ∧ c.time.running = true ∧ c.ready = true ∧
        c.inDip = false ∧ c.planesHeld = false ∧ c.getN F.time0StatusState ≠ stFree ∧ c.servoSource = some src ∧
        c.resultOf src = some p ∧ c.takes p = true ∧ p.e.natAbs ≤ c.jumpLimit ∧ c.time.disq = [] ∧ c.flag F.ref2TstatusDollyHeld = false)
    ∧ (∃ (s : State), let c := s.chip; c.time.nextRate = none ∧ c.time.running = true ∧ c.ready = true ∧
        (c.servoSource = none ∨ ∃ x, c.servoSource = some x ∧ c.resultOf x = none) ∧ c.getN F.time0StatusState ≠ stFree ∧
        c.time.disq = [])
    ∧ (∃ (p : Post) (src : Nat) (s : State), let c := s.chip; c.time.nextRate = none ∧ c.time.running = true ∧ c.ready = true ∧
        c.inDip = false ∧ c.planesHeld = false ∧ c.getN F.time0StatusState ≠ stFree ∧ c.servoSource = some src ∧
        c.resultOf src = some p ∧ c.takes p = true ∧ c.jumpLimit < p.e.natAbs ∧ c.time.disq = [])
    ∧ (∃ (s : State), let c := s.chip; c.flag F.time0StatusSet = true ∧ c.getN F.time0StatusState = stTrack ∧ c.inDip = false ∧
        c.planesHeld = false ∧ (c.coastLimit ≤ c.time.coast ∨ c.noTimeSource = true))
    ∧ (∃ (m : MarkerIn) (r : Int) (n : Fin 16) (st : Nat) (rs : List Word) (s : State), let c := s.chip; Says.releases ⟨n.val, .step, st, rs⟩ r c ∧
        c.power.dip = none ∧ c.inDip = false ∧ bit ((c.slot n.val).param 0) 0 = false ∧ c.time.srcIdle < 16 ∧
        c.time.lastAccepted = false ∧ (c.flag F.time0StatusSet = true ∨ c.time.offerHeld = true)) :=
  ⟨⟨⟨-65536, 0⟩, 9, ⟨{ reg [(F.ref2TstatusTselected, 0), (F.ref2TslotCfgIndex 0, 9), (F.time0StatusState, stTrack)] with posts := [(9, ⟨-65536, 0⟩)], refs := { up.refs with cands := [(10, { candDefault with source := 9 })] } }, []⟩,
       by dsimp only; decide⟩,
   ⟨⟨reg [(F.time0StatusState, stTrack)], []⟩, by dsimp only; refine ⟨by decide, by decide, by decide, Or.inl (by decide), by decide⟩⟩,
   ⟨⟨1000000001 * 65536, 0⟩, 9, ⟨{ reg [(F.ref2TstatusTselected, 0), (F.ref2TslotCfgIndex 0, 9), (F.time0StatusState, stTrack)] with posts := [(9, ⟨(1000000001 * 65536), 0⟩)], refs := { up.refs with cands := [(10, { candDefault with source := 9 })] } }, []⟩,
       by dsimp only; decide⟩,
   ⟨⟨reg [(F.time0StatusSet, 1), (F.time0StatusState, stTrack)], []⟩, by dsimp only; decide⟩,
   ⟨measured0, -5, 15, stOk, [8], ⟨{ reg [(F.time0StatusSet, 1), (F.time0JumpLo, 5), (F.time0JumpHi, 0xFFFFFFFF), (F.ref2TstatusTselected, 15)] with time := { up.time with nextRate := some (-5), srcIdle := 0, lastAccepted := false }, mail := { up.mail with slots := [(15, ⟨.ran, 0x10, 1, true, [], 0, []⟩)], staged := [⟨15, .step, stOk, [8]⟩] } }, []⟩,
       by dsimp only [Says.releases, Says.quietMarker]; decide⟩⟩

theorem witness_GripEnginesPostAndRestart :
    (∃ (g : Fin 8) (n : Nat) (x : Session) (v : Int × Int) (a : Half) (b : Half) (s : State), let c := s.chip;
        c.gripRuns g.val = true ∧ c.groupSessions g.val = [n] ∧ c.session n = some x ∧ cfgMaster x.cfg = false ∧
        cfgSpeid x.cfg = false ∧ x.newPair = true ∧ x.sync = some a ∧ x.dly = some b ∧ x.values = some v ∧ Store.read [] c.rxq g.val = [] ∧
        x.group = g.val ∧ x.member = c.carriesUpper x)
    ∧ (∃ (g : Fin 8) (n : Nat) (x : Session) (s : State), let c := s.chip; c.gripRuns g.val = true ∧ c.groupSessions g.val = [n] ∧
        c.session n = some x ∧ cfgMaster x.cfg = true ∧ cfgSpeid x.cfg = false ∧ cfgProfile x.cfg = 1 ∧ isDue n c.time.sinceAlign (cfgLogAnnounce x.cfg) = false ∧
        isDue n c.time.sinceAlign (cfgLogSync x.cfg) = true ∧ x.owed = [] ∧ x.asked = [] ∧ c.linkUp (cfgPort x.cfg) (cfgSub x.cfg) = true ∧
        c.farLoop x.carrier = false ∧ Store.read [] c.rxq g.val = [] ∧ x.group = g.val ∧ x.member = c.carriesUpper x)
    ∧ (∃ (g : Fin 8) (s : State), s.chip.coresRun = true ∧ s.chip.groupIsDark g.val = false ∧ s.chip.groupInReset g.val = false ∧
        s.chip.flag (F.grp2GripStatusRestarting g.val) = false)
    ∧ (∃ (g : Fin 8) (phases : List PhaseIn) (s : State), s.chip.engineHere g.val = true ∧ s.chip.flag (F.grp2GripStatusRestarting g.val) = true) :=
  ⟨⟨0, 3, session1, (6, 2), ⟨1, 7, 0, 1, false, 0, 5⟩, ⟨2, 4, 0, 1, false, 0, 9⟩, ⟨{ up with sessions := [(3, session1)] }, []⟩,
       by dsimp only; decide⟩,
   ⟨0, 3, { session1 with cfg := BitVec.ofNat 256 (2 ^ 254 + 2 ^ 252 + 3 * 2 ^ 243 + 4 * 2 ^ 232 + 15 * 2 ^ 228) },
       ⟨{ reg [(F.port0StatusLinkUp 3, 1)] with sessions := [(3, { session1 with cfg := BitVec.ofNat 256 (2 ^ 254 + 2 ^ 252 + 3 * 2 ^ 243 + 4 * 2 ^ 232 + 15 * 2 ^ 228) })], time := { up.time with sinceAlign := 8003 } }, []⟩,
       by dsimp only; decide⟩,
   ⟨7, ⟨up, []⟩, by decide⟩,
   ⟨7, [], ⟨reg [(F.grp2GripStatusRestarting 7, 1)], []⟩, by decide⟩⟩

theorem witness_TimingMessagesReachTheirSessions :
    (∃ (m : PtpMsg) (n : Nat) (x : Session) (s : State), let c := s.chip; let g := c.lowerOf m.port.val / 6; let q := Store.read [] c.rxq g;
        c.receives m.port.val m.sub.val = true ∧ m.kind ≠ .unsupported ∧ m.badTlv = false ∧ (m.transport = 2 → m.labelBottom = true) ∧
        c.sessions.find? (fun e => c.msgFits m e.2) = some (n, x) ∧ kindFits (cfgMaster x.cfg) m.kind = true ∧
        q.length < 8192)
    ∧ (∃ (m : PtpMsg) (n : Nat) (x : Session) (s : State), let c := s.chip; let g := c.lowerOf m.port.val / 6;
        c.receives m.port.val m.sub.val = true ∧ m.kind ≠ .unsupported ∧ m.badTlv = false ∧ (m.transport = 2 → m.labelBottom = true) ∧
        c.sessions.find? (fun e => c.msgFits m e.2) = some (n, x) ∧ kindFits (cfgMaster x.cfg) m.kind = true ∧ 8192 ≤ (Store.read [] c.rxq g).length)
    ∧ (∃ (m : PtpMsg) (s : State), let c := s.chip; c.receives m.port.val m.sub.val = true ∧ m.kind ≠ .unsupported ∧
        m.badTlv = false ∧ (m.transport = 2 → m.labelBottom = true) ∧ c.sessions.any (fun e => c.msgFits m e.2) = false)
    ∧ (∃ (n : Fin 16384) (x : Session) (s : State), s.chip.session n.val = some x ∧ cfgMaster x.cfg = false ∧
        x.annTimeout = false ∧ s.chip.engineHere x.group = true ∧ s.chip.flag (F.grp2GripStatusRestarting x.group) = false) :=
  ⟨⟨message1, 3, session1, ⟨{ reg [(F.port0StatusLinkUp 3, 1)] with sessions := [(3, session1)] }, []⟩,
       by dsimp only; decide⟩,
   ⟨message1, 3, session1, ⟨{ reg [(F.port0StatusLinkUp 3, 1)] with sessions := [(3, session1)], rxq := [(0, List.replicate 8192 ⟨3, message1, 0, 0⟩)] }, []⟩,
       by dsimp only; decide +kernel⟩,
   ⟨message1, ⟨reg [(F.port0StatusLinkUp 3, 1)], []⟩, by dsimp only; decide⟩,
   ⟨16383, session1, ⟨{ up with sessions := [(16383, session1)] }, []⟩, by decide⟩⟩

theorem witness_EsmcFollowsItsSecond :
    (∃ (p : Fin 48) (sub : Fin 8) (s : State), s.chip.esmcRuns p.val sub.val = true ∧ s.chip.farLoop p.val = false)
    ∧ (∃ (p : Fin 48) (sub : Fin 8) (q : Nat) (s : State), s.chip.esmcRuns p.val sub.val = true ∧ s.chip.farLoop p.val = false ∧
        (s.chip.esmcOf p.val sub.val).sentQl = some q ∧ q ≠ s.chip.sentQl p.val sub.val)
    ∧ (∃ (p : Fin 48) (sub : Fin 8) (d : EsmcPdu) (s : State), s.chip.esmcRuns p.val sub.val = true ∧ (s.chip.esmcOf p.val sub.val).inSecond = 0)
    ∧ (∃ (p : Fin 48) (sub : Fin 8) (d : EsmcPdu) (s : State), s.chip.esmcRuns p.val sub.val = true ∧ (s.chip.esmcOf p.val sub.val).inSecond = 0)
    ∧ (∃ (p : Fin 48) (sub : Fin 8) (s : State), s.chip.coresRun = true ∧ s.chip.getBit (F.port6EsmcCtrlEn p.val) sub.val = true ∧
        s.chip.portIsDark p.val = false ∧ s.chip.groupIsDark (p.val / 6) = false) :=
  ⟨⟨47, 7, ⟨reg [(F.port0StatusLinkUp 47, 255), (F.port6EsmcCtrlEn 47, 255)], []⟩, by decide⟩,
   ⟨47, 7, 2, ⟨{ reg [(F.port0StatusLinkUp 47, 255), (F.port6EsmcCtrlEn 47, 255)] with esmc := [(47 * 8 + 7, ⟨0, 0, some 2⟩)] }, []⟩,
       by decide⟩,
   ⟨47, 7, ⟨true, false, 2, none, stamp0⟩, ⟨reg [(F.port0StatusLinkUp 47, 255), (F.port6EsmcCtrlEn 47, 255)], []⟩,
       by decide⟩,
   ⟨47, 7, ⟨false, false, 2, none, stamp0⟩, ⟨reg [(F.port0StatusLinkUp 47, 255), (F.port6EsmcCtrlEn 47, 255)], []⟩,
       by decide⟩,
   ⟨47, 7, ⟨reg [(F.port0StatusLinkUp 47, 255), (F.port6EsmcCtrlEn 47, 255)], []⟩, by decide⟩⟩

theorem witness_ReferencesQualifyAndSettle :
    (∃ (c : Cand) (s : State), s.chip.planeHeld (candIndex c) = false ∧ s.chip.flag (candHoldoff (candIndex c)) = true ∧
        s.chip.failing (candIndex c) = none)
    ∧ (∃ (c : Cand) (s : State), s.chip.planeHeld (candIndex c) = false ∧ s.chip.flag (candHoldoff (candIndex c)) = true ∧
        s.chip.failing (candIndex c) = none)
    ∧ (∃ (c : Cand) (s : State), s.chip.planeHeld (candIndex c) = false ∧ s.chip.flag (candWtr (candIndex c)) = true)
    ∧ (∃ (c : Cand) (s : State), let k := candIndex c; s.chip.planesHeld = false ∧ (s.chip.cand k).source = s.chip.sourceOf k)
    ∧ (∃ (i : Fin 10) (s : State), s.chip.planesHeld = false ∧ i.val < 6 ∧ (s.chip.cand i.val).source = s.chip.sourceOf i.val ∧
        s.chip.limitPpb i.val ≠ 0 ∧ (s.chip.cand i.val).offsetOk = true ∧ (s.chip.cand i.val).driftOk = true ∧
        s.chip.flag (candQualified i.val) = false)
    ∧ (∃ (s : State), let bw := s.chip.bwTrack * stageUnit; s.chip.getN F.ref0FstatusLoopState = loopAcquire ∧
        s.chip.refs.stage ≠ bw)
    ∧ (∃ (s : State), let bw := s.chip.bwTrack * stageUnit; s.chip.getN F.ref0FstatusLoopState = loopAcquire ∧
        s.chip.refs.stage = bw)
    ∧ (∃ (s : State), s.chip.getN F.ref0FstatusLoopState = loopAcquire ∧ s.chip.refs.stage = s.chip.bwTrack * stageUnit ∧
        s.chip.getN F.ref0FstatusFselected < 6)
    ∧ (∃ (n : Fin 2) (stamp : Raw) (s : State), s.chip.ready = true ∧ s.chip.time.running = true)
    ∧ (∃ (m : MarkerIn) (r : Int) (x : Cand) (s : State), let c := s.chip; let i := candIndex x; Says.quietMarker c r ∧
        c.mail.staged = [] ∧ c.time.nextNumber ≠ 0 ∧ (c.planesHeld = false ∨ i < 10) ∧ (c.cand i).source = c.sourceOf i ∧
        c.limitPpb i ≠ 0 ∧ c.failing i = none)
    ∧ (∃ (m : MarkerIn) (r : Int) (x : Cand) (s : State), let c := s.chip; let i := candIndex x; Says.quietMarker c r ∧
        c.mail.staged = [] ∧ c.time.nextNumber ≠ 0 ∧ (c.planesHeld = false ∨ i < 10) ∧ (c.cand i).source = c.sourceOf i ∧
        c.limitPpb i ≠ 0 ∧ (c.failing i).isSome = true ∧ c.flag (candQualified i) = true)
    ∧ (∃ (m : MarkerIn) (r : Int) (time : Bool) (s : State), let c := s.chip; Says.quietMarker c r ∧ c.mail.staged = [] ∧
        c.planesHeld = false ∧ c.refs.wtrOver = [] ∧ (time = true → c.power.dip = none ∧ c.inDip = false) ∧
        (c.revertive time = false ∨ 0 < c.wtrSeconds time))
    ∧ (∃ (m : MarkerIn) (r : Int) (time : Bool) (s : State), let c := s.chip; Says.quietMarker c r ∧ c.mail.staged = [] ∧
        c.planesHeld = false ∧ c.refs.wtrOver = [] ∧ (time = true → c.power.dip = none ∧ c.inDip = false) ∧
        (c.revertive time = false ∨ 0 < c.wtrSeconds time))
    ∧ (∃ (m : MarkerIn) (r : Int) (time : Bool) (s : State), let c := s.chip; Says.quietMarker c r ∧ c.mail.staged = [] ∧
        c.planesHeld = false ∧ c.refs.wtrOver = [] ∧ (time = true → c.power.dip = none ∧ c.inDip = false) ∧
        (c.revertive time = false ∨ 0 < c.wtrSeconds time))
    ∧ (∃ (m : MarkerIn) (r : Int) (d : Fin 10) (s : State), let c := s.chip; Says.quietMarker c r ∧ c.controlLost = true ∧
        c.getN F.ref0FstatusFselected = d.val ∧ (c.cand d.val).source = c.sourceOf d.val ∧ (c.cand d.val).lostAct = true ∧
        c.getN F.ref0FstatusLoopState ≠ loopHoldover)
    ∧ (∃ (m : MarkerIn) (r : Int) (s : State), let c := s.chip; let st := c.getN F.ref0FstatusLoopState;
        Says.quietMarker c r ∧ c.mail.staged = [] ∧ c.time.nextNumber = 0 ∧ st ≠ loopAcquire ∧ st ≠ loopLocked ∧
        c.power.dip = none ∧ c.inDip = false)
    ∧ (∃ (m : MarkerIn) (r : Int) (s : State), let c := s.chip; let st := c.getN F.ref0FstatusLoopState;
        Says.quietMarker c r ∧ c.mail.staged = [] ∧ c.time.nextNumber = 0 ∧ st ≠ loopAcquire ∧ st ≠ loopLocked ∧
        c.power.dip = none ∧ c.inDip = false) :=
  ⟨⟨.time 7, ⟨{ reg [(candHoldoff 17, 1)] with refs := { up.refs with cands := [(17, { candDefault with act := some true, source := 0x8000 })] } }, []⟩,
       by decide⟩,
   ⟨.freq 5, ⟨{ reg [(candHoldoff 5, 1)] with refs := { up.refs with cands := [(5, { candDefault with act := some true })] } }, []⟩,
       by decide⟩,
   ⟨.time 7, ⟨reg [(candWtr 17, 1)], []⟩, by decide⟩,
   ⟨.freq 0, ⟨up, []⟩, by dsimp only; decide⟩,
   ⟨5, ⟨{ up with refs := { up.refs with cands := [(5, { candDefault with offsetOk := true, driftOk := true, source := up.sourceOf 5 })] } }, []⟩,
       by decide⟩,
   ⟨⟨reg [(F.ref0FstatusLoopState, loopAcquire)], []⟩, by dsimp only; decide⟩,
   ⟨⟨{ reg [(F.ref0FstatusLoopState, loopAcquire)] with refs := { up.refs with stage := up.bwTrack * stageUnit } }, []⟩,
       by dsimp only; decide⟩,
   ⟨⟨{ reg [(F.ref0FstatusLoopState, loopAcquire), (F.ref0FstatusFselected, 5)] with refs := { up.refs with stage := up.bwTrack * stageUnit } }, []⟩,
       by decide⟩,
   ⟨1, 5, ⟨up, []⟩, by decide⟩,
   ⟨measured0, -5, .freq 5, ⟨{ reg [(F.ref1QualLimitPpb 5, 100)] with time := { up.time with nextRate := some (-5), nextNumber := 3 }, refs := { up.refs with cands := [(5, { candDefault with offsetOk := true, driftOk := true, source := up.sourceOf 5, act := some true })] } }, []⟩,
       by dsimp only [Says.quietMarker]; decide⟩,
   ⟨measured0, -5, .freq 5, ⟨{ reg [(F.ref1QualLimitPpb 5, 100), (candQualified 5, 1)] with time := { up.time with nextRate := some (-5), nextNumber := 3 }, refs := { up.refs with cands := [(5, { candDefault with offsetOk := true, driftOk := true, source := up.sourceOf 5, act := some true, lostAct := true })] } }, []⟩,
       by dsimp only [Says.quietMarker]; decide⟩,
   ⟨measured0, -5, false, ⟨{ reg [(F.ref0FstatusFselected, 5)] with time := { up.time with nextRate := some (-5), nextNumber := 3 } }, []⟩,
       by dsimp only [Says.quietMarker]; decide⟩,
   ⟨measured0, -5, true, ⟨{ reg [(F.ref2TstatusTselected, 3), (F.ref2TctrlRevertive, 0)] with time := { up.time with nextRate := some (-5), nextNumber := 3 } }, []⟩,
       by dsimp only [Says.quietMarker]; decide⟩,
   ⟨measured0, -5, false, ⟨{ reg [(F.ref1QualLimitPpb 5, 100), (candQualified 5, 1), (F.ref1QualPriority 5, 1), (F.ref0FctrlRevertive, 0)] with time := { up.time with nextRate := some (-5), nextNumber := 3 }, refs := { up.refs with cands := [(5, { candDefault with offsetOk := true, driftOk := true, source := up.sourceOf 5, act := some true })] } }, []⟩,
       by dsimp only [Says.quietMarker]; decide⟩,
   ⟨measured0, -5, 5, ⟨{ reg [(F.sysDirectorControlLost, 1), (F.ref0FstatusFselected, 5), (F.ref0FstatusLoopState, 2)] with time := { up.time with nextRate := some (-5), nextNumber := 3 }, refs := { up.refs with cands := [(5, { candDefault with offsetOk := true, driftOk := true, source := up.sourceOf 5, act := some true, lostAct := true })] } }, []⟩,
       by dsimp only [Says.quietMarker]; decide⟩,
   ⟨measured0, -5, ⟨{ up with time := { up.time with nextRate := some (-5), nextNumber := 0 } }, []⟩,
       by dsimp only [Says.quietMarker]; decide⟩,
   ⟨measured0, -5, ⟨{ reg [(F.ref3ArchCount, 4096), (F.ref3ArchNewest, 4095), (F.ref0FstatusLoopState, 3)] with time := { up.time with nextRate := some (-5), nextNumber := 0 } }, []⟩,
       by dsimp only [Says.quietMarker]; decide⟩⟩

theorem witness_MasterPllLocksAndFallsBack :
    (∃ (s : State), s.chip.flag F.pll0MstatusLocked = true ∧ s.chip.clocked = true)
    ∧ (∃ (band : BitVec 4) (phi : Nat) (phis : List Nat) (s : State), s.chip.flag F.pll0MstatusLocked = false ∧
        s.chip.pllWait 0 = 0 ∧ s.chip.power.phase = .run ∧ s.chip.phaseOk phi = true)
    ∧ (∃ (band : BitVec 4) (a : Nat) (b : Nat) (c : Nat) (s : State), s.chip.flag F.pll0MstatusLocked = false ∧
        s.chip.pllWait 0 = 0 ∧ s.chip.power.phase = .run ∧ s.chip.phaseOk a = false ∧ s.chip.phaseOk b = false ∧
        s.chip.phaseOk c = false)
    ∧ (∃ (band : BitVec 4) (phi : Nat) (phis : List Nat) (s : State), s.chip.flag F.pll0MstatusLocked = false ∧
        s.chip.pllWait 0 = 0 ∧ s.chip.power.phase = .rails ∧ s.chip.phaseOk phi = true)
    ∧ (∃ (s : State), s.chip.flag F.pll0MstatusFallback = true ∧ s.chip.flag F.pll0MstatusLocked = true)
    ∧ (∃ (s : State), s.chip.power.phase = .rails) :=
  ⟨⟨⟨up, []⟩, by decide⟩,
   ⟨0xF, 410, [], ⟨reg [(F.pll0MstatusLocked, 0)], []⟩, by decide⟩,
   ⟨0xF, 0, 999, 0, ⟨reg [(F.pll0MstatusLocked, 0)], []⟩, by decide⟩,
   ⟨0xF, 430, [], ⟨Chip.zero.powersOn ⟨0, [], false⟩, []⟩, by decide⟩,
   ⟨⟨reg [(F.pll0MstatusFallback, 1)], []⟩, by decide⟩,
   ⟨⟨Chip.zero.powersOn ⟨0, [], false⟩, []⟩, by decide⟩⟩

theorem witness_CoreAndLanePllsSwapAndDrop :
    (∃ (pllB : Bool) (s : State), let lock := if pllB then F.pll0CstatusBLocked else F.pll0CstatusALocked;
        s.chip.flag lock = true ∧ s.chip.clocked = true ∧ s.chip.getN F.pll0CstatusActive = ofBool pllB ∧ s.chip.flag F.pll0CstatusStandbyReady = true)
    ∧ (∃ (pllB : Bool) (s : State), let lock := if pllB then F.pll0CstatusBLocked else F.pll0CstatusALocked;
        s.chip.flag lock = true ∧ s.chip.clocked = true ∧ s.chip.getN F.pll0CstatusActive = ofBool pllB ∧ s.chip.flag F.pll0CstatusStandbyReady = false)
    ∧ (∃ (s : State), s.chip.wantedSetting ≠ s.chip.getN F.pll0CstatusSetting ∧ s.chip.flag F.pll0CstatusStandbyReady = true ∧
        s.chip.pllWait 1 = 0 ∧ s.chip.safeStop = false)
    ∧ (∃ (s : State), s.chip.flag F.pll0CstatusStandbyReady = false ∧ s.chip.safeStop = false ∧ s.chip.getN F.pll0CstatusActive ≤ 1 ∧
        s.chip.pllWait 1 = 1)
    ∧ (∃ (s : State), s.chip.flag F.pll0CstatusStandbyReady = false ∧ s.chip.safeStop = false ∧ s.chip.getN F.pll0CstatusActive ≤ 1 ∧
        s.chip.pllWait 1 ≠ 1)
    ∧ (∃ (g : Fin 8) (k : Fin 2) (s : State), s.chip.getBit F.pll0LstatusLocked (2 * g.val + k.val) = true ∧
        s.chip.framesInRange)
    ∧ (∃ (g : Fin 8) (k : Fin 2) (s : State), s.chip.getBit F.pll0LstatusLocked (2 * g.val + k.val) = false ∧
        s.chip.groupIsDark g.val = false ∧ s.chip.groupInReset g.val = false ∧ s.chip.ready = true) :=
  ⟨⟨false, ⟨up, []⟩, by dsimp only; decide⟩,
   ⟨true, ⟨reg [(F.pll0CstatusActive, 1), (F.pll0CstatusStandbyReady, 0)], []⟩, by dsimp only; decide⟩,
   ⟨⟨up, []⟩, by decide⟩,
   ⟨⟨{ reg [(F.pll0CstatusStandbyReady, 0)] with power := { up.power with pll := [(1, 1)] } }, []⟩, by decide⟩,
   ⟨⟨reg [(F.pll0CstatusStandbyReady, 0)], []⟩, by decide⟩,
   ⟨7, 1, ⟨up, []⟩, by dsimp only [Chip.framesInRange]; decide⟩,
   ⟨7, 1, ⟨reg [(F.pll0LstatusLocked, 0x7FFF)], []⟩, by decide⟩⟩

theorem witness_SupplyAndHeatAreReported :
    (∃ (readMv : Nat) (a : AvsChange) (s : State), let next := if a.step < a.target then min a.target (a.step + 5) else max a.target (a.step - 5);
        s.chip.power.avs = some a ∧ s.chip.gafferRuns = true ∧ a.old = a.step ∧ reaches readMv next = true ∧ next = a.target)
    ∧ (∃ (readMv : Nat) (a : AvsChange) (s : State), let next := if a.step < a.target then min a.target (a.step + 5) else max a.target (a.step - 5);
        s.chip.power.avs = some a ∧ s.chip.gafferRuns = true ∧ a.old = a.step ∧ reaches readMv next = false)
    ∧ (∃ (readMv : Nat) (a : AvsChange) (s : State), s.chip.power.avs = some a ∧ s.chip.gafferRuns = true ∧ a.old ≠ a.step ∧
        reaches readMv a.step = false ∧ a.misses < 2)
    ∧ (∃ (readMv : Nat) (a : AvsChange) (s : State), s.chip.power.avs = some a ∧ s.chip.gafferRuns = true ∧ a.old ≠ a.step ∧
        reaches readMv a.step = false ∧ 2 ≤ a.misses)
    ∧ (∃ (t0 : RegTelem) (t1 : RegTelem) (t2 : RegTelem) (s : State), s.chip.alwaysOn = true)
    ∧ (∃ (s0 : BitVec 16) (s1 : BitVec 16) (s2 : BitVec 16) (s : State), s.chip.alwaysOn = true)
    ∧ (∃ (l : List (Fin 10 × Int)) (s : State), s.chip.powered = true ∧ (l.map Prod.fst).Nodup)
    ∧ (∃ (s : State), s.chip.powered = true) :=
  ⟨⟨805, ⟨805, 800, 800, 800, 0⟩, ⟨{ up with power := { up.power with avs := some ⟨805, 800, 800, 800, 0⟩ } }, []⟩,
       by dsimp only; decide⟩,
   ⟨0, ⟨700, 800, 800, 800, 0⟩, ⟨{ up with power := { up.power with avs := some ⟨700, 800, 800, 800, 0⟩ } }, []⟩,
       by dsimp only; decide⟩,
   ⟨0, ⟨900, 800, 800, 805, 1⟩, ⟨{ up with power := { up.power with avs := some ⟨900, 800, 800, 805, 1⟩ } }, []⟩,
       by decide⟩,
   ⟨0, ⟨900, 800, 800, 805, 2⟩, ⟨{ up with power := { up.power with avs := some ⟨900, 800, 800, 805, 2⟩ } }, []⟩,
       by decide⟩,
   ⟨⟨800, 100, 0⟩, ⟨800, 100, 1⟩, ⟨800, 100, 1⟩, ⟨up, []⟩, by decide⟩,
   ⟨1, 0, 0, ⟨up, []⟩, by decide⟩,
   ⟨[(9, 880), (0, 839)], ⟨up, []⟩, by decide⟩,
   ⟨⟨up, []⟩, by decide⟩⟩

theorem witness_TheGafferPairKeepsItsHistories :
    (∃ (khz : List (Fin 64 × Nat)) (s : State), s.chip.gafferRuns = true ∧ (khz.map Prod.fst).Nodup)
    ∧ (∃ (taps : List (Fin 10 × Nat)) (s : State), s.chip.gafferRuns = true ∧ (taps.map Prod.fst).Nodup)
    ∧ (∃ (s : State), s.chip.gafferRuns = true)
    ∧ (∃ (linkMoved : Bool) (s : State), s.chip.coresRun = true ∧ s.chip.flag F.cal0StatusGafferHalted = false)
    ∧ (∃ (s : State), s.chip.gafferRuns = true)
    ∧ (∃ (pass : Bool) (s : State), s.chip.cores.gafferDown = true) :=
  ⟨⟨[(63, 1), (0, 0)], ⟨up, []⟩, by decide⟩,
   ⟨[(9, 5)], ⟨up, []⟩, by decide⟩,
   ⟨⟨up, []⟩, by decide⟩,
   ⟨true, ⟨up, []⟩, by decide⟩,
   ⟨⟨up, []⟩, by decide⟩,
   ⟨true, ⟨{ up with cores := { up.cores with gafferDown := true } }, []⟩, by decide⟩⟩

theorem witness_SupplyLossBeginsTheRightReset :
    (∃ (rail : Fin 5) (minMv : Nat) (s : State), s.chip.railStands rail.val = true ∧ minMv * 100 < s.chip.railSet rail.val * 93 ∧
        s.chip.power.dip = none)
    ∧ (∃ (d : Dip) (s : State), s.chip.power.dip = some d ∧ d.ended = none ∧ s.chip.alwaysOn = true)
    ∧ (∃ (d : Dip) (s : State), s.chip.power.dip = some d ∧ d.ended = none ∧ s.chip.alwaysOn = true ∧
        s.chip.power.phase ≠ .stopped ∧ d.rail < 5)
    ∧ (∃ (rail : Fin 5) (s : State), s.chip.railStands rail.val = true ∧ s.chip.power.phase ≠ .stopped)
    ∧ (∃ (s : State), s.chip.power.phase = .xoLost)
    ∧ (∃ (s : State), s.chip.power.phase ≠ .off ∧ s.chip.power.phase ≠ .stopped ∧ s.chip.power.phase ≠ .xoLost) :=
  ⟨⟨4, 0, ⟨up, []⟩, by decide⟩,
   ⟨⟨0, 4, 700, none⟩, ⟨{ up with power := { up.power with dip := some ⟨0, 4, 700, none⟩ } }, []⟩, by decide⟩,
   ⟨⟨0, 4, 700, none⟩, ⟨{ up with power := { up.power with dip := some ⟨0, 4, 700, none⟩ } }, []⟩, by decide⟩,
   ⟨4, ⟨up, []⟩, by decide⟩,
   ⟨⟨{ up with power := { up.power with phase := .xoLost } }, []⟩, by decide⟩,
   ⟨⟨up, []⟩, by decide⟩⟩

theorem witness_ColdResetRunsItsSequence :
    (∃ (x : PowerUp) (s : State), s.chip.power.phase = .off)
    ∧ (∃ (rail : Fin 3) (s : State), s.chip.power.phase = .rails ∧ s.chip.power.railFails < 2)
    ∧ (∃ (rail : Fin 3) (s : State), s.chip.power.phase = .rails ∧ 2 ≤ s.chip.power.railFails)
    ∧ (∃ (straps : BitVec 16) (s : State), (s.chip.power.phase = .failed ∨ s.chip.power.phase = .rails))
    ∧ (∃ (straps : BitVec 16) (u : MramUpset) (s : State), (s.chip.power.phase = .failed ∨ s.chip.power.phase = .rails) ∧
        persistent u.index = true ∧ u.copyA = !u.copyB ∧ Store.find u.index s.chip.power.mram = none ∧ u.index ≠ strapIndex ∧
        (∀ f ∈ fieldsAt (persAddr u.index), s.chip.getN (f.at (persAddr u.index)) < 2 ^ f.width))
    ∧ (∃ (straps : BitVec 16) (u : MramUpset) (s : State), (s.chip.power.phase = .failed ∨ s.chip.power.phase = .rails) ∧
        persistent u.index = true ∧ u.copyA = true ∧ u.copyB = true)
    ∧ (∃ (straps : BitVec 16) (i : Nat) (v : Word) (s : State), (s.chip.power.phase = .failed ∨ s.chip.power.phase = .rails) ∧
        s.chip.power.cut = some (i, v) ∧ (s.chip.copies i).okB = true ∧ (s.chip.copies i).stampB ≤ s.chip.power.stamp)
    ∧ (∃ (pass0 : Bool) (pass1 : Bool) (gaffer : Bool) (s : State), s.chip.power.phase = .boot ∧ s.chip.resetHeld = false)
    ∧ (∃ (straps : BitVec 16) (u : MramUpset) (m : Mram) (s : State), (s.chip.power.phase = .failed ∨ s.chip.power.phase = .rails) ∧
        persistent u.index = true ∧ u.copyA = !u.copyB ∧ Store.find u.index s.chip.power.mram = some m ∧ (if u.copyA then m.okB else m.okA) = true)
    ∧ (∃ (straps : BitVec 16) (u : MramUpset) (m : Mram) (s : State), (s.chip.power.phase = .failed ∨ s.chip.power.phase = .rails) ∧
        persistent u.index = true ∧ u.copyA = !u.copyB ∧ Store.find u.index s.chip.power.mram = some m ∧ (if u.copyA then m.okB else m.okA) = true) :=
  ⟨⟨⟨0x21, [], false⟩, ⟨Chip.zero, []⟩, by decide⟩,
   ⟨2, ⟨Chip.zero.powersOn ⟨0, [], false⟩, []⟩, by decide⟩,
   ⟨2, ⟨{ Chip.zero.powersOn ⟨0, [], false⟩ with power := { (Chip.zero.powersOn ⟨0, [], false⟩).power with railFails := 2 } }, []⟩,
       by decide⟩,
   ⟨1, ⟨{ up with power := { up.power with phase := .failed } }, []⟩, by decide⟩,
   ⟨1, ⟨2099, true, false⟩, ⟨{ up with power := { up.power with phase := .failed } }, []⟩, by decide⟩,
   ⟨1, ⟨2099, true, true⟩, ⟨{ up with power := { up.power with phase := .failed } }, []⟩, by decide⟩,
   ⟨1, 1040, 0x10001, ⟨{ up with power := { up.power with phase := .failed, cut := some (1040, 0x10001) } }, []⟩,
       by decide⟩,
   ⟨true, true, true, ⟨{ up with power := { up.power with phase := .boot } }, []⟩, by decide⟩,
   ⟨1, ⟨2099, true, false⟩, ⟨5, 6, 0, 0, true, true, 3⟩, ⟨{ up with power := { up.power with phase := .failed, mram := [(2099, ⟨5, 6, 0, 0, true, true, 3⟩)] } }, []⟩,
       by decide⟩,
   ⟨1, ⟨2099, false, true⟩, ⟨5, 6, 0, 0, true, true, 3⟩, ⟨{ up with power := { up.power with phase := .rails, mram := [(2099, ⟨5, 6, 0, 0, true, true, 3⟩)] } }, []⟩,
       by decide⟩⟩

theorem witness_StrapOverrideReplacesTheBalls :
    (∃ s : State, s.chip.power.phase = .off)
    ∧ (∃ s : State, s.chip.power.phase = .failed)
    ∧ (∃ s : State, s.chip.power.phase = .warmHeld ∧ tapHolds s.chip.power.tap = false ∧ s.chip.flag F.rstStatusHeldThermal = false)
    ∧ (∃ s : State, s.chip.power.phase = .warmHeld ∧ s.chip.flag F.rstStatusHeldThermal = true ∧ s.chip.stillHot = false ∧
        s.chip.resetHeld = false) :=
  ⟨⟨⟨Chip.zero, []⟩, by decide⟩,
   ⟨⟨{ up with power := { up.power with phase := .failed } }, []⟩, by decide⟩,
   ⟨⟨{ up with power := { up.power with phase := .warmHeld } }, []⟩, by decide⟩,
   ⟨⟨{ reg [(F.rstStatusHeldThermal, 1)] with power := { up.power with phase := .warmHeld } }, []⟩, by decide⟩⟩

theorem witness_WarmResetsHoldAndRelease :
    (∃ (s : State), s.chip.power.phase = .run)
    ∧ (∃ (straps : BitVec 16) (s : State), s.chip.power.phase = .warmHeld ∧ tapHolds s.chip.power.tap = false ∧
        s.chip.flag F.rstStatusHeldThermal = false)
    ∧ (∃ (straps : BitVec 16) (s : State), s.chip.flag F.rstStatusHeldThermal = true ∧ s.chip.stillHot = false)
    ∧ (∃ (i : TapInstr) (straps : BitVec 16) (s : State), s.chip.power.phase ≠ .off ∧ s.chip.power.trstLow = false ∧
        tapHolds i = false ∧ tapHolds s.chip.power.tap = false)
    ∧ (∃ (i : TapInstr) (straps : BitVec 16) (s : State), s.chip.power.phase = .run ∧ s.chip.power.trstLow = false ∧
        tapHolds i = true ∧ tapHolds s.chip.power.tap = false)
    ∧ (∃ (x : TapEvent) (s : State), s.chip.power.phase ≠ .off ∧ tapHolds s.chip.power.tap = false)
    ∧ (∃ (x : TapEvent) (s : State), s.chip.power.phase ≠ .off ∧ tapHolds s.chip.power.tap = false)
    ∧ (∃ (x : TapEvent) (s : State), s.chip.power.phase ≠ .off ∧ tapHolds s.chip.power.tap = false)
    ∧ (∃ (x : TapEvent) (s : State), s.chip.power.phase ≠ .off ∧ tapHolds s.chip.power.tap = false)
    ∧ (∃ (cells : List Bool) (straps : BitVec 16) (s : State), s.chip.power.phase ≠ .off ∧ s.chip.power.trstLow = false ∧
        s.chip.power.tap = .extest)
    ∧ (∃ (i : TapInstr) (straps : BitVec 16) (s : State), s.chip.power.phase = .warmHeld ∧ s.chip.power.trstLow = false ∧
        tapHolds i = false ∧ tapHolds s.chip.power.tap = true ∧ s.chip.power.rstLow = false ∧ s.chip.flag F.rstStatusHeldThermal = false) :=
  ⟨⟨⟨up, []⟩, by decide⟩,
   ⟨1, ⟨{ up with power := { up.power with phase := .warmHeld } }, []⟩, by decide⟩,
   ⟨1, ⟨{ reg [(F.rstStatusHeldThermal, 1)] with power := { up.power with phase := .warmHeld } }, []⟩, by decide⟩,
   ⟨.idcode, 1, ⟨{ up with power := { up.power with trstLow := false } }, []⟩, by decide⟩,
   ⟨.extest, 1, ⟨{ up with power := { up.power with trstLow := false } }, []⟩, by decide⟩,
   ⟨⟨.testLogicReset, 0⟩, ⟨up, []⟩, by decide⟩,
   ⟨⟨.trst true, 0⟩, ⟨up, []⟩, by decide⟩,
   ⟨⟨.load .bypass, 0⟩, ⟨up, []⟩, by decide⟩,
   ⟨⟨.boundary [true], 0⟩, ⟨{ up with power := { up.power with trstLow := false, tap := .samplePreload } }, []⟩,
       by decide⟩,
   ⟨[true, false], 0, ⟨{ up with power := { up.power with trstLow := false, tap := .extest } }, []⟩, by decide⟩,
   ⟨.bypass, 0, ⟨{ up with power := { up.power with trstLow := false, phase := .warmHeld, tap := .extest } }, []⟩,
       by decide⟩⟩

theorem witness_PcieEventsResetTheEndpoint :
    (∃ (s : State), s.chip.power.linkUp = true)
    ∧ (∃ (s : State), s.chip.power.phase = .run) :=
  ⟨⟨⟨up, []⟩, by decide⟩,
   ⟨⟨up, []⟩, by decide⟩⟩

theorem witness_GroupResetsStayWithinTheGroup :
    (∃ (g : Fin 8) (s : State), s.chip.power.phase = .run ∧ s.chip.groupIsDark g.val = false ∧ s.chip.power.standby = false ∧
        s.chip.framesInRange)
    ∧ (∃ (g : Fin 8) (s : State), let recent := (Store.read [] s.chip.power.faultTimes g.val).filter (fun t => decide (rawDiff t s.chip.time.raw < 10000000000 * 65536));
        s.chip.power.phase = .run ∧ s.chip.groupIsDark g.val = false ∧ s.chip.power.standby = false ∧
        s.chip.framesInRange ∧ 2 ≤ recent.length)
    ∧ (∃ (g : Fin 8) (s : State), s.chip.groupInReset g.val = true ∧ s.chip.getBit F.rstStatusGroupHeld g.val = false ∧
        s.chip.groupIsDark g.val = false ∧ s.chip.ready = true)
    ∧ (∃ (page : BitVec 14) (s : State), s.chip.power.inReset.contains page.toNat = true ∧ s.chip.groupInReset ((groupOfPage page.toNat).getD 8) = false ∧
        s.chip.ready = true)
    ∧ (∃ (g : Fin 8) (s : State), s.chip.groupInReset g.val = true ∧ s.chip.getBit F.rstStatusGroupHeld g.val = false ∧
        s.chip.groupIsDark g.val = true ∧ s.chip.ready = true) :=
  ⟨⟨7, ⟨up, []⟩, by dsimp only [Chip.framesInRange]; decide⟩,
   ⟨7, ⟨{ up with power := { up.power with faultTimes := [(7, [0, 0])] } }, []⟩,
       by dsimp only [Chip.framesInRange]; decide⟩,
   ⟨7, ⟨{ up with power := { up.power with groupReset := 0x80 } }, []⟩, by decide⟩,
   ⟨0x3072, ⟨{ up with power := { up.power with inReset := [0x3072] } }, []⟩, by decide⟩,
   ⟨7, ⟨{ up with power := { up.power with groupDark := 0x80, groupReset := 0x80 } }, []⟩, by decide⟩⟩

theorem witness_EventInputsStampAndDeliver :
    (∃ (s : State), s.chip.flag F.tdc0TbstatusPresent = true)
    ∧ (∃ (s : State), s.chip.flag F.tdc0TbstatusPresent = true ∧ s.chip.flag F.tdc0TbstatusLocked = true ∧ s.chip.flag F.tdc0TbcfgForceTclk = false ∧
        s.chip.flag F.tdc0TbstatusInUse = false ∧ s.chip.time.running = true ∧ s.chip.ready = true)
    ∧ (∃ (e : Fin 8) (rising : Bool) (edge : Nat) (tap : Fin 384) (inSwitch : Bool) (s : State), let x := s.chip.channel e.val;
        s.chip.evMode e.val ≠ 0 ∧ s.chip.edgeSelected e.val rising = true ∧ s.chip.time.running = true ∧ s.chip.ready = true ∧
        x.openSlate = none)
    ∧ (∃ (e : Fin 8) (rising : Bool) (edge : Nat) (tap : Fin 384) (inSwitch : Bool) (s : State), let x := s.chip.channel e.val;
        s.chip.evMode e.val ≠ 0 ∧ s.chip.edgeSelected e.val rising = true ∧ s.chip.time.running = true ∧ s.chip.ready = true ∧
        x.openSlate = some 5)
    ∧ (∃ (e : Fin 8) (w : BitVec 128) (s : State), let x := s.chip.channel e.val; x.openSlate = some w ∧
        s.chip.time.running = true ∧ x.reel.length < 4096)
    ∧ (∃ (e : Fin 8) (w : BitVec 128) (s : State), let x := s.chip.channel e.val; x.openSlate = some w ∧
        s.chip.time.running = true ∧ 4096 ≤ x.reel.length)
    ∧ (∃ (e : Fin 8) (s : State), let x := s.chip.channel e.val; let k := min (min 32 x.reel.length) (s.chip.dmaRoom e.val);
        s.chip.evMode e.val = 2 ∧ s.chip.ready = true ∧ s.chip.safeStop = false ∧ s.chip.power.linkUp = true ∧
        s.chip.batchDue e.val = true ∧ 0 < k) :=
  ⟨⟨⟨reg [(F.tdc0TbstatusPresent, 1)], []⟩, by decide⟩,
   ⟨⟨reg [(F.tdc0TbstatusPresent, 1), (F.tdc0TbstatusLocked, 1)], []⟩, by decide⟩,
   ⟨7, true, 0, 383, false, ⟨reg [(F.evCtrlMode 7, 1), (F.evCtrlEdgeSel 7, 0)], []⟩, by dsimp only; decide⟩,
   ⟨7, true, 0, 0, false, ⟨{ reg [(F.evCtrlMode 7, 1), (F.evCtrlEdgeSel 7, 0)] with tdc := [(7, ⟨[], [], some 5, false, none⟩)] }, []⟩,
       by dsimp only; decide⟩,
   ⟨7, 5, ⟨{ up with tdc := [(7, ⟨[], [], some 5, false, none⟩)] }, []⟩, by dsimp only; decide⟩,
   ⟨7, 5, ⟨{ up with tdc := [(7, ⟨List.replicate 4096 1, [], some 5, false, none⟩)] }, []⟩,
       by dsimp only; decide +kernel⟩,
   ⟨7, ⟨{ reg [(F.evCtrlMode 7, 2)] with tdc := [(7, ⟨List.replicate 32 1, List.replicate 32 0, none, false, none⟩)] }, []⟩,
       by dsimp only; decide⟩⟩

theorem witness_TransmissionStartsAndEnds :
    (∃ (p : Fin 48) (sub : Fin 8) (stamp : LineStamp) (f : Frame) (s : State), let q := s.chip.lowerOf p.val; let m := s.chip.startMember p.val sub.val;
        let w := s.chip.txStamp m f.outSub stamp; Says.canStart p sub s.chip ∧ s.chip.framesInRange ∧
        s.chip.expressChoice q sub.val = some f ∧ rawDiff f.rxStamp w ≤ promiseUnits)
    ∧ (∃ (p : Fin 48) (sub : Fin 8) (stamp : LineStamp) (f : Frame) (s : State), let q := s.chip.lowerOf p.val; let m := s.chip.startMember p.val sub.val;
        let w := s.chip.txStamp m f.outSub stamp; Says.canStart p sub s.chip ∧ s.chip.framesInRange ∧
        s.chip.expressChoice q sub.val = some f ∧ promiseUnits < rawDiff f.rxStamp w)
    ∧ (∃ (p : Fin 48) (sub : Fin 8) (stamp : LineStamp) (f : Frame) (g : Frame) (s : State), let q := s.chip.lowerOf p.val;
        let m := s.chip.startMember p.val sub.val; s.chip.coresRun = true ∧ sub.val < s.chip.subports q ∧
        s.chip.memberUp m sub.val = true ∧ Says.noneLate q sub.val s.chip ∧ s.chip.onWire m sub.val = some g ∧
        g.express = false ∧ s.chip.getBit (F.admStatusMergeActive m) sub.val = true ∧ s.chip.expressChoice q sub.val = some f ∧
        f.id ≠ g.id)
    ∧ (∃ (p : Fin 48) (sub : Fin 8) (stamp : LineStamp) (f : Frame) (c : Nat) (s : State), let q := s.chip.lowerOf p.val;
        let choice := (s.chip.setSched q ((s.chip.sched q).adopt sub.val)).treeChoice q sub.val; Says.canStart p sub s.chip ∧
        s.chip.expressChoice q sub.val = none ∧ choice.2 = some c ∧ s.chip.ready1 q sub.val c = some f ∧ f.express = false)
    ∧ (∃ (p : Fin 48) (sub : Fin 8) (stamp : LineStamp) (s : State), let q := s.chip.lowerOf p.val; let choice := (s.chip.setSched q ((s.chip.sched q).adopt sub.val)).treeChoice q sub.val;
        Says.canStart p sub s.chip ∧ s.chip.expressChoice q sub.val = none ∧ choice.2 = none)
    ∧ (∃ (p : Fin 48) (sub : Fin 8) (f : Frame) (s : State), s.chip.coresRun = true ∧ s.chip.onWire p.val sub.val = some f ∧
        f.started = true ∧ f.ended = false ∧ f.crossed < f.cells)
    ∧ (∃ (p : Fin 48) (sub : Fin 8) (f : Frame) (cells : List Ecc) (s : State), s.chip.coresRun = true ∧ s.chip.onWire p.val sub.val = some f ∧
        (f.ended = true ∨ f.cells ≤ f.crossed) ∧ s.chip.framesInRange ∧ (∀ x ∈ cells, x = .clean))
    ∧ (∃ (p : Fin 48) (sub : Fin 8) (f : Frame) (cells : List Ecc) (s : State), s.chip.coresRun = true ∧ s.chip.onWire p.val sub.val = some f ∧
        f.started = true ∧ f.ended = false ∧ 1 < f.crossed ∧ s.chip.framesInRange)
    ∧ (∃ (p : Fin 48) (sub : Fin 8) (stamp : LineStamp) (f : Frame) (s : State), let q := s.chip.lowerOf p.val; let m := s.chip.startMember p.val sub.val;
        s.chip.coresRun = true ∧ sub.val < s.chip.subports q ∧ s.chip.memberUp m sub.val = true ∧ s.chip.onWire m sub.val = none ∧
        s.chip.framesInRange ∧ s.chip.flag (F.admCtrlLateAction q) = true ∧ f ∈ s.chip.queue q sub.val f.cls ∧ 12 ≤ f.cls ∧
        f.express = true ∧ lateHead < rawDiff f.rxStamp s.chip.time.raw ∧ (∀ g ∈ s.chip.frames, g.outPort = q → g.outSub = sub.val → g = f)) :=
  ⟨⟨47, 0, ⟨up.time.raw + 16318464, 0, 0⟩, { frame1 with cls := 15, express := true, stored := true, taken := true, tailSeen := true, formed := 1, crossed := 1, link := 1, rxStamp := up.time.raw },
       ⟨{ reg [(F.port0StatusLinkUp 47, 1), (F.admCtrlLateAction 47, 0), (F.cal0LaneDoneHi, 0x8000)] with frames := [{ frame1 with cls := 15, express := true, stored := true, taken := true, tailSeen := true, formed := 1, crossed := 1, link := 1, rxStamp := up.time.raw }], banks := { up.banks with lines := [(7344, ⟨[0], [], []⟩)] } }, []⟩,
       by dsimp only [Chip.framesInRange, Says.canStart, Says.noneLate]; decide⟩,
   ⟨47, 0, ⟨up.time.raw + 16318465, 0, 0⟩, { frame1 with cls := 15, express := true, stored := true, taken := true, tailSeen := true, formed := 1, crossed := 1, link := 1, rxStamp := up.time.raw },
       ⟨{ reg [(F.port0StatusLinkUp 47, 1), (F.admCtrlLateAction 47, 0), (F.cal0LaneDoneHi, 0x8000)] with frames := [{ frame1 with cls := 15, express := true, stored := true, taken := true, tailSeen := true, formed := 1, crossed := 1, link := 1, rxStamp := up.time.raw }], banks := { up.banks with lines := [(7344, ⟨[0], [], []⟩)] } }, []⟩,
       by dsimp only [Chip.framesInRange, Says.canStart, Says.noneLate]; decide⟩,
   ⟨47, 0, stamp0, { frame1 with cls := 15, express := true, stored := true, taken := true, tailSeen := true, formed := 1, crossed := 1, link := 1, rxStamp := up.time.raw },
       { frame1 with id := 8, started := true, formed := 1, crossed := 1, member := 47 }, ⟨{ reg [(F.port0StatusLinkUp 47, 1), (F.admCtrlLateAction 47, 0), (F.admStatusMergeActive 47, 1)] with frames := [{ frame1 with cls := 15, express := true, stored := true, taken := true, tailSeen := true, formed := 1, crossed := 1, link := 1, rxStamp := up.time.raw }, { frame1 with id := 8, started := true, formed := 1, crossed := 1, member := 47 }], links := [(47 * 8, { linkDefault with onWire := [8] })] }, []⟩,
       by dsimp only [Says.noneLate]; decide⟩,
   ⟨47, 0, stamp0, { frame1 with cls := 3, stored := true, taken := true, tailSeen := true, formed := 1, crossed := 1, link := 1, rxStamp := up.time.raw },
       3, ⟨{ reg [(F.port0StatusLinkUp 47, 1), (F.admCtrlLateAction 47, 0), (F.cal0LaneDoneHi, 0x8000)] with frames := [{ frame1 with cls := 3, stored := true, taken := true, tailSeen := true, formed := 1, crossed := 1, link := 1, rxStamp := up.time.raw }] }, []⟩,
       by dsimp only [Says.canStart, Says.noneLate]; decide⟩,
   ⟨47, 0, stamp0, ⟨reg [(F.port0StatusLinkUp 47, 1), (F.admCtrlLateAction 47, 0), (F.cal0LaneDoneHi, 0x8000)], []⟩,
       by dsimp only [Says.canStart, Says.noneLate]; decide⟩,
   ⟨47, 0, { frame1 with started := true, formed := 1 }, ⟨{ withFrame { frame1 with started := true, formed := 1 } with links := [(47 * 8, { linkDefault with onWire := [7] })] }, []⟩,
       by decide⟩,
   ⟨47, 0, { frame1 with started := true, formed := 1, crossed := 1 }, [], ⟨{ withFrame { frame1 with started := true, formed := 1, crossed := 1 } with links := [(47 * 8, { linkDefault with onWire := [7] })] }, []⟩,
       by dsimp only [Chip.framesInRange]; decide⟩,
   ⟨47, 0, { frame1 with len := 124, full := 124, inLen := 128, started := true, formed := 3, crossed := 3, stored := true },
       [], ⟨{ withFrame { frame1 with len := 124, full := 124, inLen := 128, started := true, formed := 3, crossed := 3, stored := true } with links := [(47 * 8, { linkDefault with onWire := [7] })] }, []⟩,
       by dsimp only [Chip.framesInRange]; decide⟩,
   ⟨47, 0, stamp0, { frame1 with cls := 15, express := true, stored := true, taken := true, tailSeen := true, formed := 1, crossed := 1, link := 1, rxStamp := 0 - 16384000000 },
       ⟨{ reg [(F.port0StatusLinkUp 47, 1), (F.admCtrlLateAction 47, 1)] with frames := [{ frame1 with cls := 15, express := true, stored := true, taken := true, tailSeen := true, formed := 1, crossed := 1, link := 1, rxStamp := 0 - 16384000000 }] }, []⟩,
       by dsimp only [Chip.framesInRange]; decide⟩⟩

end Sys2Proof.Tests
end

/-! SUPPORT. Updates of registers as frames: a block without its registers, one bit and one whole field after a write, folds of
writes, and reads of blocks whose registers are the same. -/

namespace Sys2Proof.Machine

/-! ### A block without its registers -/

/-- The block with its register store emptied: what an update of registers alone leaves as it was. -/
def Chip.noRegs (s : Chip) : Chip := { s with regs := [] }

theorem noRegs_of_withRegs {s t : Chip} (h : ∃ r, t = s.withRegs r) : t.noRegs = s.noRegs := by
  obtain ⟨r, rfl⟩ := h; rfl

/-- Two blocks that agree without their registers differ in those alone. -/
theorem eq_of_noRegs {s t : Chip} (h : t.noRegs = s.noRegs) : t = { s with regs := t.regs } :=
  calc t = { t.noRegs with regs := t.regs } := rfl
    _ = { s.noRegs with regs := t.regs } := by rw [h]
    _ = { s with regs := t.regs } := rfl

@[simp] theorem noRegs_set (s : Chip) (f : Fld) (v : Word) : (s.set f v).noRegs = s.noRegs := (rfl)
@[simp] theorem noRegs_setN (s : Chip) (f : Fld) (v : Nat) : (s.setN f v).noRegs = s.noRegs := (rfl)
@[simp] theorem noRegs_setB (s : Chip) (f : Fld) (v : Bool) : (s.setB f v).noRegs = s.noRegs := (rfl)
@[simp] theorem noRegs_setBit (s : Chip) (f : Fld) (k : Nat) (v : Bool) : (s.setBit f k v).noRegs = s.noRegs := (rfl)
@[simp] theorem noRegs_addSat (s : Chip) (f : Fld) (n : Nat) : (s.addSat f n).noRegs = s.noRegs := (rfl)
@[simp] theorem noRegs_count (s : Chip) (f : Fld) (n : Nat) : (s.count f n).noRegs = s.noRegs :=
  noRegs_of_withRegs (count_withRegs s f n)
@[simp] theorem noRegs_bump (s : Chip) (f : Fld) : (s.bump f).noRegs = s.noRegs := noRegs_count s f 1
@[simp] theorem noRegs_feed (s : Chip) (a n : Nat) : (s.feed a n).noRegs = s.noRegs :=
  noRegs_of_withRegs (feed_withRegs s a n)
@[simp] theorem noRegs_access (s : Chip) (k p m a : Nat) : (s.access k p m a).noRegs = s.noRegs :=
  noRegs_of_withRegs (access_withRegs s k p m a)
@[simp] theorem noRegs_show (s : Chip) (f : Fld) (v : Nat) : (s.show f v).noRegs = s.noRegs :=
  noRegs_of_withRegs (show_withRegs s f v)
@[simp] theorem noRegs_showB (s : Chip) (f : Fld) (v : Bool) : (s.showB f v).noRegs = s.noRegs := noRegs_show s f _
@[simp] theorem noRegs_countSat (s : Chip) (f : Fld) (n : Nat) : (s.countSat f n).noRegs = s.noRegs :=
  noRegs_of_withRegs (countSat_withRegs s f n)

/-- What does not read the registers reads the same where nothing else differs. -/
theorem of_noRegs {α : Type} (g : Chip → α) (hg : ∀ c : Chip, g c.noRegs = g c) {s t : Chip} (h : t.noRegs = s.noRegs) :
    g t = g s := by rw [← hg t, h, hg s]

theorem noRegs_badParity (s : Chip) : s.noRegs.badParity = s.badParity := rfl
theorem noRegs_mail (s : Chip) : s.noRegs.mail = s.mail := rfl

/-- A fold of updates that each leave all but the registers alone does so as a whole. -/
theorem noRegs_foldl {β : Type} (g : Chip → β → Chip) (h : ∀ t b, (g t b).noRegs = t.noRegs) (l : List β) :
    ∀ s : Chip, (l.foldl g s).noRegs = s.noRegs := by
  induction l with
  | nil => intro s; rfl
  | cons b l ih => intro s; rw [List.foldl_cons, ih, h]

/-! ### A write of a whole field -/

/-- With every bit of a field enabled, a write gives it the data, whatever it held. -/
theorem set_enabled (s : Chip) (f : Fld) (old x : Word) (h : f.width ≤ 32) :
    s.set f ((old &&& ~~~word (2 ^ f.width - 1)) ||| (x &&& word (2 ^ f.width - 1))) = s.set f x := by
  have key : ((old &&& ~~~word (2 ^ f.width - 1)) ||| (x &&& word (2 ^ f.width - 1))).toNat % 2 ^ f.width
      = x.toNat % 2 ^ f.width := by
    apply Nat.eq_of_testBit_eq
    intro k
    simp only [Nat.testBit_mod_two_pow]
    by_cases hk : k < f.width
    · have hm : (word (2 ^ f.width - 1)).getLsbD k = true := by
        rw [word_getLsbD, Nat.testBit_two_pow_sub_one]; simp [hk]; omega
      have h32 : k < 32 := by omega
      have hb : ((old &&& ~~~word (2 ^ f.width - 1)) ||| (x &&& word (2 ^ f.width - 1))).getLsbD k = x.getLsbD k := by
        rw [BitVec.getLsbD_or, BitVec.getLsbD_and, BitVec.getLsbD_and, BitVec.getLsbD_not, hm]
        simp
      simp only [hk, decide_true, Bool.true_and]
      exact hb
    · simp [hk]
  simp only [Chip.set, key]

/-! ### One bit of a field -/

/-- A number with one of its bits put to a value. -/
theorem testBit_putBit (N k j : Nat) (v : Bool) :
    (N - ofBool (N.testBit k) * 2 ^ k + ofBool v * 2 ^ k).testBit j = if j = k then v else N.testBit j := by
  have hsplit : ∀ (q : Nat) (b : Bool) (r : Nat), r < 2 ^ k →
      (2 ^ k * (2 * q + ofBool b) + r).testBit j
        = if j < k then r.testBit j else if j = k then b else q.testBit (j - k - 1) := by
    intro q b r hr
    rw [Nat.testBit_two_pow_mul_add _ hr]
    by_cases hj : j < k
    · simp [hj]
    · by_cases hjk : j = k
      · subst hjk; cases b <;> simp [ofBool, Nat.testBit_zero]
      · obtain ⟨m, hm⟩ : ∃ m, j - k = m + 1 := ⟨j - k - 1, by omega⟩
        simp only [hj, hjk, if_false, hm, Nat.add_sub_cancel, Nat.testBit_succ]
        congr 1
        cases b <;> simp [ofBool]; omega
  have hr : N % 2 ^ k < 2 ^ k := Nat.mod_lt _ (by positivity)
  have hb : ofBool (N.testBit k) = N / 2 ^ k % 2 := by
    rw [Nat.testBit_eq_decide_div_mod_eq]
    rcases Nat.mod_two_eq_zero_or_one (N / 2 ^ k) with h | h <;> simp [h, ofBool]
  have hN : N = 2 ^ k * (2 * (N / 2 ^ k / 2) + ofBool (N.testBit k)) + N % 2 ^ k := by
    rw [hb, Nat.div_add_mod, Nat.div_add_mod]
  have hput : N - ofBool (N.testBit k) * 2 ^ k + ofBool v * 2 ^ k
      = 2 ^ k * (2 * (N / 2 ^ k / 2) + ofBool v) + N % 2 ^ k := by
    have : N = 2 ^ k * (2 * (N / 2 ^ k / 2)) + ofBool (N.testBit k) * 2 ^ k + N % 2 ^ k := by
      conv_lhs => rw [hN]
      ring
    have h2 : N - ofBool (N.testBit k) * 2 ^ k = 2 ^ k * (2 * (N / 2 ^ k / 2)) + N % 2 ^ k := by omega
    rw [h2]; ring
  rw [hput, hsplit _ _ _ hr]
  have hj := hsplit (N / 2 ^ k / 2) (N.testBit k) (N % 2 ^ k) hr
  rw [← hN] at hj
  by_cases h1 : j < k
  · rw [if_pos h1] at hj ⊢
    rw [if_neg (by omega), hj]
  · rw [if_neg h1] at hj ⊢
    by_cases h2 : j = k
    · rw [if_pos h2, if_pos h2]
    · rw [if_neg h2] at hj ⊢
      rw [if_neg h2, hj]

theorem getBit_eq_testBit (s : Chip) (f : Fld) (k : Nat) : s.getBit f k = (s.getN f).testBit k := by
  rw [Chip.getBit, bit_eq_getLsbD]; rfl

/-- What each bit of a field reads after one of them was written. -/
theorem getBit_setBit (s : Chip) (f : Fld) (k j : Nat) (v : Bool) (hw : f.width ≤ 32) (hj : j < f.width) :
    (s.setBit f k v).getBit f j = if j = k then v else s.getBit f j := by
  rw [getBit_eq_testBit, Chip.setBit, getN_setN_same _ _ _ hw, Nat.testBit_mod_two_pow, getBit_eq_testBit s f k,
    getBit_eq_testBit s f j, testBit_putBit]
  simp [hj]

theorem getBit_setBit_same (s : Chip) (f : Fld) (k : Nat) (v : Bool) (hw : f.width ≤ 32) (hk : k < f.width) :
    (s.setBit f k v).getBit f k = v := by
  rw [getBit_setBit s f k k v hw hk, if_pos rfl]

/-! ### Folds of writes to registers -/

theorem get_foldl_set_other (g : Nat → Fld) (v : Word) (f : Fld) (l : List Nat) (h : ∀ i ∈ l, f.key ≠ (g i).key) :
    ∀ s : Chip, (l.foldl (fun c i => c.set (g i) v) s).get f = s.get f := by
  induction l with
  | nil => intro s; rfl
  | cons i l ih =>
    intro s
    rw [List.foldl_cons, ih (fun j hj => h j (List.mem_cons_of_mem _ hj)), get_set_other _ _ _ _ (h i (by simp))]

theorem get_foldl_set_zero (g : Nat → Fld) (hg : ∀ i j, i ≠ j → (g i).key ≠ (g j).key) (i : Nat) (l : List Nat) (hi : i ∈ l) :
    ∀ s : Chip, (l.foldl (fun c i => c.set (g i) 0) s).get (g i) = 0 := by
  induction l with
  | nil => cases hi
  | cons j l ih =>
    intro s
    rw [List.foldl_cons]
    by_cases hl : i ∈ l
    · exact ih hl _
    · have hij : i = j := (List.mem_cons.1 hi).resolve_right hl
      subst hij
      rw [get_foldl_set_other g 0 (g i) l (fun k hk => hg i k (fun e => hl (e ▸ hk)))]
      simp [word]

theorem keeps_foldl_set (g : Nat → Fld) (v : Word) (l : List Nat) :
    ∀ s : Chip, s.keeps (l.foldl (fun c i => c.set (g i) v) s) (l.map g) := by
  induction l with
  | nil => intro s; exact keeps_refl s _
  | cons i l ih => intro s; exact keeps_trans (keeps_set s (g i) v) (ih _)

@[simp] theorem noRegs_foldl_set (g : Nat → Fld) (v : Word) (l : List Nat) (s : Chip) :
    (l.foldl (fun c i => c.set (g i) v) s).noRegs = s.noRegs := noRegs_foldl _ (fun t b => noRegs_set t (g b) v) l s


theorem get_of_regs {s t : Chip} (h : t.regs = s.regs) (f : Fld) : t.get f = s.get f := by rw [Chip.get, Chip.get, h]
theorem getN_of_regs {s t : Chip} (h : t.regs = s.regs) (f : Fld) : t.getN f = s.getN f := by rw [Chip.getN, Chip.getN, get_of_regs h]
theorem flag_of_regs {s t : Chip} (h : t.regs = s.regs) (f : Fld) : t.flag f = s.flag f := by rw [Chip.flag, Chip.flag, getN_of_regs h]
theorem getBit_of_regs {s t : Chip} (h : t.regs = s.regs) (f : Fld) (k : Nat) : t.getBit f k = s.getBit f k := by
  rw [Chip.getBit, Chip.getBit, get_of_regs h]


@[simp] theorem slot_setSlot_same (s : Chip) (n : Nat) (x : Slot) : (s.setSlot n x).slot n = x := store_read_write_same _ _ _ _
theorem slot_setSlot_other (s : Chip) (n k : Nat) (x : Slot) (h : k ≠ n) : (s.setSlot n x).slot k = s.slot k :=
  store_read_write_other _ _ _ _ h

@[simp] theorem get_setSlot (s : Chip) (n : Nat) (x : Slot) (f : Fld) : (s.setSlot n x).get f = s.get f := (rfl)
@[simp] theorem getN_setSlot (s : Chip) (n : Nat) (x : Slot) (f : Fld) : (s.setSlot n x).getN f = s.getN f := (rfl)
@[simp] theorem flag_setSlot (s : Chip) (n : Nat) (x : Slot) (f : Fld) : (s.setSlot n x).flag f = s.flag f := (rfl)
@[simp] theorem getBit_setSlot (s : Chip) (n : Nat) (x : Slot) (f : Fld) (k : Nat) :
    (s.setSlot n x).getBit f k = s.getBit f k := (rfl)


end Sys2Proof.Machine

/-! The GO write (R14, R323): O17. -/

namespace Sys2Proof.Machine

/-! ### The GO write (R14, R323) -/

/-- The word that a GO writes holds GO, IRQ, TAG and OPCODE at their places. -/
def goWord (tag opcode : BitVec 8) (irq : Bool) : Word :=
  word (2 ^ 31 + ofBool irq * 2 ^ 30 + tag.toNat * 2 ^ 16 + opcode.toNat)

theorem goWord_toNat (tag opcode : BitVec 8) (irq : Bool) :
    (goWord tag opcode irq).toNat = 2 ^ 31 + ofBool irq * 2 ^ 30 + tag.toNat * 2 ^ 16 + opcode.toNat := by
  have := tag.isLt; have := opcode.isLt
  rw [goWord, word_toNat, Nat.mod_eq_of_lt]
  cases irq <;> simp only [ofBool] <;> simp only [if_true, if_false, Bool.false_eq_true] <;> omega

theorem beMask_all : beMask 0xF = 0xFFFFFFFF := by decide

theorem word_and_beMask_all (w : Word) : w &&& beMask 0xF = w := by
  rw [beMask_all]; exact BitVec.and_allOnes

/-- The address of the command word of a mailbox slot. -/
def slotCmdAddr (n : Nat) : Nat := 0x00004000 + n / 4 * 0x1000 + n % 4 * 0x300 + 0x40

theorem slotCmdAddr_facts (n : Nat) (hn : n < 16) :
    slotCmdAddr n / 4096 = 4 + n / 4 ∧ slotCmdAddr n % 4 = 0 ∧ 0x40 ≤ slotCmdAddr n % 4096
      ∧ slotAt (slotCmdAddr n) = some (n, 0) := by
  have h : ∀ k : Fin 16, slotCmdAddr k.val / 4096 = 4 + k.val / 4 ∧ slotCmdAddr k.val % 4 = 0
      ∧ 0x40 ≤ slotCmdAddr k.val % 4096 ∧ slotAt (slotCmdAddr k.val) = some (k.val, 0) := by decide
  exact h ⟨n, hn⟩

theorem fieldsAt_slotCmd (n : Nat) (hn : n < 16) : fieldsAt (slotCmdAddr n) =
    [⟨31, 1, .trg, 0, 0, false⟩, ⟨30, 1, .rw, 0, 0x7c, false⟩, ⟨16, 8, .rw, 0, 0x7c, false⟩, ⟨0, 8, .rw, 0, 0x7c, false⟩] := by
  have h : ∀ k : Fin 16, fieldsAt (slotCmdAddr k.val) =
    [⟨31, 1, .trg, 0, 0, false⟩, ⟨30, 1, .rw, 0, 0x7c, false⟩, ⟨16, 8, .rw, 0, 0x7c, false⟩, ⟨0, 8, .rw, 0, 0x7c, false⟩] := by decide
  exact h ⟨n, hn⟩

theorem actingWrite_slotCmd (s : Chip) (n : Nat) (hn : n < 16) (be : BitVec 4) (p t w : Word) :
    s.actingWrite (slotCmdAddr n) be p t w
      = some (if bit t 31 then (s.writeWord (slotCmdAddr n) be w).go n else s.writeWord (slotCmdAddr n) be w) := by
  obtain ⟨hp, -, -, hs⟩ := slotCmdAddr_facts n hn
  have ha : slotCmdAddr n < 0x8000 := by omega
  unfold Chip.actingWrite
  simp only [hp, hs]
  rw [if_neg (by omega), if_neg (by omega), if_neg (by omega), if_neg (by omega), if_neg (by omega), if_neg (by omega),
    if_neg (by omega), if_neg (by omega), if_neg (by omega), if_neg (by omega), if_neg (by omega), if_neg (by omega),
    if_neg (by omega), if_neg (by omega)]

theorem ignores_slotCmd (s : Chip) (n : Nat) (hn : n < 16) : s.ignores (slotCmdAddr n) = false := by
  obtain ⟨hp, -, -, -⟩ := slotCmdAddr_facts n hn
  have ha : slotCmdAddr n < 0x8000 := by omega
  unfold Chip.ignores
  simp only [hp]
  rw [if_neg (by omega), if_neg (by omega)]
  simp only [Bool.and_eq_false_iff, beq_eq_false_iff_ne]
  omega

theorem pathEnables_all (path : Path) : pathEnables path 0xF = 0xF := by cases path <;> rfl

theorem access_flag (s : Chip) (k p m a : Nat) (f : Fld) (hf : f.offProbes) : (s.access k p m a).flag f = s.flag f := by
  rw [Chip.flag, Chip.flag, Chip.getN, Chip.getN, get_access _ _ _ _ _ _ hf]

theorem access_slot (s : Chip) (k p m a n : Nat) : (s.access k p m a).slot n = s.slot n := by
  rw [Chip.slot, access_mail]; rfl

theorem sysDirectorControlLost_offProbes : F.sysDirectorControlLost.offProbes := by
  constructor <;> decide

/-- A write of a slot's command word with GO set is refused where the slot is busy or control is lost (R14, R323). -/
theorem slotRefuses_go (s : Chip) (n : Nat) (hn : n < 16) (t : Word) (ht : bit t 31 = true) :
    s.slotRefuses (slotCmdAddr n) t = if s.slotHeld n || s.controlLost then some (n, true) else none := by
  obtain ⟨-, -, -, hs⟩ := slotCmdAddr_facts n hn
  simp [Chip.slotRefuses, hs, ht]

theorem slotRefuses_access (s : Chip) (k p m a addr : Nat) (t : Word) :
    (s.access k p m a).slotRefuses addr t = s.slotRefuses addr t := by
  simp only [Chip.slotRefuses, Chip.slotHeld, access_slot, Chip.controlLost,
    access_flag _ _ _ _ _ _ sysDirectorControlLost_offProbes]
  rfl

theorem lockLock_offProbes {pg : Nat} (h : pg ≠ 0x81) : (F.hdrPgLockLock pg).offProbes := by
  refine ⟨by simp [F.hdrPgLockLock], ?_⟩
  simp only [F.hdrPgLockLock]; omega

/-- A host write of GO into a served page, as the probes see it and the slot takes it (R14, R323). -/
theorem hostWrite_go (s : Chip) (path : Path) (n : Nat) (hn : n < 16) (w : Word) (hw : bit w 31 = true)
    (h : s.serves path (4 + n / 4)) :
    s.hostWrite path (slotCmdAddr n) 0xF w =
      (if s.slotHeld n || s.controlLost then (s.access 2 1 (pathMaster path) (slotCmdAddr n)).goLost n
       else (((s.access 1 1 (pathMaster path) (slotCmdAddr n)).writeWord (slotCmdAddr n) 0xF w).go n).parityRestored
         (slotCmdAddr n) 0xF).answer1 [] false false := by
  obtain ⟨hpg, h4, h40, hsl⟩ := slotCmdAddr_facts n hn
  have hdark := serves_dark h
  obtain ⟨hr, ho, hst, hu, hun, hd, hl⟩ := h
  have hal : slotCmdAddr n / 4 * 4 = slotCmdAddr n := by omega
  have hlt : slotCmdAddr n < 0x04000000 := by omega
  have hlock : s.locked (slotCmdAddr n) 0xF = false := by simp [Chip.locked, hpg, hl]
  have hlock' : ∀ k m, (s.access k 1 m (slotCmdAddr n)).locked (slotCmdAddr n) 0xF = false := fun k m => by
    rw [Chip.locked, hpg, access_flag _ _ _ _ _ _ (lockLock_offProbes (by omega)), hl, Bool.false_and]
  have hd' : ∀ k m, (s.access k 1 m (slotCmdAddr n)).pageDark (4 + n / 4) = false := fun k m => by
    simpa [Chip.pageDark, Chip.portIsDark, Chip.groupIsDark] using hd
  have hg' : ∀ k m, (s.access k 1 m (slotCmdAddr n)).groupShadow (4 + n / 4) = false := fun k m => by
    simpa [Chip.groupShadow, Chip.groupIsDark] using hdark
  have h40' : ¬ slotCmdAddr n % 4096 < 0x40 := by omega
  have hwa : w &&& beMask 0xF = w := word_and_beMask_all w
  have hdis : s.discards (slotCmdAddr n) 0xF w = (s.slotHeld n || s.controlLost) := by
    simp only [Chip.discards, hpg, hu, hun, hst, hlock, hd, hwa, slotRefuses_go s n hn w hw]
    cases s.slotHeld n || s.controlLost <;> rfl
  simp only [Chip.hostWrite, hr, Bool.not_true, Bool.false_eq_true, if_false, hlt, if_true, hal, pathEnables_all, Chip.busWrite,
    hpg, ho, hst, hu, hun, Bool.or_self, hdis, Chip.pageWrite, hlock', slotRefuses_access, hwa, slotRefuses_go s n hn w hw]
  cases s.slotHeld n || s.controlLost
  · simp only [Bool.false_eq_true, if_false, h40', hd', hg', Bool.false_and, Chip.writeReg,
      actingWrite_slotCmd _ n hn, ignores_slotCmd _ n hn, hwa, hw, if_true]
  · simp only [if_true]

theorem getN_access (s : Chip) (k p m a : Nat) (f : Fld) (hf : f.offProbes) : (s.access k p m a).getN f = s.getN f := by
  rw [Chip.getN, Chip.getN, get_access _ _ _ _ _ _ hf]

theorem cmd0Ignored_offProbes : F.cmd0Ignored.offProbes := by constructor <;> decide

theorem bit_goWord (tag opcode : BitVec 8) (irq : Bool) : bit (goWord tag opcode irq) 31 = true := by
  have := tag.isLt; have := opcode.isLt
  have hi : ofBool irq ≤ 1 := by cases irq <;> simp [ofBool]
  simp only [bit, bits, goWord_toNat, beq_iff_eq]
  omega

theorem exec_go (path : Path) (slot : Fin 16) (tag opcode : BitVec 8) (irq : Bool) (s : State) :
    exec (.go path slot tag opcode irq) s = done s (s.chip.hostWrite path (slotCmdAddr slot.val) 0xF (goWord tag opcode irq)) :=
  rfl

@[simp] theorem get_answer1 (s : Chip) (d : List Word) (u v : Bool) (f : Fld) : (s.answer1 d u v).get f = s.get f := rfl
@[simp] theorem getN_answer1 (s : Chip) (d : List Word) (u v : Bool) (f : Fld) : (s.answer1 d u v).getN f = s.getN f := rfl
@[simp] theorem flag_answer1 (s : Chip) (d : List Word) (u v : Bool) (f : Fld) : (s.answer1 d u v).flag f = s.flag f := rfl
theorem keeps_answer1 {s t : Chip} {l : List Fld} (h : s.keeps t l) (d : List Word) (u v : Bool) : s.keeps (t.answer1 d u v) l := h

/-- GO on a busy slot, or while control is lost, is ignored, counted and lost (R14, R323). -/
theorem goBusy_holds (path : Path) (slot : Fin 16) (tag opcode : BitVec 8) (irq : Bool) (s : State) :
    Says.goBusy path slot tag opcode irq s := by
  intro hs hb
  have hheld : (s.chip.slotHeld slot.val || s.chip.controlLost) = true := by
    rcases hb with h | h <;> simp [h]
  have hrun := hostWrite_go s.chip path slot.val slot.isLt _ (bit_goWord tag opcode irq) hs
  rw [hheld, if_pos rfl] at hrun
  refine ⟨_, (exec_go path slot tag opcode irq s).trans (congrArg (done s) hrun), ?_⟩
  generalize hu : s.chip.access 2 1 (pathMaster path) (slotCmdAddr slot.val) = u
  have hget : u.getN F.cmd0Ignored = s.chip.getN F.cmd0Ignored := by rw [← hu, getN_access _ _ _ _ _ _ cmd0Ignored_offProbes]
  have hk : s.chip.keeps u [] := hu ▸ keeps_access _ _ _ _ _
  have hkey : F.cmd0Ignored.key ≠ (F.hdrPgStatusTrgLost (4 + slot.val / 4)).key := by
    simp only [Fld.key, F.cmd0Ignored, F.hdrPgStatusTrgLost]; omega
  have hn : (u.goLost slot.val).noRegs = s.chip.noRegs := by
    rw [Chip.goLost, Chip.slotIgnored, noRegs_setB, noRegs_bump, ← hu, noRegs_access]
  refine ⟨?_, ?_, ?_, ?_⟩
  · rw [flag_answer1, Chip.goLost]
    exact flag_setB_same _ _ _ (by simp [F.hdrPgStatusTrgLost]) (by simp [F.hdrPgStatusTrgLost])
  · rw [getN_answer1, Chip.goLost, getN_setB_other _ _ _ _ hkey, Chip.slotIgnored,
      getN_bump_same _ _ rfl cmd0Ignored_offProbes rfl, hget]
  · exact keeps_answer1 (keeps_trans (keeps_trans hk (keeps_bump _ _)) (keeps_setB _ _ _)) _ _ _
  · exact congrArg (fun c => c.answer1 [] false false) (eq_of_noRegs hn)

/-! ### What GO latches (R323) -/

/-- The command as GO latches it: its word and the parameters of its slot as they stand. -/
def Chip.latched (s : Chip) (n : Nat) : Slot :=
  ⟨.waiting, s.getN (F.cmdSlotCmdOpcode n), s.getN (F.cmdSlotCmdTag n), s.flag (F.cmdSlotCmdIrq n),
    (List.range 56).map (fun i => s.get (F.cmdSlotParam n i)), 0, []⟩

/-- The registers of a slot's status and results, and CMD.DONE, as GO leaves them. -/
@[irreducible] def Chip.goStatus (s : Chip) (n : Nat) : Chip :=
  ((List.range 56).foldl (fun c i => c.set (F.cmdSlotResult n i) 0)
    ((((s.setB (F.cmdSlotStatusDone n) false).setN (F.cmdSlotStatusTag n) (s.getN (F.cmdSlotCmdTag n))).setN
      (F.cmdSlotStatusOpcode n) (s.getN (F.cmdSlotCmdOpcode n))).setN (F.cmdSlotStatusStatus n) stBusy)).setBit F.cmd0Done n false

theorem goLatch_eq (s : Chip) (n : Nat) : s.goLatch n = (s.goStatus n).setSlot n (s.latched n) := by
  rw [Chip.goStatus]; rfl

/-- The fields that GO writes of its slot's status and results. -/
def goStatusFields (n : Nat) : List Fld :=
  [F.cmdSlotStatusStatus n, F.cmdSlotStatusDone n, F.cmdSlotStatusTag n, F.cmdSlotStatusOpcode n, F.cmd0Done]
    ++ (List.range 56).map (F.cmdSlotResult n)

theorem keeps_goStatus (s : Chip) (n : Nat) : s.keeps (s.goStatus n) (goStatusFields n) := by
  rw [Chip.goStatus]
  refine keeps_mono (keeps_trans (keeps_trans (keeps_trans (keeps_trans (keeps_trans (keeps_setB _ _ _) (keeps_setN _ _ _))
    (keeps_setN _ _ _)) (keeps_setN _ _ _)) (keeps_foldl_set _ _ _ _)) (keeps_setBit _ _ _ _)) ?_
  simp only [goStatusFields, List.mem_append, List.mem_cons, List.not_mem_nil, or_false]
  tauto

theorem noRegs_goStatus (s : Chip) (n : Nat) : (s.goStatus n).noRegs = s.noRegs := by
  simp [Chip.goStatus]

theorem cmdSlotResult_key_ne (n i j : Nat) (h : i ≠ j) : (F.cmdSlotResult n i).key ≠ (F.cmdSlotResult n j).key := by
  simp only [Fld.key, F.cmdSlotResult]; omega

/-- After GO the status word of its slot reads BUSY with DONE clear, its results zero and its bit of CMD.DONE clear (R323). -/
theorem goStatus_spec (s : Chip) (n : Nat) (hn : n < 16) :
    (s.goStatus n).getN (F.cmdSlotStatusStatus n) = stBusy ∧ (s.goStatus n).flag (F.cmdSlotStatusDone n) = false
      ∧ (s.goStatus n).getBit F.cmd0Done n = false ∧ ∀ i < 56, (s.goStatus n).get (F.cmdSlotResult n i) = 0 := by
  have hres : ∀ {f : Fld}, (∀ i < 56, f.key ≠ (F.cmdSlotResult n i).key) → ∀ i ∈ List.range 56, f.key ≠ (F.cmdSlotResult n i).key :=
    fun h i hi => h i (List.mem_range.1 hi)
  refine ⟨?_, ?_, ?_, ?_⟩
  · rw [Chip.goStatus, getN_setBit_other _ _ _ _ _ (by simp only [Fld.key, F.cmdSlotStatusStatus, F.cmd0Done]; omega), Chip.getN,
      get_foldl_set_other _ _ _ _ (hres (by simp only [Fld.key, F.cmdSlotStatusStatus, F.cmdSlotResult]; omega)),
      ← Chip.getN, getN_setN_same _ _ _ (by simp [F.cmdSlotStatusStatus])]
    rfl
  · rw [Chip.goStatus, Chip.flag, getN_setBit_other _ _ _ _ _ (by simp only [Fld.key, F.cmdSlotStatusDone, F.cmd0Done]; omega),
      Chip.getN, get_foldl_set_other _ _ _ _ (hres (by simp only [Fld.key, F.cmdSlotStatusDone, F.cmdSlotResult]; omega)),
      ← Chip.getN, ← Chip.flag,
      flag_setN_other _ _ _ _ (by simp only [Fld.key, F.cmdSlotStatusDone, F.cmdSlotStatusStatus]; omega),
      flag_setN_other _ _ _ _ (by simp only [Fld.key, F.cmdSlotStatusDone, F.cmdSlotStatusOpcode]; omega),
      flag_setN_other _ _ _ _ (by simp only [Fld.key, F.cmdSlotStatusDone, F.cmdSlotStatusTag]; omega),
      flag_setB_same _ _ _ (by simp [F.cmdSlotStatusDone]) (by simp [F.cmdSlotStatusDone])]
  · rw [Chip.goStatus, getBit_setBit_same _ _ _ _ (by simp [F.cmd0Done]) (by simpa [F.cmd0Done] using hn)]
  · intro i hi
    rw [Chip.goStatus, get_setBit_other _ _ _ _ _ (by simp only [Fld.key, F.cmdSlotResult, F.cmd0Done]; omega),
      get_foldl_set_zero _ (cmdSlotResult_key_ne n) i _ (List.mem_range.2 hi)]

/-! ### The word that GO writes -/

theorem enabled_all (f : FieldRow) (h : f.lsb + f.width ≤ 32) (hw : 1 ≤ f.width) : f.enabled 0xF = word (2 ^ f.width - 1) := by
  have hb : (beMask 0xF).toNat = 2 ^ 32 - 1 := by rw [beMask_all]; rfl
  rw [FieldRow.enabled, bits, hb]
  congr 1
  apply Nat.eq_of_testBit_eq
  intro k
  rw [Nat.testBit_mod_two_pow, Nat.testBit_div_two_pow, Nat.testBit_two_pow_sub_one, Nat.testBit_two_pow_sub_one]
  by_cases hk : k < f.width
  · simp [hk]; omega
  · simp [hk]; omega

/-- A plain field takes its bits of a word written whole (R30). -/
theorem putField_rw_all (s before : Chip) (addr : Nat) (w : Word) (f : FieldRow) (ha : f.acc = .rw)
    (h : f.lsb + f.width ≤ 32) (hw : 1 ≤ f.width) :
    s.putField before addr 0xF w f = s.set (f.at addr) (word (bits w (f.lsb + f.width - 1) f.lsb)) := by
  simp only [Chip.putField, ha, enabled_all f h hw]
  exact set_enabled s (f.at addr) _ _ (by simp only [FieldRow.at]; omega)

/-- The registers of a slot's command word after GO's word was written into it. -/
def Chip.goFields (s : Chip) (n : Nat) (w : Word) : Chip :=
  ((s.set (F.cmdSlotCmdIrq n) (word (bits w 30 30))).set (F.cmdSlotCmdTag n) (word (bits w 23 16))).set
    (F.cmdSlotCmdOpcode n) (word (bits w 7 0))

theorem writeWord_slotCmd (s : Chip) (n : Nat) (hn : n < 16) (w : Word) :
    s.writeWord (slotCmdAddr n) 0xF w = (s.goFields n w).parityRestored (slotCmdAddr n) 0xF := by
  rw [Chip.writeWord, Chip.putFields, fieldsAt_slotCmd n hn]
  congr 1
  simp only [List.filter, lockable, List.foldl_cons, List.foldl_nil]
  rw [putField_rw_all _ _ _ _ ⟨30, 1, .rw, 0, 0x7c, false⟩ rfl (by decide) (by decide),
    putField_rw_all _ _ _ _ ⟨16, 8, .rw, 0, 0x7c, false⟩ rfl (by decide) (by decide),
    putField_rw_all _ _ _ _ ⟨0, 8, .rw, 0, 0x7c, false⟩ rfl (by decide) (by decide)]
  rfl

theorem keeps_goFields (s : Chip) (n : Nat) (w : Word) :
    s.keeps (s.goFields n w) [F.cmdSlotCmdIrq n, F.cmdSlotCmdTag n, F.cmdSlotCmdOpcode n] :=
  keeps_trans (keeps_trans (keeps_set _ _ _) (keeps_set _ _ _)) (keeps_set _ _ _)

@[simp] theorem noRegs_goFields (s : Chip) (n : Nat) (w : Word) : (s.goFields n w).noRegs = s.noRegs := (rfl)

theorem goWord_bits (tag opcode : BitVec 8) (irq : Bool) :
    bits (goWord tag opcode irq) 30 30 = ofBool irq ∧ bits (goWord tag opcode irq) 23 16 = tag.toNat
      ∧ bits (goWord tag opcode irq) 7 0 = opcode.toNat := by
  have := tag.isLt; have := opcode.isLt
  have hi : ofBool irq ≤ 1 := by cases irq <;> simp [ofBool]
  simp only [bits, goWord_toNat]
  omega

theorem cmdSlot_offProbes (n : Nat) (hn : n < 16) :
    (F.cmdSlotCmdIrq n).offProbes ∧ (F.cmdSlotCmdTag n).offProbes ∧ (F.cmdSlotCmdOpcode n).offProbes
      ∧ ∀ i < 64, (F.cmdSlotParam n i).offProbes ∧ (F.cmdSlotResult n i).offProbes := by
  simp only [Fld.offProbes, F.cmdSlotCmdIrq, F.cmdSlotCmdTag, F.cmdSlotCmdOpcode, F.cmdSlotParam, F.cmdSlotResult]
  refine ⟨by omega, by omega, by omega, fun i hi => ?_⟩
  omega

/-- The command that GO's word and the slot's parameters make (R323). -/
theorem latched_goFields (s : Chip) (n : Nat) (tag opcode : BitVec 8) (irq : Bool) :
    (s.goFields n (goWord tag opcode irq)).latched n
      = ⟨.waiting, opcode.toNat, tag.toNat, irq, (List.range 56).map (fun i => s.get (F.cmdSlotParam n i)), 0, []⟩ := by
  obtain ⟨hirq, htag, hop⟩ := goWord_bits tag opcode irq
  have ht := tag.isLt
  have ho := opcode.isLt
  have hparam : ∀ i, (s.goFields n (goWord tag opcode irq)).get (F.cmdSlotParam n i) = s.get (F.cmdSlotParam n i) := fun i => by
    rw [Chip.goFields,
      get_set_other _ _ _ _ (by simp only [Fld.key, F.cmdSlotParam, F.cmdSlotCmdOpcode]; omega),
      get_set_other _ _ _ _ (by simp only [Fld.key, F.cmdSlotParam, F.cmdSlotCmdTag]; omega),
      get_set_other _ _ _ _ (by simp only [Fld.key, F.cmdSlotParam, F.cmdSlotCmdIrq]; omega)]
  have h1 : (s.goFields n (goWord tag opcode irq)).getN (F.cmdSlotCmdOpcode n) = opcode.toNat := by
    rw [Chip.goFields, Chip.getN, get_set_same, word_toNat, word_toNat, hop]
    simp only [F.cmdSlotCmdOpcode]
    omega
  have h2 : (s.goFields n (goWord tag opcode irq)).getN (F.cmdSlotCmdTag n) = tag.toNat := by
    rw [Chip.goFields, Chip.getN, get_set_other _ _ _ _ (by simp only [Fld.key, F.cmdSlotCmdTag, F.cmdSlotCmdOpcode]; omega),
      get_set_same, word_toNat, word_toNat, htag]
    simp only [F.cmdSlotCmdTag]
    omega
  have h3 : (s.goFields n (goWord tag opcode irq)).flag (F.cmdSlotCmdIrq n) = irq := by
    rw [Chip.flag, Chip.goFields, Chip.getN,
      get_set_other _ _ _ _ (by simp only [Fld.key, F.cmdSlotCmdIrq, F.cmdSlotCmdOpcode]; omega),
      get_set_other _ _ _ _ (by simp only [Fld.key, F.cmdSlotCmdIrq, F.cmdSlotCmdTag]; omega),
      get_set_same, word_toNat, word_toNat, hirq, F.cmdSlotCmdIrq]
    cases irq <;> rfl
  simp only [Chip.latched, h1, h2, h3, hparam]

@[simp] theorem regs_parityRestored (s : Chip) (addr : Nat) : (s.parityRestored addr 0xF).regs = s.regs := (rfl)

theorem go_idle (s : Chip) (n : Nat) (h1 : s.slotHeld n = false) (h2 : s.controlLost = false) : s.go n = s.goLatch n := by
  rw [Chip.go, h1, h2]; rfl

theorem latched_of_regs {s t : Chip} (h : t.regs = s.regs) (n : Nat) : t.latched n = s.latched n := by
  simp only [Chip.latched, getN_of_regs h, flag_of_regs h, get_of_regs h]

/-- The block as the write of GO's word into the registers leaves it. -/
def Chip.goWritten (s : Chip) (n : Nat) (w : Word) : Chip := (s.goFields n w).parityRestored (slotCmdAddr n) 0xF

/-- The block as GO leaves it that finds its slot idle. -/
def Chip.goMade (s : Chip) (n : Nat) (w : Word) : Chip :=
  (((s.goWritten n w).goStatus n).setSlot n ((s.goFields n w).latched n)).parityRestored (slotCmdAddr n) 0xF

theorem go_goWritten (s : Chip) (n : Nat) (w : Word) (hidle : s.slotHeld n = false) (hc : s.controlLost = false) :
    ((s.goWritten n w).go n).parityRestored (slotCmdAddr n) 0xF = s.goMade n w := by
  have hc' : (s.goWritten n w).controlLost = false := by
    rw [Chip.controlLost, Chip.goWritten, flag_of_regs (regs_parityRestored _ _), Chip.goFields, Chip.flag, Chip.getN,
      get_set_other _ _ _ _ (by simp only [Fld.key, F.sysDirectorControlLost, F.cmdSlotCmdOpcode]; omega),
      get_set_other _ _ _ _ (by simp only [Fld.key, F.sysDirectorControlLost, F.cmdSlotCmdTag]; omega),
      get_set_other _ _ _ _ (by simp only [Fld.key, F.sysDirectorControlLost, F.cmdSlotCmdIrq]; omega)]
    exact hc
  rw [go_idle (s.goWritten n w) n hidle hc', goLatch_eq, Chip.goWritten, latched_of_regs (regs_parityRestored _ _)]
  rfl

theorem noRegs_parityRestored (s : Chip) (addr : Nat) :
    (s.parityRestored addr 0xF).noRegs = { s.noRegs with badParity := s.badParity.filter (fun a => a != addr) } := (rfl)

theorem noRegs_setSlot (s : Chip) (n : Nat) (x : Slot) :
    (s.setSlot n x).noRegs = { s.noRegs with mail := { s.mail with slots := Store.write slotDefault s.mail.slots n x } } := (rfl)

@[simp] theorem regs_setSlot (s : Chip) (n : Nat) (x : Slot) : (s.setSlot n x).regs = s.regs := (rfl)
@[simp] theorem badParity_setSlot (s : Chip) (n : Nat) (x : Slot) : (s.setSlot n x).badParity = s.badParity := (rfl)

theorem regs_goMade (s : Chip) (n : Nat) (w : Word) : (s.goMade n w).regs = ((s.goWritten n w).goStatus n).regs := by
  rw [Chip.goMade, regs_parityRestored, regs_setSlot]

/-- Beside registers GO changes the words whose parity is wrong, and its slot. -/
theorem noRegs_goMade (s : Chip) (n : Nat) (w : Word) :
    (s.goMade n w).noRegs = { s.noRegs with
      badParity := s.badParity.filter (fun a => a != slotCmdAddr n)
      mail := { s.mail with slots := Store.write slotDefault s.mail.slots n ((s.goFields n w).latched n) } } := by
  have hw : ((s.goWritten n w).goStatus n).noRegs
      = { s.noRegs with badParity := s.badParity.filter (fun a => a != slotCmdAddr n) } := by
    rw [noRegs_goStatus, Chip.goWritten, noRegs_parityRestored, noRegs_goFields]; rfl
  have hb : ((s.goWritten n w).goStatus n).badParity = s.badParity.filter (fun a => a != slotCmdAddr n) := by
    rw [← noRegs_badParity, hw]
  have hm : ((s.goWritten n w).goStatus n).mail = s.mail := by
    rw [← noRegs_mail, hw, noRegs_mail]
  rw [Chip.goMade, noRegs_parityRestored, noRegs_setSlot, badParity_setSlot, hw, hb, hm, List.filter_filter]
  simp only [Bool.and_self]

theorem slot_goMade (s : Chip) (n k : Nat) (w : Word) :
    (s.goMade n w).slot k = if k = n then (s.goFields n w).latched n else s.slot k := by
  have hm : (s.goMade n w).mail.slots = Store.write slotDefault s.mail.slots n ((s.goFields n w).latched n) := by
    rw [← noRegs_mail, noRegs_goMade]
  rw [Chip.slot, hm]
  by_cases hk : k = n
  · subst hk; rw [if_pos rfl, store_read_write_same]
  · rw [if_neg hk, store_read_write_other _ _ _ _ hk]; rfl

/-- What an accepted GO leaves of the block that its write found (R323). -/
theorem hostWrite_go_idle (s : Chip) (path : Path) (n : Nat) (hn : n < 16) (w : Word) (hw : bit w 31 = true)
    (h : s.serves path (4 + n / 4)) (hidle : s.slotHeld n = false) (hc : s.controlLost = false) :
    s.hostWrite path (slotCmdAddr n) 0xF w
      = ((s.access 1 1 (pathMaster path) (slotCmdAddr n)).goMade n w).answer1 [] false false := by
  have hheld : (s.access 1 1 (pathMaster path) (slotCmdAddr n)).slotHeld n = false := by
    rw [Chip.slotHeld, access_slot]; exact hidle
  have hlost : (s.access 1 1 (pathMaster path) (slotCmdAddr n)).controlLost = false := by
    rw [Chip.controlLost, access_flag _ _ _ _ _ _ sysDirectorControlLost_offProbes]; exact hc
  rw [hostWrite_go s path n hn w hw h, hidle, hc, Bool.or_self, if_neg Bool.false_ne_true, writeWord_slotCmd _ _ hn,
    ← Chip.goWritten, go_goWritten _ _ _ hheld hlost]

@[simp] theorem slot_answer1 (s : Chip) (d : List Word) (u v : Bool) (k : Nat) : (s.answer1 d u v).slot k = s.slot k := (rfl)
@[simp] theorem getBit_answer1 (s : Chip) (d : List Word) (u v : Bool) (f : Fld) (k : Nat) :
    (s.answer1 d u v).getBit f k = s.getBit f k := (rfl)

/-- The block that a host write of GO leaves, from what it leaves beside registers and the reply. -/
theorem eq_of_go_frame {s t : Chip} (path : Path) (n : Nat) (x : Store Slot)
    (h : t.noRegs = { s.noRegs with
      badParity := s.badParity.filter (fun a => a != slotCmdAddr n), mail := { s.mail with slots := x } }) :
    t.answer1 [] false false = { s with
      regs := (t.answer1 [] false false).regs, badParity := s.parityAfter path (slotCmdAddr n) 0xF, reply := written
      mail := { s.mail with slots := (t.answer1 [] false false).mail.slots } } := by
  have hm : t.mail.slots = x := by rw [← noRegs_mail, h]
  have hp : s.parityAfter path (slotCmdAddr n) 0xF = s.badParity.filter (fun a => a != slotCmdAddr n) := by
    rw [Chip.parityAfter, pathEnables_all]; rfl
  rw [hp]
  calc t.answer1 [] false false = { t.noRegs with regs := t.regs, reply := written } := rfl
    _ = { s with regs := t.regs, badParity := s.badParity.filter (fun a => a != slotCmdAddr n), reply := written
                 mail := { s.mail with slots := x } } := by rw [h]; rfl
    _ = _ := by rw [← hm]; rfl

theorem keeps_goMade (s : Chip) (n : Nat) (w : Word) : s.keeps (s.goMade n w)
    ([F.cmdSlotCmdIrq n, F.cmdSlotCmdTag n, F.cmdSlotCmdOpcode n] ++ goStatusFields n) := by
  refine keeps_trans (b := s.goWritten n w) (keeps_goFields s n w) ?_
  intro k hk hn
  rw [regs_goMade]
  exact keeps_goStatus (s.goWritten n w) n k hk hn

/-- GO on an idle slot while control stands latches its command (R323). -/
theorem go_holds (path : Path) (slot : Fin 16) (tag opcode : BitVec 8) (irq : Bool) (s : State) :
    Says.go path slot tag opcode irq s := by
  intro hs hidle hcontrol
  have hn := slot.isLt
  generalize hw : goWord tag opcode irq = w
  have hrun := hostWrite_go_idle s.chip path slot.val hn w (hw ▸ bit_goWord tag opcode irq) hs hidle hcontrol
  generalize ha : s.chip.access 1 1 (pathMaster path) (slotCmdAddr slot.val) = a at hrun
  have haid : a.noRegs = s.chip.noRegs := by rw [← ha, noRegs_access]
  have hparam : ∀ i < 56, a.get (F.cmdSlotParam slot.val i) = s.chip.get (F.cmdSlotParam slot.val i) := fun i hi => by
    rw [← ha, get_access _ _ _ _ _ _ ((cmdSlot_offProbes slot.val hn).2.2.2 i (by omega)).1]
  have hregs := regs_goMade a slot.val w
  obtain ⟨hst, hdone, hbit, hres⟩ := goStatus_spec (a.goWritten slot.val w) slot.val hn
  have hslot := slot_goMade a slot.val slot.val w
  rw [if_pos rfl, ← hw, latched_goFields, hw, List.map_congr_left (fun i hi => hparam i (List.mem_range.1 hi))] at hslot
  have hothers : ∀ k, k ≠ slot.val → (a.goMade slot.val w).slot k = s.chip.slot k := fun k hk => by
    rw [slot_goMade, if_neg hk, ← ha, access_slot]
  have hkeeps : s.chip.keeps (a.goMade slot.val w) _ :=
    keeps_trans (ha ▸ keeps_access _ _ _ _ _) (keeps_goMade a slot.val w)
  have hframe := noRegs_goMade a slot.val w
  generalize a.goMade slot.val w = t at hrun hregs hslot hothers hkeeps hframe
  refine ⟨_, (exec_go path slot tag opcode irq s).trans (congrArg (done s) (hw ▸ hrun)), ?_⟩
  refine ⟨?_, ?_, ?_, ?_, ?_, ?_, ?_, ?_, ?_, ?_, ?_, ?_⟩
  · rw [slot_answer1, hslot]
  · rw [slot_answer1, hslot]
  · rw [slot_answer1, hslot]
  · rw [slot_answer1, hslot]
  · rw [slot_answer1, hslot]
  · rw [getN_answer1, getN_of_regs hregs, hst]
  · rw [flag_answer1, flag_of_regs hregs, hdone]
  · rw [getBit_answer1, getBit_of_regs hregs, hbit]
  · intro i hi; rw [get_answer1, get_of_regs hregs, hres i hi]
  · intro k hk; rw [slot_answer1, hothers k hk]
  · refine keeps_answer1 (keeps_mono hkeeps (fun g hg => ?_)) _ _ _
    rw [List.nil_append, goStatusFields] at hg
    simp only [List.mem_append, List.mem_cons, List.not_mem_nil, or_false] at hg ⊢
    tauto
  · have hb : a.badParity = s.chip.badParity := of_noRegs Chip.badParity noRegs_badParity haid
    have hm : a.mail = s.chip.mail := of_noRegs Chip.mail noRegs_mail haid
    rw [haid, hb, hm] at hframe
    exact eq_of_go_frame path slot.val _ hframe

/-- Settles O17: GO latches the command of an idle slot while control stands, and is ignored and lost elsewhere. -/
theorem goLatchesACommand : Obligations.GoLatchesACommand :=
  fun s => ⟨fun path slot tag opcode irq => go_holds path slot tag opcode irq s,
    fun path slot tag opcode irq => goBusy_holds path slot tag opcode irq s⟩

end Sys2Proof.Machine

/-! The step of a mailbox command and what it stages (R11, R324, R326, R327): O36. -/

namespace Sys2Proof.Machine

/-- The slots after a step was staged: its own has run, the others stand. -/
theorem slot_stage1 (s : Chip) (n k : Nat) (e : StepEnd) :
    (s.stage1 n e).slot k = if k = n then { s.slot n with phase := .ran } else s.slot k := by
  have h : (s.stage1 n e).slot k = (s.setSlot n { s.slot n with phase := .ran }).slot k := rfl
  rw [h]
  by_cases hk : k = n
  · subst hk; rw [if_pos rfl, slot_setSlot_same]
  · rw [if_neg hk, slot_setSlot_other _ _ _ _ hk]

/-- A director row runs the step of a slot that is next in order (R326). -/
theorem directorStep_next (s : Chip) (op n : Nat) (hr : s.directorRuns = true) (hv : s.mail.voided = false)
    (ho : (s.slot n).opcode = op) (hl : s.mail.left.head? = some n) : s.directorStep op n = s.runSlot n := by
  simp [Chip.directorStep, hr, hv, ho, hl]

theorem runSlot_free (s : Chip) (n : Nat) (h : s.objectTaken n (s.slot n) s.mail.taken = false) :
    s.runSlot n = Chip.stage1 { s with mail := { s.mail with
      left := s.mail.left.filter (fun k => k != n), taken := s.mail.taken ++ s.objects (s.slot n) } } n (s.view.stepOf (s.slot n)) := by
  rw [Chip.runSlot]; simp only [h, Bool.false_eq_true, if_false]

theorem runSlot_taken (s : Chip) (n : Nat) (h : s.objectTaken n (s.slot n) s.mail.taken = true) :
    s.runSlot n = Chip.stage1 { s with mail := { s.mail with left := s.mail.left.filter (fun k => k != n) } } n
      (.none, stBusy, []) := by
  rw [Chip.runSlot]; simp only [h, if_true]

/-- A step that is next in order and whose objects are free stages what its rules give (R11, R326). -/
theorem stages_of_step {cmd : Instr} {op : Nat} {n : Fin 16} {e : StepEnd} {s : State}
    (hexec : exec cmd s = done s (s.chip.directorStep op n.val)) (h : Says.nextStep op n s.chip)
    (he : s.chip.view.stepOf (s.chip.slot n.val) = e) : Says.stages cmd n e s := by
  obtain ⟨hr, hv, ho, hl, hfree⟩ := h
  have hrun : s.chip.directorStep op n.val = _ :=
    (directorStep_next s.chip op n.val hr hv ho hl).trans (runSlot_free s.chip n.val hfree)
  rw [he] at hrun
  refine ⟨_, hexec.trans (congrArg (done s) hrun), ?_, ?_, rfl⟩
  · rw [slot_stage1, if_pos rfl]; rfl
  · intro k hk; rw [slot_stage1, if_neg hk]; rfl

/-! ### The step of each opcode -/

theorem stepOf_admit (v : Chip) (x : Slot) (h : x.opcode = 0x01) : v.stepOf x = v.admitStep x := by simp [Chip.stepOf, h]
theorem stepOf_release (v : Chip) (x : Slot) (h : x.opcode = 0x02) : v.stepOf x = v.releaseStep x := by simp [Chip.stepOf, h]

theorem admitOk_holds (n : Fin 16) (i : Nat) (bounds : List Nat) (s : State) : Says.admitOk n i bounds s := by
  intro hnext hstandby hrange hfused hkey hcheck hway
  refine stages_of_step rfl hnext ?_
  rw [stepOf_admit _ _ hnext.2.2.1]
  simp only [Chip.admitStep, hstandby, hrange, hfused, hkey, hcheck, hway, Bool.false_eq_true, if_false]
  rfl

theorem admitNot_holds (n : Fin 16) (s : State) : Says.admitNot n s := by
  intro hnext hstandby hrange hfused
  have hstep := stepOf_admit s.chip.view (s.chip.slot n.val) hnext.2.2.1
  refine ⟨fun hkey => ?_, fun c d hkey hcheck => ?_, fun hkey hcheck => ?_⟩ <;>
    refine stages_of_step rfl hnext (hstep.trans ?_) <;>
    simp only [Chip.admitStep, hstandby, hrange, hfused, hkey, Bool.false_eq_true, if_false, if_true]
  · rw [hcheck]
  · rw [hcheck]

theorem releaseOk_holds (n : Fin 16) (f : LFlow) (s : State) : Says.releaseOk n f s := by
  intro hnext hstandby hfind hgen
  refine stages_of_step rfl hnext ((stepOf_release s.chip.view (s.chip.slot n.val) hnext.2.2.1).trans ?_)
  have hno : (!s.chip.view.failed 2 (bits ((s.chip.slot n.val).param 0) 15 0) && flowGen (s.chip.view.flowEntry (bits ((s.chip.slot n.val).param 0) 15 0)) != bits ((s.chip.slot n.val).param 1) 7 0)
      = false := by
    rcases hgen with h | h <;> simp [h]
  simp only [Chip.releaseStep, hstandby, hfind, hno, Bool.false_eq_true, if_false]

theorem releaseNot_holds (n : Fin 16) (s : State) : Says.releaseNot n s := by
  intro hnext hstandby hnone
  refine stages_of_step rfl hnext ((stepOf_release s.chip.view (s.chip.slot n.val) hnext.2.2.1).trans ?_)
  have hfind : s.chip.view.ledger.find? (fun f => f.index == bits ((s.chip.slot n.val).param 0) 15 0) = none := by
    rw [List.find?_eq_none]; intro f hf hi
    exact Bool.false_ne_true (hnone.symm.trans (List.any_eq_true.2 ⟨f, hf, hi⟩))
  simp only [Chip.releaseStep, hstandby, hfind, Bool.false_eq_true, if_false]

theorem releaseOther_holds (n : Fin 16) (f : LFlow) (s : State) : Says.releaseOther n f s := by
  intro hnext hstandby hfind hok hgen
  refine stages_of_step rfl hnext ((stepOf_release s.chip.view (s.chip.slot n.val) hnext.2.2.1).trans ?_)
  have hne : (flowGen (s.chip.view.flowEntry (bits ((s.chip.slot n.val).param 0) 15 0)) != bits ((s.chip.slot n.val).param 1) 7 0) = true := bne_iff_ne.2 hgen
  simp only [Chip.releaseStep, hstandby, hfind, hok, hne, Bool.not_false, Bool.and_self, Bool.false_eq_true, if_false, if_true]

/-- A step that finds its object taken completes BUSY and takes none (R327). -/
theorem stepBusy_holds (n : Fin 16) (s : State) : Says.stepBusy n s := by
  intro hr hv ho hl htaken
  have hrun : s.chip.directorStep 0x42 n.val = _ := (directorStep_next s.chip 0x42 n.val hr hv ho hl).trans (runSlot_taken s.chip n.val htaken)
  refine ⟨_, (show exec (.portReset n) s = done s (s.chip.directorStep 0x42 n.val) from rfl).trans (congrArg (done s) hrun), ?_, ?_, rfl⟩
  · rw [slot_stage1, if_pos rfl]; rfl
  · intro k hk; rw [slot_stage1, if_neg hk]; rfl

/-- Settles O36: each step of ADMIT_FLOW and RELEASE_FLOW stages what its first failing check, or none, gives. -/
theorem flowCommandsStageTheirResults : Obligations.FlowCommandsStageTheirResults :=
  fun s => ⟨fun n i bounds => admitOk_holds n i bounds s, fun n => admitNot_holds n s, fun n f => releaseOk_holds n f s,
    fun n => releaseNot_holds n s, fun n f => releaseOther_holds n f s, fun n => stepBusy_holds n s⟩

end Sys2Proof.Machine

/-! The overrun of a grip engine whose queue holds a message of a session on a port that the die does not have: it
counts outside the pages that the statement lets change, which refutes O41 and O60. -/

namespace Sys2Proof.Machine

open Sys2Proof.Says

/-- What a clause says after a step that is always done, it says of the block that the step leaves. -/
theorem of_runs_done {c : Instr} {s : State} {P : Chip → Prop} {u : Chip} (hrun : exec c s = done s u) (h : Runs c s P) : P u := by
  obtain ⟨t, ht, hP⟩ := h
  injection hrun.symm.trans ht with hs
  injection hs with hu
  exact hu ▸ hP

/-- A LOCKED Speid session on port 60, whose group is then 10. -/
def strayPortSession : Session :=
  { freshSession (BitVec.ofNat 256 (2 ^ 251 + 60 * 2 ^ 243)) with speid := spLocked }

/-- A queued message for session 0 whose Speid TLV is usable and disagrees with the session's recovered count. -/
def disagreeingMessage : QMsg :=
  { session := 0, stamp := 0, age := 0
    msg := {
      port := 0, sub := 0, stamp := ⟨0, 0, 0⟩, transport := 0, vid := 0, label := 0, labelBottom := true, domain := 0
      source := 0, kind := .unsupported, seqId := 0, twoStep := false, badTlv := false, time := 0, corr := 0
      requester := true, ann := ⟨0, 0, 0, 0, 0, 0, 0, 0, 0, 0⟩, l1 := none
      speid := some ⟨1, true, true, false, 0, 0, 0, 0, 0, 0, 0, some 1⟩ } }

/-- The state after reset with that session open and that message at the head of engine 0's queue. -/
def strayPortState : State :=
  { chip := { Chip.afterReset with sessions := [(0, strayPortSession)], rxq := [(0, [disagreeingMessage])] }
    pending := [] }

/-- The engine that overruns with one item done has taken the message, and AGREE_FAIL of group 10 has counted. -/
theorem gripOverrun_strayPort :
    Store.find (F.grp2AgreeFail 10).key (strayPortState.chip.gripOverrun 0 [] 1).regs
      ≠ Store.find (F.grp2AgreeFail 10).key strayPortState.chip.regs := by
  decide +kernel

/-- The frame that the statement gives GRIP_OVERRUN does not hold of that state. -/
theorem not_overrunGrip_strayPort : ¬ overrunGrip 0 [] 1 strayPortState := by
  intro h
  obtain ⟨-, -, hkeeps, -⟩ := of_runs_done (u := strayPortState.chip.gripOverrun 0 [] 1) rfl
    (h (by decide +kernel) (by decide +kernel))
  exact gripOverrun_strayPort (hkeeps _ (by decide) (by decide))

/-- Refutes O41: GRIP_OVERRUN counts AGREE_FAIL of the group of the message's session, whichever group that is. -/
theorem not_agentsReportOverrunsAndMismatches : ¬ Obligations.AgentsReportOverrunsAndMismatches := by
  unfold Obligations.AgentsReportOverrunsAndMismatches
  intro h
  obtain ⟨-, -, hgrip, -⟩ := h strayPortState
  exact not_overrunGrip_strayPort (hgrip 0 [] 1)

/-- Refutes O60: the row of GRIP_OVERRUN is the clause that O41 states of it. -/
theorem not_everyCommandCompletes : ¬ Obligations.EveryCommandCompletes := by
  unfold Obligations.EveryCommandCompletes
  intro h
  exact not_overrunGrip_strayPort (h (.gripOverrun ⟨0, [], 1⟩) strayPortState).2

end Sys2Proof.Machine

/-! A marker at which the day's plan falls while AVS.NEWEST holds a number beyond its 5 bits: the day's record is
written over the word of another register. It refutes O42, O43 and O47, whose statements take every state. -/

namespace Sys2Proof.Machine

open Sys2Proof.Says

/-- What a quiet clapper measures. -/
def quietInput : MarkerIn := ⟨0, [], 0, 0, 0, 0, []⟩

/-- The block after reset, the rate of its next marker computed and the day's plan due at it, with an AVS.NEWEST whose
record of the AVS history would lie in the word of a field; the marker begins the clapper of a number. -/
def strayPlan (f : Fld) (number : Nat) : Chip :=
  let newest := (f.addr - (F.pers1AvsHistDay 0).addr) / 4
  let c := Chip.afterReset
  { c with
    regs := Store.insert F.pers1AvsNewest.key (word newest) c.regs
    cores := { c.cores with planDue := some (false, false) }
    time := { c.time with nextRate := some 0, nextNumber := number, srcIdle := 0 } }

/-- The same with an ACCEPT_STEP of the refused jump, which is 0, staged by slot 0, while a first offer is held. -/
def strayPlanStep (f : Fld) : Chip :=
  let c := strayPlan f 1
  { c with
    time := { c.time with offerHeld := true }
    mail := { c.mail with slots := [(0, ⟨.ran, 0, 0, false, [], 0, []⟩)], staged := [⟨0, .step, stOk, []⟩] } }

/-- The day of the record stands in CLAPPER.NUMBER, which should read 2. -/
theorem marker_strayPlan_clapperNumber :
    ((strayPlan F.time0ClapperNumber 2).marker quietInput).getN F.time0ClapperNumber = 1 := by
  decide +kernel

/-- The day of the record stands in TIME.STATUS.STATE, which should read COAST: no time source is selected. -/
theorem marker_strayPlanStep_statusState :
    let t := (strayPlanStep F.time0StatusState).marker quietInput
    t.noTimeSource = true ∧ t.getN F.time0StatusState = stTrack := by
  decide +kernel

/-- The day of the record stands in ARCH_NEWEST, which should read 0, the place of the first entry. -/
theorem marker_strayPlan_archNewest :
    ((strayPlan F.ref3ArchNewest 0).marker quietInput).getN F.ref3ArchNewest = 1 := by
  decide +kernel

/-- Refutes O42: with AVS.NEWEST beyond its field, the marker leaves another CLAPPER.NUMBER than the clapper's. -/
theorem not_markersApplyParametersAndEffects : ¬ Obligations.MarkersApplyParametersAndEffects := by
  unfold Obligations.MarkersApplyParametersAndEffects
  intro h
  let s : State := ⟨strayPlan F.time0ClapperNumber 2, []⟩
  obtain ⟨hparams, -⟩ := h s
  have hquiet : quietMarker s.chip 0 := by unfold quietMarker; decide +kernel
  obtain ⟨-, -, -, -, hnumber, -⟩ :=
    of_runs_done (u := s.chip.marker quietInput) rfl (hparams quietInput 0 hquiet (by decide +kernel))
  exact absurd (hnumber.symm.trans marker_strayPlan_clapperNumber) (by decide)

/-- Refutes O43: with AVS.NEWEST beyond its field, the marker of an ACCEPT_STEP leaves the servo in TRACK without a time
source. -/
theorem not_servoStepsFollowTheirRules : ¬ Obligations.ServoStepsFollowTheirRules := by
  unfold Obligations.ServoStepsFollowTheirRules
  intro h
  let s : State := ⟨strayPlanStep F.time0StatusState, []⟩
  obtain ⟨-, -, -, -, hsteps⟩ := h s
  have hreleases : releases ⟨0, .step, stOk, []⟩ 0 s.chip := by unfold releases quietMarker; decide +kernel
  obtain ⟨-, -, -, -, -, -, -, -, -, -, hstate, -⟩ :=
    of_runs_done (u := s.chip.marker quietInput) rfl (hsteps quietInput 0 0 stOk [] hreleases (by decide +kernel)
      (by decide +kernel) (by decide +kernel) (by decide) (by decide) (.inr rfl))
  obtain ⟨hnone, htrack⟩ := marker_strayPlanStep_statusState
  rw [if_pos hnone] at hstate
  exact absurd (hstate.symm.trans htrack) (by decide)

/-- Refutes O47: with AVS.NEWEST beyond its field, the marker that archives the first second leaves ARCH_NEWEST at 1. -/
theorem not_referencesQualifyAndSettle : ¬ Obligations.ReferencesQualifyAndSettle := by
  unfold Obligations.ReferencesQualifyAndSettle
  intro h
  let s : State := ⟨strayPlan F.ref3ArchNewest 0, []⟩
  obtain ⟨-, -, -, -, -, -, -, -, -, -, harchives⟩ := h s
  have hquiet : quietMarker s.chip 0 := by unfold quietMarker; decide +kernel
  obtain ⟨hnewest, -⟩ := of_runs_done (u := s.chip.marker quietInput) rfl (harchives quietInput 0 hquiet (by decide +kernel)
    rfl (by decide +kernel) (by decide +kernel) (by decide +kernel) (by decide +kernel))
  exact absurd (hnewest.symm.trans marker_strayPlan_archNewest) (by decide)

end Sys2Proof.Machine

/-! The MRAM load of a cold reset on a register store that lists a field at its Reset value: the load unlists it, which
refutes O53, whose frame compares what the stores list. -/

namespace Sys2Proof.Machine

open Sys2Proof.Says

/-- The block in step 3 of a cold reset, AVS.NEWEST listed at 0, its Reset value. -/
def listedReset : Chip :=
  let c := Chip.afterReset
  { c with regs := Store.insert F.pers1AvsNewest.key 0 c.regs, power := { c.power with phase := .rails } }

/-- Copy A of the word of AVS.NEWEST fails its check. -/
def badCopyA : MramUpset := ⟨persIndex F.pers1AvsNewest.addr, true, false⟩

/-- The load writes AVS.NEWEST, and a write of the Reset value lists nothing. -/
theorem sequenceAgain_listedReset :
    Store.find F.pers1AvsNewest.key (listedReset.sequenceAgain ⟨0, [badCopyA], false⟩).regs
      ≠ Store.find F.pers1AvsNewest.key listedReset.regs := by
  decide +kernel

/-- Refutes O53: the repair of a word unlists its field that stood listed at its Reset value. -/
theorem not_coldResetRunsItsSequence : ¬ Obligations.ColdResetRunsItsSequence := by
  unfold Obligations.ColdResetRunsItsSequence
  intro h
  let s : State := ⟨listedReset, []⟩
  obtain ⟨-, -, -, hrepairs, -⟩ := h s
  obtain ⟨-, -, -, hkeeps, -⟩ := of_runs_done (u := s.chip.sequenceAgain ⟨0, [badCopyA], false⟩) rfl
    (hrepairs 0 badCopyA (.inr rfl) (by decide +kernel) rfl (by decide +kernel) (by decide +kernel) (by decide +kernel))
  exact sequenceAgain_listedReset (hkeeps _ (by decide) (by decide))

end Sys2Proof.Machine

/-! PCIe events (R25, R375): O56. -/

namespace Sys2Proof.Machine

open Sys2Proof.Says

/-- What is listed under a key after a store was cut to the keys of a test. -/
theorem store_find_filter {α : Type} (test : Nat → Bool) (k : Nat) (l : Store α) :
    Store.find k (l.filter (fun e => test e.1)) = if test k then Store.find k l else none := by
  induction l with
  | nil => simp [Store.find]
  | cons e l ih =>
    rw [List.filter_cons]
    by_cases hek : e.1 = k
    · subst hek
      by_cases ht : test e.1 = true
      · simp [Store.find, ht]
      · simp [ht, ih]
    · by_cases ht : test e.1 = true <;> simp [Store.find, hek, ht, ih]

/-- A function reset unlists every register of BAR2 (R25). -/
theorem find_functionReset_ring (s : Chip) (k : Nat) (hk : 0x05000000 ≤ k / 32) :
    Store.find k s.functionReset.regs = none :=
  (store_find_filter (fun j => decide (j / 32 < 0x05000000)) k s.regs).trans
    (if_neg (by simpa using hk))

/-- A function reset leaves every register of BAR0 alone (R25). -/
theorem find_functionReset_bar0 (s : Chip) (k : Nat) (hk : k / 32 < 0x05000000) :
    Store.find k s.functionReset.regs = Store.find k s.regs :=
  (store_find_filter (fun j => decide (j / 32 < 0x05000000)) k s.regs).trans
    (if_pos (decide_eq_true hk))

theorem flr_linkUp (s : Chip) (h : s.power.linkUp = true) : s.flr = s.functionReset := if_pos h

theorem pcieDown_linkUp (s : Chip) (perst : Bool) (h : s.power.linkUp = true) :
    s.pcieDown perst = { s.functionReset with
      power := { s.power with linkUp := false, perstLow := perst || s.power.perstLow } } := by
  simp only [Chip.pcieDown, h, if_true]; rfl

theorem pcieDown_linkDown (s : Chip) (perst : Bool) (h : s.power.linkUp = false) :
    s.pcieDown perst = { s with power := { s.power with linkUp := false, perstLow := perst || s.power.perstLow } } := by
  simp only [Chip.pcieDown, h, Bool.false_eq_true, if_false]

theorem pcieUp_run (s : Chip) (h : s.power.phase = .run) :
    s.pcieUp = { s with power := { s.power with perstLow := false, linkUp := true } } := by
  simp [Chip.pcieUp, h]

theorem flrActs_holds (s : State) : flrActs s := fun hup =>
  ⟨s.chip.functionReset, congrArg (done s) (flr_linkUp s.chip hup), find_functionReset_ring s.chip,
    find_functionReset_bar0 s.chip, rfl⟩

theorem linkGoes_holds (perst : Bool) (s : State) : linkGoes perst s := by
  cases hup : s.chip.power.linkUp with
  | true =>
    exact ⟨_, congrArg (done s) (pcieDown_linkUp s.chip perst hup), rfl,
      fun _ => ⟨find_functionReset_ring s.chip, find_functionReset_bar0 s.chip, rfl⟩,
      fun hdown => absurd (hup.symm.trans hdown) (by decide)⟩
  | false =>
    exact ⟨_, congrArg (done s) (pcieDown_linkDown s.chip perst hup), rfl,
      fun h => absurd (hup.symm.trans h) (by decide), fun _ => rfl⟩

theorem linkComes_holds (s : State) : linkComes s := fun hrun =>
  ⟨_, congrArg (done s) (pcieUp_run s.chip hrun), rfl⟩

/-- Settles O56: a function reset keeps the keys of BAR0 alone, and a link-down adds to it only the link's own state. -/
theorem pcieEventsResetTheEndpoint : Obligations.PcieEventsResetTheEndpoint :=
  fun s => ⟨flrActs_holds s, fun perst => linkGoes_holds perst s, linkComes_holds s⟩

end Sys2Proof.Machine

/-! Host accesses of a page that serves (R26, R30, R36, R37, R50): the 32-bit accesses that every request of the host is made
of, and what a plain register word takes of a write. -/

namespace Sys2Proof.Machine

/-! ### What an access leaves of the guards of a page -/

/-- The bits of a page's guards that are registers: READY, the cause of the last reset, safe stop, and the page's lock. -/
def guardFields (pg : Nat) : List Fld := [F.rstStatusReady, F.rstCause, F.pll0CstatusSafeStop, F.hdrPgLockLock pg]

/-- A page serves as before where the block's power, its PCIe function and the guards among the registers stand. -/
theorem serves_of_guards {s t : Chip} {path : Path} {pg : Nat} (hpower : t.power = s.power) (hpcie : t.pcie = s.pcie)
    (hregs : ∀ f ∈ guardFields pg, t.get f = s.get f) (h : s.serves path pg) : t.serves path pg := by
  have hflag : ∀ f ∈ guardFields pg, t.flag f = s.flag f := fun f hf => by rw [Chip.flag, Chip.flag, Chip.getN, Chip.getN, hregs f hf]
  have hready : t.ready = s.ready := hflag _ (by simp [guardFields])
  have hcause : t.getN F.rstCause = s.getN F.rstCause := by rw [Chip.getN, Chip.getN, hregs _ (by simp [guardFields])]
  have hsafe : t.safeStop = s.safeStop := hflag _ (by simp [guardFields])
  have hlock := hflag (F.hdrPgLockLock pg) (by simp [guardFields])
  obtain ⟨hr, ho, hst, hu, hun, hd, hl⟩ := h
  have hu' : t.unpowered pg = false := by rw [Chip.unpowered, hpower]; exact hu
  have hg' : t.groupShadow pg = s.groupShadow pg := by simp only [Chip.groupShadow, Chip.groupIsDark, hpower]
  refine ⟨?_, ho, ?_, hu', ?_, ?_, hlock.trans hl⟩
  · cases path with
    | pcie => simpa only [Chip.reaches, Chip.pcieServes, Chip.pcieAnswers, hpower, hpcie, hready, hcause] using hr
    | smbus => simpa only [Chip.reaches, Chip.alwaysOn, hpower] using hr
  · rw [Chip.stopped, hsafe]; exact hst
  · rw [Chip.unreachable, hg', hu']
    simpa only [Chip.unreachable, Chip.pageInReset, hready, hpower, hu] using hun
  · simpa only [Chip.pageDark, Chip.portIsDark, Chip.groupIsDark, hpower] using hd

theorem guardFields_offProbes {pg : Nat} (h : pg ≠ 0x81) : ∀ f ∈ guardFields pg, f.offProbes := by
  intro f hf
  simp only [guardFields, List.mem_cons, List.not_mem_nil, or_false] at hf
  rcases hf with rfl | rfl | rfl | rfl
  · constructor <;> decide
  · constructor <;> decide
  · constructor <;> decide
  · exact lockLock_offProbes h

/-- A page still serves after a write of fields that guard nothing. -/
theorem serves_of_keeps {s t : Chip} {path : Path} {pg : Nat} {l : List Fld} (h : s.serves path pg) (hpg : pg ≠ 0x81)
    (hpower : t.power = s.power) (hpcie : t.pcie = s.pcie) (hk : s.keeps t l)
    (hl : ∀ f ∈ guardFields pg, ∀ g ∈ l, f.key ≠ g.key) : t.serves path pg :=
  serves_of_guards hpower hpcie (fun f hf => get_of_keeps hk f (guardFields_offProbes hpg f hf) (hl f hf)) h

/-- The probes' view of an access leaves a page serving as it did. -/
theorem serves_access {s : Chip} {path : Path} {pg : Nat} (h : s.serves path pg) (hpg : pg ≠ 0x81) (k p m a : Nat) :
    (s.access k p m a).serves path pg :=
  serves_of_keeps h hpg (access_power s k p m a) (access_pcie s k p m a) (keeps_access s k p m a) (fun _ _ _ hg => absurd hg List.not_mem_nil)

/-! ### Writes of a page that serves -/

theorem not_locked_of_serves {s : Chip} {path : Path} {a : Nat} (h : s.serves path (a / 4096)) (be : BitVec 4) :
    s.locked a be = false := by
  obtain ⟨-, -, -, -, -, -, hl⟩ := h
  rw [Chip.locked, hl, Bool.false_and]

/-- A page that serves takes a write that no mailbox slot refuses: a header word its fields, any other word as its register
takes it (R30). -/
theorem pageWrite_serves {s : Chip} {path : Path} {a : Nat} (before : Chip) (be : BitVec 4) (w : Word)
    (h : s.serves path (a / 4096)) (hs : s.slotRefuses a (w &&& beMask be) = none) :
    s.pageWrite before path a be w =
      if a % 4096 < 0x40 then (s.putFields before a be w (fun _ => true)).parityRestored a be
      else s.writeReg before path a be w := by
  have hlock := not_locked_of_serves h be
  have hshadow := serves_dark h
  obtain ⟨-, -, -, -, -, hd, -⟩ := h
  simp only [Chip.pageWrite, hlock, hs, hd, hshadow, Bool.false_and, Bool.false_eq_true, if_false]

/-- A write of a page that serves, which no mailbox slot refuses, as the ACCESS probes see it and the page takes it (R354). -/
theorem busWrite_serves {s : Chip} {path : Path} {a : Nat} (be : BitVec 4) (w : Word)
    (h : s.serves path (a / 4096)) (hp : a / 4096 ≠ 0x81) (hs : s.slotRefuses a (w &&& beMask be) = none) :
    s.busWrite path a be w =
      let u := s.access 1 1 (pathMaster path) a
      if a % 4096 < 0x40 then (u.putFields s a be w (fun _ => true)).parityRestored a be else u.writeReg s path a be w := by
  have hu := serves_access h hp 1 1 (pathMaster path) a
  have hpage := pageWrite_serves (s := s.access 1 1 (pathMaster path) a) s be w hu
    (by rw [slotRefuses_access]; exact hs)
  have hlock := not_locked_of_serves h be
  obtain ⟨-, ho, hst, hup, hun, hd, -⟩ := h
  have hdis : s.discards a be w = false := by
    simp only [Chip.discards, hup, hun, hst, hlock, hs, hd, Bool.false_and, Bool.or_self, Option.isSome_none]
  simp only [Chip.busWrite, hdis, ho, hst, hup, hun, Bool.not_true, Bool.or_self, Bool.false_eq_true, if_false]
  exact hpage

/-- A host write that reaches the register bus is its 32-bit access, and is answered. -/
theorem hostWrite_reaches {s : Chip} {path : Path} {a : Nat} (be : BitVec 4) (w : Word) (hr : s.reaches path = true)
    (ha : a < 0x04000000) (h4 : a % 4 = 0) :
    s.hostWrite path a be w = (s.busWrite path a (pathEnables path be) w).answer1 [] false false := by
  have hal : a / 4 * 4 = a := by omega
  simp only [Chip.hostWrite, hr, ha, hal, Bool.not_true, Bool.false_eq_true, if_false, if_true]

/-! ### Words without a rule of their own -/

theorem slotRefuses_plain {s : Chip} {a : Nat} (t : Word) (h0 : (slotAt a).any (fun x => x.2 == 0) = false)
    (hs : ∀ x, slotAt a = some x → x.2 ≤ 0xE0 → s.slotHeld x.1 = false) : s.slotRefuses a t = none := by
  unfold Chip.slotRefuses
  match hx : slotAt a with
  | none => rfl
  | some (n, o) =>
    have ho : (o == 0) = false := by simpa [hx] using h0
    by_cases hle : o ≤ 0xE0
    · simp [ho, hs (n, o) hx hle]
    · simp [hle]

/-- Beside the words that act, a port's page holds none whose write a fused pair does not hold (R89, R116). -/
theorem portWrite_plain {s : Chip} {q page o : Nat} (p t : Word)
    (hact : ((page == 0 && [0x40, 0x44, 0x4C, 0x54].contains o)
      || (page == 1 && decide (0x40 ≤ o ∧ o < 0xA0 ∧ (o - 0x40) % 12 = 0))
      || ((page == 5 || page == 6) && o == 0x40)) = false)
    (hheld : ((page == 0 && o == 0x50) || (page == 3 && decide (0x40 ≤ o ∧ o < 0x50))) = true → s.fusedUpper q = false) :
    s.portWrite q page o p t = none := by
  simp only [Bool.or_eq_false_iff, Bool.and_eq_false_imp, beq_iff_eq, Bool.or_eq_true, List.contains_eq_mem, List.mem_cons,
    List.not_mem_nil, or_false, decide_eq_false_iff_not] at hact
  simp only [Bool.or_eq_true, Bool.and_eq_true, beq_iff_eq, decide_eq_true_eq] at hheld
  obtain ⟨⟨hmode, hmap⟩, hcmd⟩ := hact
  have hupper : (page = 0 ∧ o = 0x50) ∨ (page = 3 ∧ 0x40 ≤ o ∧ o < 0x50) → ¬ s.fusedUpper q = true := fun hw => by
    rw [hheld hw]; exact Bool.false_ne_true
  unfold Chip.portWrite
  rw [if_neg (fun h => hmode h.1 (.inl h.2)), if_neg (fun h => hmode h.1 (.inr (.inl h.2))),
    if_neg (fun h => hmode h.1 (.inr (.inr (.inl h.2)))), if_neg (fun h => hupper (.inl ⟨h.1, h.2.1⟩) h.2.2),
    if_neg (fun h => hmode h.1 (.inr (.inr (.inr h.2)))), if_neg (fun h => hmap h.1 h.2),
    if_neg (fun h => hupper (.inr ⟨h.1, h.2.1, h.2.2.1⟩) h.2.2.2)]
  have h5 : ¬ (page = 5 ∧ o = 0x40) := fun h => by have := hcmd (.inl h.1); simp [h.2] at this
  have h6 : ¬ (page = 6 ∧ o = 0x40) := fun h => by have := hcmd (.inr h.1); simp [h.2] at this
  rw [if_neg h5, if_neg h6]

/-- A write of a word that has no rule of its own acts on its stored fields alone. -/
theorem actingWrite_plain {s : Chip} {a : Nat} (be : BitVec 4) (p t w : Word) (hact : actingAddr a = false)
    (hheld : heldWord a = true → s.fusedUpper (a / 0x10000 - 0x200) = false) : s.actingWrite a be p t w = none := by
  have hq : a / 4096 / 16 = a / 0x10000 := by rw [Nat.div_div_eq_div_mul]
  simp only [actingAddr, Bool.or_eq_false_iff] at hact
  obtain ⟨⟨⟨⟨⟨⟨⟨⟨hwide, hslot⟩, hport⟩, hev⟩, hshare⟩, hlimit⟩, hclk⟩, hlist⟩, hwin⟩ := hact
  unfold Chip.actingWrite
  dsimp only
  by_cases hpg : 0x2000 ≤ a / 4096 ∧ a / 4096 < 0x2300
  · rw [if_pos hpg]
    have hdec : decide (0x2000 ≤ a / 4096 ∧ a / 4096 < 0x2300) = true := decide_eq_true hpg
    refine portWrite_plain p t (by simpa only [hdec, Bool.true_and, Bool.or_eq_false_iff] using hport) (fun hw => ?_)
    rw [hq]
    exact hheld (by simpa only [heldWord, hdec, Bool.true_and] using hw)
  · rw [if_neg hpg]
    by_cases hpe : 0x51 ≤ a / 4096 ∧ a / 4096 ≤ 0x58
    · rw [if_pos hpe]
      have ho : ¬ (a % 4096 = 0x40 ∨ a % 4096 = 0x58 ∨ a % 4096 = 0x5C ∨ a % 4096 = 0x60 ∨ a % 4096 = 0x68) := by
        simpa [hpe] using hev
      unfold Chip.eventWrite
      rw [if_neg (by omega), if_neg (by omega), if_neg (by omega)]
    · rw [if_neg hpe]
      simp only [List.contains_eq_mem, List.mem_cons, List.not_mem_nil, or_false, decide_eq_false_iff_not, not_or] at hlist
      simp only [Bool.and_eq_false_imp, Bool.or_eq_true, decide_eq_true_eq, decide_eq_false_iff_not, beq_iff_eq,
        beq_eq_false_iff_ne] at hshare hlimit hclk hwin
      rw [if_neg (fun h => hshare ⟨h.1, h.2.1⟩ h.2.2), if_neg (fun h => hlimit h.1 h.2),
        if_neg (fun h => hclk h.1 (.inl h.2)), if_neg (fun h => hclk h.1 (.inr h.2)), if_neg hlist.1, if_neg hlist.2.1,
        if_neg hlist.2.2.1, if_neg (fun h => hwin (.inl (.inl ⟨h.1, h.2.1⟩)) h.2.2),
        if_neg (fun h => hwin (h.1.elim (fun e => .inl (.inr e)) .inr) h.2), if_neg hlist.2.2.2.1, if_neg hlist.2.2.2.2.1,
        if_neg hlist.2.2.2.2.2]
      match hx : slotAt a with
      | none => rfl
      | some (n, 0) => simp [hx] at hslot
      | some (n, o + 1) => rfl

theorem fusedUpper_access (s : Chip) (k p m a q : Nat) : (s.access k p m a).fusedUpper q = s.fusedUpper q := by
  have hoff : (F.port0ModeTwoShot (q - 6)).offProbes := by
    refine ⟨by simp [F.port0ModeTwoShot], ?_⟩
    simp only [F.port0ModeTwoShot]; omega
  rw [Chip.fusedUpper, Chip.fusedUpper, Chip.fusedLower, Chip.fusedLower, access_flag _ _ _ _ _ _ hoff]

/-- A write of a plain word of a page that serves: the ACCESS probes see it, each field takes its part, and the word's parity
is right where every byte was enabled (R30, R40). -/
theorem busWrite_plain {s : Chip} {path : Path} {a : Nat} (be : BitVec 4) (w : Word)
    (h : s.serves path (a / 4096)) (hp : a / 4096 ≠ 0x81) (hact : actingAddr a = false)
    (hheld : heldWord a = true → s.fusedUpper (a / 0x10000 - 0x200) = false)
    (hs : ∀ x, slotAt a = some x → x.2 ≤ 0xE0 → s.slotHeld x.1 = false) :
    s.busWrite path a be w =
      ((s.access 1 1 (pathMaster path) a).putFields s a be w (fun _ => true)).parityRestored a be := by
  have hslot : (slotAt a).any (fun x => x.2 == 0) = false := by
    simp only [actingAddr, Bool.or_eq_false_iff] at hact
    obtain ⟨⟨⟨⟨⟨⟨⟨⟨-, h0⟩, -⟩, -⟩, -⟩, -⟩, -⟩, -⟩, -⟩ := hact
    exact h0
  have hwide : wideAt a = none := by
    simp only [actingAddr, Bool.or_eq_false_iff] at hact
    obtain ⟨⟨⟨⟨⟨⟨⟨⟨hw, -⟩, -⟩, -⟩, -⟩, -⟩, -⟩, -⟩, -⟩ := hact
    exact Option.isNone_iff_eq_none.1 (by simpa using hw)
  rw [busWrite_serves be w h hp (slotRefuses_plain _ hslot hs)]
  by_cases hhdr : a % 4096 < 0x40
  · simp only [hhdr, if_true]
  · simp only [hhdr, if_false, Chip.writeReg,
      actingWrite_plain (s := s.access 1 1 (pathMaster path) a) be _ _ w hact (fun hw => by rw [fusedUpper_access]; exact hheld hw),
      hwide]

/-! ### What a write makes of the fields of its word -/

/-- Every field of a list of rows lies within its word. -/
def rowsFit (l : List RegRow) : Bool := l.all (fun r => r.fields.all (fun f => decide (1 ≤ f.width ∧ f.lsb + f.width ≤ 32)))

theorem rowsFit_ite {c : Prop} [Decidable c] {l m : List RegRow} (hl : rowsFit l = true) (hm : rowsFit m = true) :
    rowsFit (if c then l else m) = true := by
  rw [apply_ite rowsFit, hl, hm, ite_self]

theorem pageRows_fit (pg : Nat) : rowsFit (pageRows pg) = true := by
  unfold pageRows
  repeat' with_reducible apply rowsFit_ite
  all_goals decide

theorem fieldsIn_fit (o : Nat) (l : List RegRow) (h : rowsFit l = true) :
    ∀ f ∈ fieldsIn o l, 1 ≤ f.width ∧ f.lsb + f.width ≤ 32 := by
  induction l with
  | nil => intro f hf; cases hf
  | cons r l ih =>
    simp only [rowsFit, List.all_cons, Bool.and_eq_true] at h
    obtain ⟨hr, hl⟩ := h
    unfold fieldsIn
    split
    · intro f hf
      obtain ⟨g, hg, rfl⟩ := List.mem_map.1 hf
      have hfit := of_decide_eq_true (List.all_eq_true.1 hr g hg)
      by_cases hi : g.idx = true
      · rw [if_pos hi]; exact hfit
      · rw [if_neg hi]; exact hfit
    · exact ih hl

/-- Every field of a register word has a width, and lies within the word (R28). -/
theorem fieldsAt_fit (a : Nat) : ∀ f ∈ fieldsAt a, 1 ≤ f.width ∧ f.lsb + f.width ≤ 32 := by
  unfold fieldsAt
  split
  · split
    · exact fieldsIn_fit _ _ (by decide)
    · intro f hf; cases hf
  · split
    · exact fieldsIn_fit _ _ (by decide)
    · exact fieldsIn_fit _ _ (pageRows_fit _)

theorem at_offProbes {a : Nat} (h : a / 4096 ≠ 0x81) : ∀ f ∈ fieldsAt a, (f.at a).offProbes := by
  intro f hf
  obtain ⟨hw, hl⟩ := fieldsAt_fit a f hf
  refine ⟨?_, h⟩
  simp only [FieldRow.at]; omega

theorem at_key (f : FieldRow) (a : Nat) : (f.at a).key = a * 32 + f.lsb := rfl

/-- Fields of one word stand under keys of their own. -/
theorem at_key_ne {f g : FieldRow} (a : Nat) (h : f.lsb ≠ g.lsb) : (f.at a).key ≠ (g.at a).key := by
  rw [at_key, at_key]; omega

/-- A write of one field writes that field, or nothing. -/
theorem putField_set (s before : Chip) (a : Nat) (be : BitVec 4) (w : Word) (f : FieldRow) :
    s.putField before a be w f = s ∨ ∃ v, s.putField before a be w f = s.set (f.at a) v := by
  unfold Chip.putField
  cases f.acc
  case ro | ros | trg => exact .inl rfl
  all_goals exact .inr ⟨_, rfl⟩

theorem keeps_putField (s before : Chip) (a : Nat) (be : BitVec 4) (w : Word) (f : FieldRow) :
    s.keeps (s.putField before a be w f) [f.at a] := by
  rcases putField_set s before a be w f with h | ⟨v, h⟩ <;> rw [h]
  · exact keeps_refl s _
  · exact keeps_set s _ v

@[simp] theorem noRegs_putField (s before : Chip) (a : Nat) (be : BitVec 4) (w : Word) (f : FieldRow) :
    (s.putField before a be w f).noRegs = s.noRegs := by
  rcases putField_set s before a be w f with h | ⟨v, h⟩ <;> rw [h]
  exact noRegs_set s _ v

theorem get_putField_other (s before : Chip) (a : Nat) (be : BitVec 4) (w : Word) (f : FieldRow) (g : Fld)
    (h : g.key ≠ (f.at a).key) : (s.putField before a be w f).get g = s.get g := by
  rcases putField_set s before a be w f with he | ⟨v, he⟩ <;> rw [he]
  exact get_set_other s _ g v h

/-- The bits of a field that a write enables are those whose byte it enables (R36). -/
theorem enabled_getLsbD (f : FieldRow) (be : BitVec 4) (k : Nat) (hk : k < f.width) (hf : f.lsb + f.width ≤ 32) :
    (f.enabled be).getLsbD k = bit be ((f.lsb + k) / 8) := by
  rw [FieldRow.enabled, word_getLsbD, bits_testBit, beMask_getLsbD be (f.lsb + k) (by omega)]
  have h1 : k < 32 := by omega
  have h2 : k < f.lsb + f.width - 1 - f.lsb + 1 := by omega
  simp [h1, h2]

/-- The bits of a field in the data of a write. -/
theorem fieldData_getLsbD (f : FieldRow) (w : Word) (k : Nat) (hk : k < f.width) (hf : f.lsb + f.width ≤ 32) :
    (word (bits w (f.lsb + f.width - 1) f.lsb)).getLsbD k = bit w (f.lsb + k) := by
  rw [word_getLsbD, bits_testBit, bit_eq_getLsbD]
  have h1 : k < 32 := by omega
  have h2 : k < f.lsb + f.width - 1 - f.lsb + 1 := by omega
  simp [h1, h2]

/-- Each bit of a field after a write of its word is what its access code makes of it (R30, R36, R37). -/
theorem getBit_putField (s before : Chip) (a : Nat) (be : BitVec 4) (w : Word) (f : FieldRow) (k : Nat) (hk : k < f.width)
    (hf : f.lsb + f.width ≤ 32) (hb : before.get (f.at a) = s.get (f.at a)) :
    (s.putField before a be w f).getBit (f.at a) k
      = bitAfter f.acc (s.getBit (f.at a) k) (bit be ((f.lsb + k) / 8)) (bit w (f.lsb + k)) := by
  have hk' : decide (k < (f.at a).width) = true := decide_eq_true hk
  have h32 : k < 32 := by omega
  have hen := enabled_getLsbD f be k hk hf
  have hdata := fieldData_getLsbD f w k hk hf
  unfold Chip.putField bitAfter
  cases f.acc
  case ro | ros | trg => rfl
  case rw | rwv | rwp =>
    simp only [getBit_set_same, hk', Bool.true_and, BitVec.getLsbD_or, BitVec.getLsbD_and, BitVec.getLsbD_not, hen, hdata,
      get_getLsbD, h32, decide_true]
    cases bit be ((f.lsb + k) / 8) <;> simp
  case w1c =>
    simp only [getBit_set_same, hk', Bool.true_and, BitVec.getLsbD_and, BitVec.getLsbD_not, hen, hdata,
      get_getLsbD, h32, decide_true]
    cases bit be ((f.lsb + k) / 8) <;> simp
  case w1s =>
    simp only [getBit_set_same, hk', Bool.true_and, BitVec.getLsbD_or, BitVec.getLsbD_and, hen, hdata, get_getLsbD]
    cases bit be ((f.lsb + k) / 8) <;> simp
  case ctr =>
    simp only [hb, BitVec.sub_self, BitVec.add_zero, getBit_set_same, hk', Bool.true_and, BitVec.getLsbD_or, BitVec.getLsbD_and, BitVec.getLsbD_not, hen, hdata,
      get_getLsbD, h32, decide_true]
    cases bit be ((f.lsb + k) / 8) <;> simp

/-! ### A write of several fields of a word -/

section
variable (before : Chip) (a : Nat) (be : BitVec 4) (w : Word)

theorem get_foldl_putField_other (g : Fld) (l : List FieldRow) (h : ∀ f ∈ l, g.key ≠ (f.at a).key) :
    ∀ s : Chip, (l.foldl (fun t f => t.putField before a be w f) s).get g = s.get g := by
  induction l with
  | nil => intro s; rfl
  | cons f l ih =>
    intro s
    rw [List.foldl_cons, ih (fun j hj => h j (List.mem_cons_of_mem _ hj)), get_putField_other _ _ _ _ _ _ _ (h f (by simp))]

/-- In a write of fields with keys of their own, each is written on its own. -/
theorem get_foldl_putField (l : List FieldRow) (hn : (l.map (fun f => f.lsb)).Nodup) (f : FieldRow) (hf : f ∈ l) :
    ∀ s : Chip, ∃ u : Chip, u.get (f.at a) = s.get (f.at a)
      ∧ (l.foldl (fun t g => t.putField before a be w g) s).get (f.at a) = (u.putField before a be w f).get (f.at a) := by
  induction l with
  | nil => cases hf
  | cons g l ih =>
    intro s
    rw [List.map_cons, List.nodup_cons] at hn
    obtain ⟨hg, hn⟩ := hn
    rw [List.foldl_cons]
    have hne : ∀ j ∈ l, j.lsb ≠ g.lsb := fun j hj he => hg (List.mem_map.2 ⟨j, hj, he⟩)
    rcases List.mem_cons.1 hf with rfl | hl
    · exact ⟨s, rfl, get_foldl_putField_other before a be w _ l (fun j hj => at_key_ne a (hne j hj).symm) _⟩
    · obtain ⟨u, hu, he⟩ := ih hn hl (s.putField before a be w g)
      exact ⟨u, hu.trans (get_putField_other _ _ _ _ _ _ _ (at_key_ne a (hne f hl))), he⟩

theorem keeps_foldl_putField (l : List FieldRow) :
    ∀ s : Chip, s.keeps (l.foldl (fun t f => t.putField before a be w f) s) (l.map (fun f => f.at a)) := by
  induction l with
  | nil => intro s; exact keeps_refl s _
  | cons f l ih => intro s; exact keeps_trans (keeps_putField s before a be w f) (ih _)

end

/-- The fields that a write of a word with a test of access codes puts. -/
def fieldsOf (a : Nat) (allow : Access → Bool) : List FieldRow := (fieldsAt a).filter (fun f => allow f.acc)

theorem fieldsOf_nodup (a : Nat) (allow : Access → Bool) : ((fieldsOf a allow).map (fun f => f.lsb)).Nodup :=
  (List.Sublist.map _ List.filter_sublist).nodup (fieldsAt_nodup a)

theorem keeps_putFields (s before : Chip) (a : Nat) (be : BitVec 4) (w : Word) (allow : Access → Bool) :
    s.keeps (s.putFields before a be w allow) ((fieldsOf a allow).map (fun f => f.at a)) :=
  keeps_foldl_putField before a be w (fieldsOf a allow) s

@[simp] theorem noRegs_putFields (s before : Chip) (a : Nat) (be : BitVec 4) (w : Word) (allow : Access → Bool) :
    (s.putFields before a be w allow).noRegs = s.noRegs :=
  noRegs_foldl _ (fun t f => noRegs_putField t before a be w f) _ s

theorem get_putFields_other (s before : Chip) (a : Nat) (be : BitVec 4) (w : Word) (allow : Access → Bool) (g : Fld)
    (h : ∀ f ∈ fieldsOf a allow, g.key ≠ (f.at a).key) : (s.putFields before a be w allow).get g = s.get g :=
  get_foldl_putField_other before a be w g (fieldsOf a allow) h s

/-- Each bit of a field that a write puts is what its access code makes of it (R30, R36, R37). -/
theorem getBit_putFields (s before : Chip) (a : Nat) (be : BitVec 4) (w : Word) (allow : Access → Bool) (f : FieldRow)
    (hf : f ∈ fieldsAt a) (hallow : allow f.acc = true) (k : Nat) (hk : k < f.width)
    (hb : before.get (f.at a) = s.get (f.at a)) :
    (s.putFields before a be w allow).getBit (f.at a) k
      = bitAfter f.acc (s.getBit (f.at a) k) (bit be ((f.lsb + k) / 8)) (bit w (f.lsb + k)) := by
  have hmem : f ∈ fieldsOf a allow := List.mem_filter.2 ⟨hf, hallow⟩
  obtain ⟨u, hu, he⟩ := get_foldl_putField before a be w (fieldsOf a allow) (fieldsOf_nodup a allow) f hmem s
  have hfit := (fieldsAt_fit a f hf).2
  calc (s.putFields before a be w allow).getBit (f.at a) k
      = (u.putField before a be w f).getBit (f.at a) k := getBit_of_get he k
    _ = bitAfter f.acc (u.getBit (f.at a) k) (bit be ((f.lsb + k) / 8)) (bit w (f.lsb + k)) :=
        getBit_putField u before a be w f k hk hfit (hb.trans hu.symm)
    _ = _ := by rw [getBit_of_get hu k]

/-! ### What a host write leaves beside registers -/

theorem parityRestored_regs (s : Chip) (a : Nat) (be : BitVec 4) : (s.parityRestored a be).regs = s.regs := by
  unfold Chip.parityRestored; split <;> rfl

@[simp] theorem get_parityRestored (s : Chip) (a : Nat) (be : BitVec 4) (f : Fld) : (s.parityRestored a be).get f = s.get f :=
  get_of_regs (parityRestored_regs s a be) f
@[simp] theorem getN_parityRestored (s : Chip) (a : Nat) (be : BitVec 4) (f : Fld) :
    (s.parityRestored a be).getN f = s.getN f := getN_of_regs (parityRestored_regs s a be) f
@[simp] theorem flag_parityRestored (s : Chip) (a : Nat) (be : BitVec 4) (f : Fld) :
    (s.parityRestored a be).flag f = s.flag f := flag_of_regs (parityRestored_regs s a be) f
@[simp] theorem getBit_parityRestored (s : Chip) (a : Nat) (be : BitVec 4) (f : Fld) (k : Nat) :
    (s.parityRestored a be).getBit f k = s.getBit f k := getBit_of_regs (parityRestored_regs s a be) f k

theorem keeps_parityRestored {s t : Chip} {l : List Fld} (h : s.keeps t l) (a : Nat) (be : BitVec 4) :
    s.keeps (t.parityRestored a be) l := fun k hk hn => by rw [parityRestored_regs]; exact h k hk hn

/-- The block after its write was answered, from what the write left beside registers (R40). -/
theorem onlyHost_of_noRegs {s u : Chip} (h : u.noRegs = s.noRegs) (path : Path) (a : Nat) (be : BitVec 4) :
    s.onlyHost ((u.parityRestored a (pathEnables path be)).answer1 [] false false) path a be := by
  rw [eq_of_noRegs h]
  unfold Chip.onlyHost Chip.parityAfter Chip.parityRestored
  split <;> rfl

end Sys2Proof.Machine

/-! Memory requests over PCIe and reads of plain words (R23, R26, R38, R352): a request is its 32-bit accesses. O14. -/

namespace Sys2Proof.Machine

open Sys2Proof.Says

/-! ### Reads of plain words -/

theorem probeAt_other {a : Nat} (o : Nat) (h : a / 4096 ≠ 0x81) : probeAt a o = none := by
  unfold probeAt
  rw [if_neg]
  omega

/-- A read of a word without storage or effects of its own, whose parity is right, returns the word as it stands, and the
ACCESS probes see it (R26, R40, R354). -/
theorem busRead_plain {s : Chip} (path : Path) {a : Nat} (lag : Nat) (h81 : a / 4096 ≠ 0x81) (hbank : a ≠ bankDataAddr)
    (hwide : wideAt a = none) (ho : occupied (a / 4096) = true) (hst : s.stopped (a / 4096) = false)
    (hup : s.unpowered (a / 4096) = false) (hun : s.unreachable (a / 4096) = false) (hpar : s.badParity.contains a = false) :
    s.busRead path a lag = (s.plainWord a, s.access 0 1 (pathMaster path) a) := by
  have hread : s.readReg path a lag = (s.plainWord a, s) := by
    simp only [Chip.readReg, hwide, hbank, if_false, probeAt_other 0x10 h81, probeAt_other 0x14 h81]
  simp only [Chip.busRead, Chip.pageRead, ho, hst, hup, hun, Bool.not_true, Bool.or_self, Bool.false_eq_true, if_false,
    hread, Chip.parityCheck, hpar]

/-! ### Requests as accesses -/

theorem memWrites_succ (s : Chip) (a n : Nat) (be : Nat → BitVec 4) (data : List Word) (ha : a < 0x04000000) :
    s.memWrites a (n + 1) be data = (s.memWrites a n be data).busWrite .pcie (a + 4 * n) (be n) (nth data n) := by
  simp only [Chip.memWrites, List.range_succ, List.foldl_append, List.foldl_cons, List.foldl_nil, ha, if_true]

theorem memReads_succ (s : Chip) (a n : Nat) (ha : a < 0x04000000) :
    s.memReads a (n + 1) =
      ((s.memReads a n).1 ++ [((s.memReads a n).2.busRead .pcie (a + 4 * n) 0).1],
        ((s.memReads a n).2.busRead .pcie (a + 4 * n) 0).2) := by
  simp only [Chip.memReads, List.range_succ, List.foldl_append, List.foldl_cons, List.foldl_nil, ha, if_true]

/-- The write accesses of a BAR0 request within a page, of at most 16 DW (R26). -/
theorem memRequest_write (s : Chip) (cut : Option Nat) (addr : Nat) (firstBe lastBe : BitVec 4) (count : Nat)
    (data : List Word) (hs : s.pcieServes = true) (h4 : addr % 4 = 0) (h16 : count ≤ 16)
    (hpage : addr % 4096 + 4 * count ≤ 4096) :
    s.memRequest (.write cut) addr firstBe lastBe count data
      = (s.memWrites addr (performed cut count) (dwEnables firstBe lastBe count) data).answer1 [] false false := by
  have hal : addr / 4 * 4 = addr := by omega
  have hserved : ¬ (addr < 0x04000000 ∧ (16 < count ∨ 4096 < addr % 4096 + 4 * count)) := by omega
  simp only [Chip.memRequest, hs, hal, Bool.not_true, Bool.false_eq_true, if_false, if_true, Chip.memServed, hserved]

/-- The read accesses of such a request, whose data it returns unless a reset cuts it (R26, R305). -/
theorem memRequest_read (s : Chip) (cut : Option Nat) (addr : Nat) (firstBe lastBe : BitVec 4) (count : Nat)
    (data : List Word) (hs : s.pcieServes = true) (h4 : addr % 4 = 0) (h16 : count ≤ 16)
    (hpage : addr % 4096 + 4 * count ≤ 4096) :
    s.memRequest (.read cut) addr firstBe lastBe count data
      = (s.memReads addr (performed cut count)).2.answer1
          (if cut.isSome then [] else (s.memReads addr (performed cut count)).1) false false := by
  have hal : addr / 4 * 4 = addr := by omega
  have hserved : ¬ (addr < 0x04000000 ∧ (16 < count ∨ 4096 < addr % 4096 + 4 * count)) := by omega
  simp only [Chip.memRequest, hs, hal, Bool.not_true, Bool.false_eq_true, if_false, Chip.memServed, hserved]

theorem performed_none (count : Nat) : performed none count = count := Nat.min_self count

/-! ### The user window -/

/-- What the ACCESS probes see of the words of a request changes nothing else. -/
theorem foldl_access_spec (k p m : Nat) (g : Nat → Nat) (l : List Nat) (s : Chip) :
    s.keeps (l.foldl (fun c i => c.access k p m (g i)) s) []
      ∧ (l.foldl (fun c i => c.access k p m (g i)) s).noRegs = s.noRegs :=
  ⟨keeps_foldl _ l (fun t i _ => keeps_access t k p m (g i)) s, noRegs_foldl _ (fun t i => noRegs_access t k p m (g i)) l s⟩

theorem onlyReply_of_noRegs {s u : Chip} (h : u.noRegs = s.noRegs) (d : List Word) (x y : Bool) :
    s.onlyReply (u.answer1 d x y) := by
  rw [eq_of_noRegs h]; rfl

/-- With the window open a read returns bank words; with it closed zeros, and one blocked request counts (R352). -/
theorem bar4Read_holds (offset : BitVec 20) (count : Nat) (s : State) : bar4Read offset count s := by
  intro hserves hready hsafe
  obtain ⟨hk, hn⟩ := foldl_access_spec 0 0 1 (fun k => bar4Addr (offset.toNat + 4 * k)) (List.range count) s.chip
  have hrun : exec (.bar4Read offset count) s = done s (s.chip.bar4Read offset.toNat count) := rfl
  simp only [Chip.bar4Read, hserves, hready, hsafe, Bool.not_true, Bool.or_self, Bool.false_eq_true, if_false] at hrun
  generalize (List.range count).foldl (fun c k => c.access 0 0 1 (bar4Addr (offset.toNat + 4 * k))) s.chip = u at hrun hk hn
  cases huser : s.chip.flag F.sysCtrlUserRead with
  | true =>
    rw [huser, if_pos rfl] at hrun
    exact ⟨_, hrun, onlyReply_of_noRegs hn _ _ _, fun _ => ⟨rfl, keeps_answer1 hk _ _ _⟩,
      fun h => absurd h (by decide)⟩
  | false =>
    rw [huser, if_neg Bool.false_ne_true] at hrun
    have hoff : F.pcnt0UserBlocked.offProbes := by constructor <;> decide
    have hsame : u.getN F.pcnt0UserBlocked = s.chip.getN F.pcnt0UserBlocked := by
      rw [Chip.getN, Chip.getN, get_of_keeps hk _ hoff (fun _ hg => absurd hg List.not_mem_nil)]
    refine ⟨_, hrun, onlyReply_of_noRegs ((noRegs_bump u _).trans hn) _ _ _, fun h => absurd h (by decide), fun _ => ⟨rfl, ?_, ?_⟩⟩
    · rw [getN_answer1, getN_bump_same _ _ rfl hoff rfl, hsame]
    · exact keeps_answer1 (keeps_trans hk (keeps_bump u _)) _ _ _

theorem bar4Write_holds (offset : BitVec 20) (data : Word) (s : State) : bar4Write offset data s := by
  intro hserves
  have hrun : exec (.bar4Write offset data) s = done s (s.chip.bar4Write offset.toNat) := rfl
  simp only [Chip.bar4Write, hserves, Bool.not_true, Bool.false_eq_true, if_false] at hrun
  refine ⟨_, hrun, keeps_access s.chip 2 0 1 (bar4Addr offset.toNat), ?_⟩
  rw [eq_of_noRegs (noRegs_access s.chip 2 0 1 (bar4Addr offset.toNat))]
  rfl

/-! ### Requests of two words on the page of HLTH -/

/-- HLTH.FAULT and FAULT_EN hold one field each, from bit 0 on: their words read as the fields do. -/
theorem plainWord_hlth (s : Chip) :
    s.plainWord F.hlthFault.addr = s.get F.hlthFault ∧ s.plainWord F.hlthFaultEn.addr = s.get F.hlthFaultEn := by
  have hplain : ∀ f ∈ [F.hlthFault, F.hlthFaultEn], s.plainWord f.addr = s.wordAt f.addr := by
    intro f hf
    simp only [List.mem_cons, List.not_mem_nil, or_false] at hf
    rcases hf with rfl | rfl <;> rfl
  have hfault : fieldsAt F.hlthFault.addr = [⟨0, 16, .w1c, 0, 0x7f, false⟩] := by decide
  have hen : fieldsAt F.hlthFaultEn.addr = [⟨0, 16, .rw, 0xffff, 0x7f, false⟩] := by decide
  refine ⟨(hplain _ (by simp)).trans ?_, (hplain _ (by simp)).trans ?_⟩
  · rw [Chip.wordAt, hfault, List.foldl_cons, List.foldl_nil]
    exact BitVec.zero_or.trans (BitVec.shiftLeft_zero _)
  · rw [Chip.wordAt, hen, List.foldl_cons, List.foldl_nil]
    exact BitVec.zero_or.trans (BitVec.shiftLeft_zero _)

/-- A read of a word of HLTH, while no word's parity is wrong. -/
theorem busRead_hlth {s : Chip} {a : Nat} (hs : s.serves .pcie 3) (hpar : s.badParity = []) (ha : a / 4096 = 3) :
    s.busRead .pcie a 0 = (s.plainWord a, s.access 0 1 0 a) := by
  obtain ⟨-, ho, hst, hup, hun, -, -⟩ := hs
  have hwide : wideAt a = none := by simp [wideAt, widesOf, ha]
  rw [← ha] at ho hst hup hun
  exact busRead_plain .pcie 0 (by omega) (by unfold bankDataAddr; omega) hwide ho hst hup hun (by simp [hpar])

/-- FAULT and FAULT_EN come in ascending order (R26). -/
theorem memRead_holds (be : BitVec 4) (s : State) : memRead be s := by
  intro hs hpar
  have hrun : exec (.pcieMemRequest (.read none) (BitVec.ofNat 27 F.hlthFault.addr) be be 2 []) s
      = done s (s.chip.memRequest (.read none) F.hlthFault.addr be be 2 []) := rfl
  have haccesses : s.chip.memReads F.hlthFault.addr 2 =
      let x := s.chip.busRead .pcie F.hlthFault.addr 0
      let y := x.2.busRead .pcie F.hlthFaultEn.addr 0
      ([x.1, y.1], y.2) := rfl
  have hfirst : s.chip.busRead .pcie F.hlthFault.addr 0 = _ := busRead_hlth hs hpar (by decide)
  rw [memRequest_read s.chip none F.hlthFault.addr be be 2 [] hs.1 (by decide) (by decide) (by decide), performed_none,
    haccesses, hfirst, (plainWord_hlth s.chip).1] at hrun
  have hk1 := keeps_access s.chip 0 1 0 F.hlthFault.addr
  have hn1 := noRegs_access s.chip 0 1 0 F.hlthFault.addr
  have hs1 := serves_access hs (by decide) 0 1 0 F.hlthFault.addr
  have hpar1 := (access_badParity s.chip 0 1 0 F.hlthFault.addr).trans hpar
  have hget := get_access s.chip 0 1 0 F.hlthFault.addr F.hlthFaultEn (by constructor <;> decide)
  generalize s.chip.access 0 1 0 F.hlthFault.addr = u at hrun hk1 hn1 hs1 hpar1 hget
  have hsecond : u.busRead .pcie F.hlthFaultEn.addr 0 = _ := busRead_hlth hs1 hpar1 (by decide)
  simp only [hsecond, (plainWord_hlth u).2, hget] at hrun
  exact ⟨_, hrun, rfl, keeps_answer1 (keeps_trans hk1 (keeps_access u _ _ _ _)) _ _ _,
    onlyReply_of_noRegs ((noRegs_access u _ _ _ _).trans hn1) _ _ _⟩

/-- A write of a word of HLTH: each field takes its part. -/
theorem busWrite_hlth {s : Chip} {a : Nat} (be : BitVec 4) (w : Word) (hs : s.serves .pcie 3) (ha : a / 4096 = 3) :
    s.busWrite .pcie a be w = ((s.access 1 1 0 a).putFields s a be w (fun _ => true)).parityRestored a be := by
  have hslot : slotAt a = none := by
    unfold slotAt
    rw [if_neg (by omega)]
  have hwide : wideAt a = none := by simp [wideAt, widesOf, ha]
  have hheld : heldWord a = false := by simp [heldWord, ha]
  have hact : actingAddr a = false := by
    simp only [actingAddr, hwide, hslot, ha, List.contains_eq_mem, List.mem_cons, List.not_mem_nil, or_false]
    simp
    omega
  exact busWrite_plain be w (ha ▸ hs) (by omega) hact (fun h => absurd (hheld.symm.trans h) (by decide))
    (fun x hx => absurd (hslot.symm.trans hx) (by simp))

/-- What a write of FAULT_EN leaves of it and of the block (R30, R36). -/
theorem busWrite_faultEn {s : Chip} (be : BitVec 4) (w : Word) (hs : s.serves .pcie 3) :
    let t := s.busWrite .pcie F.hlthFaultEn.addr be w
    (∀ k < 16, t.getBit F.hlthFaultEn k = if bit be (k / 8) then bit w k else s.getBit F.hlthFaultEn k)
      ∧ s.keeps t [F.hlthFaultEn] ∧ t = { s with regs := t.regs, badParity := t.badParity } := by
  have hfields : fieldsAt F.hlthFaultEn.addr = [⟨0, 16, .rw, 0xffff, 0x7f, false⟩] := by decide
  have hget := get_access s 1 1 0 F.hlthFaultEn.addr F.hlthFaultEn (by constructor <;> decide)
  have hkeeps := keeps_access s 1 1 0 F.hlthFaultEn.addr
  have hframe := noRegs_access s 1 1 0 F.hlthFaultEn.addr
  rw [busWrite_hlth be w hs (by decide)]
  generalize s.access 1 1 0 F.hlthFaultEn.addr = u at hget hkeeps hframe
  refine ⟨fun k hk => ?_, ?_, ?_⟩
  · rw [getBit_parityRestored]
    refine (getBit_putFields u s F.hlthFaultEn.addr be w (fun _ => true) ⟨0, 16, .rw, 0xffff, 0x7f, false⟩
      (hfields ▸ List.mem_singleton_self _) rfl k hk hget.symm).trans ?_
    rw [Nat.zero_add, ← getBit_of_get hget k]; rfl
  · exact keeps_parityRestored (keeps_trans hkeeps (keeps_putFields u s F.hlthFaultEn.addr be w (fun _ => true))) _ _
  · rw [eq_of_noRegs ((noRegs_putFields u s F.hlthFaultEn.addr be w (fun _ => true)).trans hframe)]
    unfold Chip.parityRestored
    split <;> rfl

/-- FAULT_PAGE is read-only: a write of it changes no register but what the probes count. -/
theorem busWrite_faultPage {s : Chip} (be : BitVec 4) (w : Word) (hs : s.serves .pcie 3) :
    let t := s.busWrite .pcie F.hlthFaultPage.addr be w
    s.keeps t [] ∧ t = { s with regs := t.regs, badParity := t.badParity } := by
  have hfields : fieldsAt F.hlthFaultPage.addr = [⟨0, 14, .ro, 0, 0x7f, false⟩] := by decide
  have hput : ∀ u : Chip, u.putFields s F.hlthFaultPage.addr be w (fun _ => true) = u := fun u => by
    rw [Chip.putFields, hfields]; rfl
  rw [busWrite_hlth be w hs (by decide), hput]
  refine ⟨keeps_parityRestored (keeps_access s 1 1 0 F.hlthFaultPage.addr) _ _, ?_⟩
  rw [eq_of_noRegs (noRegs_access s 1 1 0 F.hlthFaultPage.addr)]
  unfold Chip.parityRestored
  split <;> rfl

/-- FAULT_EN takes the first word by the first enables, and FAULT_PAGE, which is read-only, the second (R26, R38). -/
theorem memWrite_holds (firstBe lastBe : BitVec 4) (d0 d1 : Word) (s : State) : memWrite firstBe lastBe d0 d1 s := by
  intro hs
  have hrun : exec (.pcieMemRequest (.write none) (BitVec.ofNat 27 F.hlthFaultEn.addr) firstBe lastBe 2 [d0, d1]) s
      = done s (s.chip.memRequest (.write none) F.hlthFaultEn.addr firstBe lastBe 2 [d0, d1]) := rfl
  have haccesses : s.chip.memWrites F.hlthFaultEn.addr 2 (dwEnables firstBe lastBe 2) [d0, d1]
      = (s.chip.busWrite .pcie F.hlthFaultEn.addr firstBe d0).busWrite .pcie F.hlthFaultPage.addr lastBe d1 := rfl
  rw [memRequest_write s.chip none F.hlthFaultEn.addr firstBe lastBe 2 [d0, d1] hs.1 (by decide) (by decide) (by decide),
    performed_none, haccesses] at hrun
  obtain ⟨hbits, hkeeps1, hframe1⟩ := busWrite_faultEn firstBe d0 hs
  generalize s.chip.busWrite .pcie F.hlthFaultEn.addr firstBe d0 = u at hrun hbits hkeeps1 hframe1
  have hsu : u.serves .pcie 3 := serves_of_keeps hs (by decide) (by rw [hframe1]) (by rw [hframe1]) hkeeps1 (by decide)
  obtain ⟨hkeeps2, hframe2⟩ := busWrite_faultPage lastBe d1 hsu
  generalize u.busWrite .pcie F.hlthFaultPage.addr lastBe d1 = t at hrun hkeeps2 hframe2
  refine ⟨_, hrun, fun k hk => ?_, keeps_answer1 (keeps_trans hkeeps1 hkeeps2) _ _ _, ?_⟩
  · rw [getBit_answer1, getBit_of_get (get_of_keeps hkeeps2 _ (by constructor <;> decide) (fun _ hg => absurd hg List.not_mem_nil))]
    exact hbits k hk
  · rw [hframe2, hframe1]; rfl

/-- Settles O14: the user window answers by USER_READ, and a request of two words is its two accesses in ascending order. -/
theorem userWindowAndSmallRequests : Obligations.UserWindowAndSmallRequests :=
  fun s => ⟨fun offset count => bar4Read_holds offset count s, fun offset data => bar4Write_holds offset data s,
    fun be => memRead_holds be s, fun firstBe lastBe d0 d1 => memWrite_holds firstBe lastBe d0 d1 s⟩

end Sys2Proof.Machine

/-! The conversion, session and archive windows (R43, R187, R212, R240): O9. -/

namespace Sys2Proof.Machine

open Sys2Proof.Says

/-! ### A trigger of a window -/

/-- A write of a word that acts, of every byte, is the act and puts the word's parity right. -/
theorem writeReg_acts {u c : Chip} {path : Path} {a : Nat} {w : Word} (before : Chip)
    (hact : u.actingWrite a 0xF (mergeWord (u.wordAt a) w 0xF) (w &&& beMask 0xF) w = some c) (hign : u.ignores a = false) :
    u.writeReg before path a 0xF w = c.parityRestored a 0xF := by
  simp only [Chip.writeReg, hact, hign, Bool.false_eq_true, if_false]

/-- A trigger word of a page that serves: the ACCESS probes see its write, of which `act` is the effect (R43, R354). -/
theorem hostWrite_trigger {s : Chip} {path : Path} {a : Nat} (act : Chip → Chip) (h : s.serves path (a / 4096))
    (ha : a < 0x04000000) (h4 : a % 4 = 0) (h40 : 0x40 ≤ a % 4096) (hs : slotAt a = none) (hp : a / 4096 ≠ 0x81)
    (hact : ∀ u p, u.actingWrite a 0xF p (1 &&& beMask 0xF) 1 = some (act u)) (hign : ∀ u : Chip, u.ignores a = false) :
    ∃ r, s.keeps (s.withRegs r) [] ∧ (∀ f : Fld, f.offProbes → (s.withRegs r).get f = s.get f)
      ∧ s.hostWrite path a 0xF 1 = ((act (s.withRegs r)).parityRestored a 0xF).answer1 [] false false := by
  obtain ⟨r, hr, hk⟩ := access_spec s 1 1 (pathMaster path) a
  refine ⟨r, hk, fun f hf => get_of_keeps hk f hf (fun _ hg => absurd hg List.not_mem_nil), ?_⟩
  rw [hostWrite_serves s path a 0xF 1 h ha h4 h40 hs hp, pathEnables_all, hr, writeReg_acts s (hact _ _) (hign _)]

theorem parityAfter_all (s : Chip) (path : Path) (a : Nat) :
    s.parityAfter path a 0xF = (s.parityRestored a 0xF).badParity := by rw [Chip.parityAfter, pathEnables_all]

/-! ### CONVERT (R187) -/

theorem convert_trigger {s : Chip} {path : Path} (h : s.serves path 0x20) :
    ∃ r, s.keeps (s.withRegs r) [] ∧ (∀ f : Fld, f.offProbes → (s.withRegs r).get f = s.get f)
      ∧ s.hostWrite path F.time0ConvCtrlConvert.addr 0xF 1
        = ((s.withRegs r).convert.parityRestored F.time0ConvCtrlConvert.addr 0xF).answer1 [] false false :=
  hostWrite_trigger Chip.convert h (by decide) (by decide) (by decide) (by decide) (by decide) (fun _ _ => rfl) (fun _ => rfl)

theorem convert_holds (path : Path) (s : State) : convert path s := by
  intro hs hidle
  obtain ⟨r, hk, hget, hrun⟩ := convert_trigger hs
  have hbegin : (s.chip.withRegs r).convert = Chip.setB { s.chip.withRegs r with
      convBusy := some (s.chip.get F.time0ConvRawHi ++ s.chip.get F.time0ConvRawLo) } F.time0ConvStatusBusy true := by
    rw [← hget F.time0ConvRawHi (by constructor <;> decide), ← hget F.time0ConvRawLo (by constructor <;> decide)]
    exact if_neg (by rw [show (s.chip.withRegs r).convBusy = none from hidle]; decide)
  rw [hbegin] at hrun
  refine ⟨_, congrArg (done s) hrun, ?_, keeps_trans hk (keeps_setB _ F.time0ConvStatusBusy true), ?_⟩
  · rw [flag_answer1, flag_parityRestored]
    exact flag_setB_same _ _ _ (by decide) (by decide)
  · rw [parityAfter_all]; rfl

theorem convertBusy_holds (path : Path) (s : State) : convertBusy path s := by
  intro hs hbusy
  obtain ⟨r, hk, -, hrun⟩ := convert_trigger hs
  have hlost : (s.chip.withRegs r).convert = (s.chip.withRegs r).setB (F.hdrPgStatusTrgLost 0x20) true := if_pos hbusy
  rw [hlost] at hrun
  refine ⟨_, congrArg (done s) hrun, ?_, keeps_trans hk (keeps_setB _ (F.hdrPgStatusTrgLost 0x20) true), ?_⟩
  · rw [flag_answer1, flag_parityRestored]
    exact flag_setB_same _ _ _ (by decide) (by decide)
  · rw [Chip.onlyHost, parityAfter_all]; rfl

/-- The registers that CONVERT_DONE writes, from its result and STEP_SINCE. -/
def Chip.convEnds (s : Chip) (result : Nat) (since : Bool) : Chip :=
  ((s.setN F.time0ConvStatusResult result).setB F.time0ConvStatusBusy false).setB F.time0ConvStatusStepSince since

theorem convEnds_spec (s : Chip) (result : Nat) (since : Bool) :
    (s.convEnds result since).flag F.time0ConvStatusBusy = false
      ∧ (s.convEnds result since).getN F.time0ConvStatusResult = result % 4
      ∧ (s.convEnds result since).flag F.time0ConvStatusStepSince = since
      ∧ s.keeps (s.convEnds result since) [F.time0ConvStatusBusy, F.time0ConvStatusResult, F.time0ConvStatusStepSince] := by
  refine ⟨?_, ?_, ?_, ?_⟩
  · rw [Chip.convEnds, flag_setB_other _ _ _ _ (by decide), flag_setB_same _ _ _ (by decide) (by decide)]
  · rw [Chip.convEnds, getN_setB_other _ _ _ _ (by decide), getN_setB_other _ _ _ _ (by decide), getN_setN_same _ _ _ (by decide)]
    rfl
  · exact flag_setB_same _ _ _ (by decide) (by decide)
  · refine keeps_mono (keeps_trans (keeps_trans (keeps_setN _ _ _) (keeps_setB _ _ _)) (keeps_setB _ _ _)) ?_
    simp only [List.mem_append, List.mem_cons, List.not_mem_nil, or_false]
    tauto

/-- CONVERT_DONE in the three cases of R187: no set is kept for the value, its set is not SET, or it is. -/
theorem convertDone_expired {s : Chip} {x : Raw} (hb : s.convBusy = some x) (hq : s.setAt x = none) :
    s.convertDone = Chip.convEnds { s with convBusy := none, conv := 0 } 1
      (s.time.stepRaw.any (fun m => decide (0 < rawDiff x m))) := by
  simp only [Chip.convertDone, hb, hq]
  cases s.time.stepRaw <;> rfl

theorem convertDone_notSet {s : Chip} {x : Raw} {q : ParamSet} (hb : s.convBusy = some x) (hq : s.setAt x = some q)
    (hset : q.isSet = false) :
    s.convertDone = Chip.convEnds { s with convBusy := none, conv := 0 } 2 (q.era != s.time.cur.era) := by
  simp only [Chip.convertDone, hb, hq, hset]; rfl

theorem convertDone_ok {s : Chip} {x : Raw} {q : ParamSet} (hb : s.convBusy = some x) (hq : s.setAt x = some q)
    (hset : q.isSet = true) :
    s.convertDone = Chip.convEnds { s with convBusy := none, conv := q.netAt x } 0 (q.era != s.time.cur.era) := by
  simp only [Chip.convertDone, hb, hq, hset]; rfl

theorem convertDone_holds (x : Raw) (s : State) : convertDone x s := by
  intro hb
  match hq : s.chip.setAt x with
  | none =>
    obtain ⟨hbusy, hres, hsince, hk⟩ := convEnds_spec { s.chip with convBusy := none, conv := 0 } 1
      (s.chip.time.stepRaw.any (fun m => decide (0 < rawDiff x m)))
    refine ⟨_, congrArg (done s) (convertDone_expired hb hq), hbusy, hk, rfl, fun _ => ⟨hres, rfl⟩, ?_, ?_, ?_, fun _ => hsince⟩ <;>
      exact fun _ he => nomatch he
  | some q =>
    cases hset : q.isSet with
    | false =>
      obtain ⟨hbusy, hres, hsince, hk⟩ := convEnds_spec { s.chip with convBusy := none, conv := 0 } 2 (q.era != s.chip.time.cur.era)
      refine ⟨_, congrArg (done s) (convertDone_notSet hb hq hset), hbusy, hk, rfl, (fun he => nomatch he),
        fun _ _ _ => ⟨hres, rfl⟩, fun p hp ht => ?_, fun p hp => ?_, (fun he => nomatch he)⟩
      · obtain rfl : q = p := Option.some.inj hp
        exact absurd (hset.symm.trans ht) (by decide)
      · obtain rfl : q = p := Option.some.inj hp
        exact hsince
    | true =>
      obtain ⟨hbusy, hres, hsince, hk⟩ := convEnds_spec { s.chip with convBusy := none, conv := q.netAt x } 0
        (q.era != s.chip.time.cur.era)
      refine ⟨_, congrArg (done s) (convertDone_ok hb hq hset), hbusy, hk, rfl, (fun he => nomatch he),
        fun p hp ht => ?_, fun p hp _ => ?_, fun p hp => ?_, (fun he => nomatch he)⟩
      · obtain rfl : q = p := Option.some.inj hp
        exact absurd (hset.symm.trans ht) (by decide)
      · obtain rfl : q = p := Option.some.inj hp
        exact ⟨hres, rfl⟩
      · obtain rfl : q = p := Option.some.inj hp
        exact hsince

/-! ### The session window (R212) -/

theorem sessRead_holds (path : Path) (upset : Option (BitVec 256)) (s : State) : sessRead path upset s := by
  intro hs hidle
  obtain ⟨r, hk, hget, hrun⟩ := hostWrite_trigger (a := F.time1SessCmdRead.addr) Chip.sessTrigger hs (by decide) (by decide)
    (by decide) (by decide) (by decide) (fun _ _ => rfl) (fun _ => rfl)
  have hsession : (s.chip.withRegs r).getN F.time1SessIndexSession = s.chip.getN F.time1SessIndexSession :=
    congrArg BitVec.toNat (hget _ (by constructor <;> decide))
  have hword : (s.chip.withRegs r).flag F.time1SessIndexWord = s.chip.flag F.time1SessIndexWord := by
    rw [Chip.flag, Chip.flag, Chip.getN, Chip.getN, hget _ (by constructor <;> decide)]
  have hbegin : (s.chip.withRegs r).sessTrigger = Chip.setB { s.chip.withRegs r with
      sessBusy := some (s.chip.getN F.time1SessIndexSession, s.chip.flag F.time1SessIndexWord, none) } F.time1SessStatusBusy true := by
    rw [← hsession, ← hword]
    exact if_neg (by rw [show (s.chip.withRegs r).sessBusy = none from hidle]; decide)
  have hmeets : ∀ t : Chip, s.chip.sessMeets t upset
      = { t with sessBusy := t.sessBusy.map (fun x => (x.1, x.2.1, upset)) } := fun t => if_neg (by rw [hidle]; decide)
  have hexec : exec (.sessRead ⟨path, upset⟩) s
      = done s (s.chip.sessMeets (s.chip.hostWrite path F.time1SessCmdRead.addr 0xF 1) upset) := rfl
  rw [hrun, hbegin, hmeets] at hexec
  refine ⟨_, hexec, ?_, keeps_trans hk (keeps_setB _ F.time1SessStatusBusy true), ?_⟩
  · exact flag_setB_same (s.chip.withRegs r) F.time1SessStatusBusy true (by decide) (by decide)
  · rw [parityAfter_all]; rfl

theorem keeps_foldl_entry (g : Nat → Fld) {n : Nat} (v : BitVec n) (l : List Nat) :
    ∀ s : Chip, s.keeps (l.foldl (fun c i => c.set (g i) (entryWord v i)) s) (l.map g) := by
  induction l with
  | nil => intro s; exact keeps_refl s _
  | cons i l ih => intro s; exact keeps_trans (keeps_set s (g i) _) (ih _)

theorem get_foldl_entry_other (g : Nat → Fld) {n : Nat} (v : BitVec n) (f : Fld) (l : List Nat) (h : ∀ i ∈ l, f.key ≠ (g i).key) :
    ∀ s : Chip, (l.foldl (fun c i => c.set (g i) (entryWord v i)) s).get f = s.get f := by
  induction l with
  | nil => intro s; rfl
  | cons i l ih =>
    intro s
    rw [List.foldl_cons, ih (fun j hj => h j (List.mem_cons_of_mem _ hj)), get_set_other _ _ _ _ (h i (by simp))]

/-- Whole words that take the words of an entry in turn hold them. -/
theorem get_foldl_entry (g : Nat → Fld) (hw : ∀ i, (g i).width = 32) (hg : ∀ i j, i ≠ j → (g i).key ≠ (g j).key) {n : Nat}
    (v : BitVec n) (i : Nat) (l : List Nat) (hl : l.Nodup) (hi : i ∈ l) :
    ∀ s : Chip, (l.foldl (fun c j => c.set (g j) (entryWord v j)) s).get (g i) = entryWord v i := by
  induction l with
  | nil => cases hi
  | cons j l ih =>
    intro s
    rw [List.nodup_cons] at hl
    rw [List.foldl_cons]
    rcases List.mem_cons.1 hi with rfl | hmem
    · rw [get_foldl_entry_other g v _ l (fun k hk => hg i k (fun e => hl.1 (e ▸ hk))), get_set_same, hw]
      exact BitVec.eq_of_toNat_eq (by rw [word_toNat, Nat.mod_mod, Nat.mod_eq_of_lt (entryWord v i).isLt])
    · exact ih hl.2 hmem _

theorem noRegs_foldl_entry (g : Nat → Fld) {n : Nat} (v : BitVec n) (l : List Nat) (s : Chip) :
    (l.foldl (fun c i => c.set (g i) (entryWord v i)) s).noRegs = s.noRegs :=
  noRegs_foldl _ (fun t i => noRegs_set t (g i) (entryWord v i)) l s

theorem sessData_key_ne (i j : Nat) (h : i ≠ j) : (F.time1SessData i).key ≠ (F.time1SessData j).key := by
  simp only [Fld.key, F.time1SessData]; omega

/-- What SESS_DATA holds after a load, and what else stands. -/
theorem loadSess_spec (s : Chip) (v : BitVec 256) :
    (∀ i < 8, (s.loadSess v).get (F.time1SessData i) = entryWord v i)
      ∧ (∀ f : Fld, (∀ i, f.key ≠ (F.time1SessData i).key) → (s.loadSess v).get f = s.get f)
      ∧ s.keeps (s.loadSess v) ((List.range 8).map F.time1SessData) ∧ (s.loadSess v).noRegs = s.noRegs :=
  ⟨fun i hi => get_foldl_entry F.time1SessData (fun _ => rfl) sessData_key_ne v i (List.range 8) List.nodup_range (List.mem_range.2 hi) s,
    fun f hf => get_foldl_entry_other F.time1SessData v f (List.range 8) (fun i _ => hf i) s,
    keeps_foldl_entry F.time1SessData v (List.range 8) s, noRegs_foldl_entry F.time1SessData v (List.range 8) s⟩

theorem sessStatus_key_ne (i : Nat) : F.time1SessStatusBusy.key ≠ (F.time1SessData i).key
    ∧ F.time1SessStatusResult.key ≠ (F.time1SessData i).key ∧ F.hlthFault.key ≠ (F.time1SessData i).key := by
  simp only [Fld.key, F.time1SessStatusBusy, F.time1SessStatusResult, F.hlthFault, F.time1SessData]; omega

/-- The block as the end of a session read without an error leaves it: RESULT and the words shown. -/
def Chip.sessShows (s : Chip) (result : Nat) (v : BitVec 256) : Chip :=
  ((Chip.setB { s with sessBusy := none } F.time1SessStatusBusy false).setN F.time1SessStatusResult result).loadSess v

theorem sessShows_spec (s : Chip) (result : Nat) (v : BitVec 256) :
    (s.sessShows result v).flag F.time1SessStatusBusy = false ∧ (s.sessShows result v).getN F.time1SessStatusResult = result % 16
      ∧ (∀ i < 8, (s.sessShows result v).get (F.time1SessData i) = entryWord v i)
      ∧ s.keeps (s.sessShows result v) ([F.time1SessStatusBusy, F.time1SessStatusResult] ++ (List.range 8).map F.time1SessData)
      ∧ s.sessShows result v = { s with regs := (s.sessShows result v).regs, sessBusy := none } := by
  obtain ⟨hdata, hother, hk, hn⟩ := loadSess_spec
    ((Chip.setB { s with sessBusy := none } F.time1SessStatusBusy false).setN F.time1SessStatusResult result) v
  refine ⟨?_, ?_, hdata, keeps_trans (keeps_trans (b := Chip.setB { s with sessBusy := none } F.time1SessStatusBusy false)
    (keeps_setB s F.time1SessStatusBusy false) (keeps_setN _ _ _)) hk, ?_⟩
  · rw [Chip.sessShows, Chip.flag, Chip.getN, hother _ (fun i => (sessStatus_key_ne i).1), ← Chip.getN, ← Chip.flag,
      flag_setN_other _ _ _ _ (by decide), flag_setB_same _ _ _ (by decide) (by decide)]
  · rw [Chip.sessShows, Chip.getN, hother _ (fun i => (sessStatus_key_ne i).2.1), ← Chip.getN, getN_setN_same _ _ _ (by decide)]
    rfl
  · rw [Chip.sessShows, eq_of_noRegs hn]; rfl

theorem sessReadDone_holds (n : Nat) (w : Bool) (s : State) : sessReadDone n w s := by
  intro hbusy
  match hopen : s.chip.session n with
  | none =>
    have hdone : s.chip.sessDone = s.chip.sessShows 7 0 := by simp only [Chip.sessDone, hbusy, hopen]; rfl
    obtain ⟨hb, hr, hd, hk, hf⟩ := sessShows_spec s.chip 7 0
    refine ⟨_, congrArg (done s) hdone, hb, hf, hk, fun _ => ⟨hr, fun i hi => ?_⟩, fun _ he => nomatch he⟩
    rw [hd i hi, entryWord]
    simp [word]
  | some x =>
    have hdone : s.chip.sessDone = s.chip.sessShows 0 (if w then x.stateWord else x.cfg) := by
      simp only [Chip.sessDone, hbusy, hopen]; rfl
    obtain ⟨hb, hr, hd, hk, hf⟩ := sessShows_spec s.chip 0 (if w then x.stateWord else x.cfg)
    refine ⟨_, congrArg (done s) hdone, hb, hf, hk, (fun he => nomatch he), fun y hy => ?_⟩
    obtain rfl : x = y := Option.some.inj hy
    exact ⟨hr, hd⟩

/-- A fault beside registers raises an interrupt at most. -/
theorem noRegs_fault (s : Chip) (k : Nat) : (s.fault k).noRegs = { s.noRegs with msix := (s.fault k).msix } := by
  unfold Chip.fault
  dsimp only
  split <;> rfl

/-- A fault stands after it was met (R307). -/
theorem getBit_fault_same (s : Chip) {k : Nat} (hk : k < 16) : (s.fault k).getBit F.hlthFault k = true := by
  have hset : (s.setBit F.hlthFault k true).getBit F.hlthFault k = true := getBit_setBit_same s F.hlthFault k true (by decide) hk
  unfold Chip.fault
  dsimp only
  split
  · exact hset
  · exact hset

theorem sessReadUpset_holds (n : Nat) (w : Bool) (x : Session) (flips : BitVec 256) (s : State) : sessReadUpset n w x flips s := by
  intro hbusy hopen
  generalize hu : (Chip.setB { s.chip with sessBusy := none } F.time1SessStatusBusy false).setN F.time1SessStatusResult 4 = u
  have hdone : s.chip.sessDone = (u.fault fEcc).loadSess ((if w then x.stateWord else x.cfg) ^^^ flips) := by
    rw [← hu]; simp only [Chip.sessDone, hbusy, hopen]
  have hku : s.chip.keeps u [F.time1SessStatusBusy, F.time1SessStatusResult] := hu ▸
    keeps_trans (b := Chip.setB { s.chip with sessBusy := none } F.time1SessStatusBusy false)
      (keeps_setB s.chip F.time1SessStatusBusy false) (keeps_setN _ _ _)
  have hb : u.flag F.time1SessStatusBusy = false := by
    rw [← hu, flag_setN_other _ _ _ _ (by decide), flag_setB_same _ _ _ (by decide) (by decide)]
  have hr : u.getN F.time1SessStatusResult = 4 := by rw [← hu, getN_setN_same _ _ _ (by decide)]; rfl
  have hun : u.noRegs = { s.chip.noRegs with sessBusy := none } := by rw [← hu]; rfl
  obtain ⟨-, hother, hk, hn⟩ := loadSess_spec (u.fault fEcc) ((if w then x.stateWord else x.cfg) ^^^ flips)
  refine ⟨_, congrArg (done s) hdone, ?_, ?_, ?_, keeps_trans (keeps_trans hku (keeps_fault u fEcc)) hk, ?_⟩
  · rw [Chip.flag, Chip.getN, hother _ (fun i => (sessStatus_key_ne i).1), ← Chip.getN, ← Chip.flag,
      flag_fault_other _ _ _ (by decide), hb]
  · rw [Chip.getN, hother _ (fun i => (sessStatus_key_ne i).2.1), ← Chip.getN, getN_fault_other _ _ _ (by decide), hr]
  · rw [getBit_of_get (hother _ (fun i => (sessStatus_key_ne i).2.2))]
    exact getBit_fault_same u (by decide)
  · have hrest := hn.trans (noRegs_fault u fEcc)
    rw [hun] at hrest
    exact eq_of_noRegs (s := { s.chip with msix := (u.fault fEcc).msix, sessBusy := none }) hrest

/-! ### The archive window (R240) -/

theorem archRead_holds (path : Path) (s : State) : archRead path s := by
  intro hs hidle
  obtain ⟨r, hk, hget, hrun⟩ := hostWrite_trigger (a := F.ref3ArchCmdRead.addr) Chip.archTrigger hs (by decide) (by decide)
    (by decide) (by decide) (by decide) (fun _ _ => rfl) (fun _ => rfl)
  have hindex : (s.chip.withRegs r).getN F.ref3ArchIndex = s.chip.getN F.ref3ArchIndex :=
    congrArg BitVec.toNat (hget _ (by constructor <;> decide))
  have hbegin : (s.chip.withRegs r).archTrigger = Chip.setB { s.chip.withRegs r with
      archBusy := some (Store.read 0 s.chip.refs.archive (s.chip.getN F.ref3ArchIndex)) } F.ref3ArchStatusBusy true := by
    rw [← hindex]
    exact if_neg (by rw [show (s.chip.withRegs r).archBusy = none from hidle]; decide)
  rw [hbegin] at hrun
  refine ⟨_, congrArg (done s) hrun, ?_, keeps_trans hk (keeps_setB _ F.ref3ArchStatusBusy true), ?_⟩
  · rw [flag_answer1, flag_parityRestored]
    exact flag_setB_same _ _ _ (by decide) (by decide)
  · rw [parityAfter_all]; rfl

theorem archReadDone_holds (e : BitVec 128) (s : State) : archReadDone e s := by
  intro hbusy
  generalize hu : Chip.setB { s.chip with archBusy := none } F.ref3ArchStatusBusy false = u
  have hdone : s.chip.archDone = (List.range 4).foldl (fun c k => c.set (F.ref3ArchData k) (entryWord e k)) u := by
    rw [← hu]; simp only [Chip.archDone, hbusy]
  have hkey : ∀ i j, i ≠ j → (F.ref3ArchData i).key ≠ (F.ref3ArchData j).key := fun i j h => by
    simp only [Fld.key, F.ref3ArchData]; omega
  have hbusyKey : ∀ i, F.ref3ArchStatusBusy.key ≠ (F.ref3ArchData i).key := fun i => by
    simp only [Fld.key, F.ref3ArchStatusBusy, F.ref3ArchData]; omega
  refine ⟨_, congrArg (done s) hdone, ?_, fun k hk => ?_, ?_, ?_⟩
  · rw [Chip.flag, Chip.getN, get_foldl_entry_other F.ref3ArchData e _ _ (fun i _ => hbusyKey i), ← Chip.getN, ← Chip.flag, ← hu,
      flag_setB_same _ _ _ (by decide) (by decide)]
  · exact get_foldl_entry F.ref3ArchData (fun _ => rfl) hkey e k (List.range 4) List.nodup_range (List.mem_range.2 hk) u
  · exact keeps_trans (b := u) (hu ▸ keeps_setB s.chip F.ref3ArchStatusBusy false) (keeps_foldl_entry F.ref3ArchData e _ u)
  · rw [eq_of_noRegs (noRegs_foldl_entry F.ref3ArchData e (List.range 4) u), ← hu]; rfl

/-- Settles O9: each window captures at its trigger, and its end shows what was captured. -/
theorem windowsCaptureAndAnswer : Obligations.WindowsCaptureAndAnswer :=
  fun s => ⟨fun path => convert_holds path s, fun path => convertBusy_holds path s, fun x => convertDone_holds x s,
    fun path upset => sessRead_holds path upset s, fun n w => sessReadDone_holds n w s,
    fun n w x flips => sessReadUpset_holds n w x flips s, fun path => archRead_holds path s, fun e => archReadDone_holds e s⟩

end Sys2Proof.Machine

/-! Writes and reads of register words by access code (R30, R36, R37, R42, R50): O7. -/

namespace Sys2Proof.Machine

open Sys2Proof.Says

/-! ### Words without a rule of their own -/

/-- What a write of a plain word makes of its fields, and of the block (R30, R36, R37). -/
theorem hostWrite_plain {s : Chip} {path : Path} {a : Nat} (be : BitVec 4) (data : Word) (ha : a < 0x04000000)
    (h4 : a % 4 = 0) (h81 : a / 4096 ≠ 0x81) (hact : actingAddr a = false) (hs : s.serves path (a / 4096))
    (hheld : heldWord a = true → s.fusedUpper (a / 0x10000 - 0x200) = false)
    (hslot : ∀ x, slotAt a = some x → x.2 ≤ 0xE0 → s.slotHeld x.1 = false) :
    (∀ f ∈ fieldsAt a, ∀ k < f.width, (s.hostWrite path a be data).getBit (f.at a) k
        = bitAfter f.acc (s.getBit (f.at a) k) (bit (pathEnables path be) ((f.lsb + k) / 8)) (bit data (f.lsb + k)))
      ∧ s.keeps (s.hostWrite path a be data) ((fieldsAt a).map (fun f => f.at a))
      ∧ s.onlyHost (s.hostWrite path a be data) path a be := by
  have hget := fun f hf => get_access s 1 1 (pathMaster path) a f hf
  have hk := keeps_access s 1 1 (pathMaster path) a
  have hn := noRegs_access s 1 1 (pathMaster path) a
  rw [hostWrite_reaches be data hs.1 ha h4, busWrite_plain _ data hs h81 hact hheld hslot]
  generalize s.access 1 1 (pathMaster path) a = u at hget hk hn
  refine ⟨fun f hf k hkw => ?_, ?_, ?_⟩
  · have hsame := hget (f.at a) (at_offProbes h81 f hf)
    rw [getBit_answer1, getBit_parityRestored, getBit_putFields u s a _ data (fun _ => true) f hf rfl k hkw hsame.symm,
      getBit_of_get hsame k]
  · have hall : fieldsOf a (fun _ => true) = fieldsAt a := List.filter_eq_self.2 (fun _ _ => rfl)
    rw [← hall]
    exact keeps_answer1 (keeps_parityRestored (keeps_trans hk (keeps_putFields u s a _ data _)) _ _) _ _ _
  · exact onlyHost_of_noRegs ((noRegs_putFields u s a _ data _).trans hn) path a be

theorem writePlain_holds (path : Path) (addr : BitVec 27) (be : BitVec 4) (data : Word) (s : State) :
    writePlain path addr be data s := by
  intro ha h4 h81 hact hs hheld hslot
  exact ⟨_, rfl, hostWrite_plain be data ha h4 h81 hact hs hheld hslot⟩

/-- No word of HLTH has a rule of its own. -/
theorem hlthWord_plain {a : Nat} (ha : a / 4096 = 3) : actingAddr a = false ∧ heldWord a = false ∧ slotAt a = none := by
  have hslot : slotAt a = none := if_neg (by omega)
  have hwide : wideAt a = none := by simp [wideAt, widesOf, ha]
  refine ⟨?_, by simp [heldWord, ha], hslot⟩
  simp only [actingAddr, hwide, hslot, ha, List.contains_eq_mem, List.mem_cons, List.not_mem_nil, or_false]
  simp
  omega

/-- A word of HLTH that holds one field takes a write as that field's access code says. -/
theorem hostWrite_hlth {s : Chip} {path : Path} {a : Nat} (be : BitVec 4) (data : Word) (f : FieldRow) (h4 : a % 4 = 0)
    (hpage : a / 4096 = 3) (hrow : fieldsAt a = [f]) (hs : s.serves path 3) :
    (∀ k < f.width, (s.hostWrite path a be data).getBit (f.at a) k
        = bitAfter f.acc (s.getBit (f.at a) k) (bit (pathEnables path be) ((f.lsb + k) / 8)) (bit data (f.lsb + k)))
      ∧ s.keeps (s.hostWrite path a be data) [f.at a] ∧ s.onlyHost (s.hostWrite path a be data) path a be := by
  obtain ⟨hact, hheld, hslot⟩ := hlthWord_plain hpage
  obtain ⟨hbits, hk, hframe⟩ := hostWrite_plain be data (by omega) h4 (by omega) hact (hpage ▸ hs)
    (fun h => absurd (hheld.symm.trans h) (by decide)) (fun x hx => absurd (hslot.symm.trans hx) (by simp))
  rw [hrow] at hbits hk
  exact ⟨hbits f (List.mem_singleton_self f), hk, hframe⟩

theorem writeRw_holds (path : Path) (be : BitVec 4) (data : Word) (s : State) : writeRw path be data s := by
  intro hs
  obtain ⟨hbits, hk, hframe⟩ := hostWrite_hlth be data ⟨0, 16, .rw, 0xffff, 0x7f, false⟩ (a := F.hlthFaultEn.addr) (by decide)
    (by decide) (by decide) hs
  refine ⟨_, rfl, fun k hkw => (hbits k hkw).trans ?_, hk, hframe⟩
  rw [Nat.zero_add]; rfl

theorem writeW1c_holds (path : Path) (be : BitVec 4) (data : Word) (s : State) : writeW1c path be data s := by
  intro hs
  obtain ⟨hbits, hk, hframe⟩ := hostWrite_hlth be data ⟨0, 16, .w1c, 0, 0x7f, false⟩ (a := F.hlthFault.addr) (by decide)
    (by decide) (by decide) hs
  refine ⟨_, rfl, fun k hkw => (hbits k hkw).trans ?_, hk, hframe⟩
  rw [Nat.zero_add]; rfl

/-! ### A locked page, and a page in reset -/

/-- A write that its page discards whole is seen by the ACCESS probes alone (R50, R355). -/
theorem busWrite_unreachable {s : Chip} (path : Path) {a : Nat} (be : BitVec 4) (w : Word) (hun : s.unreachable (a / 4096) = true) :
    s.busWrite path a be w = s.access 2 1 (pathMaster path) a := by
  simp [Chip.busWrite, Chip.discards, hun]

theorem writeInReset_holds (path : Path) (addr : BitVec 27) (be : BitVec 4) (data : Word) (s : State) :
    writeInReset path addr be data s := by
  intro ha h4 hr _ _ _ hun
  refine ⟨_, congrArg (done s) ((hostWrite_reaches be data hr ha h4).trans
    (congrArg (fun c => c.answer1 [] false false) (busWrite_unreachable path (pathEnables path be) data hun))),
    keeps_answer1 (keeps_access s.chip 2 1 (pathMaster path) addr.toNat) _ _ _, ?_⟩
  rw [eq_of_noRegs (noRegs_access s.chip 2 1 (pathMaster path) addr.toNat)]; rfl

theorem keeps_pageFault (s : Chip) (k pg : Nat) : s.keeps (s.pageFault k pg) [F.hlthFault, F.hlthFaultPage] :=
  keeps_trans (keeps_fault s k) (keeps_setN _ _ _)

theorem noRegs_pageFault (s : Chip) (k pg : Nat) : (s.pageFault k pg).noRegs = { s.noRegs with msix := (s.pageFault k pg).msix } :=
  noRegs_fault s k

/-- The fields of a page's header, and those of HLTH's fault words, stand apart from each other. -/
theorem lockHeader_key_ne (pg : Nat) :
    (F.hdrPgLockRefused pg).key ≠ (F.hdrPgStatusLockHit pg).key ∧ (F.hdrPgLockRefused pg).key ≠ F.hlthFault.key
      ∧ (F.hdrPgLockRefused pg).key ≠ F.hlthFaultPage.key ∧ (F.hdrPgStatusLockHit pg).key ≠ F.hlthFault.key
      ∧ (F.hdrPgStatusLockHit pg).key ≠ F.hlthFaultPage.key := by
  simp only [Fld.key, F.hdrPgLockRefused, F.hdrPgStatusLockHit, F.hlthFault, F.hlthFaultPage]
  omega

/-- What a refused access of a locked page counts and reports (R42). -/
theorem lockRefuse_spec (s : Chip) (pg : Nat) :
    (s.lockRefuse pg).getN (F.hdrPgLockRefused pg) = min 0xFFFF (s.getN (F.hdrPgLockRefused pg) + 1)
      ∧ (s.lockRefuse pg).flag (F.hdrPgStatusLockHit pg) = true
      ∧ s.keeps (s.lockRefuse pg) [F.hdrPgLockRefused pg, F.hdrPgStatusLockHit pg, F.hlthFault, F.hlthFaultPage]
      ∧ (s.lockRefuse pg).noRegs = { s.noRegs with msix := (s.lockRefuse pg).msix } := by
  obtain ⟨h1, h2, h3, h4, h5⟩ := lockHeader_key_ne pg
  generalize ht : (s.addSat (F.hdrPgLockRefused pg) 1).setB (F.hdrPgStatusLockHit pg) true = t
  have hcount : t.getN (F.hdrPgLockRefused pg) = min 0xFFFF (s.getN (F.hdrPgLockRefused pg) + 1) := by
    rw [← ht, getN_setB_other _ _ _ _ h1, Chip.addSat, getN_setN_same _ _ _ (by simp [F.hdrPgLockRefused])]
    exact Nat.mod_eq_of_lt (by simp only [F.hdrPgLockRefused]; omega)
  have hhit : t.flag (F.hdrPgStatusLockHit pg) = true := by
    rw [← ht, flag_setB_same _ _ _ (by simp [F.hdrPgStatusLockHit]) (by simp [F.hdrPgStatusLockHit])]
  have hk : s.keeps t [F.hdrPgLockRefused pg, F.hdrPgStatusLockHit pg] :=
    ht ▸ keeps_trans (keeps_addSat s (F.hdrPgLockRefused pg) 1) (keeps_setB _ _ _)
  have hn : t.noRegs = s.noRegs := by rw [← ht]; rfl
  have hdef : s.lockRefuse pg = if s.flag (F.hdrPgCtrlLockReport pg) then t.pageFault fLock pg else t := by rw [← ht]; rfl
  rw [hdef]
  split
  · refine ⟨?_, ?_, keeps_trans hk (keeps_pageFault t fLock pg), ?_⟩
    · rw [Chip.pageFault, getN_setN_other _ _ _ _ h3, getN_fault_other _ _ _ h2, hcount]
    · rw [Chip.pageFault, flag_setN_other _ _ _ _ h5, flag_fault_other _ _ _ h4, hhit]
    · rw [noRegs_pageFault, hn]
  · refine ⟨hcount, hhit, keeps_mono hk (by simp), ?_⟩
    have hmsix : t.noRegs.msix = s.noRegs.msix := congrArg Chip.msix hn
    exact hn.trans (congrArg (fun m => { s.noRegs with msix := m }) hmsix.symm)

/-- A locked page refuses the write of a word with a field that its lock guards: the refusal counts, and the fields that it does
not guard take their part (R42). -/
theorem busWrite_locked {s : Chip} (path : Path) {a : Nat} (be : BitVec 4) (w : Word) (h81 : a / 4096 ≠ 0x81)
    (ho : occupied (a / 4096) = true) (hst : s.stopped (a / 4096) = false) (hup : s.unpowered (a / 4096) = false)
    (hun : s.unreachable (a / 4096) = false) (hlock : s.locked a be = true) :
    ∃ k, s.busWrite path a be w = ((s.access k 1 (pathMaster path) a).lockRefuse (a / 4096)).putFields s a be w
      (fun c => !lockable c) := by
  refine ⟨if s.discards a be w then 2 else 1, ?_⟩
  have hlock' : ∀ k, (s.access k 1 (pathMaster path) a).locked a be = true := fun k => by
    rw [Chip.locked, access_flag _ _ _ _ _ _ (lockLock_offProbes h81)]; exact hlock
  simp only [Chip.busWrite, ho, hst, hup, hun, Bool.not_true, Bool.or_self, Bool.false_eq_true, if_false, Chip.pageWrite, hlock',
    if_true]

/-- A field beyond its page's header stands under another key than the header's. -/
theorem at_header_ne (f : FieldRow) {a : Nat} (h : f.lsb < 32) (h40 : 0x40 ≤ a % 4096) {g : Fld} (hg : g.addr / 4096 = a / 4096)
    (hlow : g.addr % 4096 < 0x40) (hlsb : g.lsb < 32) : g.key ≠ (f.at a).key :=
  key_ne_of_addr hlsb h (by simp only [FieldRow.at]; omega)

/-- The words of HLTH.FAULT and FAULT_PAGE hold no field that a lock guards (R42). -/
theorem lockable_ne_fault {a : Nat} {f : FieldRow} (hf : f ∈ fieldsAt a) (hl : lockable f.acc = true) :
    (f.at a).key ≠ F.hlthFault.key ∧ (f.at a).key ≠ F.hlthFaultPage.key := by
  have hlsb : f.lsb < 32 := by have := fieldsAt_fit a f hf; omega
  have hfault : ∀ x ∈ fieldsAt F.hlthFault.addr, lockable x.acc = false := by decide
  have hpage : ∀ x ∈ fieldsAt F.hlthFaultPage.addr, lockable x.acc = false := by decide
  refine ⟨key_ne_of_addr hlsb (by decide) fun he => ?_, key_ne_of_addr hlsb (by decide) fun he => ?_⟩
  · obtain rfl : a = F.hlthFault.addr := he
    exact absurd (hl.symm.trans (hfault f hf)) (by decide)
  · obtain rfl : a = F.hlthFaultPage.addr := he
    exact absurd (hl.symm.trans (hpage f hf)) (by decide)

theorem writeLocked_holds (path : Path) (addr : BitVec 27) (be : BitVec 4) (data : Word) (s : State) :
    writeLocked path addr be data s := by
  intro ha h4 h40 h81 hr ho hst hup hun hlock
  obtain ⟨k, hrun⟩ := busWrite_locked path (pathEnables path be) data h81 ho hst hup hun hlock
  refine ⟨_, congrArg (done s) ((hostWrite_reaches be data hr ha h4).trans (congrArg (fun c => c.answer1 [] false false) hrun)), ?_⟩
  generalize addr.toNat = a at *
  have hku := keeps_access s.chip k 1 (pathMaster path) a
  have hnu := noRegs_access s.chip k 1 (pathMaster path) a
  generalize s.chip.access k 1 (pathMaster path) a = u at hku hnu
  obtain ⟨hcount, hhit, hkr, hnr⟩ := lockRefuse_spec u (a / 4096)
  have hkept : s.chip.keeps (u.lockRefuse (a / 4096)) _ := keeps_trans hku hkr
  have hoff : (F.hdrPgLockRefused (a / 4096)).offProbes := by
    constructor <;> simp only [F.hdrPgLockRefused] <;> omega
  have hlsb : ∀ f ∈ fieldsAt a, f.lsb < 32 := fun f hf => by have := fieldsAt_fit a f hf; omega
  have hother := get_putFields_other (u.lockRefuse (a / 4096)) s.chip a (pathEnables path be) data (fun c => !lockable c)
  have hheader : ∀ g : Fld, g.addr / 4096 = a / 4096 → g.addr % 4096 < 0x40 → g.lsb < 32 →
      ((u.lockRefuse (a / 4096)).putFields s.chip a (pathEnables path be) data (fun c => !lockable c)).get g
        = (u.lockRefuse (a / 4096)).get g := fun g hg hlow hl =>
    hother g (fun f hf => at_header_ne f (hlsb f (List.mem_filter.1 hf).1) h40 hg hlow hl)
  have hrow : ∀ g ∈ [F.hdrPgLockRefused (a / 4096), F.hdrPgStatusLockHit (a / 4096)],
      g.addr / 4096 = a / 4096 ∧ g.addr % 4096 < 0x40 ∧ g.lsb < 32 := by
    simp only [List.mem_cons, List.not_mem_nil, or_false, F.hdrPgLockRefused, F.hdrPgStatusLockHit]
    rintro g (rfl | rfl) <;> (dsimp only; omega)
  refine ⟨?_, ?_, fun f hf hl => ?_, ?_, ?_⟩
  · obtain ⟨hg, hlow, hl⟩ := hrow (F.hdrPgLockRefused (a / 4096)) (by simp)
    rw [getN_answer1, Chip.getN, hheader _ hg hlow hl, ← Chip.getN, hcount, Chip.getN, Chip.getN,
      get_of_keeps hku _ hoff (fun _ h => absurd h List.not_mem_nil)]
  · obtain ⟨hg, hlow, hl⟩ := hrow (F.hdrPgStatusLockHit (a / 4096)) (by simp)
    rw [flag_answer1, Chip.flag, Chip.getN, hheader _ hg hlow hl, ← Chip.getN, ← Chip.flag, hhit]
  · have hsame : ∀ g ∈ fieldsOf a (fun c => !lockable c), (f.at a).key ≠ (g.at a).key := fun g hg =>
      at_key_ne a fun he => by
        obtain ⟨hmem, hnot⟩ := List.mem_filter.1 hg
        obtain rfl : f = g := List.inj_on_of_nodup_map (fieldsAt_nodup a) hf hmem he
        simp [hl] at hnot
    obtain ⟨hfault, hpage⟩ := lockable_ne_fault hf hl
    rw [get_answer1, hother _ hsame]
    refine get_of_keeps hkept _ (at_offProbes h81 f hf) (fun g hg => ?_)
    simp only [List.nil_append, List.mem_cons, List.not_mem_nil, or_false] at hg
    rcases hg with rfl | rfl | rfl | rfl
    · obtain ⟨h1, h2, h3⟩ := hrow (F.hdrPgLockRefused (a / 4096)) (by simp)
      exact (at_header_ne f (hlsb f hf) h40 h1 h2 h3).symm
    · obtain ⟨h1, h2, h3⟩ := hrow (F.hdrPgStatusLockHit (a / 4096)) (by simp)
      exact (at_header_ne f (hlsb f hf) h40 h1 h2 h3).symm
    · exact hfault
    · exact hpage
  · exact keeps_answer1 (keeps_trans hkept (keeps_putFields _ _ _ _ _ _)) _ _ _
  · have hn := (noRegs_putFields (u.lockRefuse (a / 4096)) s.chip a (pathEnables path be) data (fun c => !lockable c)).trans hnr
    rw [hnu] at hn
    rw [eq_of_noRegs (s := { s.chip with msix := (u.lockRefuse (a / 4096)).msix }) hn]
    rfl

/-! ### Reads -/

/-- A request of one DW is one read, which the ACCESS probes see (R26). -/
theorem memRequest_one {s : Chip} {a : Nat} (be : BitVec 4) (ha : a < 0x04000000) (h4 : a % 4 = 0) (hs : s.pcieServes = true) :
    s.memRequest (.read none) a be 0 1 []
      = (s.busRead .pcie a 0).2.answer1 [(s.busRead .pcie a 0).1] false false := by
  rw [memRequest_read s none a be 0 1 [] hs h4 (by omega) (by omega), performed_none, memReads_succ s a 0 ha]
  rfl

theorem busRead_unreachable {s : Chip} (path : Path) {a : Nat} (lag : Nat) (ho : occupied (a / 4096) = true)
    (hst : s.stopped (a / 4096) = false) (hup : s.unpowered (a / 4096) = false) (hun : s.unreachable (a / 4096) = true)
    (h0 : a % 4096 ≠ 0) (hn4 : a % 4096 ≠ 4) : s.busRead path a lag = (0, s.access 0 1 (pathMaster path) a) := by
  simp only [Chip.busRead, Chip.pageRead, ho, hst, hup, hun, h0, hn4, Bool.not_true, Bool.or_self, Bool.false_eq_true, if_false,
    if_true]

theorem readInReset_holds (addr : BitVec 27) (be : BitVec 4) (s : State) : readInReset addr be s := by
  intro ha h4 h0 hn4 hr ho hst hup hun
  have hrun := memRequest_one be ha h4 hr
  rw [busRead_unreachable .pcie 0 ho hst hup hun h0 hn4] at hrun
  refine ⟨_, congrArg (done s) hrun, keeps_answer1 (keeps_access s.chip 0 1 0 addr.toNat) _ _ _, ?_⟩
  rw [show pathMaster .pcie = 0 from rfl, eq_of_noRegs (noRegs_access s.chip 0 1 0 addr.toNat)]; rfl

/-- A Process Call to the target's own address is one read (R377, R378). -/
theorem processCall_read {s : Chip} {head : SmbHead} {offset : Word} (hs : s.alwaysOn = true)
    (haddr : head.addr.toNat = s.smbAddress) (hcmd : head.cmd = 2) (h4 : offset.toNat % 4 = 0) (hlt : offset.toNat < 0x04000000) :
    s.processCall head 4 offset =
      let r := Chip.busRead { s with smbHeld := none } .smbus offset.toNat 0
      r.2.answer1 (if head.ack then [r.1, readPec head offset r.1] else [r.1]) false false := by
  have halert : head.addr.toNat ≠ alertResponse := by
    rw [haddr, Chip.smbAddress, alertResponse]; omega
  have hnack : s.smbusNacks head 4 2 4 offset = false := by
    simp [Chip.smbusNacks, hs, haddr, hcmd, h4, hlt]
  have hnot : ¬ (s.alwaysOn ∧ head.addr.toNat = alertResponse ∧ s.alertLow = true) := fun h => halert h.2.1
  simp only [Chip.processCall, hnot, if_false, hnack, Bool.false_eq_true]

theorem readPlain_holds (addr : BitVec 26) (be : BitVec 4) (head : SmbHead) (s : State) : readPlain addr be head s := by
  intro h4 h81 hbank hwide ho hst hup hun hpar
  have hlt : addr.toNat < 0x04000000 := addr.isLt
  refine ⟨fun hr => ?_, fun hr haddr hcmd => ?_⟩
  · have hrun := memRequest_one be hlt h4 hr
    rw [busRead_plain .pcie 0 h81 hbank hwide ho hst hup hun hpar] at hrun
    have hexec : exec (.pcieMemRequest (.read none) (addr.setWidth 27) be 0 1 []) s
        = done s (s.chip.memRequest (.read none) (addr.setWidth 27).toNat be 0 1 []) := rfl
    rw [BitVec.toNat_setWidth_of_le (by omega), hrun] at hexec
    refine ⟨_, hexec, keeps_answer1 (keeps_access s.chip _ _ _ _) _ _ _, ?_⟩
    rw [eq_of_noRegs (noRegs_access s.chip 0 1 (pathMaster .pcie) addr.toNat)]; rfl
  · have hval : (addr.setWidth 32).toNat = addr.toNat := BitVec.toNat_setWidth_of_le (by omega)
    have hrun := processCall_read (offset := addr.setWidth 32) hr haddr hcmd (hval ▸ h4) (hval ▸ hlt)
    rw [hval, busRead_plain (s := { s.chip with smbHeld := none }) .smbus 0 h81 hbank hwide ho hst hup hun hpar] at hrun
    refine ⟨_, congrArg (done s) hrun, keeps_answer1 (keeps_access { s.chip with smbHeld := none } _ _ _ _) _ _ _, ?_⟩
    rw [eq_of_noRegs (noRegs_access { s.chip with smbHeld := none } 0 1 (pathMaster .smbus) addr.toNat)]; rfl

/-! ### Words of a mailbox slot -/

/-- A write of a word of a busy slot is ignored, and counts (R323). -/
theorem busWrite_slotHeld {s : Chip} {path : Path} {a n o : Nat} (be : BitVec 4) (w : Word) (hat : slotAt a = some (n, o))
    (ho : o ≤ 0xE0) (hgo : o = 0 → bit (w &&& beMask be) 31 = false) (hs : s.serves path (a / 4096)) (h81 : a / 4096 ≠ 0x81)
    (hheld : s.slotHeld n = true) : s.busWrite path a be w = (s.access 2 1 (pathMaster path) a).bump F.cmd0Ignored := by
  have hrefused : s.slotRefuses a (w &&& beMask be) = some (n, false) := by
    have hnot : (o == 0 && bit (w &&& beMask be) 31) = false := by
      by_cases h0 : o = 0
      · simp [hgo h0]
      · simp [h0]
    simp [Chip.slotRefuses, hat, ho, hheld, hnot]
  have hlock := not_locked_of_serves hs be
  have hlock' := not_locked_of_serves (serves_access hs h81 2 1 (pathMaster path) a) be
  obtain ⟨-, hocc, hst, hup, hun, -, -⟩ := hs
  simp only [Chip.busWrite, Chip.discards, Chip.pageWrite, hocc, hst, hup, hun, hlock, hlock', slotRefuses_access, hrefused,
    Option.isSome_some, Bool.or_true, Bool.true_or, Bool.not_true, Bool.or_self, Bool.false_eq_true, if_false, if_true,
    Chip.slotIgnored]

theorem slotAt_page {a n o : Nat} (h : slotAt a = some (n, o)) : a < 0x8000 ∧ 4 ≤ a / 4096 ∧ a / 4096 < 8 ∧ 0x40 ≤ a % 4096 := by
  unfold slotAt at h
  dsimp only at h
  split at h
  · omega
  · cases h

/-- Beside its command word, no word of a slot has a rule of its own. -/
theorem actingAddr_slot {a n o : Nat} (h : slotAt a = some (n, o)) (ho : o ≠ 0) : actingAddr a = false ∧ heldWord a = false := by
  obtain ⟨hlt, h4, h8, h40⟩ := slotAt_page h
  have hwides : widesOf (a / 4096) = [] := by
    have hpg : a / 4096 = 4 ∨ a / 4096 = 5 ∨ a / 4096 = 6 ∨ a / 4096 = 7 := by omega
    rcases hpg with hp | hp | hp | hp <;> rw [hp] <;> decide
  have hwide : wideAt a = none := by simp [wideAt, hwides]
  constructor
  · simp [actingAddr, hwide, h, ho]
    omega
  · simp [heldWord]
    omega

theorem slotAt_cmd {a n : Nat} (h4 : a % 4 = 0) (h : slotAt a = some (n, 0)) : n < 16 ∧ a = slotCmdAddr n := by
  unfold slotAt at h
  dsimp only at h
  split at h
  case isTrue hin =>
    obtain ⟨hn, h0⟩ := Prod.mk.inj (Option.some.inj h)
    obtain ⟨h1, h2, h3, h5⟩ := hin
    have hpage : a / 4096 < 8 := by omega
    unfold slotCmdAddr
    omega
  case isFalse => cases h

@[simp] theorem parityRestored_twice (s : Chip) (a : Nat) (be : BitVec 4) :
    (s.parityRestored a be).parityRestored a be = s.parityRestored a be := by
  unfold Chip.parityRestored
  split
  · simp only [List.filter_filter, Bool.and_self]
  · rfl

/-- A write of a slot's command word without GO puts the fields of the word that are no trigger (R36, R323). -/
theorem busWrite_slotCmd {s : Chip} {path : Path} {n : Nat} (hn : n < 16) (be : BitVec 4) (w : Word)
    (hgo : bit (w &&& beMask be) 31 = false) (hs : s.serves path (slotCmdAddr n / 4096)) (hidle : s.slotHeld n = false) :
    let u := s.access 1 1 (pathMaster path) (slotCmdAddr n)
    s.busWrite path (slotCmdAddr n) be w = (u.putFields u (slotCmdAddr n) be w lockable).parityRestored (slotCmdAddr n) be := by
  obtain ⟨hpg, -, h40, hat⟩ := slotCmdAddr_facts n hn
  have hfree : s.slotRefuses (slotCmdAddr n) (w &&& beMask be) = none := by
    simp [Chip.slotRefuses, hat, hgo, hidle]
  simp only [busWrite_serves be w hs (by omega) hfree, Nat.not_lt.2 h40, if_false, Chip.writeReg, actingWrite_slotCmd _ n hn,
    ignores_slotCmd _ n hn, hgo, Bool.false_eq_true, Chip.writeWord, parityRestored_twice]

theorem writeSlotHeld_holds (path : Path) (addr : BitVec 27) (be : BitVec 4) (data : Word) (n o : Nat) (s : State)
    (h4 : addr.toNat % 4 = 0) (hat : slotAt addr.toNat = some (n, o)) (ho : o ≤ 0xE0)
    (hgo : o = 0 → bit (data &&& beMask (pathEnables path be)) 31 = false) (hs : s.chip.serves path (addr.toNat / 4096))
    (hheld : s.chip.slotHeld n = true) : Runs (.registerWrite path addr be data) s (fun t =>
      s.chip.counted t F.cmd0Ignored 1 ∧ s.chip.keeps t [F.cmd0Ignored] ∧ t = { s.chip with regs := t.regs, reply := written }) := by
  obtain ⟨hlt, -, h8, -⟩ := slotAt_page hat
  have hrun := busWrite_slotHeld (pathEnables path be) data hat ho hgo hs (by omega) hheld
  refine ⟨_, congrArg (done s) ((hostWrite_reaches be data hs.1 (by omega) h4).trans
    (congrArg (fun c => c.answer1 [] false false) hrun)), ?_⟩
  have hk := keeps_access s.chip 2 1 (pathMaster path) addr.toNat
  have hn := noRegs_access s.chip 2 1 (pathMaster path) addr.toNat
  have hsame := getN_access s.chip 2 1 (pathMaster path) addr.toNat _ cmd0Ignored_offProbes
  generalize s.chip.access 2 1 (pathMaster path) addr.toNat = u at hk hn hsame
  refine ⟨?_, keeps_answer1 (keeps_trans hk (keeps_bump u _)) _ _ _, ?_⟩
  · rw [Chip.counted, getN_answer1, getN_bump_same u _ rfl cmd0Ignored_offProbes rfl, hsame]; rfl
  · rw [eq_of_noRegs ((noRegs_bump u _).trans hn)]; rfl

theorem writeSlotIdle_holds (path : Path) (addr : BitVec 27) (be : BitVec 4) (data : Word) (n o : Nat) (s : State)
    (h4 : addr.toNat % 4 = 0) (hat : slotAt addr.toNat = some (n, o))
    (hgo : o = 0 → bit (data &&& beMask (pathEnables path be)) 31 = false) (hs : s.chip.serves path (addr.toNat / 4096))
    (hidle : s.chip.slotHeld n = false) : Runs (.registerWrite path addr be data) s (fun t =>
      (∀ f ∈ fieldsAt addr.toNat, f.acc = .rw → ∀ k < f.width, t.getBit (f.at addr.toNat) k
        = if bit (pathEnables path be) ((f.lsb + k) / 8) then bit data (f.lsb + k) else s.chip.getBit (f.at addr.toNat) k)
      ∧ s.chip.keeps t ((fieldsAt addr.toNat).map (fun f => f.at addr.toNat)) ∧ s.chip.onlyHost t path addr.toNat be) := by
  obtain ⟨hlt, -, h8, -⟩ := slotAt_page hat
  have h81 : addr.toNat / 4096 ≠ 0x81 := by omega
  by_cases ho : o = 0
  · subst ho
    obtain ⟨hn16, ha⟩ := slotAt_cmd h4 hat
    have hrun := busWrite_slotCmd hn16 (pathEnables path be) data (hgo rfl) (ha ▸ hs) hidle
    rw [← ha] at hrun
    refine ⟨_, congrArg (done s) ((hostWrite_reaches be data hs.1 (by omega) h4).trans
      (congrArg (fun c => c.answer1 [] false false) hrun)), ?_⟩
    have hget := fun f hf => get_access s.chip 1 1 (pathMaster path) addr.toNat f hf
    have hk := keeps_access s.chip 1 1 (pathMaster path) addr.toNat
    have hn := noRegs_access s.chip 1 1 (pathMaster path) addr.toNat
    generalize s.chip.access 1 1 (pathMaster path) addr.toNat = u at hget hk hn
    refine ⟨fun f hf hrw k hkw => ?_, ?_, onlyHost_of_noRegs ((noRegs_putFields u u _ _ data _).trans hn) path _ be⟩
    · rw [getBit_answer1, getBit_parityRestored,
        getBit_putFields u u _ _ data lockable f hf (by rw [hrw]; rfl) k hkw rfl, hrw,
        getBit_of_get (hget _ (at_offProbes h81 f hf)) k]
      rfl
    · refine keeps_answer1 (keeps_parityRestored (keeps_mono (keeps_trans hk (keeps_putFields u u _ _ data _)) fun g hg => ?_) _ _) _ _ _
      exact List.map_subset _ (List.filter_subset_self _) hg
  · obtain ⟨hact, hword⟩ := actingAddr_slot hat ho
    have hslot : ∀ x, slotAt addr.toNat = some x → x.2 ≤ 0xE0 → s.chip.slotHeld x.1 = false := fun x hx _ => by
      obtain rfl : (n, o) = x := Option.some.inj (hat.symm.trans hx)
      exact hidle
    obtain ⟨hbits, hk, hframe⟩ := hostWrite_plain be data (by omega) h4 h81 hact hs
      (fun h => absurd (hword.symm.trans h) (by decide)) hslot
    exact ⟨_, rfl, fun f hf hrw k hkw => (hbits f hf k hkw).trans (by rw [hrw]; rfl), hk, hframe⟩

theorem writeSlot_holds (path : Path) (addr : BitVec 27) (be : BitVec 4) (data : Word) (n o : Nat) (s : State) :
    writeSlot path addr be data n o s := by
  intro h4 hat ho hgo hs
  exact ⟨writeSlotHeld_holds path addr be data n o s h4 hat ho hgo hs, writeSlotIdle_holds path addr be data n o s h4 hat hgo hs⟩

end Sys2Proof.Machine

/-! Writes of register words that act (R83, R132, R145, R210, R261, R270): O7. -/

namespace Sys2Proof.Machine

open Sys2Proof.Says

/-! ### A write of a word that acts -/

/-- What the ACCESS probes see of an access changes no field beside theirs. -/
theorem get_probed {s u : Chip} (hk : s.keeps u []) {f : Fld} (hf : f.offProbes) : u.get f = s.get f :=
  get_of_keeps hk f hf (fun _ hg => absurd hg List.not_mem_nil)

theorem getN_probed {s u : Chip} (hk : s.keeps u []) {f : Fld} (hf : f.offProbes) : u.getN f = s.getN f :=
  congrArg BitVec.toNat (get_probed hk hf)

theorem flag_probed {s u : Chip} (hk : s.keeps u []) {f : Fld} (hf : f.offProbes) : u.flag f = s.flag f := by
  rw [Chip.flag, Chip.flag, getN_probed hk hf]

theorem wordAt_probed {s u : Chip} (hk : s.keeps u []) {a : Nat} (h81 : a / 4096 ≠ 0x81) : u.wordAt a = s.wordAt a := by
  have hfold : ∀ (l : List FieldRow), (∀ f ∈ l, f ∈ fieldsAt a) → ∀ w : Word,
      l.foldl (fun w f => w ||| (u.get (f.at a) <<< f.lsb)) w = l.foldl (fun w f => w ||| (s.get (f.at a) <<< f.lsb)) w := by
    intro l
    induction l with
    | nil => intro _ w; rfl
    | cons f l ih =>
      intro hl w
      rw [List.foldl_cons, List.foldl_cons, get_probed hk (at_offProbes h81 f (hl f List.mem_cons_self)),
        ih (fun g hg => hl g (List.mem_cons_of_mem _ hg))]
  exact hfold _ (fun _ hf => hf) 0

theorem fusedLower_probed {s u : Chip} (hk : s.keeps u []) (p : Nat) : u.fusedLower p = s.fusedLower p := by
  have hoff : (F.port0ModeTwoShot p).offProbes := by
    constructor <;> simp only [F.port0ModeTwoShot] <;> omega
  rw [Chip.fusedLower, Chip.fusedLower, flag_probed hk hoff]

theorem fusedUpper_probed {s u : Chip} (hk : s.keeps u []) (p : Nat) : u.fusedUpper p = s.fusedUpper p := by
  rw [Chip.fusedUpper, Chip.fusedUpper, fusedLower_probed hk]

/-- REGISTER_WRITE of a word that acts: the ACCESS probes see it, and its act is made of the word that it proposes. -/
theorem runs_acts {path : Path} {a : Nat} {be : BitVec 4} {data : Word} {s : State} {P : Chip → Prop}
    (hs : s.chip.serves path (a / 4096)) (ha : a < 0x04000000) (h4 : a % 4 = 0) (h40 : 0x40 ≤ a % 4096)
    (hslot : slotAt a = none) (h81 : a / 4096 ≠ 0x81)
    (h : ∀ u : Chip, s.chip.keeps u [] → u.noRegs = s.chip.noRegs → ∃ c : Chip,
      u.actingWrite a (pathEnables path be) (mergeWord (s.chip.wordAt a) data (pathEnables path be))
        (data &&& beMask (pathEnables path be)) data = some c
      ∧ P ((if u.ignores a then c else c.parityRestored a (pathEnables path be)).answer1 [] false false)) :
    Runs (.registerWrite path (BitVec.ofNat 27 a) be data) s P := by
  have hk := keeps_access s.chip 1 1 (pathMaster path) a
  obtain ⟨c, hact, hP⟩ := h _ hk (noRegs_access s.chip 1 1 (pathMaster path) a)
  have hval : (BitVec.ofNat 27 a).toNat = a := Nat.mod_eq_of_lt (by omega)
  have hexec : exec (.registerWrite path (BitVec.ofNat 27 a) be data) s
      = done s (s.chip.hostWrite path (BitVec.ofNat 27 a).toNat be data) := rfl
  rw [hval, hostWrite_serves s.chip path a be data hs ha h4 h40 hslot h81] at hexec
  refine ⟨_, hexec, ?_⟩
  simp only [Chip.writeReg, wordAt_probed hk h81, hact]
  exact hP

theorem slotAt_off {a : Nat} (h : 0x8000 ≤ a) : slotAt a = none := if_neg (by omega)

/-! ### MAP of a lane (R83, R84) -/

theorem bits_mod {n : Nat} (w : BitVec n) (hi lo m : Nat) (hm : m = hi - lo + 1) : bits w hi lo % 2 ^ m = bits w hi lo := by
  rw [hm]; exact Nat.mod_mod _ _

/-- The fields of a lane's MAP that a write puts at any time. -/
def Chip.mapFree (s : Chip) (p k : Nat) (w : Word) : Chip :=
  ((((s.setN (F.port1MapPattern p k) (bits w 15 14)).setB (F.port1MapRxPrecode p k) (bit w 12)).setB
    (F.port1MapTxPrecode p k) (bit w 11)).setB (F.port1MapRxInvert p k) (bit w 10)).setB (F.port1MapTxInvert p k) (bit w 9)

/-- A write of MAP puts the wiring of the lane, or tells that it is held. -/
def Chip.mapWired (s : Chip) (p k : Nat) (w : Word) : Chip :=
  (s.setN (F.port1MapRxPhys p k) (bits w 6 4)).setN (F.port1MapTxPhys p k) (bits w 2 0)

theorem mapWrite_eq (s : Chip) (p k : Nat) (w : Word) :
    s.mapWrite p k w =
      if s.enableOf p ≠ 0 ∧ (bits w 6 4 ≠ s.getN (F.port1MapRxPhys p k) ∨ bits w 2 0 ≠ s.getN (F.port1MapTxPhys p k))
      then (s.mapFree p k w).modeHeld p else (s.mapFree p k w).mapWired p k w := by
  unfold Chip.mapWrite Chip.mapFree Chip.mapWired
  simp only [Bool.and_eq_true, Bool.not_eq_true', Bool.and_eq_false_iff, bne_iff_ne, beq_eq_false_iff_ne, ne_comm]

def mapFreeFields (p k : Nat) : List Fld :=
  [F.port1MapPattern p k, F.port1MapRxPrecode p k, F.port1MapTxPrecode p k, F.port1MapRxInvert p k, F.port1MapTxInvert p k]

/-- What a lane's MAP holds of the word written at any time. -/
def Chip.mapTaken (s : Chip) (p k : Nat) (w : Word) : Prop :=
  s.getN (F.port1MapPattern p k) = bits w 15 14 ∧ s.flag (F.port1MapRxPrecode p k) = bit w 12
    ∧ s.flag (F.port1MapTxPrecode p k) = bit w 11 ∧ s.flag (F.port1MapRxInvert p k) = bit w 10
    ∧ s.flag (F.port1MapTxInvert p k) = bit w 9

/-- The free fields of MAP, in the order in which a write puts them, stand under keys of their own. -/
theorem mapFreeFields_pairwise (p k : Nat) : (mapFreeFields p k).Pairwise (fun f g => f.key ≠ g.key) := by
  simp only [mapFreeFields, List.pairwise_cons, List.mem_cons, List.not_mem_nil, or_false, forall_eq_or_imp, forall_eq, Fld.key,
    F.port1MapPattern, F.port1MapRxPrecode, F.port1MapTxPrecode, F.port1MapRxInvert, F.port1MapTxInvert, List.Pairwise.nil,
    false_implies, implies_true, and_true]
  omega

theorem mapFree_taken (s : Chip) (p k : Nat) (w : Word) : (s.mapFree p k w).mapTaken p k w := by
  have hkeys := mapFreeFields_pairwise p k
  simp only [mapFreeFields, List.pairwise_cons, List.mem_cons, List.not_mem_nil, or_false, forall_eq_or_imp, forall_eq] at hkeys
  obtain ⟨⟨h01, h02, h03, h04⟩, ⟨h12, h13, h14⟩, ⟨h23, h24⟩, h34, -⟩ := hkeys
  have hone : ∀ f ∈ mapFreeFields p k, 1 ≤ f.width ∧ f.width ≤ 32 := by
    simp [mapFreeFields, F.port1MapPattern, F.port1MapRxPrecode, F.port1MapTxPrecode, F.port1MapRxInvert, F.port1MapTxInvert]
  simp only [mapFreeFields, List.mem_cons, List.not_mem_nil, or_false, forall_eq_or_imp, forall_eq] at hone
  obtain ⟨⟨-, hw0⟩, ⟨h1, hw1⟩, ⟨h2, hw2⟩, ⟨h3, hw3⟩, h4, hw4⟩ := hone
  unfold Chip.mapTaken Chip.mapFree
  refine ⟨?_, ?_, ?_, ?_, flag_setB_same _ _ _ h4 hw4⟩
  · rw [getN_setB_other _ _ _ _ h04, getN_setB_other _ _ _ _ h03, getN_setB_other _ _ _ _ h02, getN_setB_other _ _ _ _ h01,
      getN_setN_same _ _ _ hw0]
    exact bits_mod w 15 14 2 rfl
  · rw [flag_setB_other _ _ _ _ h14, flag_setB_other _ _ _ _ h13, flag_setB_other _ _ _ _ h12, flag_setB_same _ _ _ h1 hw1]
  · rw [flag_setB_other _ _ _ _ h24, flag_setB_other _ _ _ _ h23, flag_setB_same _ _ _ h2 hw2]
  · rw [flag_setB_other _ _ _ _ h34, flag_setB_same _ _ _ h3 hw3]

theorem keeps_mapFree (s : Chip) (p k : Nat) (w : Word) : s.keeps (s.mapFree p k w) (mapFreeFields p k) :=
  keeps_trans (keeps_trans (keeps_trans (keeps_trans (keeps_setN _ _ _) (keeps_setB _ _ _)) (keeps_setB _ _ _)) (keeps_setB _ _ _))
    (keeps_setB _ _ _)

/-- What the free fields of MAP hold stays under writes of other fields. -/
theorem mapTaken_keeps {s t : Chip} {p k : Nat} {w : Word} {l : List Fld} (h : s.mapTaken p k w) (hk : s.keeps t l)
    (hl : ∀ f ∈ mapFreeFields p k, ∀ g ∈ l, f.key ≠ g.key) : t.mapTaken p k w := by
  have hget : ∀ f ∈ mapFreeFields p k, t.get f = s.get f := fun f hf => by
    refine get_of_keeps hk f ?_ (hl f hf)
    simp only [mapFreeFields, List.mem_cons, List.not_mem_nil, or_false] at hf
    rcases hf with rfl | rfl | rfl | rfl | rfl <;> constructor <;>
      simp only [F.port1MapPattern, F.port1MapRxPrecode, F.port1MapTxPrecode, F.port1MapRxInvert, F.port1MapTxInvert] <;> omega
  unfold Chip.mapTaken at h ⊢
  simp only [Chip.flag, Chip.getN] at h ⊢
  rw [hget _ (by simp [mapFreeFields]), hget (F.port1MapRxPrecode p k) (by simp [mapFreeFields]),
    hget (F.port1MapTxPrecode p k) (by simp [mapFreeFields]), hget (F.port1MapRxInvert p k) (by simp [mapFreeFields]),
    hget (F.port1MapTxInvert p k) (by simp [mapFreeFields])]
  exact h

theorem mapKeys (p k : Nat) : ∀ f ∈ mapFreeFields p k,
    ∀ g ∈ [F.port1MapRxPhys p k, F.port1MapTxPhys p k, F.port0StatusModeHeld p], f.key ≠ g.key := by
  simp only [mapFreeFields, List.mem_cons, List.not_mem_nil, or_false, forall_eq_or_imp, forall_eq, Fld.key, F.port1MapPattern,
    F.port1MapRxPrecode, F.port1MapTxPrecode, F.port1MapRxInvert, F.port1MapTxInvert, F.port1MapRxPhys, F.port1MapTxPhys,
    F.port0StatusModeHeld]
  omega

theorem mapWiring_key_ne (p k : Nat) : (F.port1MapRxPhys p k).key ≠ (F.port1MapTxPhys p k).key
    ∧ (F.port1MapRxPhys p k).key ≠ (F.port0StatusModeHeld p).key ∧ (F.port1MapTxPhys p k).key ≠ (F.port0StatusModeHeld p).key := by
  simp only [Fld.key, F.port1MapRxPhys, F.port1MapTxPhys, F.port0StatusModeHeld]
  omega

theorem mapWired_spec (s : Chip) (p k : Nat) (w : Word) :
    (s.mapWired p k w).getN (F.port1MapRxPhys p k) = bits w 6 4 ∧ (s.mapWired p k w).getN (F.port1MapTxPhys p k) = bits w 2 0
      ∧ s.keeps (s.mapWired p k w) [F.port1MapRxPhys p k, F.port1MapTxPhys p k] := by
  refine ⟨?_, ?_, keeps_trans (keeps_setN _ _ _) (keeps_setN _ _ _)⟩
  · rw [Chip.mapWired, getN_setN_other _ _ _ _ (mapWiring_key_ne p k).1, getN_setN_same _ _ _ (by simp [F.port1MapRxPhys])]
    exact bits_mod w 6 4 3 rfl
  · rw [Chip.mapWired, getN_setN_same _ _ _ (by simp [F.port1MapTxPhys])]
    exact bits_mod w 2 0 3 rfl

/-- The port's enables stand in registers that the probes do not touch. -/
theorem enableOf_probed {s u : Chip} (hk : s.keeps u []) (p : Nat) : u.enableOf p = s.enableOf p := by
  rw [Chip.enableOf, Chip.enableOf, Chip.lowerOf, Chip.lowerOf, fusedUpper_probed hk]
  exact getN_probed hk (by constructor <;> simp only [F.port0CtrlEnable] <;> omega)

/-- A write of a lane's MAP, as the port takes it. -/
theorem actingWrite_map (u : Chip) {p k : Nat} (hp : p < 48) (hk : k < 8) (be : BitVec 4) (w t d : Word) :
    u.actingWrite (F.port1MapTxPhys p k).addr be w t d = some (u.mapWrite p k w)
      ∧ u.ignores (F.port1MapTxPhys p k).addr = false := by
  have hpg : (F.port1MapTxPhys p k).addr / 4096 = 0x2001 + p * 16 := by simp only [F.port1MapTxPhys]; omega
  have ho : (F.port1MapTxPhys p k).addr % 4096 = 0x40 + k * 12 := by simp only [F.port1MapTxPhys]; omega
  have hport : (0x2001 + p * 16) / 16 - 0x200 = p := by omega
  have hpage : (0x2001 + p * 16) % 16 = 1 := by omega
  have hlane : (0x40 + k * 12 - 0x40) / 12 = k := by omega
  constructor
  · unfold Chip.actingWrite Chip.portWrite
    simp only [hpg, ho, hport, hpage, hlane]
    rw [if_pos (by omega), if_neg (by omega), if_neg (by omega), if_neg (by omega), if_neg (by omega), if_neg (by omega),
      if_pos ⟨trivial, by omega⟩]
  · unfold Chip.ignores
    simp only [hpg, ho, hpage]
    rw [if_pos (by omega)]
    rfl

theorem writeMap_holds (path : Path) (p : Fin 48) (k : Fin 8) (be : BitVec 4) (data : Word) (s : State) :
    writeMap path p k be data s := by
  intro hs
  have hp := p.isLt
  have hk8 := k.isLt
  have hpg : (F.port1MapTxPhys p k).addr / 4096 = 0x2001 + p.val * 16 := by simp only [F.port1MapTxPhys]; omega
  have ho : (F.port1MapTxPhys p k).addr % 4096 = 0x40 + k.val * 12 := by simp only [F.port1MapTxPhys]; omega
  have hslot : slotAt (F.port1MapTxPhys p k).addr = none := slotAt_off (by simp only [F.port1MapTxPhys]; omega)
  refine runs_acts (hpg ▸ hs) (by simp only [F.port1MapTxPhys]; omega) (by simp only [F.port1MapTxPhys]; omega)
    (by omega) hslot (by omega) fun u hu hun => ?_
  generalize hw : mergeWord (s.chip.wordAt (F.port1MapTxPhys p k).addr) data (pathEnables path be) = w
  obtain ⟨hact, hign⟩ := actingWrite_map u hp hk8 (pathEnables path be) w (data &&& beMask (pathEnables path be)) data
  refine ⟨_, hact, ?_⟩
  rw [hign, if_neg Bool.false_ne_true]
  have hrx : u.getN (F.port1MapRxPhys p k) = s.chip.getN (F.port1MapRxPhys p k) :=
    getN_probed hu (by constructor <;> simp only [F.port1MapRxPhys] <;> omega)
  have htx : u.getN (F.port1MapTxPhys p k) = s.chip.getN (F.port1MapTxPhys p k) :=
    getN_probed hu (by constructor <;> simp only [F.port1MapTxPhys] <;> omega)
  have hmode : u.get (F.port0StatusModeHeld p) = s.chip.get (F.port0StatusModeHeld p) :=
    get_probed hu (by constructor <;> simp only [F.port0StatusModeHeld] <;> omega)
  have htaken := mapFree_taken u p k w
  have hfree := keeps_mapFree u p k w
  have hkeys := mapKeys p k
  obtain ⟨-, hrxm, htxm⟩ := mapWiring_key_ne p k
  have hanswer : ∀ {c d : Chip} {l : List Fld}, c.keeps d l →
      c.keeps ((d.parityRestored (F.port1MapTxPhys p k).addr (pathEnables path be)).answer1 [] false false) l :=
    fun h => keeps_answer1 (keeps_parityRestored h _ _) _ _ _
  rw [mapWrite_eq, enableOf_probed hu, hrx, htx]
  split
  case isTrue hch =>
    obtain ⟨hen, hchanges⟩ := hch
    have hk := keeps_setB (u.mapFree p k w) (F.port0StatusModeHeld p) true
    obtain ⟨h1, h2, h3, h4, h5⟩ := mapTaken_keeps htaken (hanswer hk) (fun f hf g hg => hkeys f hf g (List.mem_of_mem_drop (i := 2) hg))
    have hstands : ∀ f : Fld, f.offProbes → (∀ g ∈ mapFreeFields p k, f.key ≠ g.key) → f.key ≠ (F.port0StatusModeHeld p).key →
        ((u.mapFree p k w).modeHeld p).get f = s.chip.get f := fun f hf hfr hst => by
      rw [Chip.modeHeld, get_setB_other _ _ _ _ hst, get_of_keeps hfree f hf hfr, get_probed hu hf]
    refine ⟨h1, h2, h3, h4, h5, fun h => ?_, fun _ _ => ⟨?_, ?_, ?_⟩, ?_, ?_⟩
    · exact absurd h (by rintro (h0 | hno); exacts [hen h0, hno hchanges])
    · rw [flag_answer1, flag_parityRestored]
      exact flag_setB_same _ _ _ (by simp [F.port0StatusModeHeld]) (by simp [F.port0StatusModeHeld])
    · rw [get_answer1, get_parityRestored]
      exact hstands _ (by constructor <;> simp only [F.port1MapRxPhys] <;> omega) (fun g hg => (hkeys g hg _ (by simp)).symm) hrxm
    · rw [get_answer1, get_parityRestored]
      exact hstands _ (by constructor <;> simp only [F.port1MapTxPhys] <;> omega) (fun g hg => (hkeys g hg _ (by simp)).symm) htxm
    · exact hanswer (keeps_mono (keeps_trans (keeps_trans hu hfree) hk) (by simp [mapFreeFields]))
    · exact onlyHost_of_noRegs (u := (u.mapFree p k w).modeHeld p) hun path _ be
  case isFalse hch =>
    obtain ⟨hrxw, htxw, hk⟩ := mapWired_spec (u.mapFree p k w) p k w
    obtain ⟨h1, h2, h3, h4, h5⟩ := mapTaken_keeps htaken (hanswer hk) (fun f hf g hg => hkeys f hf g (List.mem_of_mem_take (i := 2) hg))
    refine ⟨h1, h2, h3, h4, h5, fun _ => ⟨?_, ?_, ?_⟩, fun hen hchanges => absurd ⟨hen, hchanges⟩ hch, ?_, ?_⟩
    · rw [getN_answer1, getN_parityRestored, hrxw]
    · rw [getN_answer1, getN_parityRestored, htxw]
    · rw [get_answer1, get_parityRestored, Chip.mapWired, get_setN_other _ _ _ _ htxm.symm, get_setN_other _ _ _ _ hrxm.symm,
        get_of_keeps hfree _ (by constructor <;> simp only [F.port0StatusModeHeld] <;> omega)
          (fun g hg => (hkeys g hg _ (by simp)).symm), hmode]
    · exact hanswer (keeps_mono (keeps_trans (keeps_trans hu hfree) hk) (by simp [mapFreeFields]))
    · exact onlyHost_of_noRegs (u := (u.mapFree p k w).mapWired p k w) hun path _ be

/-! ### SHARE and LIMIT (R57, R69, R132, R135) -/

theorem actingWrite_share (u : Chip) {p sub : Nat} (hp : p < 48) (hsub : sub < 8) (be : BitVec 4) (w t d : Word) :
    u.actingWrite (F.admSubShare p sub).addr be w t d = some (u.shareWrite p sub w)
      ∧ u.ignores (F.admSubShare p sub).addr = false := by
  have hpg : (F.admSubShare p sub).addr / 4096 = 0x140 + p := by simp only [F.admSubShare]; omega
  have ho : (F.admSubShare p sub).addr % 4096 = 0x100 + sub * 0x80 := by simp only [F.admSubShare]; omega
  have hport : 0x140 + p - 0x140 = p := by omega
  have hlane : (0x100 + sub * 0x80 - 0x100) / 0x80 = sub := by omega
  constructor
  · unfold Chip.actingWrite
    simp only [hpg, ho, hport, hlane]
    rw [if_neg (by omega), if_neg (by omega), if_pos (by omega)]
  · unfold Chip.ignores
    simp only [hpg, ho]
    rw [if_neg (by omega), if_neg (by omega)]
    simp only [F.admSubShare, Bool.and_eq_false_iff, beq_eq_false_iff_ne]
    omega

theorem writeShare_holds (path : Path) (p : Fin 48) (sub : Fin 8) (be : BitVec 4) (data : Word) (s : State) :
    writeShare path p sub be data s := by
  intro hs
  generalize hw : mergeWord (s.chip.wordAt (F.admSubShare p sub).addr) data (pathEnables path be) = w
  have hp := p.isLt
  have hsub := sub.isLt
  have hpg : (F.admSubShare p sub).addr / 4096 = 0x140 + p.val := by simp only [F.admSubShare]; omega
  have ho : (F.admSubShare p sub).addr % 4096 = 0x100 + sub.val * 0x80 := by simp only [F.admSubShare]; omega
  refine runs_acts (hpg ▸ hs) (by simp only [F.admSubShare]; omega) (by omega) (by omega)
    (slotAt_off (by simp only [F.admSubShare]; omega)) (by omega) fun u hu hun => ?_
  rw [hw]
  obtain ⟨hact, hign⟩ := actingWrite_share u hp hsub (pathEnables path be) w (data &&& beMask (pathEnables path be)) data
  refine ⟨_, hact, ?_⟩
  rw [hign, if_neg Bool.false_ne_true]
  have hflows : u.getN (F.admSubFlows p sub) = s.chip.getN (F.admSubFlows p sub) :=
    getN_probed hu (by constructor <;> simp only [F.admSubFlows] <;> omega)
  have hanswer : ∀ {d : Chip} {l : List Fld}, u.keeps d l →
      s.chip.keeps ((d.parityRestored (F.admSubShare p sub).addr (pathEnables path be)).answer1 [] false false) l :=
    fun h => keeps_answer1 (keeps_parityRestored (keeps_trans hu h) _ _) _ _ _
  unfold Chip.shareWrite
  rw [fusedUpper_probed hu, hflows]
  cases hup : s.chip.fusedUpper p
  case true =>
    exact ⟨fun _ => hanswer (keeps_refl u []), (fun h => absurd h (by decide)), (fun h => absurd h (by decide)),
      onlyHost_of_noRegs hun path _ be⟩
  case false =>
    rw [if_neg Bool.false_ne_true]
    by_cases h0 : s.chip.getN (F.admSubFlows p sub) = 0
    · rw [if_neg (not_not_intro h0)]
      refine ⟨(fun h => absurd h (by decide)), fun _ h => absurd h0 h, fun _ _ => ⟨?_, hanswer (keeps_setN _ _ _)⟩,
        onlyHost_of_noRegs (u := u.setN (F.admSubShare p sub) (bits w 8 0)) hun path _ be⟩
      rw [getN_answer1, getN_parityRestored, getN_setN_same _ _ _ (by simp [F.admSubShare])]
      exact bits_mod w 8 0 9 rfl
    · rw [if_pos h0]
      refine ⟨(fun h => absurd h (by decide)), fun _ _ => ⟨?_, hanswer (keeps_setB _ _ _)⟩, fun _ h => absurd h h0,
        onlyHost_of_noRegs (u := u.setB (F.admStatusShareHeld p) true) hun path _ be⟩
      rw [flag_answer1, flag_parityRestored]
      exact flag_setB_same _ _ _ (by simp [F.admStatusShareHeld]) (by simp [F.admStatusShareHeld])

theorem sum_split (g : Nat → Nat) {k n : Nat} (hk : k < n) :
    ((List.range n).map g).sum = (((List.range n).filter (fun c => c != k)).map g).sum + g k := by
  rw [← List.nodup_range.erase_eq_filter, Nat.add_comm, List.sum_map_erase g (List.mem_range.2 hk)]

/-- The limit of a class acts as it reads, an express class's as at least 256 (R135). -/
def actsAs (c n : Nat) : Nat := if 12 ≤ c then max 256 n else n

/-- The sum of the acting limits of a port's other classes. -/
def Chip.otherLimits (s : Chip) (p k : Nat) : Nat :=
  (((List.range 16).filter (fun c => c != k)).map (fun c => actsAs c (s.getN (F.buf0Limit p c)))).sum

theorem buf0Limit_key_ne (p : Nat) {c k : Nat} (h : c ≠ k) : (F.buf0Limit p c).key ≠ (F.buf0Limit p k).key := by
  simp only [Fld.key, F.buf0Limit]; omega

theorem buf0Limit_offProbes {p c : Nat} (hp : p < 48) (hc : c < 16) : (F.buf0Limit p c).offProbes := by
  constructor <;> simp only [F.buf0Limit] <;> omega

theorem otherLimits_setN (s : Chip) (p k v : Nat) : (s.setN (F.buf0Limit p k) v).otherLimits p k = s.otherLimits p k := by
  unfold Chip.otherLimits
  refine congrArg List.sum (List.map_congr_left fun c hc => ?_)
  have hne : c ≠ k := by simpa using (List.mem_filter.1 hc).2
  rw [getN_setN_other _ _ _ _ (buf0Limit_key_ne p hne)]

theorem otherLimits_probed {s u : Chip} (hu : s.keeps u []) {p : Nat} (hp : p < 48) (k : Nat) :
    u.otherLimits p k = s.otherLimits p k := by
  unfold Chip.otherLimits
  refine congrArg List.sum (List.map_congr_left fun c hc => ?_)
  rw [getN_probed hu (buf0Limit_offProbes hp (List.mem_range.1 (List.mem_filter.1 hc).1))]

/-- A write of LIMIT is refused where it raises the sum of the port's acting limits above its pool, and puts its value else. -/
theorem limitWrite_eq (s : Chip) {p k v : Nat} (hk : k < 16) (hv : v % 2 ^ 15 = v) (hup : s.fusedUpper p = false) :
    s.limitWrite p k v =
      if actsAs k (s.getN (F.buf0Limit p k)) < actsAs k v
        ∧ (if s.fusedLower p then 24576 else 12288) < s.otherLimits p k + actsAs k v
      then (s.setB F.buf3StatusLimitRefused true).setN F.buf3StatusLimitPort p else s.setN (F.buf0Limit p k) v := by
  have hsum : ∀ c : Chip, ((List.range 16).map (c.actLimit p)).sum
      = c.otherLimits p k + actsAs k (c.getN (F.buf0Limit p k)) := fun c => sum_split _ hk
  have hnew : (s.setN (F.buf0Limit p k) v).getN (F.buf0Limit p k) = v :=
    (getN_setN_same _ _ _ (by simp [F.buf0Limit])).trans hv
  unfold Chip.limitWrite
  simp only [hup, Bool.false_eq_true, if_false, hsum, hnew, otherLimits_setN, Nat.add_lt_add_iff_left, Chip.poolSize]

theorem actingWrite_limit (u : Chip) {p k : Nat} (hp : p < 48) (hk : k < 16) (be : BitVec 4) (w t d : Word) :
    u.actingWrite (F.buf0Limit p k).addr be w t d = some (u.limitWrite p k (bits w 14 0))
      ∧ u.ignores (F.buf0Limit p k).addr = false := by
  have hpg : (F.buf0Limit p k).addr / 4096 = 0x120 := by simp only [F.buf0Limit]; omega
  have ho : (F.buf0Limit p k).addr % 4096 = 0x40 + p * 64 + k * 4 := by simp only [F.buf0Limit]; omega
  have hport : (0x40 + p * 64 + k * 4 - 0x40) / 64 = p := by omega
  have hclass : (0x40 + p * 64 + k * 4 - 0x40) / 4 % 16 = k := by omega
  constructor
  · unfold Chip.actingWrite
    simp only [hpg, ho, hport, hclass]
    rw [if_neg (by omega), if_neg (by omega), if_neg (by omega), if_pos ⟨trivial, by omega⟩]
  · unfold Chip.ignores
    simp only [hpg]
    rw [if_neg (by omega), if_neg (by omega)]
    simp only [F.buf0Limit, Bool.and_eq_false_iff, beq_eq_false_iff_ne]
    omega

theorem writeLimit_holds (path : Path) (p : Fin 48) (k : Fin 16) (be : BitVec 4) (data : Word) (s : State) :
    writeLimit path p k be data s := by
  intro hs
  have hp := p.isLt
  have hk := k.isLt
  have hpg : (F.buf0Limit p k).addr / 4096 = 0x120 := by simp only [F.buf0Limit]; omega
  have ho : (F.buf0Limit p k).addr % 4096 = 0x40 + p.val * 64 + k.val * 4 := by simp only [F.buf0Limit]; omega
  refine runs_acts (hpg ▸ hs) (by omega) (by omega) (by omega) (slotAt_off (by omega)) (by omega) fun u hu hun => ?_
  generalize mergeWord (s.chip.wordAt (F.buf0Limit p k).addr) data (pathEnables path be) = w
  obtain ⟨hact, hign⟩ := actingWrite_limit u hp hk (pathEnables path be) w (data &&& beMask (pathEnables path be)) data
  refine ⟨_, hact, ?_⟩
  rw [hign, if_neg Bool.false_ne_true]
  have hanswer : ∀ {d : Chip} {l : List Fld}, u.keeps d l →
      s.chip.keeps ((d.parityRestored (F.buf0Limit p k).addr (pathEnables path be)).answer1 [] false false) l :=
    fun h => keeps_answer1 (keeps_parityRestored (keeps_trans hu h) _ _) _ _ _
  cases hup : s.chip.fusedUpper p
  case true =>
    have hid : u.limitWrite p k (bits w 14 0) = u := if_pos (by rw [fusedUpper_probed hu, hup])
    rw [hid]
    exact ⟨fun _ => hanswer (keeps_refl u []), (fun h => absurd h (by decide)), (fun h => absurd h (by decide)),
      onlyHost_of_noRegs hun path _ be⟩
  case false =>
    rw [limitWrite_eq u hk (bits_mod w 14 0 15 rfl) (by rw [fusedUpper_probed hu, hup]), fusedLower_probed hu,
      otherLimits_probed hu hp, getN_probed hu (buf0Limit_offProbes hp hk)]
    generalize (if s.chip.fusedLower p then 24576 else 12288) = pool
    split
    case isTrue href =>
      refine ⟨(fun h => absurd h (by decide)), fun _ _ => ⟨?_, ?_, hanswer (keeps_trans (keeps_setB _ _ _) (keeps_setN _ _ _))⟩,
        fun _ h => absurd href h,
        onlyHost_of_noRegs (u := (u.setB F.buf3StatusLimitRefused true).setN F.buf3StatusLimitPort p) hun path _ be⟩
      · rw [flag_answer1, flag_parityRestored, flag_setN_other _ _ _ _ (by decide)]
        exact flag_setB_same _ _ _ (by decide) (by decide)
      · rw [getN_answer1, getN_parityRestored, getN_setN_same _ _ _ (by decide)]
        exact Nat.mod_eq_of_lt (by simp only [F.buf3StatusLimitPort]; omega)
    case isFalse href =>
      refine ⟨(fun h => absurd h (by decide)), fun _ h => absurd h href, fun _ _ => ⟨?_, hanswer (keeps_setN _ _ _)⟩,
        onlyHost_of_noRegs (u := u.setN (F.buf0Limit p k) (bits w 14 0)) hun path _ be⟩
      rw [getN_answer1, getN_parityRestored, getN_setN_same _ _ _ (by simp [F.buf0Limit])]
      exact bits_mod w 14 0 15 rfl

end Sys2Proof.Machine

/-! Writes of register words that act, beyond the ports' own (R145, R210, R261, R270, R272): O7. -/

namespace Sys2Proof.Machine

open Sys2Proof.Says

/-- The parity of a word after a write depends on the parity before it alone (R40). -/
theorem parityAfter_congr {s t : Chip} (h : t.badParity = s.badParity) (path : Path) (a : Nat) (be : BitVec 4) :
    t.parityAfter path a be = s.parityAfter path a be := by
  unfold Chip.parityAfter Chip.parityRestored
  split
  · rw [h]
  · exact h

/-- What the answer to a write leaves of the block where the write left what `r` has beside registers (R40). -/
theorem answered_of_noRegs {s r c : Chip} (hr : r.badParity = s.badParity) (hc : c.noRegs = r.noRegs) (path : Path) (a : Nat)
    (be : BitVec 4) :
    let t := (c.parityRestored a (pathEnables path be)).answer1 [] false false
    t = { r with regs := t.regs, badParity := s.parityAfter path a be, reply := written } := by
  have h := onlyHost_of_noRegs hc path a be
  rw [Chip.onlyHost, parityAfter_congr hr] at h
  exact h

/-! ### TBCFG (R261) -/

theorem calUpset_frame (s : Chip) (cause : Nat) (applies : Nat → Nat → Bool) :
    s.calUpset cause applies = { s with calRun := (s.calUpset cause applies).calRun } := by
  unfold Chip.calUpset
  split
  · rfl
  · split <;> rfl

/-- A write of TBCFG puts its fields, and leaves the time base where it forces TCLK. -/
theorem tbCfgWrite_spec (s : Chip) (w : Word) :
    ∃ c r, s.tbCfgWrite w = { c with calRun := r } ∧ c.noRegs = s.noRegs
      ∧ c.flag F.tdc0TbcfgForceTclk = bit w 1 ∧ c.getN F.tdc0TbcfgFreq = bits w 0 0
      ∧ c.flag F.tdc0TbstatusInUse = (s.flag F.tdc0TbstatusInUse && !bit w 1)
      ∧ s.keeps c [F.tdc0TbcfgForceTclk, F.tdc0TbcfgFreq, F.tdc0TbstatusInUse] := by
  have hforce : ((s.setB F.tdc0TbcfgForceTclk (bit w 1)).setN F.tdc0TbcfgFreq (bits w 0 0)).flag F.tdc0TbcfgForceTclk = bit w 1 := by
    rw [flag_setN_other _ _ _ _ (by decide), flag_setB_same _ _ _ (by decide) (by decide)]
  have hfreq : ((s.setB F.tdc0TbcfgForceTclk (bit w 1)).setN F.tdc0TbcfgFreq (bits w 0 0)).getN F.tdc0TbcfgFreq = bits w 0 0 :=
    (getN_setN_same _ _ _ (by decide)).trans (bits_mod w 0 0 1 rfl)
  have huse : ((s.setB F.tdc0TbcfgForceTclk (bit w 1)).setN F.tdc0TbcfgFreq (bits w 0 0)).flag F.tdc0TbstatusInUse
      = s.flag F.tdc0TbstatusInUse := by
    rw [flag_setN_other _ _ _ _ (by decide), flag_setB_other _ _ _ _ (by decide)]
  have hk := keeps_trans (keeps_setB s F.tdc0TbcfgForceTclk (bit w 1)) (keeps_setN _ F.tdc0TbcfgFreq (bits w 0 0))
  have hn : ((s.setB F.tdc0TbcfgForceTclk (bit w 1)).setN F.tdc0TbcfgFreq (bits w 0 0)).noRegs = s.noRegs := rfl
  unfold Chip.tbCfgWrite
  generalize (s.setB F.tdc0TbcfgForceTclk (bit w 1)).setN F.tdc0TbcfgFreq (bits w 0 0) = t at *
  dsimp only
  split
  case isTrue hlost =>
    rw [Bool.and_eq_true] at hlost
    obtain ⟨hw, hu⟩ := hlost
    refine ⟨t.setB F.tdc0TbstatusInUse false, _, calUpset_frame _ _ _, hn, ?_, ?_, ?_, keeps_trans hk (keeps_setB _ _ _)⟩
    · rw [flag_setB_other _ _ _ _ (by decide), hforce]
    · rw [getN_setB_other _ _ _ _ (by decide), hfreq]
    · rw [flag_setB_same _ _ _ (by decide) (by decide), hw, Bool.not_true, Bool.and_false]
  case isFalse hstays =>
    refine ⟨t, t.calRun, rfl, hn, hforce, hfreq, huse.trans ?_, keeps_mono hk (by simp)⟩
    cases hu : s.flag F.tdc0TbstatusInUse
    · rfl
    · cases hw : bit w 1
      · rfl
      · exact absurd (by rw [hw, hu]; rfl) hstays

theorem writeTbcfg_holds (path : Path) (be : BitVec 4) (data : Word) (s : State) : writeTbcfg path be data s := by
  intro hs
  refine runs_acts hs (by decide) (by decide) (by decide) (by decide) (by decide) fun u hu hun => ?_
  obtain ⟨c, r, hc, hn, hforce, hfreq, huse, hk⟩ := tbCfgWrite_spec u
    (mergeWord (s.chip.wordAt F.tdc0TbcfgFreq.addr) data (pathEnables path be))
  refine ⟨_, (congrArg some hc : _), ?_⟩
  have hign : u.ignores F.tdc0TbcfgFreq.addr = false := rfl
  rw [hign, if_neg Bool.false_ne_true]
  refine ⟨?_, ?_, ?_, ?_, ?_⟩
  · rw [flag_answer1, flag_parityRestored]; exact hforce
  · rw [getN_answer1, getN_parityRestored]; exact hfreq
  · rw [flag_answer1, flag_parityRestored, ← flag_probed hu (by constructor <;> decide)]; exact huse
  · exact keeps_answer1 (keeps_parityRestored (t := { c with calRun := r }) (keeps_trans hu hk) _ _) _ _ _
  · have hcal : (({ c with calRun := r } : Chip).parityRestored F.tdc0TbcfgFreq.addr (pathEnables path be)).calRun = r := by
      unfold Chip.parityRestored; split <;> rfl
    have hrest := congrArg (fun x => { x with calRun := r }) (hn.trans hun)
    refine (answered_of_noRegs (s := s.chip) (r := { s.chip with calRun := r }) (c := { c with calRun := r }) rfl hrest path _ be).trans ?_
    rw [show ∀ d x y z, (Chip.answer1 d x y z).calRun = d.calRun from fun _ _ _ _ => rfl, hcal]

/-! ### ESMC_CTRL (R210) -/

/-- A plain field of a word takes its bits of a word written whole (R30). -/
theorem getN_putFields_rw_all (s before : Chip) (a : Nat) (w : Word) (allow : Access → Bool) (f : FieldRow) (hf : f ∈ fieldsAt a)
    (hrw : f.acc = .rw) (hallow : allow .rw = true) :
    (s.putFields before a 0xF w allow).getN (f.at a) = bits w (f.lsb + f.width - 1) f.lsb := by
  have hmem : f ∈ fieldsOf a allow := List.mem_filter.2 ⟨hf, by rw [hrw]; exact hallow⟩
  obtain ⟨hw, hfit⟩ := fieldsAt_fit a f hf
  obtain ⟨u, -, he⟩ := get_foldl_putField before a 0xF w (fieldsOf a allow) (fieldsOf_nodup a allow) f hmem s
  have hlt : bits w (f.lsb + f.width - 1) f.lsb < 2 ^ f.width := by
    rw [← bits_mod w (f.lsb + f.width - 1) f.lsb f.width (by omega)]
    exact Nat.mod_lt _ (Nat.two_pow_pos _)
  have h32 : 2 ^ f.width ≤ 2 ^ 32 := Nat.pow_le_pow_right (by omega) (by omega)
  calc (s.putFields before a 0xF w allow).getN (f.at a)
      = (u.putField before a 0xF w f).getN (f.at a) := congrArg BitVec.toNat he
    _ = (word ((word (bits w (f.lsb + f.width - 1) f.lsb)).toNat % 2 ^ f.width)).toNat := by
        rw [putField_rw_all u before a w f hrw hfit hw, Chip.getN, get_set_same]; rfl
    _ = bits w (f.lsb + f.width - 1) f.lsb := by
        rw [word_toNat, word_toNat, Nat.mod_eq_of_lt (hlt.trans_le h32), Nat.mod_eq_of_lt hlt, Nat.mod_eq_of_lt (hlt.trans_le h32)]

theorem esmcOf_setEsmc_same (s : Chip) (p sub : Nat) (x : EsmcRx) : (s.setEsmc p sub x).esmcOf p sub = x :=
  store_read_write_same _ _ _ _

theorem esmcOf_setEsmc_other (s : Chip) {p sub q k : Nat} (x : EsmcRx) (h : q * 8 + k ≠ p * 8 + sub) :
    (s.setEsmc p sub x).esmcOf q k = s.esmcOf q k := store_read_write_other _ _ _ _ h

/-- What a write of EN makes of a subport's ESMC: one whose bit is 0 has announced nothing. -/
def Chip.esmcStop (en : Nat → Bool) (p : Nat) (t : Chip) (sub : Nat) : Chip :=
  if en sub then t else t.setEsmc p sub { t.esmcOf p sub with sentQl := none }

theorem esmcStops_eq (s : Chip) (p : Nat) :
    s.esmcStops p = (List.range 8).foldl (Chip.esmcStop (fun sub => s.getBit (F.port6EsmcCtrlEn p) sub) p) s := rfl

theorem esmcStop_frame (en : Nat → Bool) (p : Nat) (t : Chip) (sub : Nat) :
    Chip.esmcStop en p t sub = { t with esmc := (Chip.esmcStop en p t sub).esmc } := by
  unfold Chip.esmcStop; split <;> rfl

theorem esmcStop_other (en : Nat → Bool) (t : Chip) {p sub q k : Nat} (h : q * 8 + k ≠ p * 8 + sub) :
    (Chip.esmcStop en p t sub).esmcOf q k = t.esmcOf q k := by
  unfold Chip.esmcStop
  split
  · rfl
  · exact esmcOf_setEsmc_other t _ h

theorem esmcStop_same (en : Nat → Bool) (t : Chip) (p sub : Nat) :
    (Chip.esmcStop en p t sub).esmcOf p sub = if en sub then t.esmcOf p sub else { t.esmcOf p sub with sentQl := none } := by
  unfold Chip.esmcStop
  split
  · rfl
  · exact esmcOf_setEsmc_same t p sub _

theorem foldl_esmcStop_frame (en : Nat → Bool) (p : Nat) (l : List Nat) :
    ∀ s : Chip, l.foldl (Chip.esmcStop en p) s = { s with esmc := (l.foldl (Chip.esmcStop en p) s).esmc } := by
  induction l with
  | nil => intro s; rfl
  | cons sub l ih =>
    intro s
    rw [List.foldl_cons, ih, esmcStop_frame en p s sub]

theorem foldl_esmcStop_other (en : Nat → Bool) (p q k : Nat) (l : List Nat) (h : ∀ sub ∈ l, q * 8 + k ≠ p * 8 + sub) :
    ∀ s : Chip, (l.foldl (Chip.esmcStop en p) s).esmcOf q k = s.esmcOf q k := by
  induction l with
  | nil => intro s; rfl
  | cons sub l ih =>
    intro s
    rw [List.foldl_cons, ih (fun x hx => h x (List.mem_cons_of_mem _ hx)), esmcStop_other en s (h sub List.mem_cons_self)]

theorem foldl_esmcStop_same (en : Nat → Bool) (p k : Nat) (l : List Nat) (hl : l.Nodup) (hk : k ∈ l) :
    ∀ s : Chip, (l.foldl (Chip.esmcStop en p) s).esmcOf p k
      = if en k then s.esmcOf p k else { s.esmcOf p k with sentQl := none } := by
  induction l with
  | nil => cases hk
  | cons sub l ih =>
    intro s
    obtain ⟨hsub, hl⟩ := List.nodup_cons.1 hl
    rw [List.foldl_cons]
    rcases List.mem_cons.1 hk with rfl | hmem
    · have hother : ∀ x ∈ l, p * 8 + k ≠ p * 8 + x := fun x hx he => hsub (Nat.add_left_cancel he ▸ hx)
      rw [foldl_esmcStop_other en p p k l hother, esmcStop_same]
    · have hne : p * 8 + k ≠ p * 8 + sub := fun he => hsub (Nat.add_left_cancel he ▸ hmem)
      rw [ih hl hmem, esmcStop_other en s hne]

theorem actingWrite_esmc (u : Chip) {p : Nat} (hp : p < 48) (be : BitVec 4) (w t d : Word) :
    u.actingWrite (F.port6EsmcCtrlEn p).addr be w t d
        = some ((u.putFields u (F.port6EsmcCtrlEn p).addr 0xF w lockable).esmcStops p)
      ∧ u.ignores (F.port6EsmcCtrlEn p).addr = false := by
  have hpg : (F.port6EsmcCtrlEn p).addr / 4096 = 0x2006 + p * 16 := by simp only [F.port6EsmcCtrlEn]; omega
  have ho : (F.port6EsmcCtrlEn p).addr % 4096 = 0x40 := by simp only [F.port6EsmcCtrlEn]; omega
  have hport : (0x2006 + p * 16) / 16 - 0x200 = p := by omega
  have hpage : (0x2006 + p * 16) % 16 = 6 := by omega
  constructor
  · unfold Chip.actingWrite Chip.portWrite
    simp only [hpg, ho, hport, hpage]
    rw [if_pos (by omega), if_neg (by omega), if_neg (by omega), if_neg (by omega), if_neg (by omega), if_neg (by omega),
      if_neg (by omega), if_neg (by omega), if_neg (by omega), if_pos (by trivial)]
  · unfold Chip.ignores
    simp only [hpg, ho, hpage]
    rw [if_pos (by omega)]
    rfl

/-- EN is the lowest field of ESMC_CTRL's word. -/
theorem esmcEn_mem {p : Nat} (hp : p < 48) : ⟨0, 8, .rw, 0, 60, false⟩ ∈ fieldsAt (F.port6EsmcCtrlEn p).addr := by
  have h : ∀ q : Fin 48, ⟨0, 8, .rw, 0, 60, false⟩ ∈ fieldsAt (F.port6EsmcCtrlEn q.val).addr := by decide
  exact h ⟨p, hp⟩

/-- EN as a write of ESMC_CTRL leaves it. -/
theorem getBit_esmcEn (u : Chip) {p : Nat} (hp : p < 48) (w : Word) {sub : Nat} (h : sub < 8) :
    (u.putFields u (F.port6EsmcCtrlEn p).addr 0xF w lockable).getBit (F.port6EsmcCtrlEn p) sub = bit w sub := by
  have hbit := getBit_putFields u u (F.port6EsmcCtrlEn p).addr 0xF w lockable _ (esmcEn_mem hp) rfl sub h rfl
  rw [Nat.zero_add] at hbit
  have hen : bit (0xF : BitVec 4) (sub / 8) = true := by rw [Nat.div_eq_of_lt h]; decide
  exact hbit.trans (if_pos hen)

/-- Where a port's EN holds the bits of a word, each subport whose bit is 0 has announced nothing. -/
theorem esmcStops_spec (v : Chip) (p : Nat) (w : Word) (hen : ∀ sub < 8, v.getBit (F.port6EsmcCtrlEn p) sub = bit w sub) :
    v.esmcStops p = { v with esmc := (v.esmcStops p).esmc }
      ∧ (∀ sub < 8, (v.esmcStops p).esmcOf p sub = if bit w sub then v.esmcOf p sub else { v.esmcOf p sub with sentQl := none })
      ∧ (∀ q sub, sub < 8 → q ≠ p → (v.esmcStops p).esmcOf q sub = v.esmcOf q sub) := by
  rw [esmcStops_eq]
  refine ⟨foldl_esmcStop_frame _ p _ v, fun sub hsub => ?_, fun q sub hsub hq => ?_⟩
  · rw [foldl_esmcStop_same _ p sub _ List.nodup_range (List.mem_range.2 hsub), hen sub hsub]
  · refine foldl_esmcStop_other _ p q sub _ (fun k hk => ?_) v
    have := List.mem_range.1 hk
    omega

theorem writeEsmc_holds (path : Path) (p : Fin 48) (be : BitVec 4) (data : Word) (s : State) : writeEsmc path p be data s := by
  intro hs
  have hp := p.isLt
  have hpg : (F.port6EsmcCtrlEn p).addr / 4096 = 0x2006 + p.val * 16 := by simp only [F.port6EsmcCtrlEn]; omega
  have ho : (F.port6EsmcCtrlEn p).addr % 4096 = 0x40 := by simp only [F.port6EsmcCtrlEn]; omega
  refine runs_acts (hpg ▸ hs) (by simp only [F.port6EsmcCtrlEn]; omega) (by omega) (by omega)
    (slotAt_off (by simp only [F.port6EsmcCtrlEn]; omega)) (by omega) fun u hu hun => ?_
  generalize mergeWord (s.chip.wordAt (F.port6EsmcCtrlEn p).addr) data (pathEnables path be) = w
  obtain ⟨hact, hign⟩ := actingWrite_esmc u hp (pathEnables path be) w (data &&& beMask (pathEnables path be)) data
  refine ⟨_, hact, ?_⟩
  rw [hign, if_neg Bool.false_ne_true]
  have hput := fun f hf hrw => getN_putFields_rw_all u u (F.port6EsmcCtrlEn p).addr w lockable f hf hrw rfl
  have hen := fun sub hsub => getBit_esmcEn u hp w (sub := sub) hsub
  have hk := keeps_putFields u u (F.port6EsmcCtrlEn p).addr 0xF w lockable
  have hn := (noRegs_putFields u u (F.port6EsmcCtrlEn p).addr 0xF w lockable).trans hun
  generalize u.putFields u (F.port6EsmcCtrlEn p).addr 0xF w lockable = v at hput hen hk hn
  obtain ⟨hframe, hsame, hother⟩ := esmcStops_spec v p w hen
  have hesmc : ∀ q sub, v.esmcOf q sub = s.chip.esmcOf q sub := fun q sub =>
    congrArg (fun e => Store.read esmcDefault e (q * 8 + sub)) (of_noRegs Chip.esmc (fun _ => rfl) hn)
  simp only [hesmc] at hsame hother
  have hregs : (v.esmcStops p).regs = v.regs := by rw [hframe]
  have hrest : (v.esmcStops p).noRegs = ({ s.chip with esmc := (v.esmcStops p).esmc } : Chip).noRegs := by
    conv_lhs => rw [hframe]
    exact congrArg (fun x => { x with esmc := (v.esmcStops p).esmc }) hn
  generalize v.esmcStops p = c at hframe hsame hother hregs hrest
  have hstore : ∀ q sub, ((c.parityRestored (F.port6EsmcCtrlEn p).addr (pathEnables path be)).answer1 [] false false).esmcOf q sub
      = c.esmcOf q sub := fun q sub => by
    unfold Chip.parityRestored; split <;> rfl
  refine ⟨fun f hf hrw => ?_, fun sub hsub => ?_, fun q sub hsub hq => ?_, ?_, ?_⟩
  · rw [getN_answer1, getN_parityRestored, getN_of_regs hregs, hput f hf hrw]
  · rw [hstore, hsame sub hsub]
  · rw [hstore, hother q sub hsub hq]
  · refine keeps_answer1 (keeps_parityRestored (keeps_mono (keeps_trans (keeps_trans hu hk) (keeps_of_regs [] hregs)) fun g hg => ?_)
      _ _) _ _ _
    rw [List.append_nil] at hg
    exact List.map_subset _ (List.filter_subset_self _) hg
  · refine (answered_of_noRegs (s := s.chip) (r := { s.chip with esmc := c.esmc }) rfl hrest path _ be).trans ?_
    have hkept : (c.parityRestored (F.port6EsmcCtrlEn p).addr (pathEnables path be)).esmc = c.esmc := by
      unfold Chip.parityRestored; split <;> rfl
    rw [show ∀ d x y z, (Chip.answer1 d x y z).esmc = d.esmc from fun _ _ _ _ => rfl, hkept]

/-! ### CC_CTRL (R43, R145) -/

theorem writeInject_holds (path : Path) (be : BitVec 4) (data : Word) (s : State) : writeInject path be data s := by
  intro hs
  refine runs_acts hs (by decide) (by decide) (by decide) (by decide) (by decide) fun u hu hun => ?_
  generalize data &&& beMask (pathEnables path be) = d
  generalize ha : (bit d 0 || bit d 2) = a
  generalize hb : (bit d 1 || bit d 2) = b
  have hact : u.actingWrite F.fabCcCtrlInjectA.addr (pathEnables path be)
      (mergeWord (s.chip.wordAt F.fabCcCtrlInjectA.addr) data (pathEnables path be)) d data = some (u.injectWrite a b) := by
    rw [← ha, ← hb]; rfl
  refine ⟨_, hact, ?_⟩
  have hign : u.ignores F.fabCcCtrlInjectA.addr = false := rfl
  rw [hign, if_neg Bool.false_ne_true]
  have hfab : u.fab = s.chip.fab := of_noRegs Chip.fab (fun _ => rfl) hun
  have hinject : (u.inject a b).noRegs = (s.chip.inject a b).noRegs := by
    rw [Chip.inject, Chip.inject, hfab]
    exact congrArg (fun x => { x with fab := { s.chip.fab with injectA := s.chip.fab.injectA || a, injectB := s.chip.fab.injectB || b } })
      hun
  have hku : s.chip.keeps (u.inject a b) [] := hu
  have hparity : (s.chip.inject a b).badParity = s.chip.badParity := rfl
  unfold Chip.injectWrite
  rw [hfab]
  dsimp only
  cases hlost : ((a && s.chip.fab.injectA) || (b && s.chip.fab.injectB))
  case true =>
    refine ⟨fun _ => ⟨?_, ?_⟩, (fun h => absurd h (by decide)), ?_⟩
    · rw [if_pos rfl, flag_answer1, flag_parityRestored]
      exact flag_setB_same _ _ _ (by decide) (by decide)
    · exact keeps_answer1 (keeps_parityRestored (keeps_trans hku (keeps_setB _ (F.hdrPgStatusTrgLost 0x100) true)) _ _) _ _ _
    · exact answered_of_noRegs (c := (u.inject a b).setB (F.hdrPgStatusTrgLost 0x100) true) hparity hinject path _ be
  case false =>
    exact ⟨(fun h => absurd h (by decide)), fun _ => keeps_answer1 (keeps_parityRestored hku _ _) _ _ _,
      answered_of_noRegs (c := u.inject a b) hparity hinject path _ be⟩

/-! ### The ring words of an event channel (R270, R272) -/

/-- A word of a channel's ring whose write is ignored while the ring is in use. -/
theorem runs_ringWord {path : Path} {e o : Nat} {be : BitVec 4} {data : Word} {s : State} (he : e < 8)
    (ho : o = 0x58 ∨ o = 0x5C ∨ o = 0x60) (hs : s.chip.serves path (0x51 + e)) (hmode : s.chip.getN (F.evCtrlMode e) = 2) :
    Runs (.registerWrite path (BitVec.ofNat 27 (0x51000 + e * 0x1000 + o)) be data) s (fun t =>
      s.chip.keeps t [] ∧ t = { s.chip with regs := t.regs, reply := written }) := by
  have hpg : (0x51000 + e * 0x1000 + o) / 4096 = 0x51 + e := by omega
  have hoff : (0x51000 + e * 0x1000 + o) % 4096 = o := by omega
  refine runs_acts (hpg ▸ hs) (by omega) (by omega) (by omega) (slotAt_off (by omega)) (by omega) fun u hu hun => ?_
  have hmodeU : u.getN (F.evCtrlMode e) = 2 :=
    (getN_probed hu (by constructor <;> simp only [F.evCtrlMode] <;> omega)).trans hmode
  have hchan : 0x51 + e - 0x51 = e := by omega
  refine ⟨u, ?_, ?_⟩
  · unfold Chip.actingWrite Chip.eventWrite
    simp only [hpg, hoff, hchan]
    rw [if_neg (by omega), if_pos (by omega), if_neg (by omega), if_pos ho, if_pos hmodeU]
  · have hign : u.ignores (0x51000 + e * 0x1000 + o) = true := by
      unfold Chip.ignores
      simp only [hpg, hoff, hchan]
      rw [if_neg (by omega), if_pos (by omega), hmodeU]; rfl
    rw [hign, if_pos rfl]
    refine ⟨keeps_answer1 hu _ _ _, ?_⟩
    rw [eq_of_noRegs hun]; rfl

theorem fieldsAt_dmaRd {e : Nat} (he : e < 8) : fieldsAt (F.evDmaRd e).addr = [⟨0, 20, .rw, 0, 124, false⟩] := by
  have h : ∀ k : Fin 8, fieldsAt (F.evDmaRd k.val).addr = [⟨0, 20, .rw, 0, 124, false⟩] := by decide
  exact h ⟨e, he⟩

/-- DMA_RD takes the enabled bytes of its word (R36). -/
theorem getN_dmaRd (u : Chip) {e : Nat} (he : e < 8) (be : BitVec 4) (w : Word) :
    (u.putFields u (F.evDmaRd e).addr be w lockable).getN (F.evDmaRd e)
      = bits (mergeWord (u.wordAt (F.evDmaRd e).addr) w be) 19 0 := by
  have hrow := fieldsAt_dmaRd he
  have hword : u.wordAt (F.evDmaRd e).addr = u.get (F.evDmaRd e) := by
    rw [Chip.wordAt, hrow, List.foldl_cons, List.foldl_nil]
    exact BitVec.zero_or.trans (BitVec.shiftLeft_zero _)
  have hput : u.putFields u (F.evDmaRd e).addr be w lockable
      = u.set (F.evDmaRd e) ((u.get (F.evDmaRd e) &&& ~~~word (bits (beMask be) 19 0)) ||| (word (bits w 19 0) &&& word (bits (beMask be) 19 0))) := by
    rw [Chip.putFields, hrow]; rfl
  have hlt : (u.putFields u (F.evDmaRd e).addr be w lockable).getN (F.evDmaRd e) < 2 ^ 20 := by
    rw [hput]; exact getN_set_lt u (F.evDmaRd e) _ (by simp [F.evDmaRd])
  refine Nat.eq_of_testBit_eq fun k => ?_
  rw [← getBit_eq_testBit, bits_testBit, Nat.zero_add]
  by_cases hk : k < 20
  · rw [hput, getBit_set_same, hword, mergeWord]
    have h32 : k < 32 := by omega
    have hw : k < (F.evDmaRd e).width := hk
    simp only [hw, hk, h32, BitVec.getLsbD_or, BitVec.getLsbD_and, BitVec.getLsbD_not, word_getLsbD, bits_testBit, decide_true,
      Bool.true_and, Nat.zero_add, Nat.sub_zero]
  · rw [getBit_eq_testBit, Nat.testBit_lt_two_pow (hlt.trans_le (Nat.pow_le_pow_right (by omega) (by omega)))]
    simp [hk]

theorem showStall_parityRestored (v : Chip) (e a : Nat) (be : BitVec 4) :
    (v.parityRestored a be).showStall e = (v.showStall e).parityRestored a be := by
  unfold Chip.parityRestored; split <;> rfl

theorem dmaRoom_congr {s t : Chip} {e : Nat} (hsize : t.getN (F.evDmaCfgSize e) = s.getN (F.evDmaCfgSize e))
    (hrd : t.getN (F.evDmaRd e) = s.getN (F.evDmaRd e)) (hwr : t.getN (F.evDmaWr e) = s.getN (F.evDmaWr e)) :
    t.dmaRoom e = s.dmaRoom e := by
  have hn : t.dmaSize e = s.dmaSize e := by rw [Chip.dmaSize, Chip.dmaSize, hsize]
  unfold Chip.dmaRoom
  rw [hn, hrd, hwr]

/-- DMA_STALL stands apart from the words of its channel's ring. -/
theorem dmaStall_key_ne (e : Nat) : (F.evDmaRd e).key ≠ (F.evStatusDmaStall e).key
    ∧ (F.evDmaCfgSize e).key ≠ (F.evStatusDmaStall e).key ∧ (F.evDmaWr e).key ≠ (F.evStatusDmaStall e).key
    ∧ (F.evCtrlMode e).key ≠ (F.evDmaRd e).key := by
  simp only [Fld.key, F.evDmaRd, F.evStatusDmaStall, F.evDmaCfgSize, F.evDmaWr, F.evCtrlMode]
  omega

theorem writeDma_holds (path : Path) (e : Fin 8) (be : BitVec 4) (data : Word) (s : State) : writeDma path e be data s := by
  intro hs hmode
  have he := e.isLt
  refine ⟨fun a ha => ?_, ?_⟩
  · simp only [List.mem_cons, List.not_mem_nil, or_false] at ha
    rcases ha with rfl | rfl | rfl
    · exact runs_ringWord he (.inl rfl) hs hmode
    · exact runs_ringWord he (.inr (.inl rfl)) hs hmode
    · exact runs_ringWord he (.inr (.inr rfl)) hs hmode
  · have hpg : (F.evDmaRd e).addr / 4096 = 0x51 + e.val := by simp only [F.evDmaRd]; omega
    have ho : (F.evDmaRd e).addr % 4096 = 0x68 := by simp only [F.evDmaRd]; omega
    have hchan : 0x51 + e.val - 0x51 = e := by omega
    refine runs_acts (hpg ▸ hs) (by omega) (by omega) (by omega) (slotAt_off (by omega)) (by omega) fun u hu hun => ?_
    have hact : u.actingWrite (F.evDmaRd e).addr (pathEnables path be)
        (mergeWord (s.chip.wordAt (F.evDmaRd e).addr) data (pathEnables path be)) (data &&& beMask (pathEnables path be)) data
        = some ((u.writeWord (F.evDmaRd e).addr (pathEnables path be) data).showStall e) := by
      have haddr : 0x51068 + e.val * 0x1000 = (F.evDmaRd e).addr := by simp only [F.evDmaRd]; omega
      unfold Chip.actingWrite Chip.eventWrite
      simp only [hpg, ho, hchan, haddr]
      rw [if_neg (by omega), if_pos (by omega), if_neg (by omega), if_neg (by omega), if_pos (by trivial)]
    have hign : u.ignores (F.evDmaRd e).addr = false := by
      unfold Chip.ignores
      simp only [hpg, ho]
      rw [if_neg (by omega), if_neg (by omega)]
      simp only [F.evDmaRd, Bool.and_eq_false_iff, beq_eq_false_iff_ne]
      omega
    refine ⟨_, hact, ?_⟩
    rw [hign, if_neg Bool.false_ne_true]
    rw [Chip.writeWord, showStall_parityRestored, parityRestored_twice]
    have hrd := getN_dmaRd u he (pathEnables path be) data
    have hk : u.keeps (u.putFields u (F.evDmaRd e).addr (pathEnables path be) data lockable) [F.evDmaRd e] := by
      have hk := keeps_putFields u u (F.evDmaRd e).addr (pathEnables path be) data lockable
      rw [fieldsOf, fieldsAt_dmaRd he] at hk
      exact hk
    have hn := (noRegs_putFields u u (F.evDmaRd e).addr (pathEnables path be) data lockable).trans hun
    rw [wordAt_probed hu (by omega)] at hrd
    generalize u.putFields u (F.evDmaRd e).addr (pathEnables path be) data lockable = v at hrd hk hn
    obtain ⟨hrdKey, hsizeKey, hwrKey, hmodeKey⟩ := dmaStall_key_ne e
    have hmodeV : v.getN (F.evCtrlMode e) = 2 := by
      have hoff : (F.evCtrlMode e).offProbes := by constructor <;> simp only [F.evCtrlMode] <;> omega
      rw [Chip.getN, get_of_keeps (keeps_trans hu hk) _ hoff (by simpa using hmodeKey)]
      exact hmode
    have hroom : (((v.showStall e).parityRestored (F.evDmaRd e).addr (pathEnables path be)).answer1 [] false false).dmaRoom e
        = v.dmaRoom e := by
      refine dmaRoom_congr ?_ ?_ ?_ <;> rw [getN_answer1, getN_parityRestored, Chip.showStall]
      · exact getN_setB_other _ _ _ _ hsizeKey
      · exact getN_setB_other _ _ _ _ hrdKey
      · exact getN_setB_other _ _ _ _ hwrKey
    refine ⟨?_, ?_, ?_, ?_⟩
    · rw [getN_answer1, getN_parityRestored, Chip.showStall, getN_setB_other _ _ _ _ hrdKey]
      exact hrd
    · rw [hroom, flag_answer1, flag_parityRestored, Chip.showStall,
        flag_setB_same _ _ _ (by simp [F.evStatusDmaStall]) (by simp [F.evStatusDmaStall]), Chip.evMode, hmodeV]
      rfl
    · exact keeps_answer1 (keeps_parityRestored (keeps_trans (keeps_trans hu hk) (keeps_setB v (F.evStatusDmaStall e) _)) _ _) _ _ _
    · exact onlyHost_of_noRegs (u := v.showStall e) hn path _ be

/-- Settles O7: register words by access code, a locked page, a page in reset, and the words whose writes have rules of their
own. -/
theorem registerWritesActByAccessCode : Obligations.RegisterWritesActByAccessCode :=
  fun s => ⟨fun path addr be data => writePlain_holds path addr be data s, fun path be data => writeRw_holds path be data s,
    fun path be data => writeW1c_holds path be data s, fun path addr be data => writeLocked_holds path addr be data s,
    fun path addr be data => writeInReset_holds path addr be data s, fun addr be head => readPlain_holds addr be head s,
    fun addr be => readInReset_holds addr be s, fun path addr be data n o => writeSlot_holds path addr be data n o s,
    fun path p k be data => writeMap_holds path p k be data s, fun path p sub be data => writeShare_holds path p sub be data s,
    fun path p k be data => writeLimit_holds path p k be data s, fun path be data => writeTbcfg_holds path be data s,
    fun path p be data => writeEsmc_holds path p be data s, fun path be data => writeInject_holds path be data s,
    fun path e be data => writeDma_holds path e be data s⟩

end Sys2Proof.Machine

/-! What an access of the register bus does not touch, and does not look at (R26): the answer to the request before it, and what
decides whether the endpoint serves a request. Of an access of a block and of the same block with another last answer, what the
two leave differs in that answer alone. The lemmas follow the operations that accesses are made of. -/

namespace Sys2Proof.Machine

/-- The block with another last answer. -/
def Chip.withReply (s : Chip) (r : Reply) : Chip := { s with reply := r }

/-- The power and the readiness of the endpoint. -/
abbrev Doors := Bool × Phase × Bool × Bool × Nat

/-- What decides whether the endpoint serves memory requests (R24, R26, R250). -/
def Chip.doors (s : Chip) : Doors :=
  (s.power.linkUp, s.power.phase, s.pcie.d3hot, s.flag F.rstStatusReady, s.getN F.rstCause)

theorem pcieServes_of_doors {s t : Chip} (h : t.doors = s.doors) : t.pcieServes = s.pcieServes := by
  simp only [Chip.doors, Prod.mk.injEq] at h
  obtain ⟨hup, hphase, hd3, hready, hcause⟩ := h
  simp only [Chip.pcieServes, Chip.pcieAnswers, Chip.ready, hup, hphase, hd3, hready, hcause]

/-- A field that is none of the doors. -/
def Fld.offDoors (f : Fld) : Prop := f.lsb < 32 ∧ f.addr ≠ F.rstStatusReady.addr ∧ f.addr ≠ F.rstCause.addr

/-- Every field of a page's header, and every field beyond the first two pages, is none of the doors. -/
theorem Fld.offDoors.of {a l w : Nat} {v : Word} (h : (0x2000 ≤ a ∨ a % 4096 < 0x40) ∧ l < 32) :
    (⟨a, l, w, v⟩ : Fld).offDoors := by
  obtain ⟨ha, hl⟩ := h
  refine ⟨hl, ?_, ?_⟩ <;> simp only [F.rstStatusReady, F.rstCause] <;> omega

/-- `t` has the doors `b`, and `t'` is `t` but for its last answer `r`. -/
structure Alike (b : Doors) (r : Reply) (t t' : Chip) : Prop where
  doors : t.doors = b
  same : t' = t.withReply r

variable {b : Doors} {r : Reply} {t t' : Chip}

theorem Alike.base (h : t.doors = b) : Alike b r t (t.withReply r) := ⟨h, rfl⟩

/-- To show something of two blocks that are alike, show it of any block and that block with another last answer. -/
theorem Alike.lift {motive : Chip → Chip → Prop} (base : ∀ u : Chip, u.doors = b → motive u (u.withReply r)) :
    ∀ u u' : Chip, Alike b r u u' → motive u u' := by
  rintro u _ ⟨hu, rfl⟩
  exact base u hu

theorem Alike.set {f : Fld} {v : Word} (h : Alike b r t t') (hf : f.offDoors) : Alike b r (t.set f v) (t'.set f v) := by
  obtain ⟨hd, rfl⟩ := h
  obtain ⟨hl, hready, hcause⟩ := hf
  refine ⟨?_, rfl⟩
  have h1 : (t.set f v).getN F.rstCause = t.getN F.rstCause :=
    congrArg BitVec.toNat (get_set_other t f _ v (key_ne_of_addr (by decide) hl hcause.symm))
  have h2 : (t.set f v).flag F.rstStatusReady = t.flag F.rstStatusReady := by
    rw [Chip.flag, Chip.flag, Chip.getN, Chip.getN, get_set_other t f _ v (key_ne_of_addr (by decide) hl hready.symm)]
  rw [Chip.doors, h1, h2]
  exact hd

theorem Alike.setN {f : Fld} {v : Nat} (h : Alike b r t t') (hf : f.offDoors) : Alike b r (t.setN f v) (t'.setN f v) := h.set hf

theorem Alike.setB {f : Fld} {v : Bool} (h : Alike b r t t') (hf : f.offDoors) : Alike b r (t.setB f v) (t'.setB f v) := h.setN hf

theorem Alike.setBit {f : Fld} {k : Nat} {v : Bool} (h : Alike b r t t') (hf : f.offDoors) :
    Alike b r (t.setBit f k v) (t'.setBit f k v) := by
  obtain ⟨hd, rfl⟩ := h
  exact Alike.setN ⟨hd, rfl⟩ hf

theorem Alike.setMax {f : Fld} {v : Nat} (h : Alike b r t t') (hf : f.offDoors) : Alike b r (t.setMax f v) (t'.setMax f v) := by
  obtain ⟨hd, rfl⟩ := h
  exact Alike.setN ⟨hd, rfl⟩ hf

theorem Alike.addSat {f : Fld} {n : Nat} (h : Alike b r t t') (hf : f.offDoors) : Alike b r (t.addSat f n) (t'.addSat f n) := by
  obtain ⟨hd, rfl⟩ := h
  exact Alike.setN ⟨hd, rfl⟩ hf

/-- Two blocks that are alike meet a condition of theirs alike. -/
theorem Alike.ite_of {c c' : Prop} [Decidable c] [Decidable c'] {x x' y y' : Chip} (hc : c' = c) (hx : c → Alike b r x x')
    (hy : ¬ c → Alike b r y y') : Alike b r (if c then x else y) (if c' then x' else y') := by
  subst hc
  by_cases h : c'
  · rw [if_pos h, if_pos h]; exact hx h
  · rw [if_neg h, if_neg h]; exact hy h

theorem Alike.ite {c : Prop} [Decidable c] {x x' y y' : Chip} (hx : c → Alike b r x x')
    (hy : ¬ c → Alike b r y y') : Alike b r (if c then x else y) (if c then x' else y') := .ite_of rfl hx hy

theorem Alike.foldl {α : Type} {g g' : Chip → α → Chip} {l : List α}
    (hg : ∀ x ∈ l, ∀ u u', Alike b r u u' → Alike b r (g u x) (g' u' x)) (h : Alike b r t t') :
    Alike b r (l.foldl g t) (l.foldl g' t') := by
  induction l generalizing t t' with
  | nil => exact h
  | cons x l ih =>
    exact ih (fun y hy => hg y (List.mem_cons_of_mem _ hy)) (hg x List.mem_cons_self _ _ h)

/-! ### Counters, probes and faults -/

theorem Alike.probeAdd {k n : Nat} (fuel : Nat) (h : Alike b r t t') : Alike b r (t.probeAdd k n fuel) (t'.probeAdd k n fuel) := by
  induction fuel generalizing t t' k n with
  | zero => exact h
  | succ fuel ih =>
    obtain ⟨hd, rfl⟩ := h
    have hset : Alike b r (t.setN (F.pcnt1Count k) ((t.getN (F.pcnt1Count k) + n) % 2 ^ 32)) _ := Alike.setN ⟨hd, rfl⟩ (.of (by omega))
    exact .ite (fun _ => hset) fun _ => .ite (fun _ => ih hset) fun _ => hset

theorem Alike.feed {a n : Nat} (h : Alike b r t t') : Alike b r (t.feed a n) (t'.feed a n) := by
  obtain ⟨hd, rfl⟩ := h
  exact .foldl (fun k _ u u' hu => .ite (fun _ => hu.probeAdd 64) fun _ => hu) ⟨hd, rfl⟩

theorem Alike.access {k p m a : Nat} (h : Alike b r t t') : Alike b r (t.access k p m a) (t'.access k p m a) := by
  obtain ⟨hd, rfl⟩ := h
  exact .foldl (fun k _ u u' hu => .ite (fun _ => hu.probeAdd 64) fun _ => hu) ⟨hd, rfl⟩

theorem Alike.count {f : Fld} {n : Nat} (h : Alike b r t t') (hf : f.offDoors) : Alike b r (t.count f n) (t'.count f n) := by
  obtain ⟨hd, rfl⟩ := h
  exact .ite (fun _ => ⟨hd, rfl⟩) fun _ => Alike.feed (Alike.setN ⟨hd, rfl⟩ hf)

theorem Alike.bump {f : Fld} (h : Alike b r t t') (hf : f.offDoors) : Alike b r (t.bump f) (t'.bump f) := h.count hf

theorem Alike.show {f : Fld} {v : Nat} (h : Alike b r t t') (hf : f.offDoors) : Alike b r (t.show f v) (t'.show f v) := by
  obtain ⟨hd, rfl⟩ := h
  exact .ite (fun _ => ⟨hd, rfl⟩) fun _ => Alike.setN ⟨hd, rfl⟩ hf

theorem Alike.showB {f : Fld} {v : Bool} (h : Alike b r t t') (hf : f.offDoors) : Alike b r (t.showB f v) (t'.showB f v) := h.show hf

theorem Alike.fault {k : Nat} (h : Alike b r t t') : Alike b r (t.fault k) (t'.fault k) := by
  obtain ⟨hd, rfl⟩ := h
  have hset : Alike b r (t.setBit F.hlthFault k true) _ := Alike.setBit ⟨hd, rfl⟩ (.of (by omega))
  exact .ite (fun _ => ⟨hset.doors, rfl⟩) fun _ => hset

theorem Alike.pageFault {k pg : Nat} (h : Alike b r t t') : Alike b r (t.pageFault k pg) (t'.pageFault k pg) :=
  h.fault.setN (.of (by omega))

end Sys2Proof.Machine

/-! What an access of the register bus does not touch: frames, links, and what the ports' registers set going. -/

namespace Sys2Proof.Machine

variable {b : Doors} {r : Reply} {t t' : Chip}

/-! ### Parts of the state beside registers -/

theorem Alike.raise {n : Nat} (h : Alike b r t t') : Alike b r (t.raise n) (t'.raise n) := by
  obtain ⟨hd, rfl⟩ := h
  exact ⟨hd, rfl⟩

theorem Alike.setLink_of {p sub : Nat} {l l' : Link} (hl : l' = l) (h : Alike b r t t') :
    Alike b r (t.setLink p sub l) (t'.setLink p sub l') := by
  obtain ⟨hd, rfl⟩ := h
  subst hl
  exact ⟨hd, rfl⟩

theorem Alike.setLink {p sub : Nat} {l : Link} (h : Alike b r t t') : Alike b r (t.setLink p sub l) (t'.setLink p sub l) :=
  h.setLink_of rfl

theorem Alike.putFrame {f : Frame} (h : Alike b r t t') :
    Alike b r (t.putFrame f) (t'.putFrame f) := by
  obtain ⟨hd, rfl⟩ := h
  exact ⟨hd, rfl⟩

theorem Alike.setSched {p : Nat} {x : Sched} (h : Alike b r t t') :
    Alike b r (t.setSched p x) (t'.setSched p x) := by
  obtain ⟨hd, rfl⟩ := h
  exact ⟨hd, rfl⟩

theorem Alike.setFuse_of {p : Nat} {x x' : Fuse} (hx : x' = x) (h : Alike b r t t') :
    Alike b r (t.setFuse p x) (t'.setFuse p x') := by
  obtain ⟨hd, rfl⟩ := h
  subst hx
  exact ⟨hd, rfl⟩

theorem Alike.setFuse {p : Nat} {x : Fuse} (h : Alike b r t t') : Alike b r (t.setFuse p x) (t'.setFuse p x) := h.setFuse_of rfl

theorem Alike.markHeld {q sub : Nat} (h : Alike b r t t') : Alike b r (t.markHeld q sub) (t'.markHeld q sub) := by
  obtain ⟨hd, rfl⟩ := h
  exact ⟨hd, rfl⟩

theorem Alike.restartSessions {test : BitVec 256 → Bool} (h : Alike b r t t') :
    Alike b r (t.restartSessions test) (t'.restartSessions test) := by
  obtain ⟨hd, rfl⟩ := h
  exact ⟨hd, rfl⟩

theorem Alike.calUpset {cause : Nat} {applies : Nat → Nat → Bool} (h : Alike b r t t')
    : Alike b r (t.calUpset cause applies) (t'.calUpset cause applies) := by
  obtain ⟨hd, rfl⟩ := h
  unfold Chip.calUpset
  rw [show (t.withReply r).calRun = t.calRun from rfl]
  cases t.calRun with
  | none => exact ⟨hd, rfl⟩
  | some x => exact .ite (fun _ => ⟨hd, rfl⟩) fun _ => ⟨hd, rfl⟩

/-! ### Frames -/

theorem Alike.freeCells {o n : Nat} (h : Alike b r t t') : Alike b r (t.freeCells o n) (t'.freeCells o n) := by
  obtain ⟨hd, rfl⟩ := h
  exact .ite (fun _ => ⟨hd, rfl⟩) fun _ => Alike.setN ⟨hd, rfl⟩ (.of (by omega))

theorem Alike.dropFrame {f : Frame} (h : Alike b r t t') : Alike b r (t.dropFrame f) (t'.dropFrame f) := by
  obtain ⟨hd, rfl⟩ := h
  refine Alike.freeCells (Alike.freeCells ⟨?_, ?_⟩)
  · exact hd
  · rfl

theorem Alike.endFrame {f : Frame} (h : Alike b r t t') : Alike b r (t.endFrame f) (t'.endFrame f) := by
  obtain ⟨hd, rfl⟩ := h
  exact .ite (fun _ => Alike.putFrame ⟨hd, rfl⟩) fun _ => Alike.dropFrame ⟨hd, rfl⟩

theorem Alike.breakPromise {f : Frame} {ctr : Nat → Nat → Fld} (h : Alike b r t t') (hc : ∀ p sub, (ctr p sub).offDoors) :
    Alike b r (t.breakPromise f ctr) (t'.breakPromise f ctr) :=
  .ite (fun _ => h.bump (hc _ _)) fun _ => h

theorem Alike.abort {f : Frame} (h : Alike b r t t') : Alike b r (t.abort f) (t'.abort f) :=
  .ite (fun _ => h.endFrame.bump (.of (by omega))) fun _ => h.endFrame

theorem Alike.flush {pick : Frame → Bool} {brk : Nat → Nat → Fld} {ctr : Option (Nat → Nat → Fld)} (h : Alike b r t t')
    (hb : ∀ p sub, (brk p sub).offDoors) (hc : ∀ c ∈ ctr, ∀ p sub, (c p sub).offDoors) :
    Alike b r (t.flush pick brk ctr) (t'.flush pick brk ctr) := by
  obtain ⟨hd, rfl⟩ := h
  refine .foldl (fun f _ u u' hu => ?_) ⟨hd, rfl⟩
  have hbroken := (hu.dropFrame (f := f)).breakPromise (f := f) hb
  match ctr, hc with
  | some c, hc => exact hbroken.bump (hc c rfl _ _)
  | none, _ => exact hbroken

theorem Alike.slate {kind index flags : Nat} {stamp : Raw} (h : Alike b r t t') :
    Alike b r (t.slate kind index flags stamp).1 (t'.slate kind index flags stamp).1
      ∧ (t'.slate kind index flags stamp).2 = (t.slate kind index flags stamp).2 := by
  obtain ⟨hd, rfl⟩ := h
  exact ⟨⟨hd, rfl⟩, rfl⟩

theorem Alike.addKib {f : Fld} {n : Nat} (h : Alike b r t t') (hf : f.offDoors) :
    Alike b r (t.addKib f n) (t'.addKib f n) := by
  obtain ⟨hd, rfl⟩ := h
  exact Alike.count (t := { t with kib := Store.write 0 t.kib f.addr ((Store.read 0 t.kib f.addr + n) % 1024) }) ⟨hd, rfl⟩ hf

theorem Alike.countSent {m sub len : Nat} (h : Alike b r t t') : Alike b r (t.countSent m sub len) (t'.countSent m sub len) :=
  h |>.bump (.of (by omega)) |>.addKib (.of (by omega)) |>.addKib (.of (by omega))

theorem Alike.emit {m sub : Nat} {a : LineStamp} {f : BitVec 128 → Sent} (h : Alike b r t t') :
    Alike b r (t.emit m sub a f) (t'.emit m sub a f) := by
  obtain ⟨hd, rfl⟩ := h
  exact .ite (fun _ => ⟨hd, rfl⟩) fun _ => Alike.countSent ⟨hd, rfl⟩

theorem Alike.emitMac {m sub : Nat} {dmac : BitVec 48} {etype : BitVec 16} {body : SentBody} (h : Alike b r t t') :
    Alike b r (t.emitMac m sub dmac etype body) (t'.emitMac m sub dmac etype body) := by
  obtain ⟨hd, rfl⟩ := h
  exact Alike.emit ⟨hd, rfl⟩

theorem Alike.charge {f : Frame} {n : Nat} (h : Alike b r t t') :
    Alike b r (if f.cls < 12 then t.setSched f.outPort ((t.sched f.outPort).charge f.outSub f.cls n) else t)
      (if f.cls < 12 then t'.setSched f.outPort ((t'.sched f.outPort).charge f.outSub f.cls n) else t') := by
  obtain ⟨hd, rfl⟩ := h
  exact .ite (fun _ => Alike.setSched ⟨hd, rfl⟩) fun _ => ⟨hd, rfl⟩

theorem Alike.finishTx {m sub : Nat} {f : Frame} {sent : Nat} (h : Alike b r t t') :
    Alike b r (t.finishTx m sub f sent) (t'.finishTx m sub f sent) := by
  obtain ⟨hd, rfl⟩ := h
  unfold Chip.finishTx
  extract_lets l u v l' u' v'
  have hu : Alike b r u u' := Alike.base hd |>.dropFrame |>.setLink |>.addKib (.of (by omega)) |>.addKib (.of (by omega))
  have hv : Alike b r v v' := hu.charge
  clear_value v v'
  revert v v'
  refine Alike.lift fun v hv => ?_
  rw [show (v.withReply r).onWire m sub = v.onWire m sub from rfl]
  cases v.onWire m sub with
  | none => exact .base hv
  | some g => exact Alike.putFrame (.base hv)

/-! ### The descriptors and the rings of the host -/

theorem Alike.setDesc {n k w : Nat} {v : Word} (h : Alike b r t t') :
    Alike b r (t.setDesc n k w v) (t'.setDesc n k w v) := by
  obtain ⟨hd, rfl⟩ := h
  exact ⟨hd, rfl⟩

theorem Alike.ringAdvance {n : Nat} (h : Alike b r t t') : Alike b r (t.ringAdvance n) (t'.ringAdvance n) := by
  obtain ⟨hd, rfl⟩ := h
  unfold Chip.ringAdvance
  extract_lets u u'
  have hu : Alike b r u u' := Alike.base hd |>.setN (.of (by omega)) |>.bump (.of (by omega))
  clear_value u u'
  revert u u'
  exact Alike.lift fun u hu => .ite (fun _ => Alike.raise (.base hu)) fun _ => .base hu

theorem Alike.toRing {n p sub len : Nat} {late : Bool} (h : Alike b r t t') :
    Alike b r (t.toRing n p sub len late) (t'.toRing n p sub len late) := by
  obtain ⟨hd, rfl⟩ := h
  refine .ite (fun _ => Alike.bump (.base hd) (.of (by omega))) fun _ => .ite (fun _ => Alike.bump (.base hd) (.of (by omega))) fun _ => ?_
  exact Alike.ringAdvance (Alike.setDesc (Alike.setDesc ⟨hd, rfl⟩))

/-! ### Fused pairs -/

theorem Alike.releaseEarly {k : Early} (h : Alike b r t t') : Alike b r (t.releaseEarly k) (t'.releaseEarly k) := by
  obtain ⟨hd, rfl⟩ := h
  unfold Chip.releaseEarly
  cases k.ring with
  | none => exact ⟨hd, rfl⟩
  | some x => exact Alike.toRing ⟨hd, rfl⟩

theorem Alike.releaseSeq {p n : Nat} {express : Bool} (h : Alike b r t t') :
    Alike b r (t.releaseSeq p express n) (t'.releaseSeq p express n) := by
  obtain ⟨hd, rfl⟩ := h
  exact .foldl (fun k _ u u' hu => hu.releaseEarly) (Alike.setFuse ⟨hd, rfl⟩)

theorem Alike.passSeq {p n : Nat} {express : Bool} (fuel : Nat) (h : Alike b r t t') :
    Alike b r (t.passSeq p express n fuel) (t'.passSeq p express n fuel) := by
  induction fuel generalizing t t' n with
  | zero => exact h
  | succ fuel ih =>
    obtain ⟨hd, rfl⟩ := h
    exact .ite (fun _ => ih (Alike.releaseSeq (Alike.setFuse ⟨hd, rfl⟩))) fun _ => Alike.setFuse ⟨hd, rfl⟩

theorem Alike.endWait {p : Nat} {express : Bool} {k : Early} (h : Alike b r t t') :
    Alike b r (t.endWait p express k) (t'.endWait p express k) := by
  obtain ⟨hd, rfl⟩ := h
  exact Alike.passSeq _ (.foldl (fun n _ u u' hu => hu.releaseSeq) (Alike.count ⟨hd, rfl⟩ (.of (by omega))))

theorem Alike.endSpace {p gone : Nat} {alone express : Bool} (h : Alike b r t t') :
    Alike b r (t.endSpace p gone alone express) (t'.endSpace p gone alone express) := by
  obtain ⟨hd, rfl⟩ := h
  unfold Chip.endSpace
  rw [show (t.withReply r).fuse p = t.fuse p from rfl]
  dsimp only
  split
  · exact Alike.endWait ⟨hd, rfl⟩
  · exact ⟨hd, rfl⟩

theorem Alike.endWaits {p gone : Nat} (h : Alike b r t t') : Alike b r (t.endWaits p gone) (t'.endWaits p gone) := by
  obtain ⟨hd, rfl⟩ := h
  exact (Alike.endSpace ⟨hd, rfl⟩).endSpace

theorem Alike.showFuse {p : Nat} {f : Fld} {v : Bool} (h : Alike b r t t') (hf : f.offDoors) :
    Alike b r (t.showFuse p f v) (t'.showFuse p f v) := by
  obtain ⟨hd, rfl⟩ := h
  exact .ite (fun _ => ⟨hd, rfl⟩) fun _ => Alike.showB ⟨hd, rfl⟩ hf

theorem Alike.fuseStatus {p : Nat} (h : Alike b r t t') : Alike b r (t.fuseStatus p) (t'.fuseStatus p) := by
  obtain ⟨hd, rfl⟩ := h
  exact Alike.base hd |>.showFuse (.of (by omega)) |>.showFuse (.of (by omega)) |>.setB (.of (by omega)) |>.showFuse (.of (by omega))

/-! ### Links -/

theorem Alike.link {p sub : Nat} (h : Alike b r t t') : t'.link p sub = t.link p sub := by
  obtain ⟨hd, rfl⟩ := h
  rfl

theorem breakLink_offDoors (o sub : Nat) : (F.admSubBreakLink o sub).offDoors := .of (by omega)

theorem flushed_offDoors (c : Nat → Nat → Fld) (hc : c ∈ some F.port2Flushed) (p sub : Nat) : (c p sub).offDoors := by
  obtain rfl : F.port2Flushed = c := Option.some.inj hc
  exact .of (by omega)

theorem Alike.expireHold {q sub : Nat} (h : Alike b r t t') : Alike b r (t.expireHold q sub) (t'.expireHold q sub) := by
  obtain ⟨hd, rfl⟩ := h
  unfold Chip.expireHold
  extract_lets u l u' l'
  have hu : Alike b r u u' := Alike.flush (.base hd) breakLink_offDoors flushed_offDoors
  exact hu |>.setBit (.of (by omega)) |>.bump (.of (by omega)) |>.setLink_of (congrArg (fun l => { l with expired := true }) hu.link)

theorem Alike.getN {f : Fld} (h : Alike b r t t') : t'.getN f = t.getN f := by
  obtain ⟨hd, rfl⟩ := h
  rfl

theorem Alike.portDrops {q sub : Nat} (h : Alike b r t t') : Alike b r (t.portDrops q sub) (t'.portDrops q sub) := by
  obtain ⟨hd, rfl⟩ := h
  exact .ite (fun _ => Alike.expireHold ⟨hd, rfl⟩) fun _ => ((Alike.base hd).markHeld.setBit (.of (by omega))).setLink

theorem Alike.memberLeaves {m : Nat} (h : Alike b r t t') : Alike b r (t.memberLeaves m) (t'.memberLeaves m) := by
  obtain ⟨hd, rfl⟩ := h
  unfold Chip.memberLeaves
  extract_lets p x y u p' x' y' u'
  have hu : Alike b r u u' := (((Alike.base hd).setFuse).fuseStatus.markHeld).endWaits
  exact .ite (fun _ => hu.portDrops) fun _ => hu

theorem Alike.cutWire {m sub : Nat} (h : Alike b r t t') : Alike b r (t.cutWire m sub) (t'.cutWire m sub) := by
  obtain ⟨hd, rfl⟩ := h
  unfold Chip.cutWire
  extract_lets ids u l ids' u' l'
  have hu : Alike b r u u' := by
    refine .foldl (fun id _ v v' hv => ?_) (.base hd)
    obtain ⟨hv, rfl⟩ := hv
    rw [show (v.withReply r).frame id = v.frame id from rfl]
    cases v.frame id with
    | none => exact .base hv
    | some f =>
      have hend : Alike b r (v.endFrame f) ((v.withReply r).endFrame f) := (Alike.base hv).endFrame
      dsimp only
      revert hend
      generalize v.endFrame f = w
      generalize (v.withReply r).endFrame f = w'
      revert w w'
      refine Alike.lift fun w hw => ?_
      rw [show (w.withReply r).frame id = w.frame id from rfl]
      cases w.frame id with
      | none => exact .base hw
      | some g => exact (Alike.base hw).finishTx
  exact hu.setLink_of (congrArg (fun l => { l with onWire := [] }) hu.link)

theorem Alike.cutArriving {m sub : Nat} (h : Alike b r t t') : Alike b r (t.cutArriving m sub) (t'.cutArriving m sub) := by
  obtain ⟨hd, rfl⟩ := h
  refine .foldl (fun f _ u u' hu => ?_) (.base hd)
  obtain ⟨hu, rfl⟩ := hu
  exact Alike.abort ⟨hu, rfl⟩

theorem Alike.mergeStop {m sub : Nat} (h : Alike b r t t') : Alike b r (t.mergeStop m sub) (t'.mergeStop m sub) := by
  obtain ⟨hd, rfl⟩ := h
  exact .ite (fun _ => ((Alike.base hd).setBit (.of (by omega))).setLink.setB (.of (by omega))) fun _ =>
    ((Alike.base hd).setBit (.of (by omega))).setLink

theorem Alike.setCand {c : Nat} {x : CandState} (h : Alike b r t t') :
    Alike b r (t.setCand c x) (t'.setCand c x) := by
  obtain ⟨hd, rfl⟩ := h
  exact ⟨hd, rfl⟩

theorem Alike.slotsLoseLink {p sub : Nat} (h : Alike b r t t') : Alike b r (t.slotsLoseLink p sub) (t'.slotsLoseLink p sub) := by
  refine .foldl (fun k _ u u' hu => ?_) h
  obtain ⟨hu, rfl⟩ := hu
  exact .ite (fun _ => (Alike.base hu).setCand) fun _ => .base hu

theorem Alike.getBit {f : Fld} {k : Nat} (h : Alike b r t t') : t'.getBit f k = t.getBit f k := by
  obtain ⟨hd, rfl⟩ := h
  rfl

theorem Alike.linkFalls {m sub : Nat} {next : LinkPhase} (h : Alike b r t t') :
    Alike b r (t.linkFalls m sub next) (t'.linkFalls m sub next) := by
  obtain ⟨hd, rfl⟩ := h
  unfold Chip.linkFalls
  extract_lets w u l v q w' u' l' v' q'
  have hu : Alike b r u u' := ((((Alike.base hd).setBit (.of (by omega))).cutWire.cutArriving).mergeStop).slotsLoseLink
  have hv : Alike b r v v' := hu.setLink_of (congrArg (fun l => { l with phase := next }) hu.link)
  refine .ite_of ?_ (fun _ => hv) (fun _ => hv.restartSessions)
  simp only [hv.getBit]
  rfl

theorem Alike.fuse {p : Nat} (h : Alike b r t t') : t'.fuse p = t.fuse p := by
  obtain ⟨hd, rfl⟩ := h
  rfl

theorem Alike.linkDown {m sub : Nat} {faultOnly : Bool} (h : Alike b r t t') :
    Alike b r (t.linkDown m sub faultOnly) (t'.linkDown m sub faultOnly) := by
  obtain ⟨hd, rfl⟩ := h
  refine .ite (fun _ => (Alike.base hd).setLink) fun _ => ?_
  extract_lets p next w x lo up y u p' next' w' x' lo' up' y' u'
  have hw : Alike b r w w' := ((Alike.base hd).linkFalls.bump (.of (by omega))).calUpset
  have hy : y' = y := by simp only [y, y', lo, lo', up, up', x, x', hw.fuse]; rfl
  have hu : Alike b r u u' := hw.setFuse_of hy
  refine .ite (fun _ => ?_) fun _ => hw.portDrops
  exact .ite_of (by rw [hy]; rfl) (fun _ => hu.memberLeaves) (fun _ => hu.fuseStatus)

theorem Alike.stopSub {m sub : Nat} (h : Alike b r t t') : Alike b r (t.stopSub m sub) (t'.stopSub m sub) := by
  obtain ⟨hd, rfl⟩ := h
  unfold Chip.stopSub
  extract_lets u l u' l'
  have hu : Alike b r u u' := (Alike.base hd).linkDown
  exact hu.setLink_of (congrArg (fun l => { l with phase := .down }) hu.link)

theorem Alike.turnReceivers {p m : Nat} (h : Alike b r t t') : Alike b r (t.turnReceivers p m) (t'.turnReceivers p m) := by
  obtain ⟨hd, rfl⟩ := h
  refine .foldl (fun sub _ u u' hu => ?_) (.base hd)
  obtain ⟨hu, rfl⟩ := hu
  exact .ite (fun _ => .base hu) fun _ => (Alike.base hu).linkDown

/-! ### The registers of a port -/

theorem Alike.startSub {m sub : Nat} (h : Alike b r t t') : Alike b r (t.startSub m sub) (t'.startSub m sub) := by
  obtain ⟨hd, rfl⟩ := h
  exact (Alike.base hd).setLink

theorem Alike.startSubs {q : Nat} {which : Nat → Bool} (h : Alike b r t t') :
    Alike b r (t.startSubs q which) (t'.startSubs q which) := by
  obtain ⟨hd, rfl⟩ := h
  refine .ite (fun _ => ?_) fun _ => (Alike.base hd).setB (.of (by omega))
  refine .foldl (fun m _ u u' hu => ?_) ((Alike.base hd).setB (.of (by omega)))
  obtain ⟨hu, rfl⟩ := hu
  exact .foldl (fun sub _ v v' hv => hv.startSub) (.base hu)

theorem Alike.modeHeld {p : Nat} (h : Alike b r t t') : Alike b r (t.modeHeld p) (t'.modeHeld p) := h.setB (.of (by omega))

/-- The members' receivers turn with a change of loopback. -/
theorem Alike.turnAll {p : Nat} (h : Alike b r t t') :
    Alike b r ((t.members p).foldl (fun v m => if t.memberDark m then v else v.turnReceivers p m) t)
      ((t'.members p).foldl (fun v m => if t'.memberDark m then v else v.turnReceivers p m) t') := by
  obtain ⟨hd, rfl⟩ := h
  exact .foldl (fun m _ v v' hv => .ite (fun _ => hv) fun _ => hv.turnReceivers) (.base hd)

/-- The subports that fall stop, on every member. -/
theorem Alike.stopAll {p : Nat} {falls : Nat → Bool} (h : Alike b r t t') :
    Alike b r ((t.members p).foldl (fun v m => ((List.range (t.subports p)).filter falls).foldl (fun x sub => x.stopSub m sub) v) t)
      ((t'.members p).foldl (fun v m => ((List.range (t'.subports p)).filter falls).foldl (fun x sub => x.stopSub m sub) v) t') := by
  obtain ⟨hd, rfl⟩ := h
  exact .foldl (fun m _ v v' hv => .foldl (fun sub _ x x' hx => hx.stopSub) hv) (.base hd)

theorem Alike.ctrlWrite {p : Nat} {w : Word} (h : Alike b r t t') : Alike b r (t.ctrlWrite p w) (t'.ctrlWrite p w) := by
  obtain ⟨hd, rfl⟩ := h
  refine .ite (fun _ => (Alike.base hd).modeHeld) fun _ => ?_
  extract_lets old o c was turns v falls rises u old' o' c' was' turns' v' falls' rises' u'
  have ho : Alike b r o o' := Alike.base hd |>.setN (.of (by omega)) |>.setN (.of (by omega))
  have hc : Alike b r c c' := .ite (fun _ => ho.calUpset) fun _ => ho
  have hv : Alike b r v v' := .ite (fun _ => hc.turnAll) fun _ => hc
  have hu : Alike b r u u' := hv.stopAll
  exact .ite (fun _ => hu.startSubs) fun _ => hu

theorem Alike.mergeStart {m sub : Nat} (h : Alike b r t t') : Alike b r (t.mergeStart m sub) (t'.mergeStart m sub) := by
  obtain ⟨hd, rfl⟩ := h
  exact .ite (fun _ => (Alike.base hd).setLink.emitMac) fun _ => .base hd

/-- What a write of MERGE does on every subport of every member. -/
theorem Alike.eachSub {p : Nat} {g g' : Chip → Nat → Nat → Chip} (h : Alike b r t t')
    (hg : ∀ u u' m sub, Alike b r u u' → Alike b r (g u m sub) (g' u' m sub)) :
    Alike b r ((t.members p).foldl (fun u m => (List.range (t.subports p)).foldl (fun v sub => g v m sub) u) t)
      ((t'.members p).foldl (fun u m => (List.range (t'.subports p)).foldl (fun v sub => g' v m sub) u) t') := by
  obtain ⟨hd, rfl⟩ := h
  exact .foldl (fun m _ v v' hv => .foldl (fun sub _ x x' hx => hg x x' m sub hx) hv) (.base hd)

theorem Alike.mergeWrite {p : Nat} {w : Word} (h : Alike b r t t') : Alike b r (t.mergeWrite p w) (t'.mergeWrite p w) := by
  obtain ⟨hd, rfl⟩ := h
  refine .ite (fun _ => (Alike.base hd).modeHeld) fun _ => ?_
  extract_lets was u each was' u' each'
  have hu : Alike b r u u' := Alike.base hd |>.setB (.of (by omega)) |>.setN (.of (by omega))
  refine .ite (fun _ => ?_) fun _ => .ite (fun _ => ?_) fun _ => hu
  · exact hu.eachSub fun v v' m sub hv => hv.mergeStop
  · refine hu.eachSub fun v v' m sub hv => .ite_of ?_ (fun _ => hv.mergeStart) (fun _ => hv)
    rw [hu.getBit]

theorem Alike.setLimits {o v : Nat} (h : Alike b r t t') : Alike b r (t.setLimits o v) (t'.setLimits o v) :=
  .foldl (fun c _ u u' hu => hu.setN (.of (by omega))) h

theorem Alike.resetTree {p n : Nat} (h : Alike b r t t') : Alike b r (t.resetTree p n) (t'.resetTree p n) := by
  obtain ⟨hd, rfl⟩ := h
  exact Alike.showB ⟨hd, rfl⟩ (.of (by omega))

theorem Alike.syncTake {p : Nat} (h : Alike b r t t') : Alike b r (t.syncTake p) (t'.syncTake p) := by
  obtain ⟨hd, rfl⟩ := h
  exact .ite (fun _ => .base hd) fun _ =>
    Alike.base hd |>.setB (.of (by omega)) |>.setB (.of (by omega)) |>.setN (.of (by omega)) |>.setN (.of (by omega))

theorem Alike.resetGate {p : Nat} (h : Alike b r t t') : Alike b r (t.resetGate p) (t'.resetGate p) := by
  obtain ⟨hd, rfl⟩ := h
  exact Alike.syncTake ⟨hd, rfl⟩

theorem Alike.eraseFuse {p : Nat} (h : Alike b r t t') :
    Alike b r { t with fuses := Store.erase p t.fuses } { t' with fuses := Store.erase p t'.fuses } := by
  obtain ⟨hd, rfl⟩ := h
  exact ⟨hd, rfl⟩

theorem Alike.changeFuse {p : Nat} {on : Bool} (h : Alike b r t t') :
    Alike b r (t.changeFuse p on) (t'.changeFuse p on) := by
  unfold Chip.changeFuse
  extract_lets o u v w o' u' v' w'
  have ho : Alike b r o o' := h.setLimits
  have hu : Alike b r u u' := .ite (fun _ => ho) fun _ => ho.setLimits
  have hv : Alike b r v v' := hu.resetTree.resetTree.resetGate.resetGate
  have hw : Alike b r w w' := hv.eraseFuse
  exact hw |>.showB (.of (by omega)) |>.showB (.of (by omega)) |>.showB (.of (by omega)) |>.showB (.of (by omega))

theorem Alike.applyMode {p : Nat} {run : Nat × Bool} (h : Alike b r t t') :
    Alike b r (t.applyMode p run) (t'.applyMode p run) := by
  obtain ⟨hd, rfl⟩ := h
  unfold Chip.applyMode
  extract_lets split u split' u'
  have hu : Alike b r u u' := .ite (fun _ => (Alike.base hd).resetTree) fun _ => .base hd
  exact .ite (fun _ => hu.changeFuse) fun _ => hu

theorem Alike.modeWrite {p : Nat} {w : Word} (h : Alike b r t t') : Alike b r (t.modeWrite p w) (t'.modeWrite p w) := by
  obtain ⟨hd, rfl⟩ := h
  unfold Chip.modeWrite
  extract_lets split ift two old splits types fuses run u power old' splits' types' fuses' run' u' power'
  have hu : Alike b r u u' := Alike.base hd |>.setN (.of (by omega)) |>.setN (.of (by omega)) |>.setB (.of (by omega))
  have hheld : Alike b r (t.modeHeld p) ((t.withReply r).modeHeld p) := (Alike.base hd).modeHeld
  refine .ite (fun _ => hheld) fun _ => .ite (fun _ => .base hd) fun _ => .ite (fun _ => hheld) fun _ => ?_
  exact .ite (fun _ => ⟨hu.doors, rfl⟩) fun _ => hu.applyMode

theorem Alike.maxframeWrite {p : Nat} {w : Word} (h : Alike b r t t') : Alike b r (t.maxframeWrite p w) (t'.maxframeWrite p w) := by
  obtain ⟨hd, rfl⟩ := h
  exact .ite (fun _ => (Alike.base hd).modeHeld) fun _ => .ite (fun _ => (Alike.base hd).modeHeld) fun _ =>
    (Alike.base hd).setN (.of (by omega))

theorem Alike.mapWrite {p k : Nat} {w : Word} (h : Alike b r t t') : Alike b r (t.mapWrite p k w) (t'.mapWrite p k w) := by
  obtain ⟨hd, rfl⟩ := h
  unfold Chip.mapWrite
  extract_lets u same u' same'
  have hu : Alike b r u u' := Alike.base hd |>.setN (.of (by omega)) |>.setB (.of (by omega)) |>.setB (.of (by omega))
    |>.setB (.of (by omega)) |>.setB (.of (by omega))
  exact .ite (fun _ => hu.modeHeld) fun _ => (hu.setN (.of (by omega))).setN (.of (by omega))

end Sys2Proof.Machine

/-! What an access of the register bus does not touch: the registers beyond the ports, and the bus itself. -/

namespace Sys2Proof.Machine

variable {b : Doors} {r : Reply} {t t' : Chip}

/-! ### Plain words -/

theorem Alike.get {f : Fld} (h : Alike b r t t') : t'.get f = t.get f := by
  obtain ⟨hd, rfl⟩ := h
  rfl

/-- A write of a plain field at an address: none of the doors is a field that the host writes (R24, R250). -/
theorem Alike.putField {before : Chip} {x : Reply} {a : Nat} {be : BitVec 4} {w : Word} {f : FieldRow} (h : Alike b r t t')
    (hf : f ∈ fieldsAt a) : Alike b r (t.putField before a be w f) (t'.putField (before.withReply x) a be w f) := by
  obtain ⟨hd, rfl⟩ := h
  have hfit := fieldsAt_fit a f hf
  unfold Chip.putField
  dsimp only
  have hoff : f.acc ≠ .ro → (f.at a).offDoors := fun hacc => by
    refine ⟨by simp only [FieldRow.at]; omega, fun he => hacc ?_, fun he => hacc ?_⟩
    · obtain rfl : a = F.rstStatusReady.addr := he
      exact (by decide : ∀ g ∈ fieldsAt F.rstStatusReady.addr, g.acc = .ro) f hf
    · obtain rfl : a = F.rstCause.addr := he
      exact (by decide : ∀ g ∈ fieldsAt F.rstCause.addr, g.acc = .ro) f hf
  revert hoff
  cases f.acc <;> intro hoff
  case ro | ros | trg => exact .base hd
  all_goals exact (Alike.base hd).set (hoff (by decide))

theorem Alike.putFields {before : Chip} {x : Reply} {a : Nat} {be : BitVec 4} {w : Word} {allow : Access → Bool}
    (h : Alike b r t t') : Alike b r (t.putFields before a be w allow) (t'.putFields (before.withReply x) a be w allow) :=
  .foldl (fun _ hf _ _ hu => hu.putField (List.mem_filter.1 hf).1) h

theorem Alike.parityRestored {a : Nat} {be : BitVec 4} (h : Alike b r t t') :
    Alike b r (t.parityRestored a be) (t'.parityRestored a be) := by
  obtain ⟨hd, rfl⟩ := h
  exact .ite (fun _ => ⟨hd, rfl⟩) fun _ => .base hd

theorem Alike.writeWord {a : Nat} {be : BitVec 4} {w : Word} (h : Alike b r t t') :
    Alike b r (t.writeWord a be w) (t'.writeWord a be w) := by
  obtain ⟨hd, rfl⟩ := h
  exact (Alike.base hd).putFields.parityRestored

theorem Alike.clearHeld {k : Nat} (h : Alike b r t t') :
    Alike b r { t with held := Store.write (0, 0) t.held k (0, 0) } { t' with held := Store.write (0, 0) t'.held k (0, 0) } := by
  obtain ⟨hd, rfl⟩ := h
  exact ⟨hd, rfl⟩

theorem Alike.wideWrite {path : Path} {base a : Nat} {be : BitVec 4} {w : Word} (h : Alike b r t t') :
    Alike b r (t.wideWrite path base a be w) (t'.wideWrite path base a be w) := by
  obtain ⟨hd, rfl⟩ := h
  unfold Chip.wideWrite
  extract_lets k l u l' u'
  have hu : Alike b r u u' := (Alike.base hd).writeWord.writeWord
  exact .ite (fun _ => ⟨hd, rfl⟩) fun _ => hu.clearHeld

/-! ### Shares, limits, trees and faults -/

theorem Alike.shareWrite {o sub : Nat} {w : Word} (h : Alike b r t t') : Alike b r (t.shareWrite o sub w) (t'.shareWrite o sub w) := by
  obtain ⟨hd, rfl⟩ := h
  exact .ite (fun _ => .base hd) fun _ => .ite (fun _ => (Alike.base hd).setB (.of (by omega))) fun _ =>
    (Alike.base hd).setN (.of (by omega))

theorem Alike.limitWrite {o c v : Nat} (h : Alike b r t t') : Alike b r (t.limitWrite o c v) (t'.limitWrite o c v) := by
  obtain ⟨hd, rfl⟩ := h
  refine .ite (fun _ => .base hd) fun _ => ?_
  extract_lets sum u u'
  have hu : Alike b r u u' := (Alike.base hd).setN (.of (by omega))
  exact .ite (fun _ => ((Alike.base hd).setB (.of (by omega))).setN (.of (by omega))) fun _ => hu

theorem Alike.trgLost {pg : Nat} (h : Alike b r t t') : Alike b r (t.trgLost pg) (t'.trgLost pg) := h.setB (.of (by omega))

theorem Alike.applyTree {p : Nat} (h : Alike b r t t') : Alike b r (t.applyTree p) (t'.applyTree p) := by
  obtain ⟨hd, rfl⟩ := h
  exact .ite (fun _ => (Alike.base hd).trgLost) fun _ => Alike.setB ⟨hd, rfl⟩ (.of (by omega))

theorem Alike.injectWrite {x y : Bool} (h : Alike b r t t') : Alike b r (t.injectWrite x y) (t'.injectWrite x y) := by
  obtain ⟨hd, rfl⟩ := h
  have hu : Alike b r (t.inject x y) ((t.withReply r).inject x y) := ⟨hd, rfl⟩
  exact .ite (fun _ => hu.trgLost) fun _ => hu

/-! ### ESMC -/

theorem Alike.esmcStops {p : Nat} (h : Alike b r t t') : Alike b r (t.esmcStops p) (t'.esmcStops p) := by
  refine .foldl (l := List.range 8) (fun sub _ u u' hu => ?_) h
  obtain ⟨hu, rfl⟩ := hu
  exact .ite_of (by rw [h.getBit]) (fun _ => .base hu) (fun _ => ⟨hu, rfl⟩)

/-! ### Clocks, events and the time base -/

theorem Alike.showClk {n : Nat} (h : Alike b r t t') : Alike b r (t.showClk n) (t'.showClk n) := by
  obtain ⟨hd, rfl⟩ := h
  unfold Chip.showClk
  extract_lets en sq u en' sq' u'
  have hu : Alike b r u u' := .ite (fun _ => (Alike.base hd).bump (.of (by omega))) fun _ => .base hd
  exact hu.setB (.of (by omega))

theorem Alike.clkWrite {n : Nat} {w : Word} (h : Alike b r t t') : Alike b r (t.clkWrite n w) (t'.clkWrite n w) :=
  h |>.setB (.of (by omega)) |>.setN (.of (by omega)) |>.showClk

theorem Alike.setPulse {n : Nat} {x : Pulse} (h : Alike b r t t') :
    Alike b r (t.setPulse n x) (t'.setPulse n x) := by
  obtain ⟨hd, rfl⟩ := h
  exact ⟨hd, rfl⟩

theorem Alike.ppsSettle {n : Nat} {was : Bool} (h : Alike b r t t') :
    Alike b r (t.ppsSettle n was) (t'.ppsSettle n was) := by
  obtain ⟨hd, rfl⟩ := h
  unfold Chip.ppsSettle
  extract_lets regs ok now from_ x y u regs' ok' now' from_' x' y' u'
  have hu : Alike b r u u' := (Alike.base hd).setPulse.setB (.of (by omega))
  exact .ite (fun _ => hu) fun _ => hu.setB (.of (by omega))

theorem Alike.ppsWrite {n reg : Nat} {w : Word} (h : Alike b r t t') : Alike b r (t.ppsWrite n reg w) (t'.ppsWrite n reg w) := by
  obtain ⟨hd, rfl⟩ := h
  unfold Chip.ppsWrite
  extract_lets u u'
  have hu : Alike b r u u' :=
    .ite (fun _ => ((Alike.base hd).setB (.of (by omega))).setN (.of (by omega))) fun _ =>
      .ite (fun _ => (Alike.base hd).setN (.of (by omega))) fun _ =>
      (Alike.base hd).set (.of (by omega))
  exact hu.ppsSettle

theorem Alike.showStall {e : Nat} (h : Alike b r t t') : Alike b r (t.showStall e) (t'.showStall e) := by
  obtain ⟨hd, rfl⟩ := h
  exact (Alike.base hd).setB (.of (by omega))

theorem Alike.evCtrlWrite {e : Nat} {w : Word} (h : Alike b r t t') : Alike b r (t.evCtrlWrite e w) (t'.evCtrlWrite e w) :=
  h |>.setN (.of (by omega)) |>.setB (.of (by omega)) |>.setN (.of (by omega)) |>.showStall

theorem Alike.dmaRestart {e : Nat} (h : Alike b r t t') : Alike b r (t.dmaRestart e) (t'.dmaRestart e) :=
  h |>.setN (.of (by omega)) |>.setN (.of (by omega))

theorem Alike.flag {f : Fld} (h : Alike b r t t') : t'.flag f = t.flag f := by
  obtain ⟨hd, rfl⟩ := h
  rfl

theorem Alike.tbCfgWrite {w : Word} (h : Alike b r t t') : Alike b r (t.tbCfgWrite w) (t'.tbCfgWrite w) := by
  unfold Chip.tbCfgWrite
  extract_lets u u'
  have hu : Alike b r u u' := h |>.setB (.of (by omega)) |>.setN (.of (by omega))
  exact .ite_of (by rw [h.flag]) (fun _ => (hu.setB (.of (by omega))).calUpset) fun _ => hu

/-! ### Persistent words -/

theorem Alike.markWorn {i : Nat} (h : Alike b r t t') : Alike b r (t.markWorn i) (t'.markWorn i) :=
  h |>.setB (.of (by omega)) |>.setN (.of (by omega)) |>.fault

theorem Alike.queueCommit {i : Nat} {v : Word} (h : Alike b r t t') :
    Alike b r (t.queueCommit i v) (t'.queueCommit i v) := by
  obtain ⟨hd, rfl⟩ := h
  exact .ite (fun _ => Alike.setB ⟨hd, rfl⟩ (.of (by omega))) fun _ => ⟨hd, rfl⟩

theorem Alike.commitHead (h : Alike b r t t') : Alike b r t.commitHead t'.commitHead := by
  obtain ⟨hd, rfl⟩ := h
  unfold Chip.commitHead
  rw [show (t.withReply r).power.commits = t.power.commits from rfl]
  cases t.power.commits with
  | nil => exact .base hd
  | cons x l => exact Alike.bump ⟨hd, rfl⟩ (.of (by omega))

theorem Alike.wordAt {a : Nat} (h : Alike b r t t') : t'.wordAt a = t.wordAt a := by
  obtain ⟨hd, rfl⟩ := h
  rfl

theorem Alike.persistWord {i : Nat} (h : Alike b r t t') : Alike b r (t.persistWord i) (t'.persistWord i) := by
  obtain ⟨hd, rfl⟩ := h
  unfold Chip.persistWord
  extract_lets u u'
  have hu : Alike b r u u' := .ite (fun _ => (Alike.base hd).commitHead) fun _ => .base hd
  rw [hu.wordAt]
  exact hu.queueCommit

theorem Alike.strapWrite {w : Word} (h : Alike b r t t') : Alike b r (t.strapWrite w) (t'.strapWrite w) := by
  obtain ⟨hd, rfl⟩ := h
  exact .ite (fun _ => (Alike.base hd).markWorn) fun _ => .ite (fun _ => (Alike.base hd).setB (.of (by omega))) fun _ =>
    Alike.base hd |>.setN (.of (by omega)) |>.setN (.of (by omega)) |>.persistWord

/-! ### Triggers, windows and the mailbox -/

theorem windowBusy_offDoors (k : Nat) : (windowBusy k).offDoors := by
  unfold windowBusy
  split
  · exact .of (by omega)
  · exact .of (by omega)

theorem Alike.windowTrigger {k : Nat} {read write : Bool} (h : Alike b r t t') :
    Alike b r (t.windowTrigger k read write) (t'.windowTrigger k read write) := by
  obtain ⟨hd, rfl⟩ := h
  refine .ite (fun _ => .base hd) fun _ => .ite (fun _ => (Alike.base hd).setB (.of (by omega))) fun _ => ?_
  exact Alike.setB ⟨hd, rfl⟩ (windowBusy_offDoors k)

theorem Alike.convert (h : Alike b r t t') : Alike b r t.convert t'.convert := by
  obtain ⟨hd, rfl⟩ := h
  exact .ite (fun _ => (Alike.base hd).setB (.of (by omega))) fun _ => Alike.setB ⟨hd, rfl⟩ (.of (by omega))

theorem Alike.sessTrigger (h : Alike b r t t') : Alike b r t.sessTrigger t'.sessTrigger := by
  obtain ⟨hd, rfl⟩ := h
  exact .ite (fun _ => (Alike.base hd).setB (.of (by omega))) fun _ => Alike.setB ⟨hd, rfl⟩ (.of (by omega))

theorem Alike.archTrigger (h : Alike b r t t') : Alike b r t.archTrigger t'.archTrigger := by
  obtain ⟨hd, rfl⟩ := h
  exact .ite (fun _ => (Alike.base hd).setB (.of (by omega))) fun _ => Alike.setB ⟨hd, rfl⟩ (.of (by omega))

theorem Alike.slotIgnored (h : Alike b r t t') : Alike b r t.slotIgnored t'.slotIgnored := h.bump (.of (by omega))

theorem Alike.goLost {n : Nat} (h : Alike b r t t') : Alike b r (t.goLost n) (t'.goLost n) := h.slotIgnored.setB (.of (by omega))

theorem Alike.setSlot {n : Nat} {x : Slot} (h : Alike b r t t') :
    Alike b r (t.setSlot n x) (t'.setSlot n x) := by
  obtain ⟨hd, rfl⟩ := h
  exact ⟨hd, rfl⟩

theorem Alike.goLatch {n : Nat} (h : Alike b r t t') : Alike b r (t.goLatch n) (t'.goLatch n) := by
  obtain ⟨hd, rfl⟩ := h
  unfold Chip.goLatch
  extract_lets tag op x u v tag' op' x' u' v'
  have hu : Alike b r u u' := Alike.base hd |>.setB (.of (by omega)) |>.setN (.of (by omega)) |>.setN (.of (by omega))
    |>.setN (.of (by omega))
  have hv : Alike b r v v' := .foldl (fun i _ c c' hc => hc.set (.of (by omega))) hu
  exact (hv.setBit (.of (by omega))).setSlot

theorem Alike.go {n : Nat} (h : Alike b r t t') : Alike b r (t.go n) (t'.go n) := by
  obtain ⟨hd, rfl⟩ := h
  exact .ite (fun _ => (Alike.base hd).goLost) fun _ => (Alike.base hd).goLatch

/-! ### Parity, locks and reads -/

theorem Alike.parityFault {a : Nat} (h : Alike b r t t') : Alike b r (t.parityFault a) (t'.parityFault a) := by
  obtain ⟨hd, rfl⟩ := h
  unfold Chip.parityFault
  extract_lets pg u v u' v'
  have hu : Alike b r u u' := (Alike.base hd).addSat (.of (by omega))
  have hv : Alike b r v v' := .ite (fun _ => hu) fun _ => hu.setN (.of (by omega))
  exact (hv.setB (.of (by omega))).pageFault

theorem Alike.parityCheck {a : Nat} (h : Alike b r t t') : Alike b r (t.parityCheck a) (t'.parityCheck a) := by
  obtain ⟨hd, rfl⟩ := h
  exact .ite (fun _ => (Alike.base hd).parityFault) fun _ => .base hd

theorem Alike.lockRefuse {pg : Nat} (h : Alike b r t t') : Alike b r (t.lockRefuse pg) (t'.lockRefuse pg) := by
  obtain ⟨hd, rfl⟩ := h
  exact .ite (fun _ => (((Alike.base hd).addSat (.of (by omega))).setB (.of (by omega))).pageFault) fun _ =>
    ((Alike.base hd).addSat (.of (by omega))).setB (.of (by omega))

theorem Alike.latch {path : Path} {base : Nat} {ws : List Word} (h : Alike b r t t') :
    Alike b r (t.latch path base ws) (t'.latch path base ws) := by
  obtain ⟨hd, rfl⟩ := h
  exact ⟨hd, rfl⟩

theorem Alike.latchChain {path : Path} {k : Nat} (h : Alike b r t t') : Alike b r (t.latchChain path k) (t'.latchChain path k) := by
  obtain ⟨hd, rfl⟩ := h
  exact ⟨hd, rfl⟩

theorem Alike.setChannel {e : Nat} {x : Channel} (h : Alike b r t t') :
    Alike b r (t.setChannel e x) (t'.setChannel e x) := by
  obtain ⟨hd, rfl⟩ := h
  exact Alike.setMax (Alike.setN ⟨hd, rfl⟩ (.of (by omega))) (.of (by omega))

/-- What an access returns and leaves of two blocks that are alike. -/
def AlikeRead (b : Doors) (r : Reply) {α : Type} (x x' : α × Chip) : Prop := x'.1 = x.1 ∧ Alike b r x.2 x'.2

theorem Alike.popSlate {e : Nat} (h : Alike b r t t') :
    Alike b r (t.popSlate e).1 (t'.popSlate e).1 ∧ (t'.popSlate e).2 = (t.popSlate e).2 := by
  obtain ⟨hd, rfl⟩ := h
  unfold Chip.popSlate
  rw [show (t.withReply r).channel e = t.channel e from rfl]
  dsimp only
  cases (t.channel e).reel with
  | nil => exact ⟨.base hd, rfl⟩
  | cons w l =>
    rw [show (t.withReply r).evMode e = t.evMode e from rfl]
    dsimp only
    split
    · exact ⟨.base hd, rfl⟩
    · exact ⟨(Alike.base hd).setChannel, rfl⟩

theorem AlikeRead.ite {α : Type} {c : Prop} [Decidable c] {x x' y y' : α × Chip} (hx : c → AlikeRead b r x x')
    (hy : ¬ c → AlikeRead b r y y') : AlikeRead b r (if c then x else y) (if c then x' else y') := by
  by_cases h : c
  · rw [if_pos h, if_pos h]; exact hx h
  · rw [if_neg h, if_neg h]; exact hy h

theorem Alike.wideRead {path : Path} {base n lag : Nat} (h : Alike b r t t') :
    AlikeRead b r (t.wideRead path base n lag) (t'.wideRead path base n lag) := by
  obtain ⟨hd, rfl⟩ := h
  refine .ite (fun _ => ?_) fun _ => ⟨rfl, (Alike.base hd).latch⟩
  obtain ⟨hp, he⟩ := (Alike.base hd : Alike b r t (t.withReply r)).popSlate (e := base / 4096 - 0x51)
  refine ⟨?_, ?_⟩
  · dsimp only; rw [he]
  · dsimp only; rw [he]; exact hp.latch

theorem Alike.readReg {path : Path} {a lag : Nat} (h : Alike b r t t') :
    AlikeRead b r (t.readReg path a lag) (t'.readReg path a lag) := by
  obtain ⟨hd, rfl⟩ := h
  unfold Chip.readReg
  cases wideAt a with
  | some x => exact .ite (fun _ => (Alike.base hd).wideRead) fun _ => ⟨rfl, .base hd⟩
  | none =>
    refine .ite (fun _ => ⟨rfl, (Alike.base hd).setN (.of (by omega))⟩) fun _ => ?_
    cases probeAt a 0x10 with
    | some k => exact ⟨rfl, (Alike.base hd).latchChain⟩
    | none =>
      cases probeAt a 0x14 with
      | some _ => exact ⟨rfl, .base hd⟩
      | none => exact ⟨rfl, .base hd⟩

theorem Alike.pageRead {path : Path} {a lag : Nat} (h : Alike b r t t') :
    AlikeRead b r (t.pageRead path a lag) (t'.pageRead path a lag) := by
  obtain ⟨hd, rfl⟩ := h
  refine .ite (fun _ => ⟨rfl, .base hd⟩) fun _ => .ite (fun _ => ⟨rfl, .base hd⟩) fun _ =>
    .ite (fun _ => ⟨rfl, .base hd⟩) fun _ => ?_
  obtain ⟨hv, hc⟩ := (Alike.base hd : Alike b r t (t.withReply r)).readReg (path := path) (a := a) (lag := lag)
  exact ⟨hv, hc.parityCheck⟩

/-- A read of the register bus neither looks at the last answer nor touches the doors. -/
theorem Alike.busRead {path : Path} {a lag : Nat} (h : Alike b r t t') :
    AlikeRead b r (t.busRead path a lag) (t'.busRead path a lag) := by
  obtain ⟨hv, hc⟩ := h.pageRead (path := path) (a := a) (lag := lag)
  exact ⟨hv, hc.access⟩

/-! ### Writes -/

/-- What an act on a register makes of two blocks that are alike, where it acts at all. -/
abbrev AlikeAct (b : Doors) (r : Reply) : Option Chip → Option Chip → Prop := Option.Rel (Alike b r)

theorem AlikeAct.ite {c : Prop} [Decidable c] {x x' y y' : Option Chip} (hx : c → AlikeAct b r x x')
    (hy : ¬ c → AlikeAct b r y y') : AlikeAct b r (if c then x else y) (if c then x' else y') := by
  by_cases h : c
  · rw [if_pos h, if_pos h]; exact hx h
  · rw [if_neg h, if_neg h]; exact hy h

theorem Alike.portWrite {q page o : Nat} {p w : Word} (h : Alike b r t t') :
    AlikeAct b r (t.portWrite q page o p w) (t'.portWrite q page o p w) := by
  obtain ⟨hd, rfl⟩ := h
  have hb : Alike b r t (t.withReply r) := .base hd
  refine .ite (fun _ => .some hb.modeWrite) fun _ => .ite (fun _ => .some hb.ctrlWrite) fun _ =>
    .ite (fun _ => .some hb.maxframeWrite) fun _ => .ite (fun _ => .some hb.modeHeld) fun _ =>
    .ite (fun _ => .some hb.mergeWrite) fun _ => .ite (fun _ => .some hb.mapWrite) fun _ =>
    .ite (fun _ => .some hb.modeHeld) fun _ => .ite (fun _ => .some (.ite (fun _ => hb.applyTree) fun _ => hb)) fun _ =>
    .ite (fun _ => .some hb.putFields.esmcStops) fun _ => .none

theorem Alike.eventWrite {e o : Nat} {be : BitVec 4} {p w : Word} (h : Alike b r t t') :
    AlikeAct b r (t.eventWrite e o be p w) (t'.eventWrite e o be p w) := by
  obtain ⟨hd, rfl⟩ := h
  have hb : Alike b r t (t.withReply r) := .base hd
  exact .ite (fun _ => .some hb.evCtrlWrite) fun _ =>
    .ite (fun _ => .ite (fun _ => .some hb) fun _ => .ite (fun _ => .some hb.writeWord.dmaRestart) fun _ => .none) fun _ =>
    .ite (fun _ => .some hb.writeWord.showStall) fun _ => .none

theorem Alike.actingWrite {a : Nat} {be : BitVec 4} {p x w : Word} (h : Alike b r t t') :
    AlikeAct b r (t.actingWrite a be p x w) (t'.actingWrite a be p x w) := by
  obtain ⟨hd, rfl⟩ := h
  have hb : Alike b r t (t.withReply r) := .base hd
  unfold Chip.actingWrite
  extract_lets pg o
  refine .ite (fun _ => hb.portWrite) fun _ => .ite (fun _ => hb.eventWrite) fun _ => .ite (fun _ => .some hb.shareWrite) fun _ =>
    .ite (fun _ => .some hb.limitWrite) fun _ => .ite (fun _ => .some hb.clkWrite) fun _ => .ite (fun _ => .some hb.ppsWrite) fun _ =>
    .ite (fun _ => .some hb.tbCfgWrite) fun _ => .ite (fun _ => .some hb.strapWrite) fun _ =>
    .ite (fun _ => .some hb.injectWrite) fun _ => .ite (fun _ => .some hb.writeWord.windowTrigger) fun _ =>
    .ite (fun _ => .some hb.windowTrigger) fun _ => .ite (fun _ => .some (.ite (fun _ => hb.convert) fun _ => hb)) fun _ =>
    .ite (fun _ => .some (.ite (fun _ => hb.sessTrigger) fun _ => hb)) fun _ =>
    .ite (fun _ => .some (.ite (fun _ => hb.archTrigger) fun _ => hb)) fun _ => ?_
  match slotAt a with
  | none => exact .none
  | some (n, 0) => exact .some (.ite (fun _ => hb.writeWord.go) fun _ => hb.writeWord)
  | some (n, o + 1) => exact .none

theorem Alike.writeReg {before : Chip} {x : Reply} {path : Path} {a : Nat} {be : BitVec 4} {w : Word} (h : Alike b r t t') :
    Alike b r (t.writeReg before path a be w) (t'.writeReg (before.withReply x) path a be w) := by
  obtain ⟨hd, rfl⟩ := h
  have hb : Alike b r t (t.withReply r) := .base hd
  unfold Chip.writeReg
  rw [hb.wordAt]
  have hact := hb.actingWrite (a := a) (be := be) (p := mergeWord (t.wordAt a) w be) (x := w &&& beMask be) (w := w)
  revert hact
  generalize t.actingWrite a be (mergeWord (t.wordAt a) w be) (w &&& beMask be) w = y
  generalize (t.withReply r).actingWrite a be (mergeWord (t.wordAt a) w be) (w &&& beMask be) w = y'
  intro hact
  cases hact with
  | some hc => exact .ite (fun _ => hc) fun _ => hc.parityRestored
  | none =>
    dsimp only
    cases wideAt a with
    | none => exact hb.putFields.parityRestored
    | some x => exact .ite (fun _ => .ite (fun _ => hb.wideWrite.dmaRestart) fun _ => hb.wideWrite) fun _ => hb

theorem Alike.pageWrite {before : Chip} {x : Reply} {path : Path} {a : Nat} {be : BitVec 4} {w : Word} (h : Alike b r t t') :
    Alike b r (t.pageWrite before path a be w) (t'.pageWrite (before.withReply x) path a be w) := by
  obtain ⟨hd, rfl⟩ := h
  have hb : Alike b r t (t.withReply r) := .base hd
  refine .ite (fun _ => hb.lockRefuse.putFields) fun _ => ?_
  rw [show (t.withReply r).slotRefuses a (w &&& beMask be) = t.slotRefuses a (w &&& beMask be) from rfl]
  cases t.slotRefuses a (w &&& beMask be) with
  | some x => exact .ite (fun _ => hb.goLost) fun _ => hb.slotIgnored
  | none =>
    exact .ite (fun _ => hb.putFields.parityRestored) fun _ => .ite (fun _ => hb.trgLost) fun _ => .ite (fun _ => hb) fun _ => hb.writeReg

/-- A write of the register bus neither looks at the last answer nor touches the doors. -/
theorem Alike.busWrite {path : Path} {a : Nat} {be : BitVec 4} {w : Word} (h : Alike b r t t') :
    Alike b r (t.busWrite path a be w) (t'.busWrite path a be w) := by
  obtain ⟨hd, rfl⟩ := h
  unfold Chip.busWrite
  extract_lets pg u u'
  have hu : Alike b r u u' := (Alike.base hd).access
  exact .ite (fun _ => hu) fun _ => hu.pageWrite

end Sys2Proof.Machine

/-! A memory request is its accesses in ascending order (R24, R26, R38, R305): O15. -/

namespace Sys2Proof.Machine

open Sys2Proof.Says

section
variable {b : Doors} {r : Reply} {t t' : Chip}

theorem Alike.memWrites {a n : Nat} {be : Nat → BitVec 4} {data : List Word} (h : Alike b r t t') (ha : a < 0x04000000) :
    Alike b r (t.memWrites a n be data) (t'.memWrites a n be data) := by
  induction n with
  | zero => exact h
  | succ n ih =>
    rw [memWrites_succ _ _ _ _ _ ha, memWrites_succ _ _ _ _ _ ha]
    exact ih.busWrite

theorem Alike.memReads {a n : Nat} (h : Alike b r t t') (ha : a < 0x04000000) :
    AlikeRead b r (t.memReads a n) (t'.memReads a n) := by
  induction n with
  | zero => exact ⟨rfl, h⟩
  | succ n ih =>
    obtain ⟨hv, hc⟩ := ih
    obtain ⟨hw, hd⟩ := hc.busRead (path := .pcie) (a := a + 4 * n) (lag := 0)
    rw [memReads_succ _ _ _ ha, memReads_succ _ _ _ ha]
    exact ⟨by rw [hv, hw], hd⟩

end

/-- The endpoint still serves after the accesses of a request, whatever the last answer was. -/
theorem memWrites_serves {s : Chip} {a : Nat} (n : Nat) (be : Nat → BitVec 4) (data : List Word) (ha : a < 0x04000000)
    (hs : s.pcieServes = true) : (s.memWrites a n be data).pcieServes = true :=
  (pcieServes_of_doors ((Alike.base (t := s) (r := s.reply) rfl).memWrites ha).doors).trans hs

theorem memReads_serves {s : Chip} {a : Nat} (n : Nat) (ha : a < 0x04000000) (hs : s.pcieServes = true) :
    (s.memReads a n).2.pcieServes = true :=
  (pcieServes_of_doors ((Alike.base (t := s) (r := s.reply) rfl).memReads ha).2.doors).trans hs

theorem busWrite_answer1 (s : Chip) (path : Path) (a : Nat) (be : BitVec 4) (w : Word) (d : List Word) (x y : Bool) :
    (s.answer1 d x y).busWrite path a be w = (s.busWrite path a be w).answer1 d x y :=
  ((Alike.base (t := s) (r := ⟨d, x, y⟩) rfl).busWrite).same

theorem busRead_answer1 (s : Chip) (path : Path) (a lag : Nat) (d : List Word) (x y : Bool) :
    (s.answer1 d x y).busRead path a lag = ((s.busRead path a lag).1, (s.busRead path a lag).2.answer1 d x y) := by
  obtain ⟨hv, hc⟩ := (Alike.base (t := s) (r := ⟨d, x, y⟩) rfl).busRead (path := path) (a := a) (lag := lag)
  exact Prod.ext hv hc.same

/-! ### The enables of a request's accesses -/

theorem dwEnables_last (firstBe lastBe : BitVec 4) {n : Nat} (hn : 1 ≤ n) : dwEnables firstBe lastBe (n + 1) n = lastBe := by
  have h0 : n ≠ 0 := by omega
  simp only [dwEnables, h0, if_false, if_true]

/-- Before its last DW, a request enables what one that ends earlier, with every byte of its last, enables (R38). -/
theorem dwEnables_before (firstBe lastBe : BitVec 4) {n count k : Nat} (hk : k < n) (hn : n < count) :
    dwEnables firstBe lastBe count k = dwEnables firstBe 0xF n k := by
  have hne : k + 1 ≠ count := by omega
  simp only [dwEnables, hne, if_false, ite_self]

theorem memWrites_zero (s : Chip) (a : Nat) (be : Nat → BitVec 4) (data : List Word) : s.memWrites a 0 be data = s := rfl

theorem memWrites_congr (s : Chip) (a : Nat) {n : Nat} {be be' : Nat → BitVec 4} {data data' : List Word} (ha : a < 0x04000000)
    (hbe : ∀ k < n, be k = be' k) (hdata : ∀ k < n, nth data k = nth data' k) :
    s.memWrites a n be data = s.memWrites a n be' data' := by
  induction n with
  | zero => rw [memWrites_zero, memWrites_zero]
  | succ n ih =>
    rw [memWrites_succ _ _ _ _ _ ha, memWrites_succ _ _ _ _ _ ha,
      ih (fun k hk => hbe k (by omega)) (fun k hk => hdata k (by omega)), hbe n (by omega), hdata n (by omega)]

theorem performed_some {n count : Nat} (h : n < count) : performed (some n) count = n := Nat.min_eq_left (Nat.le_of_lt h)

/-! ### The statements -/

theorem memRefused_holds (isWrite : Bool) (addr : BitVec 27) (firstBe lastBe : BitVec 4) (count : Nat) (data : List Word) (s : State) :
    memRefused isWrite addr firstBe lastBe count data s := by
  intro hs h4 ha hlong
  have hal : addr.toNat / 4 * 4 = addr.toNat := by omega
  have hserves : s.chip.pcieServes = true := hs
  have hrun : exec (.pcieMemRequest (memOp isWrite none) addr firstBe lastBe count data) s
      = done s (s.chip.access 3 1 0 addr.toNat).unsupported := by
    refine congrArg (done s) ?_
    cases isWrite <;>
      simp only [memOp, if_true, Bool.false_eq_true, if_false, Chip.memRequest, hserves, Bool.not_true, Chip.memServed, hal, ha, hlong,
        and_self]
  refine ⟨_, hrun, keeps_access s.chip 3 1 0 addr.toNat, ?_⟩
  rw [eq_of_noRegs (noRegs_access s.chip 3 1 0 addr.toNat)]; rfl

/-- A write request of one DW is its access (R26). -/
theorem memRequest_one_write (s : Chip) {a : Nat} (firstBe lastBe : BitVec 4) (d : Word) (hs : s.pcieServes = true) (h4 : a % 4 = 0)
    (ha : a < 0x04000000) :
    s.memRequest (.write none) a firstBe lastBe 1 [d] = (s.busWrite .pcie a firstBe d).answer1 [] false false := by
  rw [memRequest_write s none a firstBe lastBe 1 [d] hs h4 (by omega) (by omega), performed_none, memWrites_succ _ _ _ _ _ ha]
  rfl

/-- A read request of one DW is its access, whose word it returns (R26). -/
theorem memRequest_one_read (s : Chip) {a : Nat} (firstBe lastBe : BitVec 4) (data : List Word) (hs : s.pcieServes = true)
    (h4 : a % 4 = 0) (ha : a < 0x04000000) :
    s.memRequest (.read none) a firstBe lastBe 1 data = (s.busRead .pcie a 0).2.answer1 [(s.busRead .pcie a 0).1] false false := by
  rw [memRequest_read s none a firstBe lastBe 1 data hs h4 (by omega) (by omega), performed_none, memReads_succ _ _ _ ha]
  rfl

theorem memOne_holds (addr : BitVec 27) (firstBe lastBe : BitVec 4) (d : Word) (s : State) : memOne addr firstBe lastBe d s := by
  intro hs h4 ha
  have hw := memRequest_one_write s.chip firstBe lastBe d hs h4 ha
  have hr := memRequest_one_read s.chip firstBe lastBe [] hs h4 ha
  exact ⟨congrArg (done s) (hw.trans (hostWrite_reaches (path := .pcie) firstBe d hs ha h4).symm),
    _, congrArg (done s) hr, rfl, rfl⟩

/-- The last DW of a request lies in BAR0. -/
theorem lastDw {addr : BitVec 27} {n : Nat} (h4 : addr.toNat % 4 = 0) (ha : addr.toNat < 0x04000000)
    (hpage : addr.toNat % 4096 + 4 * (n + 1) ≤ 4096) :
    (BitVec.ofNat 27 (addr.toNat + 4 * n)).toNat = addr.toNat + 4 * n ∧ (addr.toNat + 4 * n) % 4 = 0
      ∧ addr.toNat + 4 * n < 0x04000000 := by
  have hlt : addr.toNat + 4 * n < 0x04000000 := by omega
  exact ⟨Nat.mod_eq_of_lt (by omega), by omega, hlt⟩

theorem answer1_answer1 (s : Chip) (d d' : List Word) (x y x' y' : Bool) :
    (s.answer1 d x y).answer1 d' x' y' = s.answer1 d' x' y' := rfl

theorem memInTurn_write (addr : BitVec 27) (firstBe lastBe : BitVec 4) (n : Nat) (data : List Word) (s : State) :
    memInTurn true addr firstBe lastBe n data s := by
  intro hs h4 ha h1 h16 hpage
  obtain ⟨hval, hl4, hlt⟩ := lastDw h4 ha hpage
  have hfirst := memRequest_write s.chip none addr.toNat firstBe 0xF n data hs h4 (by omega) (by omega)
  have hwhole := memRequest_write s.chip none addr.toNat firstBe lastBe (n + 1) data hs h4 h16 hpage
  have hserves := memWrites_serves n (dwEnables firstBe 0xF n) data ha hs
  rw [performed_none] at hfirst hwhole
  rw [memWrites_succ _ _ _ _ _ ha, dwEnables_last firstBe lastBe h1,
    memWrites_congr s.chip addr.toNat ha (fun k hk => dwEnables_before firstBe lastBe hk (Nat.lt_succ_self n)) (fun _ _ => rfl)]
    at hwhole
  generalize s.chip.memWrites addr.toNat n (dwEnables firstBe 0xF n) data = u at hfirst hwhole hserves
  have hlast : (u.answer1 [] false false).memRequest (.write none) (BitVec.ofNat 27 (addr.toNat + 4 * n)).toNat lastBe lastBe 1 [nth data n]
      = (u.busWrite .pcie (addr.toNat + 4 * n) lastBe (nth data n)).answer1 [] false false := by
    rw [hval, memRequest_one_write (u.answer1 [] false false) lastBe lastBe (nth data n) hserves hl4 hlt, busWrite_answer1, answer1_answer1]
  exact ⟨_, _, congrArg (done s) hfirst, congrArg (done { s with chip := u.answer1 [] false false }) hlast, congrArg (done s) hwhole⟩

theorem memInTurn_read (addr : BitVec 27) (firstBe lastBe : BitVec 4) (n : Nat) (data : List Word) (s : State) :
    memInTurn false addr firstBe lastBe n data s := by
  intro hs h4 ha h1 h16 hpage
  obtain ⟨hval, hl4, hlt⟩ := lastDw h4 ha hpage
  have hfirst := memRequest_read s.chip none addr.toNat firstBe 0xF n data hs h4 (by omega) (by omega)
  have hwhole := memRequest_read s.chip none addr.toNat firstBe lastBe (n + 1) data hs h4 h16 hpage
  have hserves := memReads_serves n ha hs
  rw [performed_none] at hfirst hwhole
  rw [memReads_succ _ _ _ ha] at hwhole
  generalize s.chip.memReads addr.toNat n = x at hfirst hwhole hserves
  obtain ⟨ws, u⟩ := x
  have hlast : (u.answer1 ws false false).memRequest (.read none) (BitVec.ofNat 27 (addr.toNat + 4 * n)).toNat lastBe lastBe 1 [nth data n]
      = (u.busRead .pcie (addr.toNat + 4 * n) 0).2.answer1 [(u.busRead .pcie (addr.toNat + 4 * n) 0).1] false false := by
    rw [hval, memRequest_one_read (u.answer1 ws false false) lastBe lastBe [nth data n] hserves hl4 hlt, busRead_answer1, answer1_answer1]
  exact ⟨_, _, congrArg (done s) hfirst, congrArg (done { s with chip := u.answer1 ws false false }) hlast, congrArg (done s) hwhole⟩

theorem memCut_holds (addr : BitVec 27) (firstBe lastBe : BitVec 4) (n count : Nat) (data : List Word) (s : State) :
    memCut addr firstBe lastBe n count data s := by
  intro hs h4 ha h1 hn h16 hpage
  refine ⟨?_, ?_⟩
  · have hcut := memRequest_write s.chip (some n) addr.toNat firstBe lastBe count data hs h4 h16 hpage
    have hshort := memRequest_write s.chip none addr.toNat firstBe 0xF n data hs h4 (by omega) (by omega)
    rw [performed_some hn, memWrites_congr s.chip addr.toNat ha (fun k hk => dwEnables_before firstBe lastBe hk hn) (fun _ _ => rfl)]
      at hcut
    rw [performed_none] at hshort
    exact congrArg (done s) (hcut.trans hshort.symm)
  · have hcut := memRequest_read s.chip (some n) addr.toNat firstBe lastBe count [] hs h4 h16 hpage
    have hshort := memRequest_read s.chip none addr.toNat firstBe 0xF n [] hs h4 (by omega) (by omega)
    rw [performed_some hn] at hcut
    rw [performed_none] at hshort
    exact ⟨_, congrArg (done s) hshort, congrArg (done s) hcut⟩

/-- In D3hot the function that answers completes each memory request with Unsupported Request (R24). -/
theorem memRequest_d3hot (s : Chip) (isWrite : Bool) (addr : Nat) (firstBe lastBe : BitVec 4) (count : Nat) (data : List Word)
    (hs : s.pcieAnswers = true) (hd : s.pcie.d3hot = true) :
    s.memRequest (memOp isWrite none) addr firstBe lastBe count data = s.unsupported := by
  have hup : s.power.linkUp = true := (Bool.and_eq_true_iff.1 hs).1
  have hserves : s.pcieServes = false := by rw [Chip.pcieServes, hd, Bool.not_true, Bool.and_false]
  have hrefuses : s.pcieRefuses = true := by rw [Chip.pcieRefuses, hup, hd, hs, Bool.and_self, Bool.or_true, Bool.and_self]
  have hunanswered : s.unanswered = s.unsupported := by rw [Chip.unanswered, if_pos hrefuses]
  cases isWrite with
  | true => exact (if_pos (by rw [hserves]; rfl)).trans hunanswered
  | false => exact (if_pos (by rw [hserves]; rfl)).trans hunanswered

theorem powerState_holds (d3hot : Bool) (addr : BitVec 27) (firstBe lastBe : BitVec 4) (count : Nat) (data : List Word) (s : State) :
    powerState d3hot addr firstBe lastBe count data s := by
  intro hs
  have htaken : s.chip.memRequest (.powerState d3hot) addr.toNat firstBe lastBe count data
      = ({ s.chip with pcie := { s.chip.pcie with d3hot := d3hot } }).answer1 [] false false := if_neg (by rw [hs]; decide)
  refine ⟨⟨_, congrArg (done s) htaken, rfl⟩, fun hd isWrite => ?_⟩
  exact ⟨_, congrArg (done s) (memRequest_d3hot s.chip isWrite addr.toNat firstBe lastBe count data hs hd), rfl⟩

/-! ### The MSI-X table -/

theorem msixWord_putMsix (s : Chip) (k j : Nat) (w : Word) : (s.putMsix k w).msixWord j = if j = k then w else s.msixWord j := by
  unfold Chip.putMsix Chip.msixWord
  by_cases hw : w = msixDefault k
  · simp only [hw, if_true, store_find_erase]
    split
    · next h => rw [h, Option.getD_none]
    · rfl
  · simp only [hw, if_false, store_find_insert]
    cases Decidable.em (j = k) with
    | inl h => rw [if_pos h, if_pos h, Option.getD_some]
    | inr h => rw [if_neg h, if_neg h]

theorem sum_two_pow_lt (c : Nat → Bool) (n : Nat) : ((List.range n).map (fun v => if c v then 2 ^ v else 0)).sum < 2 ^ n := by
  induction n with
  | zero => exact Nat.one_pos
  | succ n ih =>
    have hterm : (if c n then 2 ^ n else 0) ≤ 2 ^ n := by split <;> omega
    rw [List.range_succ, List.map_append, List.sum_append, List.map_singleton, List.sum_singleton, Nat.pow_succ]
    omega

/-- The sum of the powers of two that a condition picks has those bits. -/
theorem testBit_sum_two_pow (c : Nat → Bool) (n k : Nat) :
    ((List.range n).map (fun v => if c v then 2 ^ v else 0)).sum.testBit k = (decide (k < n) && c k) := by
  induction n with
  | zero => simp
  | succ n ih =>
    have hsplit : ((List.range (n + 1)).map (fun v => if c v then 2 ^ v else 0)).sum
        = 2 ^ n * (c n).toNat + ((List.range n).map (fun v => if c v then 2 ^ v else 0)).sum := by
      rw [List.range_succ, List.map_append, List.sum_append, List.map_singleton, List.sum_singleton, Nat.add_comm]
      cases c n <;> simp
    rw [hsplit, Nat.testBit_two_pow_mul_add _ (sum_two_pow_lt c n), ih]
    rcases Nat.lt_trichotomy k n with h | rfl | h
    · simp [h, Nat.lt_succ_of_lt h]
    · cases c k <;> simp
    · have h0 : k - n ≠ 0 := by omega
      have hle : ¬ k < n + 1 := by omega
      have hge : ¬ k < n := by omega
      obtain ⟨m, hm⟩ := Nat.exists_eq_succ_of_ne_zero h0
      cases c n <;> simp [hle, hge, hm, Nat.testBit_succ]

/-- The host has the message of a vector once it is raised and its control word does not mask it (R24). -/
theorem bit_messages (s : Chip) (v : Fin 64) :
    bit s.messages v.val = (bit s.msix v.val && !bit (s.msixWord (4 * v.val + 3)) 0) := by
  rw [bit_eq_getLsbD, Chip.messages, BitVec.getLsbD_ofNat, testBit_sum_two_pow, decide_eq_true v.isLt, Bool.true_and, Bool.true_and]

theorem vectorMasks_holds (v : Fin 64) (addr : BitVec 27) (firstBe lastBe : BitVec 4) (data : Word) (s : State) :
    vectorMasks v addr firstBe lastBe data s := by
  intro hs
  have hk : (BitVec.ofNat 8 (4 * v.val + 3)).toNat = 4 * v.val + 3 := Nat.mod_eq_of_lt (by omega)
  have hput : s.chip.memRequest (.tableWrite (BitVec.ofNat 8 (4 * v.val + 3))) addr.toNat firstBe lastBe 1 [data]
      = (s.chip.putMsix (4 * v.val + 3) data).answer1 [] false false := by
    refine (if_neg (by rw [hs]; decide)).trans ?_
    rw [hk]; rfl
  have hword (j : Nat) : ((s.chip.putMsix (4 * v.val + 3) data).answer1 [] false false).msixWord j
      = if j = 4 * v.val + 3 then data else s.chip.msixWord j := msixWord_putMsix s.chip _ j data
  refine ⟨_, congrArg (done s) hput, (hword _).trans (if_pos rfl), fun k hne => (hword k).trans (if_neg hne), ?_, rfl⟩
  rw [bit_messages, hword, if_pos rfl]; rfl

/-- Settles O15: an access of the register bus neither looks at the answer to the request before it nor touches it, and no
access shuts the endpoint's doors, so a request is its accesses in turn. -/
theorem pcieRequestsAreTheirAccessesInOrder : Obligations.PcieRequestsAreTheirAccessesInOrder := by
  intro s
  refine ⟨fun isWrite addr firstBe lastBe count data => memRefused_holds isWrite addr firstBe lastBe count data s,
    fun addr firstBe lastBe d => memOne_holds addr firstBe lastBe d s, fun isWrite addr firstBe lastBe n data => ?_,
    fun addr firstBe lastBe n count data => memCut_holds addr firstBe lastBe n count data s,
    fun d3hot addr firstBe lastBe count data => powerState_holds d3hot addr firstBe lastBe count data s,
    fun v addr firstBe lastBe data => vectorMasks_holds v addr firstBe lastBe data s⟩
  cases isWrite with
  | true => exact memInTurn_write addr firstBe lastBe n data s
  | false => exact memInTurn_read addr firstBe lastBe n data s

end Sys2Proof.Machine

/-! A write of a word of PCNT page 1 that is no wide value is not held, which refutes O8: its clause of any wide
write takes every word of that page for the low word of one. -/

namespace Sys2Proof.Machine

open Sys2Proof.Says

/-- CFG of probe 0, which stands on PCNT page 1 beside the ADDR pairs. -/
def probeCfgAddr : BitVec 26 := 0x81040

/-- CFG is a word by itself. -/
theorem wideAt_probeCfg : wideAt probeCfgAddr.toNat = none := by decide

/-- A write of CFG after reset holds nothing. -/
theorem wideWrite_probeCfg_held :
    (Chip.afterReset.hostWrite .pcie probeCfgAddr.toNat 0xF 1).held = [] := by decide +kernel

/-- Refutes O8: a PCIe write of CFG of probe 0 is not held, though writableWide holds of every address of its page. -/
theorem not_wideRegistersMoveWhole : ¬ Obligations.WideRegistersMoveWhole := by
  unfold Obligations.WideRegistersMoveWhole
  intro h
  let s : State := ⟨Chip.afterReset, []⟩
  obtain ⟨-, -, hany, -⟩ := h s
  obtain ⟨hlow, -⟩ := hany .pcie probeCfgAddr 0xF 1 0 (by decide) (.inr (by decide))
    (by unfold Chip.serves; decide +kernel) (fun hhigh => absurd hhigh (by decide))
  obtain ⟨-, hframe⟩ := of_runs_done (u := s.chip.hostWrite .pcie probeCfgAddr.toNat 0xF 1) rfl hlow
  have hheld := congrArg Chip.held hframe
  exact absurd (wideWrite_probeCfg_held.symm.trans hheld) (by decide)

end Sys2Proof.Machine

/-! A vote on a page of a dark group counts in its VOTE, which refutes O35: the statement takes the counters of such a
page to stand still (R51). -/

namespace Sys2Proof.Machine

open Sys2Proof.Says

/-- The state after reset with group 0 dark. -/
def darkGroupState : State :=
  { chip := { Chip.afterReset with power := { Chip.afterReset.power with groupDark := 1 } }
    pending := [] }

/-- MAXFRAME of P0, the one field of its word, which is voted. -/
def maxframeField : FieldRow := ⟨0, 14, .rwv, 0x2400, 0x3c, false⟩

/-- The vote of a MAXFRAME with one bit of copy A upset counts once, on the page of the dark group. -/
theorem voteRepair_darkGroup :
    (darkGroupState.chip.voteRepair (F.port0Maxframe 0).addr 1 0 0).getN (F.hdrPgVote 0x2000) = 1 := by
  decide +kernel

/-- Refutes O35: VOTE of a page of a dark group counts the vote, where the statement lets it stand. -/
theorem not_upsetsAreMetByTheirProtection : ¬ Obligations.UpsetsAreMetByTheirProtection := by
  unfold Obligations.UpsetsAreMetByTheirProtection
  intro h
  obtain ⟨-, -, -, hvotes⟩ := h darkGroupState
  obtain ⟨-, hcounted, -⟩ := of_runs_done (u := darkGroupState.chip.voteRepair (F.port0Maxframe 0).addr 1 0 0) rfl
    (hvotes (BitVec.ofNat 26 (F.port0Maxframe 0).addr) 1 maxframeField (by decide) (by decide) (by decide) (by decide)
      (by decide) (by decide) (by decide) (by decide) (by decide))
  exact absurd (voteRepair_darkGroup.symm.trans hcounted) (by decide +kernel)

end Sys2Proof.Machine

/-! A fault of the group of an upper member restarts the sessions on the fused port, whose number lies in the group of the
lower member, which refutes O57. -/

namespace Sys2Proof.Machine

open Sys2Proof.Says

/-- A session on P0 that holds a result of this clapper. -/
def freshResultSession : Session := { freshSession 0 with fresh := true }

/-- The state after reset with P0 and P6 fused, their links not up, and that session open as number 0. -/
def fusedSessionState : State :=
  { chip := { Chip.afterReset.setB (F.port0ModeTwoShot 0) true with sessions := [(0, freshResultSession)] }
    pending := [] }

/-- The reset of group 1, in which P6 lies, restarts the session. -/
theorem groupFault_fusedSession : (fusedSessionState.chip.groupFault 1).session 0 = some (freshSession 0) := by
  decide +kernel

/-- Refutes O57: GROUP_FAULT of group 1 restarts a session of P0, a port of group 0 that is fused with P6. -/
theorem not_groupResetsStayWithinTheGroup : ¬ Obligations.GroupResetsStayWithinTheGroup := by
  unfold Obligations.GroupResetsStayWithinTheGroup
  intro h
  obtain ⟨hfails, -⟩ := h fusedSessionState
  obtain ⟨-, -, -, -, -, -, hsessions, -⟩ := of_runs_done (u := fusedSessionState.chip.groupFault 1) rfl
    (hfails 1 (by decide +kernel) (by decide +kernel) (by decide +kernel)
      ⟨fun f hf => absurd hf (List.not_mem_nil), fun c hc => absurd hc (List.not_mem_nil)⟩)
  exact absurd (groupFault_fusedSession.symm.trans (hsessions 0 freshResultSession rfl)) (by decide +kernel)

end Sys2Proof.Machine

/-! SPLIT of a port beyond its 2 bits gives the port subports that MERGE_ACTIVE has no bit for, and an early frame of a fused
port may name a port that the die does not have. The statements O21 and O33 take every state, and fail in these. -/

namespace Sys2Proof.Machine

open Sys2Proof.Says

/-! ### MERGE_EN cleared under 16 subports -/

/-- The state after reset with 4 in SPLIT of P0, which makes 16 subports; MERGE_EN is set, MERGE_ACTIVE reads 1 for subport 8
alone, and that subport holds a flow admitted under preemption. -/
def wideSplitState : State :=
  let c := Chip.afterReset
  let r := Store.insert (F.port0ModeSplit 0).key 4 c.regs
  { chip := { c with
      regs := Store.insert (F.admStatusMergeActive 0).key 0x100 (Store.insert (F.port0MergeMergeEn 0).key 1 r)
      ledger := [⟨0, 0, 0, 0, 8, 15, 1, 300, 300, 3, 0, 0, false, true⟩] }
    pending := [] }

/-- MERGE_LOST stays clear: as preemption ends on subport 0, the write of MERGE_ACTIVE cuts it to its 8 bits. -/
theorem mergeEnWrite_wideSplit :
    (wideSplitState.chip.hostWrite .pcie (F.port0MergeMergeEn 0).addr 0xF 0).flag (F.admStatusMergeLost 0) = false := by
  decide +kernel

/-- Refutes O21: with SPLIT beyond its field, MERGE_EN cleared under a flow of subport 8 does not set MERGE_LOST. -/
theorem not_mergeEnStartsAndEndsPreemption : ¬ Obligations.MergeEnStartsAndEndsPreemption := by
  unfold Obligations.MergeEnStartsAndEndsPreemption
  intro h
  obtain ⟨-, hclear, -⟩ := h wideSplitState
  have hserves : wideSplitState.chip.serves .pcie (0x2000 + (0 : Fin 48).val * 16) := by
    unfold Chip.serves; decide +kernel
  obtain ⟨-, -, hends, -⟩ := of_runs_done
    (u := wideSplitState.chip.hostWrite .pcie (F.port0MergeMergeEn 0).addr 0xF 0) rfl
    (hclear .pcie 0 0xF 0 hserves (by decide +kernel) (by decide +kernel) (by decide +kernel))
  obtain ⟨-, hlost⟩ := hends 0 (by decide +kernel) 8 (by decide +kernel)
  exact absurd ((hlost (by decide +kernel) (by decide +kernel)).symm.trans mergeEnWrite_wideSplit) (by decide)

/-! ### LINK_DOWN while a frame of a stray port waits -/

/-- The state after reset with P0 and P6 fused, the link of P0 up and that member in service; SEQ 0 is expected, and SEQ 1 has
arrived on port 48. -/
def strayEarlyState : State :=
  { chip := { (Chip.afterReset.setB (F.port0ModeTwoShot 0) true).setBit (F.port0StatusLinkUp 0) 0 true with
      fuses := [(0, { fuseDefault with rxSeq := some 0, early := [⟨0, 48, 1, none⟩], lowIn := true })] }
    pending := [] }

/-- SEQ 0 counts as lost on the page that port 48 would have. -/
theorem linkDown_strayEarly :
    Store.find (F.port2SeqLost 48 0).key (strayEarlyState.chip.linkDown 0 0 false).regs
      ≠ Store.find (F.port2SeqLost 48 0).key strayEarlyState.chip.regs := by
  decide +kernel

/-- Refutes O33: as a member leaves service, LINK_DOWN counts SEQ_LOST of the port on which the waiting frame arrived, whichever
port that is. -/
theorem not_linksFallHoldAndReturn : ¬ Obligations.LinksFallHoldAndReturn := by
  unfold Obligations.LinksFallHoldAndReturn
  intro h
  obtain ⟨-, hfused, -⟩ := h strayEarlyState
  obtain ⟨-, -, -, -, -, -, hkeeps, -⟩ := of_runs_done (u := strayEarlyState.chip.linkDown 0 0 false) rfl
    (hfused 0 false (by decide +kernel) (by decide +kernel)
      ⟨fun f hf => absurd hf List.not_mem_nil, fun c hc => absurd hc List.not_mem_nil⟩)
  exact linkDown_strayEarly (hkeeps _ (by decide) (by decide))

end Sys2Proof.Machine

/-! What the operations on frames, counts and promises do to the block: the rules that O25, O26, O27 and O59 are put together
from. -/

namespace Sys2Proof.Machine

open Sys2Proof.Says

/-- A command that is always done runs to what it leaves. -/
theorem runs_done {c : Instr} {s : State} {P : Chip → Prop} {u : Chip} (hrun : exec c s = done s u) (hP : P u) : Runs c s P :=
  ⟨u, hrun, hP⟩

/-! ### Fields by their address -/

/-- Every field from TRAF on is off the page of the probes' counts. -/
theorem Fld.offProbes.of {a l w : Nat} {v : Word} (h : 0x82000 ≤ a ∧ l < 32) : (⟨a, l, w, v⟩ : Fld).offProbes :=
  ⟨h.2, by have := h.1; simp only []; omega⟩

theorem Fld.key_ne {a l w a' l' w' : Nat} {v v' : Word} (h : a * 32 + l ≠ a' * 32 + l') :
    (⟨a, l, w, v⟩ : Fld).key ≠ (⟨a', l', w', v'⟩ : Fld).key := h

/-- A field whose key is that of none of the fields listed. -/
def Fld.notIn (f : Fld) (l : List Fld) : Prop := ∀ g ∈ l, f.key ≠ g.key

theorem Fld.notIn_nil (f : Fld) : f.notIn [] := fun _ hg => absurd hg List.not_mem_nil

theorem Fld.notIn_cons {f g : Fld} {l : List Fld} (h : f.key ≠ g.key) (hl : f.notIn l) : f.notIn (g :: l) :=
  List.forall_mem_cons.2 ⟨h, hl⟩

theorem Fld.notIn_append {f : Fld} {l m : List Fld} (hl : f.notIn l) (hm : f.notIn m) : f.notIn (l ++ m) :=
  List.forall_mem_append.2 ⟨hl, hm⟩

theorem Fld.notIn_pair {f g h : Fld} (hg : f.key ≠ g.key) (hh : f.key ≠ h.key) : f.notIn [g, h] :=
  Fld.notIn_cons hg (Fld.notIn_cons hh f.notIn_nil)

theorem flag_of_get {s t : Chip} {f : Fld} (h : t.get f = s.get f) : t.flag f = s.flag f := by
  rw [Chip.flag, Chip.flag, Chip.getN, Chip.getN, h]

/-! ### Counts (R344) -/

theorem frozen_of_power {s t : Chip} (h : t.power = s.power) (a : Nat) : t.frozen a = s.frozen a := by
  unfold Chip.frozen
  rw [h]

/-- An event counter that counts has counted. -/
theorem counted_count (s : Chip) (f : Fld) (n : Nat) (hw : f.width = 32) (hf : f.offProbes) : s.counted (s.count f n) f n := by
  unfold Chip.counted
  by_cases hd : s.frozen f.addr = true
  · rw [count_frozen _ _ _ hd, if_pos hd, Nat.add_zero]
    exact (Nat.mod_eq_of_lt (s.get f).isLt).symm
  · rw [getN_count_same s f n hw hf (Bool.not_eq_true _ ▸ hd), if_neg hd]

/-- What has counted stays counted under updates of other fields. -/
theorem counted_keeps {s t u : Chip} {f : Fld} {n : Nat} {l : List Fld} (h : s.counted t f n) (hf : f.offProbes)
    (hkeeps : t.keeps u l) (hl : f.notIn l) : s.counted u f n :=
  (congrArg BitVec.toNat (get_of_keeps hkeeps f hf hl)).trans h

/-- What counts after updates of other fields has counted over them too. -/
theorem counted_from {s t u : Chip} {f : Fld} {n : Nat} {l : List Fld} (h : u.counted t f n) (hf : f.offProbes)
    (hpower : u.power = s.power) (hkeeps : s.keeps u l) (hl : f.notIn l) : s.counted t f n := by
  unfold Chip.counted at h ⊢
  rw [h, frozen_of_power hpower, Chip.getN, Chip.getN, get_of_keeps hkeeps f hf hl]

/-- A counter that counts between updates of other fields has counted over all of them. -/
theorem counted_within {s u t : Chip} {f : Fld} {n : Nat} {l m : List Fld} (hw : f.width = 32) (hf : f.offProbes)
    (hpower : u.power = s.power) (h : s.keeps u l) (h' : (u.count f n).keeps t m) (hl : f.notIn l) (hm : f.notIn m) :
    s.counted t f n :=
  counted_from (counted_keeps (counted_count u f n hw hf) hf h' hm) hf hpower h hl

theorem counted_count_after {s u : Chip} {f : Fld} {l : List Fld} (n : Nat) (hw : f.width = 32) (hf : f.offProbes)
    (hpower : u.power = s.power) (h : s.keeps u l) (hl : f.notIn l) : s.counted (u.count f n) f n :=
  counted_within hw hf hpower h (keeps_refl _ []) hl f.notIn_nil

theorem counted_bump_after {s u : Chip} {f : Fld} {l : List Fld} (hw : f.width = 32) (hf : f.offProbes)
    (hpower : u.power = s.power) (h : s.keeps u l) (hl : f.notIn l) : s.counted (u.bump f) f 1 :=
  counted_count_after 1 hw hf hpower h hl

theorem counted_bump (s : Chip) (f : Fld) (hw : f.width = 32) (hf : f.offProbes) : s.counted (s.bump f) f 1 := counted_count s f 1 hw hf

theorem count_zero (s : Chip) (f : Fld) : s.count f 0 = s := by
  unfold Chip.count
  rw [if_pos (.inl rfl)]

/-! ### Frames by their number -/

/-- Frames depend on nothing but their list. -/
theorem frame_of_frames {s t : Chip} (h : t.frames = s.frames) (k : Nat) : t.frame k = s.frame k := by
  unfold Chip.frame
  rw [h]

theorem othersAs_of_frames {s t : Chip} (h : t.frames = s.frames) (id : Nat) : t.othersAs s id := fun k _ => frame_of_frames h k

theorem othersAs_trans {s t u : Chip} {id : Nat} (h : u.othersAs t id) (h' : t.othersAs s id) : u.othersAs s id :=
  fun k hk => (h k hk).trans (h' k hk)

theorem frame_mem {s : Chip} {id : Nat} {f : Frame} (h : s.frame id = some f) : f ∈ s.frames :=
  List.mem_of_find?_eq_some h

theorem frame_id {s : Chip} {id : Nat} {f : Frame} (h : s.frame id = some f) : f.id = id := by
  simpa using List.find?_some h

theorem frame_isSome {s : Chip} {f : Frame} (h : f ∈ s.frames) : ∃ g, s.frame f.id = some g :=
  Option.isSome_iff_exists.1 (List.find?_isSome.2 ⟨f, h, beq_self_eq_true _⟩)

theorem frame_putFrame (s : Chip) (f : Frame) (k : Nat) :
    (s.putFrame f).frame k = if k = f.id then (s.frame k).map (fun _ => f) else s.frame k := by
  unfold Chip.frame Chip.putFrame
  dsimp only
  induction s.frames with
  | nil => split <;> rfl
  | cons g l ih =>
    rw [List.map_cons, List.find?_cons, List.find?_cons, ih]
    by_cases hg : g.id = f.id <;> by_cases hk : k = f.id
    · simp [hg, hk]
    · simp [hg, hk, beq_eq_false_iff_ne.2 (Ne.symm hk)]
    · simp [hk, if_neg hg, beq_eq_false_iff_ne.2 hg]
    · simp [hk, if_neg hg]

theorem frame_putFrame_same {s : Chip} {f g : Frame} (h : s.frame f.id = some g) : (s.putFrame f).frame f.id = some f := by
  rw [frame_putFrame, if_pos rfl, h]
  rfl

theorem putFrame_othersAs (s : Chip) (f : Frame) : (s.putFrame f).othersAs s f.id := fun k hk => by
  rw [frame_putFrame, if_neg hk]

/-! ### A frame that is dropped or ended (R131, R137) -/

theorem freeCells_frame (s : Chip) (o n : Nat) : ∃ r, s.freeCells o n = s.withRegs r := by
  unfold Chip.freeCells
  split
  · exact ⟨s.regs, rfl⟩
  · exact ⟨_, rfl⟩

theorem keeps_freeCells (s : Chip) (o n : Nat) : s.keeps (s.freeCells o n) [F.buf3Free o] := by
  unfold Chip.freeCells
  split
  · exact keeps_refl s _
  · exact keeps_setN s _ _

/-- The fields in which the cells of a frame return to the free lists. -/
def freeFields (f : Frame) : List Fld := [F.buf3Free f.outPort, F.buf3Free (f.outPort + 6)]

/-- The free lists of the slices stand in the second half of their page, below the pages of the admission limits. -/
theorem notIn_freeFields {a k w : Nat} {v : Word} {f : Frame} (hout : f.outPort < 48) (h : a < 0x123100 ∨ 0x140000 ≤ a)
    (hk : k < 32) : (⟨a, k, w, v⟩ : Fld).notIn (freeFields f) :=
  Fld.notIn_cons (Fld.key_ne (by omega)) (Fld.notIn_cons (Fld.key_ne (by omega)) (Fld.notIn_nil _))

/-- The block as a frame has left it, before its cells return to the free lists of the slices. -/
def Chip.withdrawn (s : Chip) (f : Frame) : Chip :=
  { s with
    frames := s.frames.filter (fun g => g.id != f.id)
    fab := { s.fab with
      crossing := s.fab.crossing.filter (fun x => x.1 != f.id)
      inFree := if f.direct then s.fab.inFree
        else Store.write 2048 s.fab.inFree f.inPort (Store.read 2048 s.fab.inFree f.inPort + (f.formed - f.crossed)) } }

theorem dropFrame_eq (s : Chip) (f : Frame) :
    s.dropFrame f
      = ((s.withdrawn f).freeCells f.outPort (f.crossed - f.upperCells)).freeCells (f.outPort + 6) f.upperCells := rfl

theorem keeps_dropFrame (s : Chip) (f : Frame) : s.keeps (s.dropFrame f) (freeFields f) := by
  have h : s.keeps (s.withdrawn f) [] := keeps_of_regs _ rfl
  rw [dropFrame_eq]
  exact keeps_trans (keeps_trans h (keeps_freeCells _ _ _)) (keeps_freeCells _ _ _)

theorem dropFrame_frame (s : Chip) (f : Frame) :
    ∃ r fab, s.dropFrame f = { s with regs := r, frames := s.frames.filter (fun g => g.id != f.id), fab := fab } := by
  rw [dropFrame_eq]
  obtain ⟨r, hr⟩ := freeCells_frame (s.withdrawn f) f.outPort (f.crossed - f.upperCells)
  obtain ⟨r', hr'⟩ := freeCells_frame ((s.withdrawn f).withRegs r) (f.outPort + 6) f.upperCells
  rw [hr, hr']
  exact ⟨r', (s.withdrawn f).fab, rfl⟩

theorem dropFrame_frames (s : Chip) (f : Frame) : (s.dropFrame f).frames = s.frames.filter (fun g => g.id != f.id) := by
  obtain ⟨r, fab, h⟩ := dropFrame_frame s f
  rw [h]

theorem frame_dropFrame (s : Chip) (f : Frame) : (s.dropFrame f).frame f.id = none := by
  unfold Chip.frame
  rw [dropFrame_frames, List.find?_eq_none]
  intro g hg
  simpa using (List.mem_filter.1 hg).2

theorem dropFrame_othersAs (s : Chip) (f : Frame) : (s.dropFrame f).othersAs s f.id := fun k hk => by
  unfold Chip.frame
  rw [dropFrame_frames, List.find?_filter]
  refine congrArg (fun p => s.frames.find? p) (funext fun g => ?_)
  by_cases hg : g.id = k
  · simp [hg, hk]
  · simp [hg]

/-- A started frame as it ends at once. -/
def Frame.atEnd (f : Frame) : Frame := { f with bad := true, ended := true, formed := f.crossed, rsv := 0 }

theorem endFrame_started (s : Chip) {f : Frame} (h : f.started = true) :
    ∃ fab, s.endFrame f = { s with frames := (s.putFrame f.atEnd).frames, fab := fab } := by
  unfold Chip.endFrame
  rw [if_pos h]
  exact ⟨_, rfl⟩

theorem endFrame_waiting (s : Chip) {f : Frame} (h : f.started = false) : s.endFrame f = s.dropFrame f := by
  unfold Chip.endFrame
  rw [h, if_neg Bool.false_ne_true]

theorem endFrame_frame (s : Chip) (f : Frame) :
    ∃ r fr fab, s.endFrame f = { s with regs := r, frames := fr, fab := fab } := by
  cases h : f.started
  case false =>
    obtain ⟨r, fab, hd⟩ := dropFrame_frame s f
    exact ⟨r, _, fab, (endFrame_waiting s h).trans hd⟩
  case true =>
    obtain ⟨fab, he⟩ := endFrame_started s h
    exact ⟨s.regs, _, fab, he⟩

theorem keeps_endFrame (s : Chip) (f : Frame) : s.keeps (s.endFrame f) (freeFields f) := by
  cases h : f.started
  case false => rw [endFrame_waiting s h]; exact keeps_dropFrame s f
  case true =>
    obtain ⟨fab, he⟩ := endFrame_started s h
    exact keeps_of_regs _ (by rw [he])

theorem endFrame_othersAs (s : Chip) (f : Frame) : (s.endFrame f).othersAs s f.id := by
  cases h : f.started
  case false => rw [endFrame_waiting s h]; exact dropFrame_othersAs s f
  case true =>
    obtain ⟨fab, he⟩ := endFrame_started s h
    exact othersAs_trans (othersAs_of_frames (by rw [he]) _) (putFrame_othersAs s f.atEnd)

theorem frame_endFrame_started {s : Chip} {f g : Frame} (h : f.started = true) (hf : s.frame f.id = some g) :
    (s.endFrame f).frame f.id = some f.atEnd := by
  obtain ⟨fab, he⟩ := endFrame_started s h
  rw [frame_of_frames (t := s.endFrame f) (by rw [he])]
  exact frame_putFrame_same (f := f.atEnd) hf

/-! ### Promises that break (R71) -/

/-- A promise that breaks counts once. -/
theorem breakPromise_eq (s : Chip) (f : Frame) (ctr : Nat → Nat → Fld) :
    s.breakPromise f ctr = s.count (ctr f.outPort f.outSub) (if f.express = true ∧ f.broken = false then 1 else 0) := by
  unfold Chip.breakPromise
  by_cases h : f.express = true ∧ f.broken = false
  · rw [if_pos h, if_pos (by rw [h.1, h.2]; rfl)]
    rfl
  · rw [if_neg h, count_zero, if_neg (by simpa using h)]

/-- The promise of an accepted frame breaks once. -/
theorem breaks_once {f : Frame} (h : f.express = true) :
    (if f.express = true ∧ f.broken = false then 1 else 0) = if f.broken = true then 0 else 1 := by
  cases hb : f.broken <;> simp [h]

/-- A counter of broken promises (Table 3-4): it stands on the page of its output, at an offset of its own in each subport. -/
def isBreak (c : Nat → Nat → Fld) : Prop :=
  ∃ k, (0x128 ≤ k ∧ k ≤ 0x140) ∧ ∀ o sub, c o sub = ⟨0x140000 + o * 0x1000 + k + sub * 0x80, 0, 32, 0⟩

theorem isBreak_ite {p : Prop} [Decidable p] {c d : Nat → Nat → Fld} (hc : isBreak c) (hd : isBreak d) : isBreak (if p then c else d) := by
  split
  · exact hc
  · exact hd

theorem isBreak_link : isBreak F.admSubBreakLink := ⟨0x12c, by omega, fun _ _ => rfl⟩
theorem isBreak_ecc : isBreak F.admSubBreakEcc := ⟨0x134, by omega, fun _ _ => rfl⟩
theorem isBreak_merge : isBreak F.admSubBreakMerge := ⟨0x138, by omega, fun _ _ => rfl⟩
theorem isBreak_gate : isBreak F.admSubBreakGate := ⟨0x13c, by omega, fun _ _ => rfl⟩
theorem isBreak_late : isBreak F.admSubBreakLate := ⟨0x140, by omega, fun _ _ => rfl⟩

theorem isBreak_over (s : Chip) (f : Frame) {c : Nat → Nat → Fld} (hc : isBreak c) : isBreak (s.causeOver f c) :=
  isBreak_ite isBreak_link hc

theorem isBreak_cause (s : Chip) (f : Frame) : isBreak (s.breakCause f) :=
  isBreak_ite isBreak_link (isBreak_ite isBreak_link (isBreak_ite isBreak_merge (isBreak_ite isBreak_gate isBreak_late)))

end Sys2Proof.Machine

/-! Admission of frames and of their tails, and cells at the input (R62 to R66, R119, R123): O25, O26, O27. -/

namespace Sys2Proof.Machine

open Sys2Proof.Says

theorem runs_mono {c : Instr} {s : State} {P Q : Chip → Prop} (h : Runs c s P) (hPQ : ∀ t, P t → Q t) : Runs c s Q := by
  obtain ⟨t, ht, hP⟩ := h
  exact ⟨t, ht, hPQ t hP⟩

/-! ### The admission stage (R62 to R65) -/

section
variable {s : Chip} {f : Frame} (hrun : s.coresRun = true) (hf : s.frame f.id = some f) (htaken : f.taken = false)
include hrun hf htaken

theorem admission_below (hcls : f.cls < 12) : s.admission f.id = s.putFrame { f with taken := true } := by
  unfold Chip.admission
  simp only [hf, htaken, hrun, hcls, Bool.not_true, Bool.or_self, Bool.false_eq_true, if_false, if_true]

theorem admission_flowless (hcls : 12 ≤ f.cls) (hflow : f.flow = none) : s.admission f.id = s.unadmit f := by
  unfold Chip.admission
  simp only [hf, htaken, hrun, Nat.not_lt.2 hcls, hflow, Bool.not_true, Bool.or_self, Bool.false_eq_true, if_false]

theorem admission_standing {i : Nat} (hcls : 12 ≤ f.cls) (hflow : f.flow = some i) (hun : f.unadmitted = false)
    (hst : s.flowStands f i = true) :
    s.admission f.id =
      if s.bucketHolds i (flowMaxf f.entry + 20) then s.accept f i
      else if flowDrop f.entry then (s.dropFrame f).bump (F.admSubDropped f.outPort f.outSub)
      else (s.putFrame { f with taken := true, cls := flowDemote f.entry }).bump (F.admSubDemoted f.outPort f.outSub) := by
  unfold Chip.admission
  simp only [hf, htaken, hrun, Nat.not_lt.2 hcls, hflow, hun, hst, Bool.not_true, Bool.or_self, Bool.false_eq_true, if_false]

end

/-- A frame as its flow accepts it: in the flow's class, cut at maxf (R62, R64). -/
def Chip.acceptedFrame (s : Chip) (f : Frame) : Frame :=
  { f with
    express := true, taken := true, cls := flowClass f.entry
    len := min (s.maxframe f.outPort) (f.full - (f.inLen - flowMaxf f.entry))
    bad := f.bad || decide (0 < f.inLen - flowMaxf f.entry) }

/-- The block as it accepts a frame, before it counts it. -/
def Chip.accepting (s : Chip) (f : Frame) (i : Nat) : Chip :=
  { s with
    frames := (s.putFrame (s.acceptedFrame f)).frames
    tokens := Store.write 0 s.tokens i (Store.read 0 s.tokens i + (flowMaxf f.entry + 20) * 8000)
    tails := Store.write tailDefault s.tails f.id ⟨i, f.entry, f.inLen, true, false⟩ }

theorem accept_eq (s : Chip) (f : Frame) (i : Nat) :
    s.accept f i = (s.accepting f i).bump (F.admSubAccepted f.outPort f.outSub) := rfl

theorem find_tails_accepting (s : Chip) (f : Frame) (i k : Nat) :
    Store.find k (s.accepting f i).tails = if k = f.id then some ⟨i, f.entry, f.inLen, true, false⟩ else Store.find k s.tails :=
  (store_find_write tailDefault s.tails f.id k ⟨i, f.entry, f.inLen, true, false⟩).trans
    (by rw [if_neg (c := _ = tailDefault) (by simp [tailDefault])])

theorem tokens_accepting (s : Chip) (f : Frame) (i : Nat) :
    (s.accepting f i).tokens = Store.write 0 s.tokens i (Store.read 0 s.tokens i + (flowMaxf f.entry + 20) * 8000) := rfl

theorem admitConforming_holds (f : Frame) (i : Nat) (s : State) : admitConforming f i s := by
  intro hrun hf htaken hcls hflow hun hst hholds
  refine runs_done rfl ?_
  rw [admission_standing hrun hf htaken hcls hflow hun hst, if_pos hholds, accept_eq]
  have hkeeps : s.chip.keeps (s.chip.accepting f i) [] := keeps_of_regs _ rfl
  have hframes : ((s.chip.accepting f i).bump (F.admSubAccepted f.outPort f.outSub)).frames
      = (s.chip.putFrame (s.chip.acceptedFrame f)).frames := bump_frames _ _
  obtain ⟨r, hr⟩ := bump_withRegs (s.chip.accepting f i) (F.admSubAccepted f.outPort f.outSub)
  refine ⟨?_, ?_, ?_, ?_, fun k hk => ?_, ?_, fun k hk => ?_, ?_, ?_⟩
  · exact counted_bump_after rfl (.of (by omega)) rfl hkeeps (Fld.notIn_nil _)
  · rw [frame_of_frames hframes]
    exact frame_putFrame_same (f := s.chip.acceptedFrame f) hf
  · exact othersAs_trans (othersAs_of_frames hframes _) (putFrame_othersAs s.chip (s.chip.acceptedFrame f))
  · rw [bump_tokens, tokens_accepting, store_read_write_same]
  · rw [bump_tokens, tokens_accepting, store_read_write_other _ _ _ _ hk]
  · rw [bump_tails, find_tails_accepting, if_pos rfl]
  · rw [bump_tails, find_tails_accepting, if_neg hk]
  · exact keeps_trans hkeeps (keeps_bump _ _)
  · rw [hr]
    rfl

theorem admitShort_holds (f : Frame) (i : Nat) (s : State) : admitShort f i s := by
  intro hrun hf htaken hcls hflow hun hst hshort
  refine runs_done rfl ?_
  rw [admission_standing hrun hf htaken hcls hflow hun hst, hshort, if_neg Bool.false_ne_true]
  cases hdrop : flowDrop f.entry
  case true =>
    rw [if_pos rfl]
    obtain ⟨r, fab, hd⟩ := dropFrame_frame s.chip f
    obtain ⟨r', hr⟩ := bump_withRegs (s.chip.dropFrame f) (F.admSubDropped f.outPort f.outSub)
    have hk := keeps_dropFrame s.chip f
    refine ⟨?_, fun _ => ⟨?_, ?_, ?_⟩, (fun h => absurd h (by decide)), ?_⟩
    · exact othersAs_trans (othersAs_of_frames (bump_frames _ _) _) (dropFrame_othersAs _ _)
    · exact counted_bump_after rfl (.of (by omega)) (by rw [hd]) hk
        (Fld.notIn_cons (Fld.key_ne (by omega)) (Fld.notIn_cons (Fld.key_ne (by omega)) (Fld.notIn_nil _)))
    · rw [frame_of_frames (bump_frames _ _), frame_dropFrame]
    · exact keeps_mono (keeps_trans hk (keeps_bump _ _)) (by simp [freeFields])
    · rw [hr, hd]
      rfl
  case false =>
    rw [if_neg Bool.false_ne_true]
    have hput : s.chip.keeps (s.chip.putFrame { f with taken := true, cls := flowDemote f.entry }) [] := keeps_of_regs _ rfl
    obtain ⟨r, hr⟩ := bump_withRegs (s.chip.putFrame { f with taken := true, cls := flowDemote f.entry })
      (F.admSubDemoted f.outPort f.outSub)
    refine ⟨?_, (fun h => absurd h (by decide)), fun _ => ⟨?_, ?_, ?_⟩, ?_⟩
    · exact othersAs_trans (othersAs_of_frames (bump_frames _ _) _) (putFrame_othersAs _ _)
    · exact counted_bump_after rfl (.of (by omega)) rfl hput (Fld.notIn_nil _)
    · rw [frame_of_frames (bump_frames _ _)]
      exact frame_putFrame_same (f := { f with taken := true, cls := flowDemote f.entry }) hf
    · exact keeps_trans hput (keeps_bump _ _)
    · rw [hr]
      rfl

/-- Settles O26: the bucket that falls short decides between the drop and the demotion by the flow's DROP bit. -/
theorem nonconformingFramesAreDemotedOrDropped : Obligations.NonconformingFramesAreDemotedOrDropped :=
  fun s f i => admitShort_holds f i s

theorem admitOther_holds (f : Frame) (s : State) : admitOther f s := by
  intro hrun hf htaken hother
  refine runs_done rfl ?_
  by_cases hcls : f.cls < 12
  · rw [admission_below hrun hf htaken hcls]
    exact ⟨putFrame_othersAs _ _, fun _ => ⟨frame_putFrame_same (f := { f with taken := true }) hf, rfl⟩,
      fun h => absurd hcls (Nat.not_lt.2 h), keeps_of_regs _ rfl, rfl⟩
  · have h12 : 12 ≤ f.cls := Nat.not_lt.1 hcls
    rw [admission_flowless hrun hf htaken h12 (hother.resolve_left hcls)]
    unfold Chip.unadmit
    generalize hg : ({ f with taken := true, unadmitted := true, cls := min 11 (s.chip.getN (F.admCtrlUnadmittedClass f.outPort)) } : Frame) = g
    have hid : g.id = f.id := by rw [← hg]
    have hput : s.chip.keeps (s.chip.putFrame g) [] := keeps_of_regs _ rfl
    obtain ⟨r, hr⟩ := bump_withRegs (s.chip.putFrame g) (F.admSubUnadmitted f.outPort f.outSub)
    refine ⟨?_, fun h => absurd h hcls, fun _ => ⟨?_, ?_⟩, ?_, ?_⟩
    · exact hid ▸ othersAs_trans (othersAs_of_frames (bump_frames _ _) _) (putFrame_othersAs _ _)
    · exact counted_bump_after rfl (.of (by omega)) rfl hput (Fld.notIn_nil _)
    · rw [frame_of_frames (bump_frames _ _), ← hid]
      exact frame_putFrame_same (hid ▸ hf)
    · exact keeps_trans hput (keeps_bump _ _)
    · rw [hr]
      rfl

/-! ### Tails (R62, R64, R66) -/

theorem store_erase_insert {α : Type} (k : Nat) (v : α) (l : Store α) : Store.erase k (Store.insert k v l) = Store.erase k l := by
  induction l with
  | nil => simp [Store.insert, Store.erase]
  | cons e l ih =>
    by_cases hek : e.1 = k
    · simp [Store.insert, Store.erase, hek]
    · by_cases hlt : k < e.1
      · simp [Store.insert, Store.erase, hek, hlt]
      · simp [Store.insert, Store.erase, hek, hlt, ih]

theorem over_iff (r : Tail) : r.over = true ↔ flowMaxf r.entry < r.len := decide_eq_true_iff

/-- The field in which an accepted frame counts as longer than its flow's maxf. -/
def Tail.oversizeField (r : Tail) : Fld := F.admSubOversize (flowPort r.entry) (flowSub r.entry)

/-- The block before an accepted frame counts as longer than its flow's maxf: the frame is marked as counted. -/
def Chip.markOver (s : Chip) (id : Nat) (r : Tail) : Chip :=
  { s with tails := Store.write tailDefault s.tails id { r with counted := true } }

theorem markOver_tails (s : Chip) (id : Nat) (r : Tail) :
    (s.markOver id r).tails = Store.insert id { r with counted := true } s.tails :=
  if_neg (by simp [tailDefault])

theorem oversize_counts (s : Chip) (id : Nat) {r : Tail} (h : flowMaxf r.entry < r.len ∧ r.counted = false) :
    s.oversize id r = (s.markOver id r).bump r.oversizeField := by
  obtain ⟨hlen, hcounted⟩ := h
  unfold Chip.oversize
  rw [(over_iff r).2 hlen, hcounted]
  rfl

theorem oversize_stays (s : Chip) (id : Nat) {r : Tail} (h : ¬ (flowMaxf r.entry < r.len ∧ r.counted = false)) :
    s.oversize id r = s := by
  unfold Chip.oversize
  rw [if_neg]
  rw [Bool.and_eq_true, over_iff, Bool.not_eq_true']
  exact h

/-- OVERSIZE counts once for a frame longer than its flow's maxf (R64). -/
theorem oversize_spec (s : Chip) (id : Nat) (r : Tail) :
    s.counted (s.oversize id r) r.oversizeField (if flowMaxf r.entry < r.len ∧ r.counted = false then 1 else 0)
      ∧ s.keeps (s.oversize id r) [r.oversizeField]
      ∧ (∃ r' tails, s.oversize id r = { s with regs := r', tails := tails })
      ∧ Store.erase id (s.oversize id r).tails = Store.erase id s.tails := by
  by_cases h : flowMaxf r.entry < r.len ∧ r.counted = false
  · rw [oversize_counts s id h, if_pos h]
    have hkeeps : s.keeps (s.markOver id r) [] := keeps_of_regs _ rfl
    obtain ⟨r', hr⟩ := bump_withRegs (s.markOver id r) r.oversizeField
    refine ⟨counted_bump_after rfl (.of (by omega)) rfl hkeeps (Fld.notIn_nil _), keeps_trans hkeeps (keeps_bump _ _),
      ⟨r', _, hr.trans rfl⟩, ?_⟩
    rw [bump_tails, markOver_tails, store_erase_insert]
  · rw [oversize_stays s id h, if_neg h]
    have hzero := counted_count s r.oversizeField 0 rfl (.of (by omega))
    rw [count_zero] at hzero
    exact ⟨hzero, keeps_refl s _, ⟨s.regs, s.tails, rfl⟩, rfl⟩

/-- The block without what it kept of an accepted frame. -/
def Chip.tailless (s : Chip) (id : Nat) : Chip := { s with tails := Store.erase id s.tails }

theorem tailRecord_eq {s : Chip} {id : Nat} {r : Tail} (h : Store.find id s.tails = some r) :
    s.tailRecord id =
      let u := (s.oversize id r).tailless id
      if r.live = true ∧ r.len ≤ flowMaxf r.entry then u.bucketReturn r.flow (flowMaxf r.entry - r.len) else u := by
  have hiff : (r.live && !r.over) = true ↔ r.live = true ∧ r.len ≤ flowMaxf r.entry := by
    rw [Bool.and_eq_true, Bool.not_eq_true', ← Bool.not_eq_true, over_iff, Nat.not_lt]
  unfold Chip.tailRecord
  rw [h]
  exact if_congr hiff rfl rfl

/-- The bucket of an accepted frame is settled as its tail passes (R62, R64). -/
theorem tailRecord_spec {s : Chip} {id : Nat} {r : Tail} (h : Store.find id s.tails = some r) :
    tailBucket r s (s.tailRecord id) ∧ (s.tailRecord id).tails = Store.erase id s.tails
      ∧ s.keeps (s.tailRecord id) [r.oversizeField]
      ∧ ∃ r' tokens tails, s.tailRecord id = { s with regs := r', tokens := tokens, tails := tails } := by
  obtain ⟨hcounted, hkeeps, ⟨r', tails, hover⟩, herase⟩ := oversize_spec s id r
  rw [tailRecord_eq h]
  dsimp only
  have htokens : ((s.oversize id r).tailless id).tokens = s.tokens := by rw [hover]; rfl
  have hrest : (s.oversize id r).tailless id = { s with regs := r', tails := Store.erase id tails } := by rw [hover]; rfl
  split
  case isTrue hback =>
    refine ⟨⟨fun _ _ => ⟨?_, fun k hk => ?_⟩, ?_, hcounted⟩, herase, hkeeps, ?_⟩
    · rw [← htokens]
      exact store_read_write_same _ _ _ _
    · rw [← htokens]
      exact store_read_write_other _ _ _ _ hk
    · rintro (hdead | hlong)
      · exact absurd (hdead.symm.trans hback.1) (by decide)
      · exact absurd hback.2 (Nat.not_le.2 hlong)
    · rw [hrest]
      exact ⟨r', _, _, rfl⟩
  case isFalse hback =>
    refine ⟨⟨fun hlive hlen => absurd ⟨hlive, hlen⟩ hback, fun _ => htokens, hcounted⟩, herase, hkeeps, ?_⟩
    exact ⟨r', s.tokens, _, hrest⟩

/-- What a bucket was settled to stays under updates of other parts. -/
theorem tailBucket_within {r : Tail} {s t u : Chip} (h : tailBucket r s t) (htokens : u.tokens = t.tokens)
    (hget : u.get r.oversizeField = t.get r.oversizeField) : tailBucket r s u := by
  obtain ⟨hback, hstays, hcounted⟩ := h
  exact ⟨by rw [htokens]; exact hback, by rw [htokens]; exact hstays, (congrArg BitVec.toNat hget).trans hcounted⟩

theorem tailAdmission_gone {s : Chip} {id : Nat} (how : TailEnd) (hrun : s.coresRun = true) (hf : (s.tailRecord id).frame id = none) :
    s.tailAdmission id how = s.tailRecord id := by
  unfold Chip.tailAdmission
  simp only [hrun, hf, Bool.not_true, Bool.false_eq_true, if_false]

/-- A frame as its tail passes, and one that has failed at the ingress by then. -/
def Frame.seen (f : Frame) : Frame := { f with tailSeen := true }
def Frame.spoilt (f : Frame) : Frame := { f with tailSeen := true, bad := true }

section
variable {s : Chip} {f : Frame} (hrun : s.coresRun = true) (hf : (s.tailRecord f.id).frame f.id = some f)
  (hfirst : ¬ (!f.taken || f.tailSeen) = true)
include hrun hf hfirst

theorem tailAdmission_good : s.tailAdmission f.id .good = (s.tailRecord f.id).putFrame f.seen := by
  unfold Chip.tailAdmission
  rw [hrun, Bool.not_true, if_neg Bool.false_ne_true]
  dsimp only
  rw [hf]
  exact if_neg hfirst

theorem tailAdmission_badFcs (hbad : f.bad = false) :
    s.tailAdmission f.id .badFcs
      = ((s.tailRecord f.id).putFrame f.seen).spoil f.seen := by
  unfold Chip.tailAdmission
  rw [hrun, Bool.not_true, if_neg Bool.false_ne_true]
  dsimp only
  rw [hf]
  exact (if_neg hfirst).trans (if_neg (by rw [hbad]; exact Bool.false_ne_true))

theorem tailAdmission_badFec :
    s.tailAdmission f.id .badFec
      = (((s.tailRecord f.id).putFrame f.seen).bump (F.port2FecUncorrectable f.inPort f.inSub)).spoil
          f.seen := by
  unfold Chip.tailAdmission
  rw [hrun, Bool.not_true, if_neg Bool.false_ne_true]
  dsimp only
  rw [hf]
  exact if_neg hfirst

end

/-- The tail of a frame that is taken, and whose tail has not passed, is its first. -/
theorem first_tail {f : Frame} (htaken : f.taken = true) (hseen : f.tailSeen = false) : ¬ (!f.taken || f.tailSeen) = true := by
  rw [htaken, hseen]
  decide

theorem tailAfter_holds (id : Nat) (r : Tail) (how : TailEnd) (s : State) : tailAfter id r how s := by
  intro hrun hf hr
  refine runs_done rfl ?_
  obtain ⟨hbucket, htails, hkeeps, r', tokens, tails, hrec⟩ := tailRecord_spec hr
  have hnone : (s.chip.tailRecord id).frame id = none := (frame_of_frames (by rw [hrec]) id).trans hf
  rw [tailAdmission_gone how hrun hnone]
  exact ⟨hbucket, htails, hkeeps, by rw [hrec]⟩

theorem tailGood_holds (f : Frame) (r : Tail) (s : State) : tailGood f r s := by
  intro hrun hf htaken hseen hr
  refine runs_done rfl ?_
  obtain ⟨hbucket, htails, hkeeps, r', tokens, tails, hrec⟩ := tailRecord_spec hr
  have hframe : (s.chip.tailRecord f.id).frame f.id = some f := (frame_of_frames (by rw [hrec]) f.id).trans hf
  rw [tailAdmission_good hrun hframe (first_tail htaken hseen)]
  refine ⟨frame_putFrame_same (f := f.seen) hframe, ?_, hbucket, htails, hkeeps, ?_⟩
  · exact othersAs_trans (putFrame_othersAs _ _) (othersAs_of_frames (by rw [hrec]) _)
  · rw [hrec]
    rfl

/-- A frame that failed at the ingress leaves with an inverted FCS; an accepted one counts in ABORTED (R66). -/
theorem spoil_express (s : Chip) {f : Frame} (h : f.express = true) :
    s.spoil f = (s.putFrame { f with bad := true }).bump (F.admSubAborted f.outPort f.outSub) := if_pos h

/-- The tail of an accepted frame that failed at the ingress: what it counts, and how the frame leaves (R66). -/
theorem tailAdmission_bad {s : Chip} {f : Frame} (badFec : Bool) (hrun : s.coresRun = true)
    (hf : (s.tailRecord f.id).frame f.id = some f) (hfirst : ¬ (!f.taken || f.tailSeen) = true) (hexpress : f.express = true)
    (hbad : f.bad = false) :
    s.tailAdmission f.id (if badFec then .badFec else .badFcs) =
      ((((s.tailRecord f.id).putFrame f.seen).count (F.port2FecUncorrectable f.inPort f.inSub) (ofBool badFec)).putFrame
        f.spoilt).bump (F.admSubAborted f.outPort f.outSub) := by
  cases badFec
  case true => exact (tailAdmission_badFec hrun hf hfirst).trans (spoil_express (f := f.seen) _ hexpress)
  case false =>
    refine (tailAdmission_badFcs hrun hf hfirst hbad).trans ((spoil_express (f := f.seen) _ hexpress).trans ?_)
    exact congrArg (fun c => (Chip.putFrame c f.spoilt).bump _) (count_zero _ _).symm

theorem tailBad_holds (f : Frame) (r : Tail) (badFec : Bool) (s : State) : tailBad f r badFec s := by
  intro hrun hf htaken hseen hexpress hbad hr hrange
  refine runs_done rfl ?_
  obtain ⟨hports, -⟩ := hrange
  obtain ⟨hin, hinSub, hout, houtSub, -⟩ := hports f (frame_mem hf)
  obtain ⟨hbucket, htails, hkeeps, r', tokens, tails, hrec⟩ := tailRecord_spec hr
  have hframe : (s.chip.tailRecord f.id).frame f.id = some f := (frame_of_frames (by rw [hrec]) f.id).trans hf
  rw [tailAdmission_bad badFec hrun hframe (first_tail htaken hseen) hexpress hbad]
  have hfec : (F.port2FecUncorrectable f.inPort f.inSub).key ≠ (F.admSubAborted f.outPort f.outSub).key :=
    Fld.key_ne (by omega)
  have hover : r.oversizeField.key ≠ (F.admSubAborted f.outPort f.outSub).key := Fld.key_ne (by omega)
  have hfecOver : (F.port2FecUncorrectable f.inPort f.inSub).key ≠ r.oversizeField.key := by
    have hp : flowPort r.entry < 2 ^ 6 := Nat.mod_lt _ (by decide)
    have hs : flowSub r.entry < 2 ^ 3 := Nat.mod_lt _ (by decide)
    exact Fld.key_ne (by omega)
  generalize hR : s.chip.tailRecord f.id = R at hbucket htails hkeeps hframe hrec ⊢
  obtain ⟨q, hq⟩ := count_withRegs (R.putFrame f.seen) (F.port2FecUncorrectable f.inPort f.inSub) (ofBool badFec)
  have hfecKeeps : R.keeps (((R.putFrame f.seen).count (F.port2FecUncorrectable f.inPort f.inSub) (ofBool badFec)).putFrame f.spoilt)
      [F.port2FecUncorrectable f.inPort f.inSub] := keeps_count (R.putFrame f.seen) _ _
  generalize hw : ((R.putFrame f.seen).count (F.port2FecUncorrectable f.inPort f.inSub) (ofBool badFec)).putFrame f.spoilt = w
    at hfecKeeps ⊢
  obtain ⟨q', hq'⟩ := bump_withRegs w (F.admSubAborted f.outPort f.outSub)
  have habKeeps := keeps_bump w (F.admSubAborted f.outPort f.outSub)
  have hwframes : w.frames = ((R.putFrame f.seen).putFrame f.spoilt).frames := by rw [← hw, hq]; rfl
  have hwpower : w.power = s.chip.power := by rw [← hw, hq, hrec]; rfl
  refine ⟨?_, ?_, ?_, ?_, ?_, ?_, ?_, ?_⟩
  · rw [frame_of_frames (bump_frames _ _), frame_of_frames hwframes]
    exact frame_putFrame_same (f := f.spoilt) (frame_putFrame_same (f := f.seen) hframe)
  · refine othersAs_trans (othersAs_of_frames ((bump_frames _ _).trans hwframes) _) ?_
    exact othersAs_trans (putFrame_othersAs _ f.spoilt)
      (othersAs_trans (putFrame_othersAs _ f.seen) (othersAs_of_frames (by rw [hrec]) _))
  · exact counted_bump_after rfl (.of (by omega)) hwpower (keeps_trans hkeeps hfecKeeps)
      (Fld.notIn_cons hover.symm (Fld.notIn_cons hfec.symm (Fld.notIn_nil _)))
  · refine tailBucket_within hbucket ?_ ?_
    · rw [bump_tokens, ← hw, hq]; rfl
    · exact get_of_keeps (keeps_trans hfecKeeps habKeeps) _ (.of (by omega))
        (Fld.notIn_cons hfecOver.symm (Fld.notIn_cons hover (Fld.notIn_nil _)))
  · rw [bump_tails, ← hw, hq]; exact htails
  · intro hb
    subst hb hw
    exact counted_within (u := R.putFrame f.seen) rfl (.of (by omega)) (by rw [hrec]; rfl) hkeeps habKeeps
      (Fld.notIn_cons hfecOver (Fld.notIn_nil _)) (Fld.notIn_cons hfec (Fld.notIn_nil _))
  · exact keeps_mono (keeps_trans (keeps_trans hkeeps hfecKeeps) habKeeps) (by simp [Tail.oversizeField])
  · rw [hq', ← hw, hq, hrec]; rfl

/-- A frame longer than its flow's maxf is a conforming frame, cut (R64). -/
theorem overlong_holds (f : Frame) (i : Nat) (s : State) : overlong f i s := by
  refine ⟨fun hrun hf htaken hcls hflow hun hst hholds hlong => ?_, fun hrun hf htaken hseen hr hlong => ?_⟩
  · refine runs_mono (admitConforming_holds f i s hrun hf htaken hcls hflow hun hst hholds) ?_
    rintro t ⟨-, hframe, -, -, -, htail, -, hkeeps, hrest⟩
    have hcut : decide (0 < f.inLen - flowMaxf f.entry) = true := decide_eq_true (Nat.sub_pos_of_lt hlong)
    exact ⟨⟨_, hframe, rfl, by rw [hcut, Bool.or_true], rfl⟩, htail, hkeeps, hrest⟩
  · refine runs_mono (tailGood_holds f ⟨i, f.entry, f.inLen, true, false⟩ s hrun hf htaken hseen hr) ?_
    rintro t ⟨hframe, -, ⟨-, hstays, hcounted⟩, -, hkeeps, hrest⟩
    rw [if_pos ⟨hlong, rfl⟩] at hcounted
    have htokens := hstays (.inr hlong)
    rw [htokens] at hrest
    exact ⟨hcounted, htokens, hframe, hkeeps, hrest⟩

/-- Settles O27: an overlong frame is accepted as any conforming frame is, and its tail is any good tail. -/
theorem overlongFramesAreCutAtMaxf : Obligations.OverlongFramesAreCutAtMaxf :=
  fun s f i => overlong_holds f i s

/-! ### Cells at the input (R119, R123) -/

/-- A frame whose next cell has formed. -/
def Frame.nextCell (f : Frame) : Frame := { f with stored := true, formed := f.formed + 1 }

/-- The block with one cell gone from the free list of an input store. -/
def Chip.cellTaken (s : Chip) (p : Nat) : Chip :=
  { s with fab := { s.fab with inFree := Store.write 2048 s.fab.inFree p (Store.read 2048 s.fab.inFree p - 1) } }

theorem cellForm_eq {s : Chip} {f : Frame} (hrun : s.coresRun = true) (hf : s.frame f.id = some f) (htaken : f.taken = true)
    (hended : f.ended = false) (hdirect : f.direct = false) (hroom : f.formed < f.cells)
    (hlast : f.formed + 1 = f.cells → f.tailSeen = true ∨ f.bad = true) :
    s.cellForm f.id =
      if f.express then
        if 256 ≤ s.inputUsed f.inPort true then (s.endBroken f (s.breakCause f)).bump (F.port4ExpFull f.inPort) else s.formCell f
      else if !f.stored && decide (1792 < s.inputUsed f.inPort false + 24) then (s.dropFrame f).bump (F.port4InDrop f.inPort)
      else s.formCell f := by
  have hready : (decide (f.formed + 1 = f.cells) && !f.tailSeen && !f.bad) = false := by
    by_cases h : f.formed + 1 = f.cells
    · rcases hlast h with h' | h' <;> simp [h']
    · simp [h]
  unfold Chip.cellForm
  rw [hf]
  exact if_neg (by rw [hrun, htaken, hended, hdirect, decide_eq_false (Nat.not_le.2 hroom), hready]; decide)

/-- The block after the last cell of a frame has shown whether the frame is longer than its flow's maxf (R64). -/
def Chip.lastCellSeen (s : Chip) (f : Frame) : Chip :=
  match (Store.find f.id s.tails).filter (fun _ => f.formed + 1 == f.cells) with
  | some r => s.oversize f.id r
  | none => s

theorem formCell_eq (s : Chip) (f : Frame) : s.formCell f = ((s.putFrame f.nextCell).lastCellSeen f).cellTaken f.inPort := rfl

theorem lastCellSeen_quiet {s : Chip} {f : Frame} (h : showsOver f s = false) : s.lastCellSeen f = s := by
  unfold showsOver at h
  unfold Chip.lastCellSeen
  cases hfind : Store.find f.id s.tails
  case none => rfl
  case some r =>
    rw [hfind] at h
    by_cases hlast : (f.formed + 1 == f.cells) = true
    · rw [Option.filter_some, if_pos hlast]
      exact oversize_stays _ _ (by simpa [hlast] using h)
    · rw [Option.filter_some, if_neg hlast]

theorem lastCellSeen_over {s : Chip} {f : Frame} {r : Tail} (hlast : f.formed + 1 = f.cells) (hr : Store.find f.id s.tails = some r)
    (hover : flowMaxf r.entry < r.len ∧ r.counted = false) :
    s.lastCellSeen f = (s.markOver f.id r).bump r.oversizeField := by
  unfold Chip.lastCellSeen
  rw [hr, Option.filter_some, if_pos (beq_iff_eq.2 hlast)]
  exact oversize_counts _ _ hover

/-- What a store's free list reads as a cell is taken from it. -/
theorem cellTaken_inFree (s : Chip) (p : Nat) :
    Store.read 2048 (s.cellTaken p).fab.inFree p = Store.read 2048 s.fab.inFree p - 1
      ∧ ∀ k, k ≠ p → Store.read 2048 (s.cellTaken p).fab.inFree k = Store.read 2048 s.fab.inFree k :=
  ⟨store_read_write_same _ _ _ _, fun _ hk => store_read_write_other _ _ _ _ hk⟩

theorem cellForms_holds (f : Frame) (s : State) : cellForms f s := by
  intro hrun hf htaken hended hdirect hroom hlast hexp hshared hquiet
  refine runs_done rfl ?_
  have hform : s.chip.cellForm f.id = s.chip.formCell f := by
    rw [cellForm_eq hrun hf htaken hended hdirect hroom hlast]
    cases h : f.express
    case true => exact if_neg (Nat.not_le.2 (hexp h))
    case false =>
      rw [if_neg Bool.false_ne_true]
      refine if_neg ?_
      rcases hshared h with hs | hs
      · rw [hs]; exact Bool.false_ne_true
      · rw [decide_eq_false (Nat.not_lt.2 hs), Bool.and_false]; decide
  rw [hform, formCell_eq, lastCellSeen_quiet (s := s.chip.putFrame f.nextCell) hquiet]
  obtain ⟨htook, hothers⟩ := cellTaken_inFree (s.chip.putFrame f.nextCell) f.inPort
  exact ⟨frame_putFrame_same (f := f.nextCell) hf, putFrame_othersAs s.chip f.nextCell, htook, hothers, rfl⟩

theorem cellShows_holds (f : Frame) (r : Tail) (s : State) : cellShows f r s := by
  intro hrun hf htaken hended hdirect hlast hbad hexp hfree hr hlong hcounted
  refine runs_done rfl ?_
  have hform : s.chip.cellForm f.id = s.chip.formCell f := by
    rw [cellForm_eq hrun hf htaken hended hdirect (by omega) (fun _ => .inr hbad), hexp]
    exact if_neg (Nat.not_le.2 hfree)
  rw [hform, formCell_eq, lastCellSeen_over (s := s.chip.putFrame f.nextCell) hlast hr ⟨hlong, hcounted⟩]
  have hkeeps : s.chip.keeps ((s.chip.putFrame f.nextCell).markOver f.id r) [] := keeps_of_regs _ rfl
  obtain ⟨q, hq⟩ := bump_withRegs ((s.chip.putFrame f.nextCell).markOver f.id r) r.oversizeField
  have hnext : f.nextCell = { f with stored := true, formed := f.cells } := by rw [← hlast]; rfl
  refine ⟨?_, ?_, ?_, ?_, ?_, ?_⟩
  · rw [← hnext, hq]
    exact frame_putFrame_same (f := f.nextCell) hf
  · rw [hq]
    exact putFrame_othersAs s.chip f.nextCell
  · exact counted_bump_after (u := (s.chip.putFrame f.nextCell).markOver f.id r) rfl (.of (by omega)) rfl hkeeps (Fld.notIn_nil _)
  · rw [hq]
    refine (store_find_write tailDefault s.chip.tails f.id f.id { r with counted := true }).trans ?_
    rw [if_pos rfl, if_neg (by simp [tailDefault])]
  · exact keeps_trans hkeeps (keeps_bump _ r.oversizeField)
  · rw [hq]
    rfl

theorem cellDrop_holds (f : Frame) (s : State) : cellDrop f s := by
  intro hrun hf htaken hended hdirect hroom hlast hexp hstored hfull hrange
  refine runs_done rfl ?_
  obtain ⟨hports, -⟩ := hrange
  obtain ⟨hin, -, hout, -, -⟩ := hports f (frame_mem hf)
  have hdrop : s.chip.cellForm f.id = (s.chip.dropFrame f).bump (F.port4InDrop f.inPort) := by
    rw [cellForm_eq hrun hf htaken hended hdirect hroom hlast, hexp, hstored, decide_eq_true hfull]
    rfl
  rw [hdrop]
  obtain ⟨r, fab, hd⟩ := dropFrame_frame s.chip f
  obtain ⟨q, hq⟩ := bump_withRegs (s.chip.dropFrame f) (F.port4InDrop f.inPort)
  have hkeeps := keeps_dropFrame s.chip f
  refine ⟨?_, ?_, ?_, ?_, ?_⟩
  · rw [frame_of_frames (bump_frames _ _), frame_dropFrame]
  · exact othersAs_trans (othersAs_of_frames (bump_frames _ _) _) (dropFrame_othersAs _ _)
  · exact counted_bump_after rfl (.of (by omega)) (by rw [hd]) hkeeps (notIn_freeFields hout (.inr (by omega)) (by decide))
  · exact keeps_mono (keeps_trans hkeeps (keeps_bump _ _)) (by simp [freeFields])
  · rw [hq, hd]
    rfl

/-! ### A frame ended where its promise breaks (R71) -/

/-- A frame whose promise has broken. -/
def Frame.brokenNow (f : Frame) : Frame := { f with broken := true }

theorem endBroken_eq (s : Chip) (f : Frame) (ctr : Nat → Nat → Fld) :
    s.endBroken f ctr
      = (s.endFrame f.brokenNow).count (ctr f.outPort f.outSub) (if f.express = true ∧ f.broken = false then 1 else 0) :=
  breakPromise_eq _ _ _

/-- What ends a frame under a cause leaves of it, what it counts, and what it leaves unchanged (R71, R131, R137). -/
theorem endBroken_spec (s : Chip) {f : Frame} {ctr : Nat → Nat → Fld} (hctr : isBreak ctr) (hout : f.outPort < 48)
    (hsub : f.outSub < 8) :
    s.counted (s.endBroken f ctr) (ctr f.outPort f.outSub) (if f.express = true ∧ f.broken = false then 1 else 0)
      ∧ (s.endBroken f ctr).othersAs s f.id
      ∧ s.keeps (s.endBroken f ctr) (ctr f.outPort f.outSub :: freeFields f)
      ∧ ∃ r fr fab, s.endBroken f ctr = { s with regs := r, frames := fr, fab := fab } := by
  obtain ⟨k, ⟨hk, hk'⟩, hc⟩ := hctr
  rw [endBroken_eq]
  have hkeeps : s.keeps (s.endFrame f.brokenNow) (freeFields f) := keeps_endFrame s f.brokenNow
  obtain ⟨r, fr, fab, he⟩ := endFrame_frame s f.brokenNow
  obtain ⟨q, hq⟩ := count_withRegs (s.endFrame f.brokenNow) (ctr f.outPort f.outSub)
    (if f.express = true ∧ f.broken = false then 1 else 0)
  refine ⟨?_, ?_, ?_, q, fr, fab, ?_⟩
  · rw [hc]
    exact counted_count_after _ rfl (.of (by omega)) (by rw [he]) hkeeps (notIn_freeFields hout (.inr (by omega)) (by decide))
  · rw [hq]
    exact endFrame_othersAs s f.brokenNow
  · exact keeps_mono (keeps_trans hkeeps (keeps_count _ _ _)) (by simp [or_comm])
  · rw [hq, he]
    rfl

theorem frame_endBroken_started {s : Chip} {f g : Frame} (ctr : Nat → Nat → Fld) (h : f.started = true)
    (hf : s.frame f.id = some g) : (s.endBroken f ctr).frame f.id = some f.brokenNow.atEnd := by
  rw [endBroken_eq, frame_of_frames (count_frames _ _ _)]
  exact frame_endFrame_started (f := f.brokenNow) h hf

theorem frame_endBroken_waiting (s : Chip) {f : Frame} (ctr : Nat → Nat → Fld) (h : f.started = false) :
    (s.endBroken f ctr).frame f.id = none := by
  rw [endBroken_eq, frame_of_frames (count_frames _ _ _), endFrame_waiting (f := f.brokenNow) s h]
  exact frame_dropFrame s f.brokenNow

theorem cellBreaks_holds (f : Frame) (s : State) : cellBreaks f s := by
  intro hrun hf htaken hended hdirect hroom hlast hexp hfull hrange
  refine runs_done rfl ?_
  obtain ⟨hports, -⟩ := hrange
  obtain ⟨hin, -, hout, hsub, -⟩ := hports f (frame_mem hf)
  have hbreak : s.chip.cellForm f.id = (s.chip.endBroken f (s.chip.breakCause f)).bump (F.port4ExpFull f.inPort) := by
    rw [cellForm_eq hrun hf htaken hended hdirect hroom hlast, hexp]
    exact if_pos hfull
  rw [hbreak]
  generalize hc : s.chip.breakCause f = c
  have hcause : isBreak c := hc ▸ isBreak_cause s.chip f
  obtain ⟨hcounted, hothers, hkeeps, r, fr, fab, he⟩ := endBroken_spec s.chip hcause hout hsub
  obtain ⟨k, ⟨hk, hk'⟩, hck⟩ := hcause
  obtain ⟨q, hq⟩ := bump_withRegs (s.chip.endBroken f c) (F.port4ExpFull f.inPort)
  have hfull : (F.port4ExpFull f.inPort).key ≠ (c f.outPort f.outSub).key := by
    rw [hck]
    exact Fld.key_ne (by omega)
  refine ⟨?_, ?_, fun hst => ?_, fun hst => ?_, ?_, ?_, ?_⟩
  · exact counted_bump_after rfl (.of (by omega)) (by rw [he]) hkeeps
      (Fld.notIn_cons hfull (notIn_freeFields hout (.inr (by omega)) (by decide)))
  · rw [← breaks_once hexp]
    exact counted_keeps hcounted (hck _ _ ▸ .of (by omega)) (keeps_bump _ _) (Fld.notIn_cons hfull.symm (Fld.notIn_nil _))
  · rw [frame_of_frames (bump_frames _ _)]
    exact frame_endBroken_started c hst hf
  · rw [frame_of_frames (bump_frames _ _)]
    exact frame_endBroken_waiting s.chip c hst
  · exact othersAs_trans (othersAs_of_frames (bump_frames _ _) _) hothers
  · exact keeps_mono (keeps_trans hkeeps (keeps_bump _ _)) (by simp [freeFields, or_comm, or_assoc])
  · rw [hq, he]
    rfl

/-- Settles O25: each command of the admission stage and of the input store does what its clause says of its case. -/
theorem admissionTakesConformingFrames : Obligations.AdmissionTakesConformingFrames := fun s =>
  ⟨fun f i => admitConforming_holds f i s, fun f => admitOther_holds f s, fun f r => tailGood_holds f r s,
    fun f r badFec => tailBad_holds f r badFec s, fun f => cellForms_holds f s, fun f => cellDrop_holds f s,
    fun id r how => tailAfter_holds id r how s, fun f r => cellShows_holds f r s, fun f => cellBreaks_holds f s⟩

end Sys2Proof.Machine

/-! What a transmission leaves behind (R67, R71 to R73, R138, R143, R148 to R151): O59. -/

namespace Sys2Proof.Machine

open Sys2Proof.Says

/-! ### The frame on the wire -/

theorem onWire_eq {s : Chip} {m sub : Nat} {f : Frame} (h : s.onWire m sub = some f) :
    s.frame f.id = some f ∧ ∃ l, (s.link m sub).onWire = f.id :: l := by
  unfold Chip.onWire at h
  split at h
  case h_1 => exact absurd h (by simp)
  case h_2 id l hl =>
    have hid : f.id = id := frame_id h
    exact ⟨hid ▸ h, l, hid ▸ hl⟩

theorem filter_running {α : Type} {o : Option α} {x : α} {b : Bool} (ho : o = some x) (hb : b = true) :
    o.filter (fun _ => b) = some x := by
  rw [ho, hb]
  rfl

/-! ### TX_UNDERRUN (R138) -/

theorem txUnderruns_holds (p : Fin 48) (sub : Fin 8) (f : Frame) (s : State) : txUnderruns p sub f s := by
  intro hrun hwire hst hended hshort
  refine runs_done rfl ?_
  have hdoes : s.chip.underrun p.val sub.val
      = ((s.chip.endFrame f).bump F.buf3Underruns).setB F.buf3StatusUnderrun true := by
    unfold Chip.underrun
    rw [filter_running hwire hrun]
    exact if_neg (by rw [hended, decide_eq_false (Nat.not_le.2 hshort)]; decide)
  rw [hdoes]
  obtain ⟨hf, -⟩ := onWire_eq hwire
  obtain ⟨fab, he⟩ := endFrame_started s.chip hst
  have hkeeps : s.chip.keeps (s.chip.endFrame f) [] := keeps_of_regs _ (by rw [he])
  have hbump := keeps_bump (s.chip.endFrame f) F.buf3Underruns
  have hset := keeps_setB ((s.chip.endFrame f).bump F.buf3Underruns) F.buf3StatusUnderrun true
  have hframes : (((s.chip.endFrame f).bump F.buf3Underruns).setB F.buf3StatusUnderrun true).frames
      = (s.chip.endFrame f).frames := bump_frames (s.chip.endFrame f) F.buf3Underruns
  obtain ⟨q, hq⟩ := bump_withRegs (s.chip.endFrame f) F.buf3Underruns
  refine ⟨?_, ?_, ?_, ?_, ?_, ?_⟩
  · rw [frame_of_frames hframes]
    exact frame_endFrame_started hst hf
  · exact othersAs_trans (othersAs_of_frames hframes _) (endFrame_othersAs s.chip f)
  · exact counted_within rfl (.of (by decide)) (by rw [he]) hkeeps hset (Fld.notIn_nil _)
      (Fld.notIn_cons (Fld.key_ne (by decide)) (Fld.notIn_nil _))
  · exact flag_setB_same _ _ _ (by decide) (by decide)
  · exact keeps_trans (keeps_trans hkeeps hbump) hset
  · rw [hq, he]
    rfl

/-! ### Bytes in KiB, and the tail of a frame on the wire (R150, R151, R346) -/

/-- The block with the bytes of a counter's unfinished KiB carried on. -/
def Chip.carried (s : Chip) (f : Fld) (bytes : Nat) : Chip :=
  { s with kib := Store.write 0 s.kib f.addr ((Store.read 0 s.kib f.addr + bytes) % 1024) }

theorem addKib_eq (s : Chip) (f : Fld) (bytes : Nat) :
    s.addKib f bytes = (s.carried f bytes).count f ((Store.read 0 s.kib f.addr + bytes) / 1024) := rfl

/-- What a byte counter counts in KiB, what it carries, and what it leaves unchanged. -/
theorem addKib_spec (s : Chip) (f : Fld) (bytes : Nat) (hw : f.width = 32) (hf : f.offProbes) :
    s.counted (s.addKib f bytes) f ((Store.read 0 s.kib f.addr + bytes) / 1024)
      ∧ Store.read 0 (s.addKib f bytes).kib f.addr = (Store.read 0 s.kib f.addr + bytes) % 1024
      ∧ (∀ a, a ≠ f.addr → Store.read 0 (s.addKib f bytes).kib a = Store.read 0 s.kib a)
      ∧ s.keeps (s.addKib f bytes) [f]
      ∧ ∃ r kib, s.addKib f bytes = { s with regs := r, kib := kib } := by
  obtain ⟨r, hr⟩ := count_withRegs (s.carried f bytes) f ((Store.read 0 s.kib f.addr + bytes) / 1024)
  have hkeeps : s.keeps (s.carried f bytes) [] := keeps_of_regs _ rfl
  rw [addKib_eq]
  refine ⟨?_, ?_, fun a ha => ?_, ?_, r, (s.carried f bytes).kib, ?_⟩
  · exact counted_count_after _ hw hf rfl hkeeps (Fld.notIn_nil _)
  · rw [hr]
    exact store_read_write_same 0 s.kib f.addr _
  · rw [hr]
    exact store_read_write_other 0 0 s.kib _ ha
  · exact keeps_trans hkeeps (keeps_count _ _ _)
  · rw [hr]
    rfl

/-- The block with a frame's bytes charged to its tree (R150, R151). -/
def Chip.charged (s : Chip) (f : Frame) (sent : Nat) : Chip :=
  if f.cls < 12 then s.setSched f.outPort ((s.sched f.outPort).charge f.outSub f.cls (sent + 20)) else s

/-- The block as the frame now first on a wire, if there is one, is preempted no more. -/
def Chip.resumed (s : Chip) (m sub : Nat) : Chip :=
  match s.onWire m sub with
  | some g => s.putFrame { g with preempted := false }
  | none => s

theorem charged_spec (s : Chip) (f : Frame) (sent : Nat) :
    (f.cls < 12 → (s.charged f sent).sched f.outPort = (s.sched f.outPort).charge f.outSub f.cls (sent + 20))
      ∧ (∀ k, k ≠ f.outPort ∨ 12 ≤ f.cls → (s.charged f sent).sched k = s.sched k)
      ∧ ∃ scheds, s.charged f sent = { s with scheds := scheds } := by
  unfold Chip.charged
  split
  case isTrue hcls =>
    exact ⟨fun _ => store_read_write_same _ _ _ _,
      fun k hk => store_read_write_other _ _ _ _ (hk.resolve_right (Nat.not_le.2 hcls)), _, rfl⟩
  case isFalse hcls => exact ⟨fun h => absurd h hcls, fun _ _ => rfl, _, rfl⟩

theorem resumed_frames (s : Chip) (m sub : Nat) : ∃ fr, s.resumed m sub = { s with frames := fr } := by
  unfold Chip.resumed
  split
  · exact ⟨_, rfl⟩
  · exact ⟨_, rfl⟩

theorem frame_resumed_gone {s : Chip} {k : Nat} (m sub : Nat) (h : s.frame k = none) : (s.resumed m sub).frame k = none := by
  unfold Chip.resumed
  split
  · rw [frame_putFrame, h]
    exact ite_self none
  · exact h

theorem frame_resumed_next {s : Chip} {m sub id : Nat} {l : List Nat} {g : Frame} (hwire : (s.link m sub).onWire = id :: l)
    (hg : s.frame id = some g) : (s.resumed m sub).frame id = some { g with preempted := false } := by
  have hon : s.onWire m sub = some g := by
    unfold Chip.onWire
    rw [hwire]
    exact hg
  have hid : g.id = id := frame_id hg
  unfold Chip.resumed
  rw [hon]
  subst hid
  exact frame_putFrame_same (f := { g with preempted := false }) hg

/-- A frame whose bytes count in KiB, on its subport and in its class. -/
def Chip.bytesSent (s : Chip) (m sub : Nat) (f : Frame) (sent : Nat) : Chip :=
  (s.addKib (F.trafTxKib m sub) sent).addKib (F.trafClassTxKib m f.cls) sent

theorem bytesSent_spec (s : Chip) {m sub : Nat} {f : Frame} (sent : Nat) (hsub : sub < 8) :
    s.counted (s.bytesSent m sub f sent) (F.trafTxKib m sub) ((Store.read 0 s.kib (F.trafTxKib m sub).addr + sent) / 1024)
      ∧ Store.read 0 (s.bytesSent m sub f sent).kib (F.trafTxKib m sub).addr
          = (Store.read 0 s.kib (F.trafTxKib m sub).addr + sent) % 1024
      ∧ s.keeps (s.bytesSent m sub f sent) [F.trafTxKib m sub, F.trafClassTxKib m f.cls]
      ∧ ∃ r kib, s.bytesSent m sub f sent = { s with regs := r, kib := kib } := by
  obtain ⟨hcounted, hkib, -, hkeeps, r, kib, he⟩ := addKib_spec s (F.trafTxKib m sub) sent rfl (.of (by omega))
  obtain ⟨-, -, hother, hkeeps', r', kib', he'⟩ :=
    addKib_spec (s.addKib (F.trafTxKib m sub) sent) (F.trafClassTxKib m f.cls) sent rfl (.of (by omega))
  have haddr : (F.trafTxKib m sub).addr ≠ (F.trafClassTxKib m f.cls).addr := by
    simp only [F.trafTxKib, F.trafClassTxKib]
    omega
  refine ⟨?_, (hother _ haddr).trans hkib, keeps_trans hkeeps hkeeps', r', kib', ?_⟩
  · exact counted_keeps hcounted (.of (by omega)) hkeeps' (Fld.notIn_cons (Fld.key_ne (by omega)) (Fld.notIn_nil _))
  · unfold Chip.bytesSent
    rw [he', he]

/-- The block as the tail of a frame has left the wire, before the wire goes on. -/
def Chip.tailSent (s : Chip) (m sub : Nat) (f : Frame) (sent : Nat) : Chip :=
  (((s.dropFrame f).setLink m sub { s.link m sub with onWire := (s.link m sub).onWire.drop 1 }).bytesSent m sub f sent).charged f
    sent

theorem finishTx_eq (s : Chip) (m sub : Nat) (f : Frame) (sent : Nat) :
    s.finishTx m sub f sent = (s.tailSent m sub f sent).resumed m sub := rfl

/-- What the tail of a frame does as it leaves the wire of a subport. -/
structure LeavesWire (s t : Chip) (m sub : Nat) (f : Frame) (sent : Nat) : Prop where
  gone : t.frame f.id = none
  next : ∀ id l g, (s.link m sub).onWire = f.id :: id :: l → s.frame id = some g → id ≠ f.id →
    t.frame id = some { g with preempted := false }
  charged : f.cls < 12 → t.sched f.outPort = (s.sched f.outPort).charge f.outSub f.cls (sent + 20)
  uncharged : ∀ k, k ≠ f.outPort ∨ 12 ≤ f.cls → t.sched k = s.sched k
  wire : (t.link m sub).onWire = (s.link m sub).onWire.drop 1
  counted : s.counted t (F.trafTxKib m sub) ((Store.read 0 s.kib (F.trafTxKib m sub).addr + sent) / 1024)
  kib : Store.read 0 t.kib (F.trafTxKib m sub).addr = (Store.read 0 s.kib (F.trafTxKib m sub).addr + sent) % 1024
  keeps : s.keeps t (freeFields f ++ [F.trafTxKib m sub, F.trafClassTxKib m f.cls])
  rest : ∃ r fr fab li kib sc, t = { s with regs := r, frames := fr, fab := fab, links := li, kib := kib, scheds := sc }

theorem finishTx_leaves (s : Chip) {m sub : Nat} (f : Frame) (sent : Nat) (hm : m < 48) (hsub : sub < 8) :
    LeavesWire s (s.finishTx m sub f sent) m sub f sent := by
  obtain ⟨r, fab, hd⟩ := dropFrame_frame s f
  have hothers := dropFrame_othersAs s f
  generalize hl : ({ s.link m sub with onWire := (s.link m sub).onWire.drop 1 } : Link) = l
  generalize hu : (s.dropFrame f).setLink m sub l = u
  have hdrop : s.keeps u (freeFields f) := hu ▸ keeps_dropFrame s f
  have hrest : u = { s with regs := u.regs, frames := u.frames, fab := u.fab, links := u.links } := by rw [← hu, hd]; rfl
  have hpower : u.power = s.power := (congrArg Chip.power hrest).trans rfl
  obtain ⟨hcounted, hkib, hkeeps, r', kib, hb⟩ := bytesSent_spec u (f := f) sent (m := m) hsub
  obtain ⟨hcharged, huncharged, sc, hc⟩ := charged_spec (u.bytesSent m sub f sent) f sent
  have htail : s.tailSent m sub f sent = (u.bytesSent m sub f sent).charged f sent := by
    rw [← hu, ← hl]
    rfl
  obtain ⟨fr, hr⟩ := resumed_frames (s.tailSent m sub f sent) m sub
  have hframe : ∀ k, (s.tailSent m sub f sent).frame k = (s.dropFrame f).frame k :=
    frame_of_frames (by rw [htail, hc, hb, ← hu]; rfl)
  have hlink : (s.tailSent m sub f sent).link m sub = l := by
    rw [htail, hc, hb, ← hu]
    exact store_read_write_same _ _ _ _
  have hsched : ∀ k, (u.bytesSent m sub f sent).sched k = s.sched k := fun k => by
    rw [hb]
    exact (congrArg (fun c => Chip.sched c k) hrest).trans rfl
  have hbytes : u.kib = s.kib := (congrArg Chip.kib hrest).trans rfl
  have hoff : (F.trafTxKib m sub).notIn (freeFields f) :=
    Fld.notIn_cons (Fld.key_ne (by omega)) (Fld.notIn_cons (Fld.key_ne (by omega)) (Fld.notIn_nil _))
  rw [finishTx_eq]
  refine ⟨?_, ?_, ?_, ?_, ?_, ?_, ?_, ?_, ?_⟩
  · exact frame_resumed_gone m sub ((hframe _).trans (frame_dropFrame s f))
  · intro id rest g hwire hg hid
    refine frame_resumed_next (l := rest) ?_ ((hframe id).trans ((hothers id hid).trans hg))
    rw [hlink, ← hl, hwire]
    rfl
  · rw [hr, htail, ← hsched]
    exact hcharged
  · intro k hk
    rw [hr, htail, ← hsched]
    exact huncharged k hk
  · rw [hr]
    refine (congrArg Link.onWire hlink).trans ?_
    rw [← hl]
  · rw [hr, htail, hc, ← hbytes]
    exact counted_from (t := u.bytesSent m sub f sent) hcounted (.of (by omega)) hpower hdrop hoff
  · rw [hr, htail, hc, ← hbytes]
    exact hkib
  · rw [hr, htail, hc]
    exact keeps_trans hdrop hkeeps
  · rw [hr, htail, hc, hb]
    exact ⟨r', fr, u.fab, u.links, kib, sc, congrArg (fun c : Chip => { c with regs := r', frames := fr, kib := kib, scheds := sc }) hrest⟩

/-! ### TX_FRAME_END (R143, R150, R151) -/

theorem readCells_clean (s : Chip) (n : Nat) {l : List Ecc} (h : ∀ x ∈ l, x = .clean) : s.readCells n l = (s, none) := by
  induction l generalizing n with
  | nil => rfl
  | cons x l ih =>
    obtain ⟨hx, hl⟩ := List.forall_mem_cons.1 h
    rw [hx]
    exact ih (n + 1) hl

theorem txEnd_clean {s : Chip} {p sub : Nat} {f : Frame} {cells : List Ecc} (hrun : s.coresRun = true)
    (hwire : s.onWire p sub = some f) (hdone : f.ended = true ∨ f.cells ≤ f.crossed) (hclean : ∀ x ∈ cells, x = .clean) :
    s.txEnd p sub cells = s.finishTx p sub f f.sent := by
  have hread : s.readCells 1 (if f.ended then [] else cells.take (f.crossed - 1)) = (s, none) := by
    refine readCells_clean s 1 fun x hx => ?_
    split at hx
    · exact absurd hx List.not_mem_nil
    · exact hclean x (List.mem_of_mem_take hx)
  unfold Chip.txEnd
  rw [filter_running hwire hrun]
  dsimp only
  rw [hread]
  exact if_pos (by simpa using hdone)

theorem txEnds_holds (p : Fin 48) (sub : Fin 8) (f : Frame) (cells : List Ecc) (s : State) : txEnds p sub f cells s := by
  intro hrun hwire hdone hrange hclean
  refine runs_done rfl ?_
  rw [txEnd_clean hrun hwire hdone hclean]
  have h := finishTx_leaves s.chip f f.sent p.isLt sub.isLt
  obtain ⟨r, fr, fab, li, kib, sc, he⟩ := h.rest
  refine ⟨h.gone, h.next, h.charged, h.uncharged, h.wire, h.counted, h.kib, ?_, ?_⟩
  · exact keeps_mono h.keeps (by simp [freeFields, or_comm, or_assoc])
  · rw [he]

/-- The block as it meets an uncorrectable error in the cells of a frame (R143). -/
def Chip.cellUpset (s : Chip) : Chip := (s.bump F.buf3EccUncorr).fault fEcc

theorem fault_frame (s : Chip) (k : Nat) : ∃ r ms, s.fault k = { s with regs := r, msix := ms } := by
  unfold Chip.fault
  dsimp only
  split
  · exact ⟨_, _, rfl⟩
  · exact ⟨_, _, rfl⟩

theorem cellUpset_spec (s : Chip) :
    s.counted s.cellUpset F.buf3EccUncorr 1 ∧ s.cellUpset.getBit F.hlthFault fEcc = true
      ∧ s.keeps s.cellUpset [F.buf3EccUncorr, F.hlthFault] ∧ ∃ r ms, s.cellUpset = { s with regs := r, msix := ms } := by
  have hfault := keeps_fault (s.bump F.buf3EccUncorr) fEcc
  obtain ⟨q, hq⟩ := bump_withRegs s F.buf3EccUncorr
  obtain ⟨r, ms, hr⟩ := fault_frame (s.bump F.buf3EccUncorr) fEcc
  refine ⟨?_, getBit_fault_same _ (by decide), keeps_trans (keeps_bump _ _) hfault, r, ms, ?_⟩
  · exact counted_keeps (counted_bump s F.buf3EccUncorr rfl (.of (by decide))) (.of (by decide)) hfault
      (Fld.notIn_cons (Fld.key_ne (by decide)) (Fld.notIn_nil _))
  · exact hr.trans (by rw [hq]; rfl)

/-- Fields below the page of the admission limits, which no cause of a broken promise reads. -/
def belowAdm (l : List Fld) : Prop := ∀ g ∈ l, g.addr < 0x140000 ∧ g.lsb < 32

theorem notIn_of_belowAdm {a k w : Nat} {v : Word} {l : List Fld} (hl : belowAdm l) (h : 0x140000 ≤ a) :
    (⟨a, k, w, v⟩ : Fld).notIn l := fun g hg => by
  have hg := hl g hg
  simp only [Fld.key, ne_eq]
  omega

section
variable {s t : Chip} {f g : Frame} {l : List Fld} (hkeeps : s.keeps t l) (hl : belowAdm l)
  (hport : g.outPort = f.outPort) (hsub : g.outSub = f.outSub) (hheld : g.held = f.held)
include hkeeps hl

theorem lateCause_of_keeps (p : Nat) : t.lateCause p = s.lateCause p := by
  have hget : ∀ {w k : Nat} {v : Word}, k < 32 →
      t.flag ⟨0x140000 + p * 0x1000 + 0x44, k, w, v⟩ = s.flag ⟨0x140000 + p * 0x1000 + 0x44, k, w, v⟩ := fun hk =>
    flag_of_get (get_of_keeps hkeeps _ (.of ⟨by omega, hk⟩) (notIn_of_belowAdm hl (by omega)))
  unfold Chip.lateCause
  rw [F.admStatusDegraded, F.admStatusMergeLost, F.admStatusGateUpset, hget (by decide), hget (by decide), hget (by decide)]

include hport hsub hheld

theorem linkCause_of_keeps : t.linkCause g = s.linkCause f := by
  have hhold : t.getBit (F.port0StatusHolding f.outPort) f.outSub = s.getBit (F.port0StatusHolding f.outPort) f.outSub :=
    getBit_of_get (get_of_keeps hkeeps _ (.of (by omega)) (notIn_of_belowAdm hl (by omega))) _
  have hdegraded : t.flag (F.admStatusDegraded f.outPort) = s.flag (F.admStatusDegraded f.outPort) :=
    flag_of_get (get_of_keeps hkeeps _ (.of (by omega)) (notIn_of_belowAdm hl (by omega)))
  unfold Chip.linkCause
  rw [hport, hsub, hheld, hhold, hdegraded]

/-- The cause of a broken promise is read from registers of the output alone (R71). -/
theorem causeOver_of_keeps (c : Nat → Nat → Fld) : t.causeOver g c = s.causeOver f c := by
  unfold Chip.causeOver
  rw [linkCause_of_keeps hkeeps hl hport hsub hheld]

theorem breakCause_of_keeps : t.breakCause g = s.breakCause f := by
  unfold Chip.breakCause
  rw [linkCause_of_keeps hkeeps hl hport hsub hheld, lateCause_of_keeps hkeeps hl, hport]

end

/-- A frame as its cells end where they stand. -/
def Frame.cut (f : Frame) : Frame := { f with formed := f.crossed }

theorem txEnd_double {s : Chip} {p sub : Nat} {f : Frame} (cells : List Ecc) (hrun : s.coresRun = true)
    (hwire : s.onWire p sub = some f) (hended : f.ended = false) (hcells : 1 < f.crossed) :
    s.txEnd p sub (.double :: cells)
      = (s.cellUpset.endBroken f (s.cellUpset.causeOver f F.admSubBreakEcc)).finishTx p sub f.cut (min f.len (1 * 384 + 4)) := by
  obtain ⟨n, hn⟩ : ∃ n, f.crossed - 1 = n + 1 := ⟨f.crossed - 2, by omega⟩
  unfold Chip.txEnd
  rw [filter_running hwire hrun]
  dsimp only
  rw [hended, if_neg Bool.false_ne_true, hn, List.take_succ_cons]
  rfl

theorem txCellError_holds (p : Fin 48) (sub : Fin 8) (f : Frame) (cells : List Ecc) (s : State) : txCellError p sub f cells s := by
  intro hrun hwire hst hended hcells hrange
  refine runs_done rfl ?_
  obtain ⟨hports, -⟩ := hrange
  obtain ⟨-, -, hout, hsub, hcls⟩ := hports f (frame_mem (onWire_eq hwire).1)
  have hcut : f.cut.cls < 16 := hcls
  obtain ⟨hecc, hbit, hupset, r, ms, hup⟩ := cellUpset_spec s.chip
  have hbelow : belowAdm [F.buf3EccUncorr, F.hlthFault] := by simp [belowAdm, F.buf3EccUncorr, F.hlthFault]
  rw [txEnd_double cells hrun hwire hended hcells, causeOver_of_keeps hupset hbelow rfl rfl rfl]
  have hcause := isBreak_over s.chip f isBreak_ecc
  generalize s.chip.causeOver f F.admSubBreakEcc = c at hcause ⊢
  obtain ⟨hbroken, -, hbreak, r', fr', fab', hend⟩ := endBroken_spec s.chip.cellUpset hcause hout hsub
  have hleaves := finishTx_leaves (s.chip.cellUpset.endBroken f c) f.cut (min f.len (1 * 384 + 4)) p.isLt sub.isLt
  have hfinish := hleaves.keeps
  obtain ⟨r'', fr, fab, li, kib, sc, hfin⟩ := hleaves.rest
  obtain ⟨k, ⟨hk, hk'⟩, hck⟩ := hcause
  rw [hck] at hbroken hbreak ⊢
  have hpower : (s.chip.cellUpset.endBroken f c).power = s.chip.power := by rw [hend, hup]
  have hlink : (s.chip.cellUpset.endBroken f c).link p.val sub.val = s.chip.link p.val sub.val := by rw [hend, hup]; rfl
  have hkib : (s.chip.cellUpset.endBroken f c).kib = s.chip.kib := by rw [hend, hup]
  refine ⟨hleaves.gone, ?_, ?_, ?_, ?_, ?_, ?_, ?_⟩
  · rw [← hlink]
    exact hleaves.wire
  · refine counted_keeps hecc (.of (by decide)) (keeps_trans hbreak hfinish) (Fld.notIn_append ?_ ?_)
    · exact Fld.notIn_cons (Fld.key_ne (by omega)) (notIn_freeFields hout (by decide) (by decide))
    · exact Fld.notIn_append (notIn_freeFields hout (by decide) (by decide))
        (Fld.notIn_pair (Fld.key_ne (by omega)) (Fld.key_ne (by omega)))
  · rw [← hbit]
    refine getBit_of_get (get_of_keeps (keeps_trans hbreak hfinish) _ ⟨by decide, by decide⟩ (Fld.notIn_append ?_ ?_)) _
    · exact Fld.notIn_cons (Fld.key_ne (by omega)) (notIn_freeFields hout (by decide) (by decide))
    · exact Fld.notIn_append (notIn_freeFields hout (by decide) (by decide))
        (Fld.notIn_pair (Fld.key_ne (by omega)) (Fld.key_ne (by omega)))
  · refine counted_keeps (counted_from hbroken (.of (by omega)) (by rw [hup]) hupset ?_) (.of (by omega)) hfinish ?_
    · exact Fld.notIn_pair (Fld.key_ne (by omega)) (Fld.key_ne (by omega))
    · refine Fld.notIn_append (notIn_freeFields hout (.inr (by omega)) (by decide)) ?_
      exact Fld.notIn_pair (Fld.key_ne (by omega)) (Fld.key_ne (by omega))
  · rw [← hkib]
    refine counted_from hleaves.counted (.of (by omega)) hpower (keeps_trans hupset hbreak) ?_
    refine Fld.notIn_append (Fld.notIn_pair (Fld.key_ne (by omega)) (Fld.key_ne (by omega))) ?_
    exact Fld.notIn_cons (Fld.key_ne (by omega)) (notIn_freeFields hout (.inl (by omega)) (by decide))
  · exact keeps_mono (keeps_trans (keeps_trans hupset hbreak) hfinish) (by simp [freeFields, Frame.cut])
  · rw [hfin, hend, hup]

/-! ### TX_FRAME_START: what may start (R73, R137, R148) -/

theorem firstLinked_mem {l : List Frame} {f : Frame} (h : firstLinked l = some f) : f ∈ l := by
  induction l generalizing f with
  | nil => exact absurd h (by simp [firstLinked])
  | cons g l ih =>
    unfold firstLinked at h
    split at h
    case h_1 =>
      rw [← Option.some.inj h]
      exact List.mem_cons_self
    case h_2 k hk =>
      split at h
      · rw [← Option.some.inj h]
        exact List.mem_cons_self
      · rw [← Option.some.inj h]
        exact List.mem_cons_of_mem _ (ih hk)

theorem mem_queue {s : Chip} {q sub c : Nat} {f : Frame} (h : f ∈ s.queue q sub c) :
    f ∈ s.frames ∧ f.outPort = q ∧ f.outSub = sub ∧ f.cls = c := by
  obtain ⟨hmem, htest⟩ := List.mem_filter.1 h
  simp only [Bool.and_eq_true, beq_iff_eq] at htest
  obtain ⟨⟨⟨⟨⟨hport, hsub⟩, hcls⟩, -⟩, -⟩, -⟩ := htest
  exact ⟨hmem, hport, hsub, hcls⟩

theorem mem_of_ready1 {s : Chip} {q sub c : Nat} {f : Frame} (h : s.ready1 q sub c = some f) :
    f ∈ s.frames ∧ f.outPort = q ∧ f.outSub = sub ∧ f.cls = c :=
  mem_queue (firstLinked_mem (Option.filter_eq_some_iff.1 h).1)

/-- The express frame that the gate lets through first waits for its subport in one of the express classes. -/
theorem mem_of_expressChoice {s : Chip} {q sub : Nat} {f : Frame} (h : s.expressChoice q sub = some f) :
    f ∈ s.frames ∧ f.outPort = q ∧ f.outSub = sub ∧ f.cls < 16 ∧ f.express = true := by
  obtain ⟨c, hc, hf⟩ := List.exists_of_findSome?_eq_some h
  obtain ⟨hready, hexpress⟩ := Option.filter_eq_some_iff.1 hf
  obtain ⟨hmem, hport, hsub, hcls⟩ := mem_of_ready1 hready
  refine ⟨hmem, hport, hsub, ?_, hexpress⟩
  have hc' : c ∈ [15, 14, 13, 12] := (List.mem_filter.1 hc).1
  simp only [List.mem_cons, List.not_mem_nil, or_false] at hc'
  omega

/-! ### Express frames too old to start (R73) -/

/-- LATE_DISCARD over the express classes of a subport. -/
def Chip.lateDiscards (s : Chip) (q sub : Nat) : Chip :=
  [15, 14, 13, 12].foldl (fun t c => t.lateDiscard q sub c t.frames.length) s

theorem lateDiscard_stays {s : Chip} {q sub c : Nat} (fuel : Nat)
    (h : ∀ f, s.headOf q sub c = some f → s.flag (F.admCtrlLateAction q) = true → f.express = true →
      rawDiff f.rxStamp s.time.raw ≤ lateHead) :
    s.lateDiscard q sub c fuel = s := by
  cases fuel with
  | zero => rfl
  | succ fuel =>
    unfold Chip.lateDiscard
    split
    · rfl
    case h_2 f hf =>
      refine if_neg fun hlate => ?_
      simp only [Bool.and_eq_true, decide_eq_true_eq] at hlate
      obtain ⟨⟨haction, hexpress⟩, hold⟩ := hlate
      exact absurd (h f hf haction hexpress) (Int.not_le.2 hold)

theorem lateDiscards_stays {s : Chip} {q sub : Nat} (h : noneLate q sub s) : s.lateDiscards q sub = s := by
  have hstays : ∀ c fuel, s.lateDiscard q sub c fuel = s := fun c fuel => by
    refine lateDiscard_stays fuel fun f hf haction hexpress => ?_
    obtain ⟨hmem, hport, hsub, -⟩ := mem_queue (firstLinked_mem hf)
    rcases h with hoff | hyoung
    · exact absurd (haction.symm.trans hoff) (by decide)
    · exact hyoung f hmem hport hsub hexpress
  simp only [Chip.lateDiscards, List.foldl_cons, List.foldl_nil, hstays]

/-! ### A frame that starts (R72, R148) -/

/-- A frame on the wire of a member. -/
def Frame.onMember (f : Frame) (m : Nat) : Frame := { f with started := true, member := m }

/-- The link of a member with a frame first on its wire. -/
def Link.carrying (l : Link) (f : Frame) : Link := { l with onWire := f.id :: l.onWire }

/-- The block with a frame first on a wire, before it counts there. -/
def Chip.onto (s : Chip) (f : Frame) (m : Nat) : Chip :=
  ((s.putFrame (f.onMember m)).setLink m f.outSub ((s.link m f.outSub).carrying f)).takeSeq f.outPort f.express

/-- The block with a frame first on a wire, before its promise is judged. -/
def Chip.placed (s : Chip) (f : Frame) (m : Nat) : Chip := (s.onto f m).bump (F.trafTxFrames m f.outSub f.cls)

theorem begin_eq (s : Chip) (f : Frame) (m : Nat) (stamp : LineStamp) :
    s.begin f m stamp = (s.placed f m).judge (f.onMember m) (s.txStamp m f.outSub stamp) := rfl

theorem onto_eq (s : Chip) (f : Frame) (m : Nat) :
    ∃ fu, s.onto f m = { s with
      frames := (s.putFrame (f.onMember m)).frames
      links := (s.setLink m f.outSub ((s.link m f.outSub).carrying f)).links
      fuses := fu } := by
  unfold Chip.onto Chip.takeSeq
  split
  · exact ⟨_, rfl⟩
  · exact ⟨_, rfl⟩

theorem placed_eq (s : Chip) (f : Frame) (m : Nat) :
    ∃ r fu, s.placed f m = { s with
      regs := r
      frames := (s.putFrame (f.onMember m)).frames
      links := (s.setLink m f.outSub ((s.link m f.outSub).carrying f)).links
      fuses := fu } := by
  obtain ⟨fu, hfu⟩ := onto_eq s f m
  obtain ⟨r, hr⟩ := bump_withRegs (s.onto f m) (F.trafTxFrames m f.outSub f.cls)
  exact ⟨r, fu, hr.trans (by rw [hfu]; rfl)⟩

theorem keeps_placed (s : Chip) (f : Frame) (m : Nat) : s.keeps (s.placed f m) [F.trafTxFrames m f.outSub f.cls] := by
  obtain ⟨fu, hfu⟩ := onto_eq s f m
  exact keeps_trans (keeps_of_regs [] (by rw [hfu])) (keeps_bump (s.onto f m) _)

theorem counted_placed (s : Chip) (f : Frame) (m : Nat) : s.counted (s.placed f m) (F.trafTxFrames m f.outSub f.cls) 1 := by
  obtain ⟨fu, hfu⟩ := onto_eq s f m
  exact counted_bump_after rfl (.of (by omega)) (by rw [hfu]) (keeps_of_regs [] (by rw [hfu])) (Fld.notIn_nil _)

/-- What a start does to the wire, whatever the judgement of the promise changes after it. -/
structure OnWire (s t : Chip) (f : Frame) (m : Nat) : Prop where
  wire : (t.link m f.outSub).onWire = f.id :: (s.link m f.outSub).onWire
  links : t.linksAs s [(m, f.outSub)]
  counted : s.counted t (F.trafTxFrames m f.outSub f.cls) 1
  rest : t = { s with regs := t.regs, frames := t.frames, links := t.links, fuses := t.fuses, scheds := t.scheds }

theorem placed_onWire (s : Chip) {f : Frame} (m : Nat) (hsub : f.outSub < 8) : OnWire s (s.placed f m) f m := by
  obtain ⟨r, fu, he⟩ := placed_eq s f m
  refine ⟨?_, fun k sub hk hne => ?_, counted_placed s f m, ?_⟩
  · rw [he]
    exact congrArg Link.onWire (store_read_write_same linkDefault s.links _ _)
  · rw [he]
    refine store_read_write_other _ _ _ _ fun heq => hne ?_
    simp only [List.mem_singleton, Prod.mk.injEq]
    omega
  · rw [he]

theorem frame_placed {s : Chip} {f : Frame} (m : Nat) (hf : f ∈ s.frames) :
    (s.placed f m).frame f.id = some (f.onMember m) := by
  obtain ⟨g, hg⟩ := frame_isSome hf
  obtain ⟨r, fu, he⟩ := placed_eq s f m
  rw [he]
  exact frame_putFrame_same (f := f.onMember m) hg

theorem placed_othersAs (s : Chip) (f : Frame) (m : Nat) : (s.placed f m).othersAs s f.id := by
  obtain ⟨r, fu, he⟩ := placed_eq s f m
  rw [he]
  exact putFrame_othersAs s (f.onMember m)

/-- What changed after a start, of registers and frames alone, and left the count of frames as it was. -/
theorem OnWire.later {s t u : Chip} {f : Frame} {m : Nat} {l : List Fld} (h : OnWire s t f m) (hkeeps : t.keeps u l)
    (hl : (F.trafTxFrames m f.outSub f.cls).notIn l) (hu : ∃ r fr, u = { t with regs := r, frames := fr }) : OnWire s u f m := by
  obtain ⟨r, fr, hu⟩ := hu
  have hcounted := counted_keeps h.counted (.of (by omega)) hkeeps hl
  refine ⟨?_, ?_, hcounted, ?_⟩
  · rw [hu]
    exact h.wire
  · rw [hu]
    exact h.links
  · rw [hu]
    exact congrArg (fun c : Chip => { c with regs := r, frames := fr }) h.rest

/-! ### The judgement of a promise (R71, R72) -/

theorem judge_unpromised (s : Chip) {f : Frame} (stamp : Raw) (h : f.express = false) : s.judge f stamp = s := by
  unfold Chip.judge
  rw [h]
  rfl

theorem judge_kept (s : Chip) {f : Frame} {stamp : Raw} (h : f.express = true) (hkept : rawDiff f.rxStamp stamp ≤ promiseUnits) :
    s.judge f stamp = s.bump (F.admSubKept f.outPort f.outSub) := by
  exact (if_neg (by rw [h]; decide)).trans (if_neg (Int.not_lt.2 hkept))

theorem judge_late (s : Chip) {f : Frame} {stamp : Raw} (h : f.express = true) (hlate : promiseUnits < rawDiff f.rxStamp stamp) :
    s.judge f stamp = (s.putFrame f.brokenNow).count (s.breakCause f f.outPort f.outSub) (if f.broken then 0 else 1) := by
  rw [← breaks_once h]
  exact ((if_neg (by rw [h]; decide)).trans (if_pos hlate)).trans (breakPromise_eq (s.putFrame f.brokenNow) f _)

theorem judge_othersAs (s : Chip) (f : Frame) (stamp : Raw) : (s.judge f stamp).othersAs s f.id := by
  unfold Chip.judge
  split
  · exact fun _ _ => rfl
  · split
    · rw [breakPromise_eq]
      exact othersAs_trans (othersAs_of_frames (count_frames _ _ _) _) (putFrame_othersAs s f.brokenNow)
    · exact othersAs_of_frames (bump_frames _ _) _

theorem judge_scheds (s : Chip) (f : Frame) (stamp : Raw) : (s.judge f stamp).scheds = s.scheds := by
  unfold Chip.judge
  split
  · rfl
  · split
    · rw [breakPromise_eq]
      exact count_scheds _ _ _
    · exact bump_scheds _ _

theorem begin_othersAs (s : Chip) (f : Frame) (m : Nat) (stamp : LineStamp) : (s.begin f m stamp).othersAs s f.id :=
  othersAs_trans (judge_othersAs (s.placed f m) (f.onMember m) _) (placed_othersAs s f m)

theorem begin_scheds (s : Chip) (f : Frame) (m : Nat) (stamp : LineStamp) : (s.begin f m stamp).scheds = s.scheds := by
  obtain ⟨r, fu, he⟩ := placed_eq s f m
  exact (judge_scheds (s.placed f m) (f.onMember m) _).trans (by rw [he])

/-- What the start of an express frame does (R67, R71, R72, R148). -/
structure StartsExpress (s t : Chip) (f : Frame) (m : Nat) (w : Raw) : Prop extends OnWire s t f m where
  frame : t.frame f.id = some { f with started := true, member := m, broken := f.broken || decide (promiseUnits < rawDiff f.rxStamp w) }
  kept : rawDiff f.rxStamp w ≤ promiseUnits → s.counted t (F.admSubKept f.outPort f.outSub) 1
  late : promiseUnits < rawDiff f.rxStamp w →
    s.counted t (s.breakCause f f.outPort f.outSub) (if f.broken then 0 else 1)
      ∧ t.get (F.admSubKept f.outPort f.outSub) = s.get (F.admSubKept f.outPort f.outSub)
  keeps : s.keeps t [F.trafTxFrames m f.outSub f.cls, F.admSubKept f.outPort f.outSub, s.breakCause f f.outPort f.outSub]

section
variable {s : Chip} {f : Frame} {m : Nat} (stamp : LineStamp) (hexpress : f.express = true) (hm : m < 48) (hsub : f.outSub < 8)
  (hcls : f.cls < 16)
include hexpress

theorem begin_kept (hkept : rawDiff f.rxStamp (s.txStamp m f.outSub stamp) ≤ promiseUnits) :
    s.begin f m stamp = (s.placed f m).bump (F.admSubKept f.outPort f.outSub) :=
  (begin_eq s f m stamp).trans (judge_kept (f := f.onMember m) _ hexpress hkept)

include hm hsub hcls

theorem begin_late (hlate : promiseUnits < rawDiff f.rxStamp (s.txStamp m f.outSub stamp)) :
    s.begin f m stamp = ((s.placed f m).putFrame (f.onMember m).brokenNow).count (s.breakCause f f.outPort f.outSub)
      (if f.broken then 0 else 1) := by
  have hbelow : belowAdm [F.trafTxFrames m f.outSub f.cls] := fun g hg => by
    rw [List.mem_singleton.1 hg]
    simp only [F.trafTxFrames]
    omega
  have hcause : (s.placed f m).breakCause (f.onMember m) = s.breakCause f :=
    breakCause_of_keeps (keeps_placed s f m) hbelow rfl rfl rfl
  rw [begin_eq, ← hcause]
  exact judge_late (f := f.onMember m) _ hexpress hlate

variable (hf : f ∈ s.frames)
include hf

omit hm in
theorem begin_startsKept (hkept : rawDiff f.rxStamp (s.txStamp m f.outSub stamp) ≤ promiseUnits) :
    StartsExpress s (s.begin f m stamp) f m (s.txStamp m f.outSub stamp) := by
  have hwire := placed_onWire s m hsub
  have hplaced := keeps_placed s f m
  have hpower : (s.placed f m).power = s.power := by
    obtain ⟨r, fu, he⟩ := placed_eq s f m
    rw [he]
  have hlater := keeps_bump (s.placed f m) (F.admSubKept f.outPort f.outSub)
  obtain ⟨q, hq⟩ := bump_withRegs (s.placed f m) (F.admSubKept f.outPort f.outSub)
  rw [begin_kept stamp hexpress hkept]
  refine ⟨hwire.later hlater (Fld.notIn_cons (Fld.key_ne (by omega)) (Fld.notIn_nil _)) ⟨_, _, hq⟩, ?_, fun _ => ?_, ?_, ?_⟩
  · rw [decide_eq_false (Int.not_lt.2 hkept), Bool.or_false]
    exact (frame_of_frames (bump_frames _ _) _).trans (frame_placed m hf)
  · exact counted_bump_after rfl (.of (by omega)) hpower hplaced (Fld.notIn_cons (Fld.key_ne (by omega)) (Fld.notIn_nil _))
  · exact fun h => absurd h (Int.not_lt.2 hkept)
  · exact keeps_mono (keeps_trans hplaced hlater) (by simp)

theorem begin_startsLate (hlate : promiseUnits < rawDiff f.rxStamp (s.txStamp m f.outSub stamp)) :
    StartsExpress s (s.begin f m stamp) f m (s.txStamp m f.outSub stamp) := by
  have hwire := placed_onWire s m hsub
  have hplaced := keeps_placed s f m
  have hpower : ((s.placed f m).putFrame (f.onMember m).brokenNow).power = s.power := by
    obtain ⟨r, fu, he⟩ := placed_eq s f m
    rw [he]
    rfl
  obtain ⟨k, ⟨hk, hk'⟩, hck⟩ := isBreak_cause s f
  have hcause := hck f.outPort f.outSub
  rw [begin_late stamp hexpress hm hsub hcls hlate, hcause]
  generalize hu : (s.placed f m).putFrame (f.onMember m).brokenNow = u at hpower ⊢
  have hframe : u.frame f.id = some (f.onMember m).brokenNow := hu ▸ frame_putFrame_same (f := (f.onMember m).brokenNow) (frame_placed m hf)
  have hput : (s.placed f m).keeps u [] := keeps_of_regs _ (hu ▸ rfl)
  have hkeeps := keeps_trans hplaced hput
  have hmid : OnWire s u f m := hwire.later hput (Fld.notIn_nil _) ⟨_, _, hu.symm⟩
  refine ⟨hmid.later (keeps_count _ _ _) (Fld.notIn_cons (Fld.key_ne (by omega)) (Fld.notIn_nil _)) ?_, ?_, ?_, fun _ => ⟨?_, ?_⟩, ?_⟩
  · obtain ⟨q, hq⟩ := count_withRegs u ⟨0x140000 + f.outPort * 0x1000 + k + f.outSub * 0x80, 0, 32, 0⟩ (if f.broken then 0 else 1)
    exact ⟨_, _, hq⟩
  · rw [decide_eq_true hlate, Bool.or_true]
    exact (frame_of_frames (count_frames _ _ _) _).trans hframe
  · exact fun h => absurd hlate (Int.not_lt.2 h)
  · rw [hcause]
    exact counted_count_after _ rfl (.of (by omega)) hpower hkeeps (Fld.notIn_cons (Fld.key_ne (by omega)) (Fld.notIn_nil _))
  · refine get_of_keeps (keeps_trans hkeeps (keeps_count _ _ _)) _ (.of (by omega)) ?_
    exact Fld.notIn_pair (Fld.key_ne (by omega)) (Fld.key_ne (by omega))
  · rw [hcause]
    exact keeps_mono (keeps_trans hkeeps (keeps_count _ _ _)) (by simp)

theorem begin_startsExpress : StartsExpress s (s.begin f m stamp) f m (s.txStamp m f.outSub stamp) := by
  by_cases hlate : promiseUnits < rawDiff f.rxStamp (s.txStamp m f.outSub stamp)
  · exact begin_startsLate stamp hexpress hm hsub hcls hf hlate
  · exact begin_startsKept stamp hexpress hsub hcls hf (Int.not_lt.1 hlate)

end

/-! ### TX_FRAME_START: the choice (R148, R153) -/

/-- The block with a subport on the tree applied last (R153). -/
def Chip.adopted (s : Chip) (q sub : Nat) : Chip := s.setSched q ((s.sched q).adopt sub)

theorem adopts_of_scheds {s t : Chip} {q sub : Nat} (h : t.scheds = (s.adopted q sub).scheds) : adopts q sub s t := by
  unfold adopts Chip.sched
  rw [h]
  exact ⟨store_read_write_same _ _ _ _, fun k hk => store_read_write_other _ _ _ _ hk⟩

/-- The start that the take gate and the tree choose, where no error is met. -/
def Chip.starting (s : Chip) (q m sub : Nat) (stamp : LineStamp) : Chip :=
  match s.onWire m sub with
  | some g =>
    if s.getBit (F.admStatusMergeActive m) sub && !g.express then
      match s.expressChoice q sub with
      | some f => (s.putFrame { g with preempted := true }).begin f m stamp
      | none => s
    else s
  | none =>
    match s.expressChoice q sub with
    | some f => s.begin f m stamp
    | none =>
      match (s.treeChoice q sub).2.bind (fun c => s.ready1 q sub c) with
      | some f => (s.setSched q (s.treeChoice q sub).1).begin f m stamp
      | none => s

theorem txStart_eq {s : Chip} {p sub : Nat} (stamp : LineStamp) (hrun : s.coresRun = true) (hsub : sub < s.subports (s.lowerOf p))
    (hup : s.memberUp (s.startMember p sub) sub = true) :
    s.txStart p sub stamp noEcc
      = ((s.adopted (s.lowerOf p) sub).lateDiscards (s.lowerOf p) sub).starting (s.lowerOf p) (s.startMember p sub) sub stamp := by
  have hcan : ¬ (!s.coresRun || decide (s.subports (s.lowerOf p) ≤ sub) || !s.memberUp (s.startMember p sub) sub) = true := by
    rw [hrun, hup, decide_eq_false (Nat.not_le.2 hsub)]
    decide
  unfold Chip.txStart
  rw [if_neg hcan]
  rfl

theorem lowerOf_lt (s : Chip) (p : Fin 48) : s.lowerOf p.val < 48 := by
  unfold Chip.lowerOf
  split <;> omega

theorem startMember_lt (s : Chip) (p : Fin 48) (sub : Nat) : s.startMember p.val sub < 48 := by
  unfold Chip.startMember
  dsimp only
  split
  · exact lowerOf_lt s p
  · exact p.isLt

section
variable {s : Chip} {q m sub : Nat} (stamp : LineStamp)

theorem starting_express {f : Frame} (hwire : s.onWire m sub = none) (hf : s.expressChoice q sub = some f) :
    s.starting q m sub stamp = s.begin f m stamp := by
  unfold Chip.starting
  rw [hwire, hf]

theorem starting_preempts {f g : Frame} (hwire : s.onWire m sub = some g)
    (hmerge : (s.getBit (F.admStatusMergeActive m) sub && !g.express) = true) (hf : s.expressChoice q sub = some f) :
    s.starting q m sub stamp = (s.putFrame { g with preempted := true }).begin f m stamp := by
  unfold Chip.starting
  rw [hwire, hf]
  exact if_pos hmerge

theorem starting_tree {f : Frame} {c : Nat} (hwire : s.onWire m sub = none) (hnone : s.expressChoice q sub = none)
    (hc : (s.treeChoice q sub).2 = some c) (hf : s.ready1 q sub c = some f) :
    s.starting q m sub stamp = (s.setSched q (s.treeChoice q sub).1).begin f m stamp := by
  unfold Chip.starting
  rw [hwire, hnone]
  dsimp only
  rw [hc, Option.bind_some, hf]

theorem starting_nothing (hwire : s.onWire m sub = none) (hnone : s.expressChoice q sub = none)
    (hc : (s.treeChoice q sub).2.bind (fun c => s.ready1 q sub c) = none) : s.starting q m sub stamp = s := by
  unfold Chip.starting
  rw [hwire, hnone]
  dsimp only
  rw [hc]

end

/-- The block with other frames and other trees: what TX_FRAME_START changes before the frame that it chooses starts. -/
def Chip.withQueues (s : Chip) (fr : List Frame) (sc : Store Sched) : Chip := { s with frames := fr, scheds := sc }

section
variable (s : Chip) (fr : List Frame) (sc : Store Sched)

theorem laneCount_withQueues (m : Nat) : (s.withQueues fr sc).laneCount m = s.laneCount m := rfl
theorem txLane_withQueues (m sub : Nat) : (s.withQueues fr sc).txLane m sub = s.txLane m sub := rfl
theorem txTrim_withQueues (m sub : Nat) : (s.withQueues fr sc).txTrim m sub = s.txTrim m sub := rfl
theorem lineReach_withQueues (bank c j : Nat) : (s.withQueues fr sc).lineReach bank c j = s.lineReach bank c j := rfl
theorem interpolated_withQueues (edge x : Raw) : (s.withQueues fr sc).interpolated edge x = s.interpolated edge x := rfl

/-- A stamp is measured of the wire alone (R175, R176). -/
theorem txStamp_withQueues (m sub : Nat) (a : LineStamp) : (s.withQueues fr sc).txStamp m sub a = s.txStamp m sub a := by
  unfold Chip.txStamp Chip.lineStamp
  rw [laneCount_withQueues, txLane_withQueues, txTrim_withQueues, lineReach_withQueues, interpolated_withQueues]

theorem breakCause_withQueues (f : Frame) : (s.withQueues fr sc).breakCause f = s.breakCause f := rfl

end

/-- A frame starts as well where frames and trees have changed before. -/
theorem OnWire.of_queues {s t : Chip} {f : Frame} {m : Nat} {fr : List Frame} {sc : Store Sched}
    (h : OnWire (s.withQueues fr sc) t f m) : OnWire s t f m :=
  ⟨h.wire, h.links, h.counted, h.rest⟩

theorem StartsExpress.of_queues {s t : Chip} {f : Frame} {m : Nat} {stamp : LineStamp} {fr : List Frame} {sc : Store Sched}
    (h : StartsExpress (s.withQueues fr sc) t f m ((s.withQueues fr sc).txStamp m f.outSub stamp)) :
    StartsExpress s t f m (s.txStamp m f.outSub stamp) := by
  rw [txStamp_withQueues] at h
  have hlate := h.late
  have hkeeps := h.keeps
  rw [breakCause_withQueues] at hlate hkeeps
  exact ⟨h.toOnWire.of_queues, h.frame, h.kept, hlate, hkeeps⟩

theorem txExpress_holds (p : Fin 48) (sub : Fin 8) (stamp : LineStamp) (f : Frame) (s : State) : txExpress p sub stamp f s := by
  rintro ⟨hrun, hsub, hup, hwire, hyoung⟩ - hf
  refine runs_done rfl ?_
  have hm := startMember_lt s.chip p sub.val
  rw [txStart_eq stamp hrun hsub hup]
  generalize s.chip.startMember p.val sub.val = m at hm hwire ⊢
  generalize s.chip.lowerOf p.val = q at hyoung hf ⊢
  rw [lateDiscards_stays (s := s.chip.adopted q sub.val) hyoung, starting_express (s := s.chip.adopted q sub.val) stamp hwire hf]
  obtain ⟨hmem, -, hfsub, hcls, hexpress⟩ := mem_of_expressChoice hf
  have h : StartsExpress s.chip _ f m _ := .of_queues (fr := s.chip.frames) (sc := (s.chip.adopted q sub.val).scheds)
    (begin_startsExpress stamp hexpress hm (hfsub ▸ sub.isLt) hcls hmem)
  have hothers : _ := begin_othersAs (s.chip.adopted q sub.val) f m stamp
  exact ⟨h.frame, h.wire, h.links, h.counted, hothers, adopts_of_scheds (begin_scheds _ _ _ _), h.kept, h.late, h.keeps, h.rest⟩

theorem txPreempts_holds (p : Fin 48) (sub : Fin 8) (stamp : LineStamp) (f g : Frame) (s : State) : txPreempts p sub stamp f g s := by
  intro hrun hsub hup hyoung hwire hexpress hmerge hf hne
  refine runs_done rfl ?_
  have hm := startMember_lt s.chip p sub.val
  rw [txStart_eq stamp hrun hsub hup]
  generalize s.chip.startMember p.val sub.val = m at hm hwire hmerge ⊢
  generalize s.chip.lowerOf p.val = q at hyoung hf ⊢
  have hpre : (s.chip.getBit (F.admStatusMergeActive m) sub.val && !g.express) = true := by rw [hmerge, hexpress]; rfl
  rw [lateDiscards_stays (s := s.chip.adopted q sub.val) hyoung,
    starting_preempts (s := s.chip.adopted q sub.val) stamp hwire hpre hf]
  obtain ⟨hmem, -, hfsub, hcls, hfexpress⟩ := mem_of_expressChoice hf
  generalize hfr : (s.chip.putFrame { g with preempted := true }).frames = fr
  have hfu : f ∈ fr := hfr ▸ List.mem_map.2 ⟨f, hmem, if_neg hne⟩
  have h : StartsExpress s.chip _ f m _ := .of_queues (fr := fr) (sc := (s.chip.adopted q sub.val).scheds)
    (begin_startsExpress stamp hfexpress hm (hfsub ▸ sub.isLt) hcls hfu)
  have hu : (s.chip.adopted q sub.val).putFrame { g with preempted := true }
      = s.chip.withQueues fr (s.chip.adopted q sub.val).scheds := by rw [← hfr]; rfl
  have hgu : (s.chip.withQueues fr (s.chip.adopted q sub.val).scheds).frame g.id = some { g with preempted := true } :=
    hu ▸ frame_putFrame_same (f := { g with preempted := true }) (onWire_eq hwire).1
  rw [hu]
  exact ⟨h.frame, (begin_othersAs _ f m stamp g.id hne.symm).trans hgu, adopts_of_scheds (begin_scheds _ _ _ _), h.wire, h.links,
    h.counted, h.keeps, h.rest⟩

theorem txTree_holds (p : Fin 48) (sub : Fin 8) (stamp : LineStamp) (f : Frame) (c : Nat) (s : State) : txTree p sub stamp f c s := by
  rintro ⟨hrun, hsub, hup, hwire, hyoung⟩ hnone hc hf hexpress
  refine runs_done rfl ?_
  rw [txStart_eq stamp hrun hsub hup]
  generalize s.chip.startMember p.val sub.val = m at hwire ⊢
  generalize s.chip.lowerOf p.val = q at hyoung hnone hc hf ⊢
  rw [lateDiscards_stays (s := s.chip.adopted q sub.val) hyoung,
    starting_tree (s := s.chip.adopted q sub.val) stamp hwire hnone hc hf]
  obtain ⟨hmem, -, hfsub, -⟩ := mem_of_ready1 hf
  obtain ⟨x, hx⟩ : ∃ x, ((s.chip.adopted q sub.val).treeChoice q sub.val).1 = x := ⟨_, rfl⟩
  rw [hx]
  have hbegin : ((s.chip.adopted q sub.val).setSched q x).begin f m stamp = ((s.chip.adopted q sub.val).setSched q x).placed f m :=
    judge_unpromised (f := f.onMember m) _ _ hexpress
  have h : OnWire s.chip (((s.chip.adopted q sub.val).setSched q x).placed f m) f m :=
    .of_queues (fr := s.chip.frames) (sc := ((s.chip.adopted q sub.val).setSched q x).scheds)
      (placed_onWire _ m (hfsub ▸ sub.isLt))
  have hothers := placed_othersAs ((s.chip.adopted q sub.val).setSched q x) f m
  have hframe := frame_placed (s := (s.chip.adopted q sub.val).setSched q x) m hmem
  have hkeeps := keeps_placed ((s.chip.adopted q sub.val).setSched q x) f m
  have hscheds : (((s.chip.adopted q sub.val).setSched q x).placed f m).scheds = ((s.chip.adopted q sub.val).setSched q x).scheds :=
    hbegin ▸ begin_scheds _ f m stamp
  obtain ⟨-, hadopted⟩ := adopts_of_scheds (s := s.chip) (q := q) (sub := sub.val) rfl
  rw [hbegin]
  refine ⟨hframe, h.wire, h.links, h.counted, hothers, ?_, fun k hk => ?_, hkeeps, h.rest⟩
  · refine Eq.trans ?_ hx.symm
    unfold Chip.sched
    rw [hscheds]
    exact store_read_write_same _ _ _ _
  · refine Eq.trans ?_ (hadopted k hk)
    unfold Chip.sched
    rw [hscheds]
    exact store_read_write_other _ _ _ _ hk

theorem txNothing_holds (p : Fin 48) (sub : Fin 8) (stamp : LineStamp) (s : State) : txNothing p sub stamp s := by
  rintro ⟨hrun, hsub, hup, hwire, hyoung⟩ hnone hc
  refine runs_done rfl ?_
  rw [txStart_eq stamp hrun hsub hup]
  generalize s.chip.startMember p.val sub.val = m at hwire ⊢
  generalize s.chip.lowerOf p.val = q at hyoung hnone hc ⊢
  have hnobody : ((s.chip.adopted q sub.val).treeChoice q sub.val).2.bind (fun c => (s.chip.adopted q sub.val).ready1 q sub.val c) = none :=
    Option.bind_eq_none_iff.2 fun c hsome => absurd (hc.symm.trans hsome) (by simp)
  rw [lateDiscards_stays (s := s.chip.adopted q sub.val) hyoung,
    starting_nothing (s := s.chip.adopted q sub.val) stamp hwire hnone hnobody]
  exact ⟨adopts_of_scheds rfl, rfl⟩

/-! ### The last frame of a subport is too old (R73) -/

/-- No frame waits for a subport or leaves it. -/
def Chip.idle (s : Chip) (q sub : Nat) : Prop := ∀ g ∈ s.frames, g.outPort = q → g.outSub = sub → False

section
variable {s : Chip} {q sub : Nat} (h : s.idle q sub)
include h

theorem headOf_idle (c : Nat) : s.headOf q sub c = none := by
  cases hhead : s.headOf q sub c
  case none => rfl
  case some g =>
    obtain ⟨hmem, hport, hsub, -⟩ := mem_queue (firstLinked_mem hhead)
    exact (h g hmem hport hsub).elim

theorem ready1_idle (c : Nat) : s.ready1 q sub c = none := by
  unfold Chip.ready1
  rw [headOf_idle h]
  rfl

theorem expressChoice_idle : s.expressChoice q sub = none := by
  cases hchoice : s.expressChoice q sub
  case none => rfl
  case some g =>
    obtain ⟨hmem, hport, hsub, -⟩ := mem_of_expressChoice hchoice
    exact (h g hmem hport hsub).elim

theorem lateDiscard_idle (c fuel : Nat) : s.lateDiscard q sub c fuel = s :=
  lateDiscard_stays fuel fun g hg => absurd ((headOf_idle h c).symm.trans hg) (by simp)

theorem starting_idle {m : Nat} (stamp : LineStamp) (hwire : s.onWire m sub = none) : s.starting q m sub stamp = s :=
  starting_nothing stamp hwire (expressChoice_idle h) (Option.bind_eq_none_iff.2 fun c _ => ready1_idle h c)

end

theorem lateDiscard_drops {s : Chip} {q sub c fuel : Nat} {f : Frame} (hhead : s.headOf q sub c = some f)
    (haction : s.flag (F.admCtrlLateAction q) = true) (hexpress : f.express = true)
    (hlate : lateHead < rawDiff f.rxStamp s.time.raw) :
    s.lateDiscard q sub c (fuel + 1) = ((s.dropFrame f).breakPromise f (s.breakCause f)).lateDiscard q sub c fuel := by
  rw [Chip.lateDiscard, hhead]
  exact if_pos (by rw [haction, hexpress, decide_eq_true hlate]; rfl)

theorem firstLinked_isSome {l : List Frame} {f : Frame} (h : f ∈ l) : ∃ g, firstLinked l = some g := by
  cases l with
  | nil => exact absurd h List.not_mem_nil
  | cons g l =>
    unfold firstLinked
    split
    · exact ⟨_, rfl⟩
    · split
      · exact ⟨_, rfl⟩
      · exact ⟨_, rfl⟩

/-- A fold that leaves a state at every element but one, and what that one makes of it at every element. -/
theorem foldl_switch {α β : Type} {g : α → β → α} {a d : α} {k : β} {l : List β} (hk : k ∈ l) (ha : ∀ c, c ≠ k → g a c = a)
    (hak : g a k = d) (hd : ∀ c, g d c = d) : l.foldl g a = d := by
  induction l with
  | nil => exact absurd hk List.not_mem_nil
  | cons c l ih =>
    rw [List.foldl_cons]
    by_cases hc : c = k
    · rw [hc, hak]
      exact List.foldl_fixed' hd l
    · rw [ha c hc]
      exact ih ((List.mem_cons.1 hk).resolve_left (Ne.symm hc))

section
variable {s : Chip} {q sub : Nat} {f : Frame} (hf : f ∈ s.queue q sub f.cls)
  (honly : ∀ g ∈ s.frames, g.outPort = q → g.outSub = sub → g = f)
include hf honly

theorem headOf_only (c : Nat) : s.headOf q sub c = if c = f.cls then some f else none := by
  cases hhead : s.headOf q sub c
  case none =>
    rw [if_neg]
    intro hc
    subst hc
    obtain ⟨g, hg⟩ := firstLinked_isSome hf
    exact absurd (hhead.symm.trans hg) (by simp)
  case some g =>
    obtain ⟨hmem, hport, hsub, hcls⟩ := mem_queue (firstLinked_mem hhead)
    rw [honly g hmem hport hsub] at hcls ⊢
    exact (if_pos hcls.symm).symm

omit hf in
theorem idle_dropFrame : (s.dropFrame f).idle q sub := by
  intro g hg hport hsub
  rw [dropFrame_frames] at hg
  obtain ⟨hmem, hne⟩ := List.mem_filter.1 hg
  rw [honly g hmem hport hsub] at hne
  exact absurd hne (by simp)

/-- LATE_DISCARD of a subport whose one frame is an express frame too old drops that frame and breaks its promise. -/
theorem lateDiscards_only (hcls : 12 ≤ f.cls ∧ f.cls < 16) (haction : s.flag (F.admCtrlLateAction q) = true)
    (hexpress : f.express = true) (hlate : lateHead < rawDiff f.rxStamp s.time.raw) :
    s.lateDiscards q sub = (s.dropFrame f).breakPromise f (s.breakCause f) := by
  have hidle : ((s.dropFrame f).breakPromise f (s.breakCause f)).idle q sub := by
    unfold Chip.idle
    rw [breakPromise_eq, count_frames]
    exact idle_dropFrame honly
  refine foldl_switch (k := f.cls) ?_ (fun c hc => ?_) ?_ fun c => lateDiscard_idle hidle c _
  · obtain ⟨h12, h16⟩ := hcls
    simp only [List.mem_cons, List.not_mem_nil, or_false]
    omega
  · refine lateDiscard_stays _ fun g hg => ?_
    rw [headOf_only hf honly, if_neg hc] at hg
    exact absurd hg (by simp)
  · obtain ⟨n, hn⟩ := Nat.exists_eq_succ_of_ne_zero (List.length_pos_of_mem (mem_queue hf).1).ne'
    have hhead : s.headOf q sub f.cls = some f := by rw [headOf_only hf honly, if_pos rfl]
    rw [hn]
    exact (lateDiscard_drops hhead haction hexpress hlate).trans (lateDiscard_idle hidle _ _)

end

theorem onWire_none_of_dropped {s t : Chip} {m sub id : Nat} (h : s.onWire m sub = none) (hlink : t.link m sub = s.link m sub)
    (hothers : t.othersAs s id) (hid : t.frame id = none) : t.onWire m sub = none := by
  unfold Chip.onWire at h ⊢
  rw [hlink]
  split at h
  case h_1 => rfl
  case h_2 k l hl =>
    by_cases hk : k = id
    · exact hk ▸ hid
    · exact (hothers k hk).trans h

theorem endBroken_waiting (s : Chip) {f : Frame} (ctr : Nat → Nat → Fld) (h : f.started = false) :
    s.endBroken f ctr = (s.dropFrame f).breakPromise f ctr :=
  congrArg (fun c => Chip.breakPromise c f ctr) (endFrame_waiting (f := f.brokenNow) s h)

theorem txLate_holds (p : Fin 48) (sub : Fin 8) (stamp : LineStamp) (f : Frame) (s : State) : txLate p sub stamp f s := by
  intro hrun hsub hup hwire hrange haction hqueue hcls hexpress hlate honly
  refine runs_done rfl ?_
  rw [txStart_eq stamp hrun hsub hup]
  generalize s.chip.startMember p.val sub.val = m at hwire ⊢
  generalize s.chip.lowerOf p.val = q at haction hqueue honly ⊢
  obtain ⟨hports, -⟩ := hrange
  obtain ⟨-, -, hout, hfsub, h16⟩ := hports f (mem_queue hqueue).1
  have hwaits : f.started = false := by
    have htest := (List.mem_filter.1 hqueue).2
    simp only [Bool.and_eq_true, Bool.not_eq_true'] at htest
    obtain ⟨⟨-, hst⟩, -⟩ := htest
    exact hst
  have hdrop : (s.chip.adopted q sub.val).lateDiscards q sub.val = (s.chip.adopted q sub.val).endBroken f (s.chip.breakCause f) := by
    rw [lateDiscards_only (s := s.chip.adopted q sub.val) hqueue honly ⟨hcls, h16⟩ haction hexpress hlate]
    exact (endBroken_waiting _ _ hwaits).symm
  have hidle : ((s.chip.adopted q sub.val).endBroken f (s.chip.breakCause f)).idle q sub.val := by
    unfold Chip.idle
    rw [endBroken_waiting _ _ hwaits, breakPromise_eq, count_frames]
    exact idle_dropFrame (s := s.chip.adopted q sub.val) honly
  obtain ⟨hcounted, hothers, hkeeps, r, fr, fab, he⟩ := endBroken_spec (s.chip.adopted q sub.val) (isBreak_cause s.chip f) hout hfsub
  have hgone := frame_endBroken_waiting (s.chip.adopted q sub.val) (s.chip.breakCause f) hwaits
  have hwire' := onWire_none_of_dropped (s := s.chip.adopted q sub.val) hwire (by rw [he]; rfl) hothers hgone
  rw [hdrop, starting_idle hidle stamp hwire', ← breaks_once hexpress]
  refine ⟨hgone, hothers, adopts_of_scheds ?_, hcounted, hkeeps, ?_⟩
  · rw [he]
  · rw [he]
    rfl

/-- Settles O59: each start, underrun and end of a transmission does what its clause says of its case. -/
theorem transmissionStartsAndEnds : Obligations.TransmissionStartsAndEnds := fun s =>
  ⟨fun p sub stamp f => txExpress_holds p sub stamp f s, fun p sub stamp f g => txPreempts_holds p sub stamp f g s,
    fun p sub stamp f c => txTree_holds p sub stamp f c s, fun p sub stamp => txNothing_holds p sub stamp s,
    fun p sub f => txUnderruns_holds p sub f s, fun p sub f cells => txEnds_holds p sub f cells s,
    fun p sub f cells => txCellError_holds p sub f cells s, fun p sub stamp f => txLate_holds p sub stamp f s⟩

end Sys2Proof.Machine

/-! A MODE written on a register store that lists TWO_SHOT at its Reset value: the write unlists it, which refutes O19, whose
frame compares what the stores list. -/

namespace Sys2Proof.Machine

open Sys2Proof.Says

/-- The state after reset, TWO_SHOT of P0 listed at 0, its Reset value. -/
def listedTwoShotState : State :=
  let c := Chip.afterReset
  { chip := { c with regs := Store.insert (F.port0ModeTwoShot 0).key 0 c.regs }
    pending := [] }

/-- A write of SPLIT = 1 writes TWO_SHOT too, and a write of the Reset value lists nothing. -/
theorem modeWrite_listedTwoShot :
    Store.find (F.port0ModeTwoShot 0).key (listedTwoShotState.chip.hostWrite .pcie (F.port0ModeSplit 0).addr 0xF 1).regs
      ≠ Store.find (F.port0ModeTwoShot 0).key listedTwoShotState.chip.regs := by
  decide +kernel

/-- Refutes O19: a MODE that changes SPLIT alone unlists TWO_SHOT that stood listed at its Reset value. -/
theorem not_portConfigurationIsHeldWhileInUse : ¬ Obligations.PortConfigurationIsHeldWhileInUse := by
  unfold Obligations.PortConfigurationIsHeldWhileInUse
  intro h
  obtain ⟨hmode, -⟩ := h listedTwoShotState
  have hserves : listedTwoShotState.chip.serves .pcie (0x2000 + (0 : Fin 48).val * 16) := by
    unfold Chip.serves; decide +kernel
  obtain ⟨-, -, -, hkeeps, -⟩ := of_runs_done
    (u := listedTwoShotState.chip.hostWrite .pcie (F.port0ModeSplit 0).addr 0xF 1) rfl
    (hmode .pcie 0 0xF 1 hserves (by decide +kernel) (by decide +kernel) (by decide +kernel) rfl (.inl (by decide +kernel))
      (by decide +kernel) (by decide +kernel) (by decide +kernel))
  exact modeWrite_listedTwoShot (hkeeps _ (by decide) (by decide))

end Sys2Proof.Machine

/-! A frame of a fused port that has arrived early may name a port that the die does not have, and the waits for its
predecessors end when a member leaves service: SEQ_LOST then counts on the page which that port would have. O20, O28 and O49
take every state, and fail in these. -/

namespace Sys2Proof.Machine

open Sys2Proof.Says

/-! ### ENABLE cleared on a fused port -/

/-- The state of `strayEarlyState` with subport 0 of P0 enabled. -/
def strayEnabledState : State :=
  { chip := strayEarlyState.chip.setN (F.port0CtrlEnable 0) 1, pending := [] }

/-- The link that falls counts SEQ 0 as lost on the page that port 48 would have. -/
theorem enableWrite_strayEarly :
    Store.find (F.port2SeqLost 48 0).key (strayEnabledState.chip.hostWrite .pcie (F.port0CtrlEnable 0).addr 0xF 0).regs
      ≠ Store.find (F.port2SeqLost 48 0).key strayEnabledState.chip.regs := by
  decide +kernel

/-- Refutes O20: ENABLE cleared on P0 counts SEQ_LOST of the port on which the waiting frame arrived, whichever port that
is. -/
theorem not_enableStartsAndStopsLinks : ¬ Obligations.EnableStartsAndStopsLinks := by
  unfold Obligations.EnableStartsAndStopsLinks
  intro h
  obtain ⟨-, hfalls, -⟩ := h strayEnabledState
  have hserves : strayEnabledState.chip.serves .pcie (0x2000 + (0 : Fin 48).val * 16) := by
    unfold Chip.serves; decide +kernel
  obtain ⟨-, -, -, -, hkeeps, -⟩ := of_runs_done
    (u := strayEnabledState.chip.hostWrite .pcie (F.port0CtrlEnable 0).addr 0xF 0) rfl
    (hfalls .pcie 0 0xF 0 hserves (by decide +kernel) (by decide +kernel)
      ⟨fun f hf => absurd hf List.not_mem_nil, fun c hc => absurd hc List.not_mem_nil⟩ (by decide +kernel))
  exact enableWrite_strayEarly (hkeeps _ (by decide) (by decide))

/-! ### A fuse marker beyond the skew -/

/-- Three fuse markers have come on each member, and the upper one's stamps trail by 10 ns. -/
def skewedRun (upper : Bool) : MarkerRun := ⟨3, 0, upper, 0, 0, if upper then 10 * 65536 else 0⟩

/-- The state of `strayEarlyState` with the link of P6 aligned, both members in service and their runs of markers skewed. The
line that stamps on P6 is trimmed and its lane delay measured, so that its stamps rest on no free value. -/
def straySkewState : State :=
  let c := (strayEarlyState.chip.setBit F.cal0LaneDoneLo 6 true).setLink 6 0 { linkDefault with phase := .aligned }
  { chip := { c with
      fuses := [(0, { c.fuse 0 with low := skewedRun false, up := skewedRun true, upIn := true })]
      banks := { c.banks with lines := [(lineOf 1 (rxChannel 6 0), ⟨[0], [], []⟩)] } }
    pending := [] }

/-- The next marker on P6, whose stamp trails like those before it. -/
def skewedMarker : FuseMarker := ⟨0, true, 0, ⟨100 * 65536, 0, 0⟩⟩

/-- P6 leaves service, and SEQ 0 counts as lost on the page that port 48 would have. -/
theorem markerRx_strayEarly :
    Store.find (F.port2SeqLost 48 0).key (straySkewState.chip.markerRx 6 skewedMarker).regs
      ≠ Store.find (F.port2SeqLost 48 0).key straySkewState.chip.regs := by
  decide +kernel

/-- Refutes O28: a fuse marker beyond the skew takes P6 out of service, which counts SEQ_LOST of the port on which the waiting
frame arrived, whichever port that is. -/
theorem not_twoShotOrderAndHostRings : ¬ Obligations.TwoShotOrderAndHostRings := by
  unfold Obligations.TwoShotOrderAndHostRings
  intro h
  obtain ⟨-, hmarker, -⟩ := h straySkewState
  obtain ⟨-, -, -, hkeeps, -⟩ := of_runs_done (u := straySkewState.chip.markerRx 6 skewedMarker) rfl
    (hmarker 6 skewedMarker (by decide +kernel) (.inl (by decide +kernel))
      ⟨fun f hf => absurd hf List.not_mem_nil, fun c hc => absurd hc List.not_mem_nil⟩)
  exact markerRx_strayEarly (hkeeps _ (by decide) (by decide))

/-! ### The loss of a lane PLL -/

/-- The link of P0 falls with its lane PLL, and SEQ 0 counts as lost on that page. -/
theorem laneLol_strayEarly :
    Store.find (F.port2SeqLost 48 0).key (strayEarlyState.chip.laneLol 0 0).regs
      ≠ Store.find (F.port2SeqLost 48 0).key strayEarlyState.chip.regs := by
  decide +kernel

/-- Refutes O49: the loss of the lane PLL of P0 counts SEQ_LOST of the port on which the waiting frame arrived, whichever port
that is. -/
theorem not_coreAndLanePllsSwapAndDrop : ¬ Obligations.CoreAndLanePllsSwapAndDrop := by
  unfold Obligations.CoreAndLanePllsSwapAndDrop
  intro h
  obtain ⟨-, -, -, hloses, -⟩ := h strayEarlyState
  obtain ⟨-, -, -, -, hkeeps, -⟩ := of_runs_done (u := strayEarlyState.chip.laneLol 0 0) rfl
    (hloses 0 0 (by decide +kernel) ⟨fun f hf => absurd hf List.not_mem_nil, fun c hc => absurd hc List.not_mem_nil⟩)
  exact laneLol_strayEarly (hkeeps _ (by decide) (by decide))

end Sys2Proof.Machine

/-! A HASH_SEED beyond its 16 bits gives a hash beyond 16 bits, and with it a next hop outside the entry's group, which refutes
O24: its hash is a word of 16 bits (R103). -/

namespace Sys2Proof.Machine

open Sys2Proof.Says

/-- A SWAP entry whose group has one member, next hop 0. -/
def groupOfOneEntry : BitVec 128 := BitVec.ofNat 128 (2 ^ 127 + 2 ^ 112 + 2 ^ 104)

/-- A next hop that leads to subport 0 of P0. -/
def nextHopP0 : BitVec 128 := BitVec.ofNat 128 (2 ^ 127)

/-- The state after reset with the link of P1 up and bit 31 set in the seed; label 16 has that path entry, and next hop 0 is the
only one there is. -/
def wideSeedState : State :=
  let c := Chip.afterReset.setBit (F.port0StatusLinkUp 1) 0 true
  { chip := { c with
      regs := Store.insert F.tblnhHashSeed.key 0x80000000 c.regs
      path := [(16, groupOfOneEntry)], nh := [(0, nextHopP0)] }
    pending := [] }

/-- A frame with label 16 alone, TTL 64. -/
def oneLabelFrame : RxFrame :=
  { port := 1, sub := 0, stamp := ⟨0, 0, 0⟩, len := 100, da := 0, sa := 0, tags := [], etype := 0x8847, esmc := false
    stack := [labelEntry 16 0 64 true], dcw := 0, nibble := 0, preempt := false, smd := .frame, tag := none, fec := 0
    upsets := [], tooLate := false }

/-- The frame is discarded: the next hop that the model takes is not the group's one member. -/
theorem receive_wideSeed : (wideSeedState.chip.receive oneLabelFrame).nextFrame = wideSeedState.chip.nextFrame := by
  decide +kernel

/-- Refutes O24: with HASH_SEED beyond its field, a frame for a group of one next hop is not sent on through it. -/
theorem not_framesAreLookedUp : ¬ Obligations.FramesAreLookedUp := by
  unfold Obligations.FramesAreLookedUp
  intro h
  obtain ⟨-, -, -, hswap, -⟩ := h wideSeedState
  have hcomes : comesTo oneLabelFrame (labelEntry 16 0 64 true) (labelEntry 16 0 64 true) [] wideSeedState.chip := by
    exact ⟨by unfold parsed; decide +kernel, .inr (.inr (by decide +kernel)), by decide, by decide, by decide +kernel, .inl ⟨rfl, rfl⟩⟩
  obtain ⟨-, hsends, -⟩ := hswap oneLabelFrame _ _ [] hcomes (by decide +kernel) (by decide +kernel) (by decide +kernel)
    (by decide +kernel) (.inl (by decide +kernel)) (by decide +kernel)
  obtain ⟨-, hnext, -⟩ := of_runs_done (u := wideSeedState.chip.receive oneLabelFrame) rfl
    (hsends (by unfold leadsOut; decide +kernel) (by decide +kernel))
  exact absurd (receive_wideSeed.symm.trans hnext) (by decide +kernel)

end Sys2Proof.Machine

/-! A marker that takes a group dark passes over the ports that are dark of their own, one whose LINK_UP still reads 1 among
them, which refutes O39. -/

namespace Sys2Proof.Machine

open Sys2Proof.Says

/-- The state after reset with P0 dark and LINK_UP of its subport 0 at 1, and the SET_POWER_STATE of slot 0, which takes group 0
dark, staged; the rate of the next marker is computed. -/
def darkLinkState : State :=
  let c := Chip.afterReset.setBit (F.port0StatusLinkUp 0) 0 true
  { chip := { c with
      power := { c.power with portDark := 1 }
      time := { c.time with nextRate := some 0, nextNumber := 1 }
      mail := { c.mail with slots := [(0, ⟨.ran, 0x43, 0, false, [], 0, []⟩)], staged := [⟨0, .power 1 0 1, stOk, []⟩] } }
    pending := [] }

/-- LINK_UP still reads 1. -/
theorem marker_darkLink : (darkLinkState.chip.marker quietInput).getBit (F.port0StatusLinkUp 0) 0 = true := by
  decide +kernel

/-- Refutes O39: as its group goes dark, a port that was dark already keeps the LINK_UP that it had. -/
theorem not_resetAndPowerCommandsStage : ¬ Obligations.ResetAndPowerCommandsStage := by
  unfold Obligations.ResetAndPowerCommandsStage
  intro h
  obtain ⟨-, -, -, -, -, -, -, -, hdark⟩ := h darkLinkState
  have hreleases : releases ⟨0, .power 1 0 1, stOk, []⟩ 0 darkLinkState.chip := by
    unfold releases quietMarker; decide +kernel
  obtain ⟨-, hgroup, -⟩ := of_runs_done (u := darkLinkState.chip.marker quietInput) rfl
    (hdark quietInput 0 0 1 0 1 [] hreleases
      ⟨fun f hf => absurd hf List.not_mem_nil, fun c hc => absurd hc List.not_mem_nil⟩
      (by decide) (by decide) (by decide) (by decide))
  obtain ⟨-, -, hdown⟩ := hgroup rfl
  exact absurd (marker_darkLink.symm.trans (hdown 0 (by decide) 0 (by decide))) (by decide)

end Sys2Proof.Machine

/-! The steps of a subport's bring-up (R81, R85): O34. -/

namespace Sys2Proof.Machine

open Sys2Proof.Says

/-! ### One subport's link -/

theorem link_setLink_same (s : Chip) (p sub : Nat) (l : Link) : (s.setLink p sub l).link p sub = l := store_read_write_same _ _ _ _

theorem link_setLink_other (s : Chip) {p sub q k : Nat} (l : Link) (h : q * 8 + k ≠ p * 8 + sub) :
    (s.setLink p sub l).link q k = s.link q k :=
  store_read_write_other _ _ _ _ h

theorem linksAs_setLink (s : Chip) {p sub : Nat} (hsub : sub < 8) (l : Link) : (s.setLink p sub l).linksAs s [(p, sub)] := by
  intro q k hk hne
  rw [List.mem_singleton, Prod.mk.injEq] at hne
  exact link_setLink_other s l (by omega)

theorem link_of_links {s t : Chip} (h : t.links = s.links) (p sub : Nat) : t.link p sub = s.link p sub := by
  rw [Chip.link, Chip.link, h]

theorem linksAs_of_links {s t u : Chip} {but : List (Nat × Nat)} (h : t.linksAs s but) (hs : s.links = u.links) :
    t.linksAs u but := fun q sub hsub hne => (h q sub hsub hne).trans (link_of_links hs q sub)

/-! ### Writes of several fields, one after another -/

/-- The block after writes of fields with their values. -/
def Chip.writes (s : Chip) (l : List (Fld × Nat)) : Chip := l.foldl (fun c x => c.setN x.1 x.2) s

theorem keeps_writes (l : List (Fld × Nat)) : ∀ s : Chip, s.keeps (s.writes l) (l.map Prod.fst) := by
  induction l with
  | nil => exact fun s => keeps_refl s _
  | cons x l ih => exact fun s => keeps_trans (keeps_setN s x.1 x.2) (ih _)

theorem writes_cons (s : Chip) (x : Fld × Nat) (l : List (Fld × Nat)) : s.writes (x :: l) = (s.setN x.1 x.2).writes l := rfl

theorem writes_append (s : Chip) (l m : List (Fld × Nat)) : s.writes (l ++ m) = (s.writes l).writes m := List.foldl_append

theorem noRegs_writes (l : List (Fld × Nat)) : ∀ s : Chip, (s.writes l).noRegs = s.noRegs := by
  induction l with
  | nil => exact fun s => rfl
  | cons x l ih =>
    intro s
    rw [writes_cons, ih, noRegs_setN]

/-- A field that no write names reads as it did. -/
theorem getN_writes_other {f : Fld} (l : List (Fld × Nat)) (h : ∀ x ∈ l, f.key ≠ x.1.key) :
    ∀ s : Chip, (s.writes l).getN f = s.getN f := by
  induction l with
  | nil => exact fun s => rfl
  | cons x l ih =>
    obtain ⟨hx, hl⟩ := List.forall_mem_cons.1 h
    exact fun s => (ih hl _).trans (getN_setN_other s x.1 f x.2 hx)

/-- Each of several fields with keys of their own reads what was written to it. -/
theorem getN_writes {f : Fld} {v : Nat} (hw : f.width ≤ 32) (l : List (Fld × Nat)) (hkeys : (l.map (fun x => x.1.key)).Nodup)
    (hmem : (f, v) ∈ l) : ∀ s : Chip, (s.writes l).getN f = v % 2 ^ f.width := by
  induction l with
  | nil => exact absurd hmem List.not_mem_nil
  | cons x l ih =>
    intro s
    obtain ⟨hx, hl⟩ := List.nodup_cons.1 hkeys
    rcases List.mem_cons.1 hmem with rfl | hmem
    · have hother := getN_writes_other (f := f) l (fun y hy he => hx (List.mem_map.2 ⟨y, hy, he.symm⟩)) (s.setN f v)
      exact hother.trans (getN_setN_same s f v hw)
    · exact ih hl hmem _

/-! ### The trained values of a lane (R81) -/

/-- What training writes for one logical lane. -/
def laneWrites (p k : Nat) (l : TrainedLane) : List (Fld × Nat) :=
  [(F.port1TxeqPost1 p k, bits l.txeq 29 24), (F.port1TxeqMain p k, bits l.txeq 23 18), (F.port1TxeqPre1 p k, bits l.txeq 17 12),
    (F.port1TxeqPre2 p k, bits l.txeq 11 6), (F.port1TxeqPre3 p k, bits l.txeq 5 0),
    (F.port1MapTxPrecode p k, ofBool l.txPrecode), (F.port1MapRxPrecode p k, ofBool l.rxPrecode)]

theorem trainLane_eq (s : Chip) (p k : Nat) (l : TrainedLane) : s.trainLane p k l = s.writes (laneWrites p k l) := rfl

theorem laneWrites_keys (p k : Nat) (l : TrainedLane) : ((laneWrites p k l).map (fun x => x.1.key)).Nodup := by
  simp [laneWrites, Fld.key, F.port1TxeqPost1, F.port1TxeqMain, F.port1TxeqPre1, F.port1TxeqPre2, F.port1TxeqPre3,
    F.port1MapTxPrecode, F.port1MapRxPrecode]
  omega

/-- Every field of a lane stands in its MAP or its TXEQ word. -/
theorem laneWrites_addr {p k : Nat} {l : TrainedLane} :
    ∀ x ∈ laneWrites p k l, x.1.lsb < 32 ∧ (x.1.addr = 0x02001000 + p * 0x10000 + 0x40 + k * 0xc
      ∨ x.1.addr = 0x02001000 + p * 0x10000 + 0x44 + k * 0xc) := by
  simp [laneWrites, F.port1TxeqPost1, F.port1TxeqMain, F.port1TxeqPre1, F.port1TxeqPre2, F.port1TxeqPre3,
    F.port1MapTxPrecode, F.port1MapRxPrecode]

theorem laneWrites_width {p k : Nat} {l : TrainedLane} : ∀ x ∈ laneWrites p k l, x.1.width ≤ 32 := by
  simp [laneWrites, F.port1TxeqPost1, F.port1TxeqMain, F.port1TxeqPre1, F.port1TxeqPre2, F.port1TxeqPre3,
    F.port1MapTxPrecode, F.port1MapRxPrecode]

/-- The fields of two lanes have keys of their own. -/
theorem laneWrites_disjoint {p k k' : Nat} {l l' : TrainedLane} (h : k ≠ k') {x y : Fld × Nat} (hx : x ∈ laneWrites p k l)
    (hy : y ∈ laneWrites p k' l') : x.1.key ≠ y.1.key := by
  have hax := laneWrites_addr x hx
  have hay := laneWrites_addr y hy
  unfold Fld.key
  omega

/-- What training writes for several lanes, each with its number. -/
def lanesWrites (p first : Nat) (l : List (TrainedLane × Nat)) : List (Fld × Nat) :=
  l.flatMap (fun x => laneWrites p (first + x.2) x.1)

theorem trainLanes_eq (p first : Nat) (l : List (TrainedLane × Nat)) :
    ∀ s : Chip, l.foldl (fun u x => u.trainLane p (first + x.2) x.1) s = s.writes (lanesWrites p first l) := by
  induction l with
  | nil => exact fun s => rfl
  | cons x l ih =>
    intro s
    rw [List.foldl_cons, ih, trainLane_eq, ← writes_append]
    rfl

theorem lanesWrites_keys (p first : Nat) {l : List (TrainedLane × Nat)} (h : (l.map Prod.snd).Nodup) :
    ((lanesWrites p first l).map (fun x => x.1.key)).Nodup := by
  induction l with
  | nil => exact List.nodup_nil
  | cons x l ih =>
    obtain ⟨hx, hl⟩ := List.nodup_cons.1 h
    rw [lanesWrites, List.flatMap_cons, List.map_append, List.nodup_append]
    refine ⟨laneWrites_keys _ _ _, ih hl, fun a ha b hb => ?_⟩
    obtain ⟨y, hy, rfl⟩ := List.mem_map.1 ha
    obtain ⟨z, hz, rfl⟩ := List.mem_map.1 hb
    obtain ⟨m, hm, hzm⟩ := List.mem_flatMap.1 hz
    have hne : first + x.2 ≠ first + m.2 := fun he => hx (List.mem_map.2 ⟨m, hm, (Nat.add_left_cancel he).symm⟩)
    exact laneWrites_disjoint hne hy hzm

/-- Lanes numbered below 8 have their fields on page 1 of their port. -/
theorem lanesWrites_page {p first : Nat} {l : List (TrainedLane × Nat)} (h : ∀ x ∈ l, first + x.2 < 8) :
    ∀ y ∈ lanesWrites p first l, y.1.key / 131072 = 0x2001 + p * 16 := by
  intro y hy
  obtain ⟨x, hx, hyx⟩ := List.mem_flatMap.1 hy
  have hlane := h x hx
  have haddr := laneWrites_addr y hyx
  unfold Fld.key
  omega

theorem keepsOff_writes {l : List (Fld × Nat)} {pages : Nat → Bool} (h : ∀ x ∈ l, pages (x.1.key / 131072) = true) (s : Chip) :
    s.keepsOff (s.writes l) pages := by
  intro k hk hpage
  refine keeps_writes l s k hk (fun g hg he => ?_)
  obtain ⟨x, hx, rfl⟩ := List.mem_map.1 hg
  rw [he, h x hx] at hpage
  exact absurd hpage (by decide)

/-! ### The steps (R81, R85) -/

theorem aligns_holds (p : Fin 48) (sub : Fin 8) (s : State) : aligns p sub s := by
  intro hphase
  refine runs_done (u := s.chip.pcsAligned p sub) rfl ?_
  rw [Chip.pcsAligned, if_neg (not_not_intro hphase)]
  exact ⟨link_setLink_same _ _ _ _, linksAs_setLink _ sub.isLt _, rfl⟩

theorem anRetries_holds (p : Fin 48) (sub : Fin 8) (s : State) : anRetries p sub s := by
  intro hphase
  refine runs_done (u := s.chip.anAgain p sub) rfl ?_
  rw [Chip.anAgain, if_neg (not_not_intro hphase)]
  exact ⟨link_setLink_same _ _ _ _, linksAs_setLink _ sub.isLt _, rfl⟩

theorem anFails_holds (p : Fin 48) (sub : Fin 8) (s : State) : anFails p sub s := by
  intro hphase
  refine runs_done (u := s.chip.anFails p sub) rfl ?_
  rw [Chip.anFails, if_neg (not_not_intro hphase)]
  obtain ⟨r, hr⟩ := bump_withRegs (s.chip.setLink p sub { s.chip.link p sub with phase := .anWait }) (F.port2AnFail p sub)
  have hlinks : ((s.chip.setLink p sub { s.chip.link p sub with phase := .anWait }).bump (F.port2AnFail p sub)).links
      = (s.chip.setLink p sub { s.chip.link p sub with phase := .anWait }).links := by rw [hr]; rfl
  have hregs : s.chip.keeps (s.chip.setLink p sub { s.chip.link p sub with phase := .anWait }) [] := keeps_of_regs _ rfl
  have hoff : (F.port2AnFail p.val sub.val).offProbes := Fld.offProbes.of ⟨by omega, by omega⟩
  exact ⟨(link_of_links hlinks _ _).trans (link_setLink_same _ _ _ _),
    fun q k hk hne => (link_of_links hlinks q k).trans (linksAs_setLink _ sub.isLt _ q k hk hne),
    counted_bump_after rfl hoff rfl hregs (Fld.notIn_nil _), keeps_trans hregs (keeps_bump _ _), by rw [hr]; rfl⟩

/-- The lanes of a subport that the mode has are lanes of the port. -/
theorem lane_lt {sub split i : Nat} (hsub : sub < 2 ^ split) (hi : i < 8 / 2 ^ split) : sub * (8 / 2 ^ split) + i < 8 := by
  have hall : 2 ^ split * (8 / 2 ^ split) ≤ 8 := Nat.mul_div_le 8 _
  have hmine : (sub + 1) * (8 / 2 ^ split) ≤ 2 ^ split * (8 / 2 ^ split) := Nat.mul_le_mul_right _ hsub
  rw [Nat.succ_mul] at hmine
  omega

/-- Every lane reads its trained values. -/
theorem getN_lanesWrites {p first : Nat} {l : List (TrainedLane × Nat)} (hl : (l.map Prod.snd).Nodup) {x : TrainedLane × Nat}
    (hx : x ∈ l) {f : Fld} {v : Nat} (hmem : (f, v) ∈ laneWrites p (first + x.2) x.1) (s : Chip) :
    (s.writes (lanesWrites p first l)).getN f = v % 2 ^ f.width :=
  getN_writes (laneWrites_width _ hmem) _ (lanesWrites_keys p first hl) (List.mem_flatMap.2 ⟨x, hx, hmem⟩) s

theorem bits_mod_six (w : Word) (k : Nat) : bits w (k + 5) k % 2 ^ 6 = bits w (k + 5) k := by
  unfold bits
  rw [Nat.add_sub_cancel_left, Nat.mod_mod]

theorem flag_of_getN_ofBool {s : Chip} {f : Fld} {b : Bool} (h : s.getN f = ofBool b % 2 ^ 1) : s.flag f = b := by
  rw [Chip.flag, h]
  cases b <;> rfl

theorem trains_holds (p : Fin 48) (sub : Fin 8) (lanes : List TrainedLane) (s : State) : trains p sub lanes s := by
  intro hcr hphase hsub
  refine runs_done (u := s.chip.trained p sub lanes) rfl ?_
  generalize hn : 8 / s.chip.subports (s.chip.lowerOf p) = n
  have htrains : s.chip.trained p sub lanes = (s.chip.writes (lanesWrites p (sub * n) (lanes.take n).zipIdx)).setLink p sub
      { (s.chip.writes (lanesWrites p (sub * n) (lanes.take n).zipIdx)).link p sub with phase := .trained } := by
    rw [Chip.trained, hcr, hphase, ← trainLanes_eq, ← hn]
    rfl
  rw [htrains]
  have hnums : ((lanes.take n).zipIdx.map Prod.snd).Nodup := by
    rw [List.zipIdx_map_snd]
    exact List.nodup_range'
  have hlanes : ∀ x ∈ (lanes.take n).zipIdx, sub.val * n + x.2 < 8 := by
    intro x hx
    have hlt : x.2 < n := (List.snd_lt_of_mem_zipIdx hx).trans_le (by simp)
    rw [← hn] at hlt ⊢
    exact lane_lt hsub hlt
  have hreads : ∀ x ∈ (lanes.take n).zipIdx, ∀ f v, (f, v) ∈ laneWrites p (sub * n + x.2) x.1 →
      (s.chip.writes (lanesWrites p (sub * n) (lanes.take n).zipIdx)).getN f = v % 2 ^ f.width :=
    fun x hx f v hmem => getN_lanesWrites hnums hx hmem s.chip
  have hpages := keepsOff_writes (pages := fun pg => pg == 0x2001 + p.val * 16)
    (fun y hy => beq_iff_eq.2 (lanesWrites_page hlanes y hy)) s.chip
  have hframe := eq_of_noRegs (noRegs_writes (lanesWrites p (sub * n) (lanes.take n).zipIdx) s.chip)
  generalize s.chip.writes (lanesWrites p (sub * n) (lanes.take n).zipIdx) = t at hreads hpages hframe ⊢
  have hlinks : t.links = s.chip.links := by rw [hframe]
  refine ⟨by rw [link_setLink_same], fun x hx => ?_, linksAs_of_links (linksAs_setLink t sub.isLt _) hlinks, hpages, ?_⟩
  · have h := hreads x hx
    exact ⟨(h _ _ (by simp [laneWrites])).trans (bits_mod_six _ 24), (h _ _ (by simp [laneWrites])).trans (bits_mod_six _ 18),
      (h _ _ (by simp [laneWrites])).trans (bits_mod_six _ 12), (h _ _ (by simp [laneWrites])).trans (bits_mod_six _ 6),
      (h _ _ (by simp [laneWrites])).trans (bits_mod_six _ 0), flag_of_getN_ofBool (h _ _ (by simp [laneWrites])),
      flag_of_getN_ofBool (h _ _ (by simp [laneWrites]))⟩
  · rw [hframe]
    rfl

/-- Settles O34: each row of bring-up moves its own subport's link by one step, and training writes that subport's lanes. -/
theorem bringUpStepsInOrder : Obligations.BringUpStepsInOrder := fun s =>
  ⟨fun p sub => aligns_holds p sub s, fun p sub lanes => trains_holds p sub lanes s, fun p sub => anFails_holds p sub s,
    fun p sub => anRetries_holds p sub s⟩

end Sys2Proof.Machine

/-!
## O4: frames stay within the ports, subports and classes there are

First the rules of the pipeline: what an operation that moves no frame leaves of it, one rule per operation, in the order of
the model's parts. Then the operations that do move frames and cells, each of which keeps them in range. Last the step.
-/

namespace Sys2Proof.Machine

/-- The pipeline of t is that of s: the same frames, and the same cells that cross. Reducible, so that simp takes each half
of a lemma about it as a rule of its own. -/
@[simp] abbrev Chip.pipesAs (t s : Chip) : Prop := t.frames = s.frames ∧ t.fab.crossing = s.fab.crossing

/-- A fold whose every step keeps the pipeline of the chip in its state keeps it. -/
theorem foldl_pipe_of {β γ : Type} (chip : γ → Chip) {g : γ → β → γ} (h : ∀ c b, (chip (g c b)).pipesAs (chip c))
    (l : List β) : ∀ c : γ, (chip (l.foldl g c)).pipesAs (chip c) := by
  induction l with
  | nil => exact fun c => ⟨rfl, rfl⟩
  | cons b l ih => exact fun c => ⟨(ih _).1.trans (h c b).1, (ih _).2.trans (h c b).2⟩

@[simp] theorem foldl_pipe {β : Type} {g : Chip → β → Chip} (h : ∀ t b, (g t b).pipesAs t) (l : List β) (s : Chip) :
    (l.foldl g s).pipesAs s :=
  foldl_pipe_of id h l s

@[simp] theorem ite_frames {c : Prop} [Decidable c] (s t : Chip) :
    (if c then s else t).frames = if c then s.frames else t.frames := apply_ite Chip.frames c s t

@[simp] theorem ite_fab {c : Prop} [Decidable c] (s t : Chip) :
    (if c then s else t).fab = if c then s.fab else t.fab := apply_ite Chip.fab c s t

@[simp] theorem ite_crossing {c : Prop} [Decidable c] (s t : Fabric) :
    (if c then s else t).crossing = if c then s.crossing else t.crossing := apply_ite Fabric.crossing c s t

@[simp] theorem set_pipe (s : Chip) (f : Fld) (v : Word) : (s.set f v).pipesAs s := ⟨rfl, rfl⟩

section
variable (s : Chip)

/-! ### Ops -/

@[simp] theorem setMax_pipe (f : Fld) (v : Nat) : (s.setMax f v).pipesAs s := by simp [Chip.setMax]

@[simp] theorem pageFault_pipe (k pg : Nat) : (s.pageFault k pg).pipesAs s := by simp [Chip.pageFault]

@[simp] theorem addSat_pipe (f : Fld) (n : Nat) : (s.addSat f n).pipesAs s := by simp [Chip.addSat]

@[simp] theorem countSat_pipe (f : Fld) (n : Nat) : (s.countSat f n).pipesAs s := by simp [Chip.countSat]

@[simp] theorem show_pipe (f : Fld) (v : Nat) : (s.show f v).pipesAs s := by simp [Chip.show]

@[simp] theorem showB_pipe (f : Fld) (v : Bool) : (s.showB f v).pipesAs s := by simp [Chip.showB]

@[simp] theorem resetPages_pipe (mask : Nat) (acts : Nat → Bool) : (s.resetPages mask acts).pipesAs s := by simp [Chip.resetPages]

@[simp] theorem setLink_pipe (p sub : Nat) (l : Link) : (s.setLink p sub l).pipesAs s := by simp [Chip.setLink]

@[simp] theorem freeCells_pipe (o n : Nat) : (s.freeCells o n).pipesAs s := by simp [Chip.freeCells]

@[simp] theorem breakPromise_pipe (f : Frame) (ctr : Nat → Nat → Fld) : (s.breakPromise f ctr).pipesAs s := by
  simp [Chip.breakPromise]

@[simp] theorem setSched_pipe (p : Nat) (t : Sched) : (s.setSched p t).pipesAs s := by simp [Chip.setSched]

@[simp] theorem passClocks_pipe (n : Nat) : (s.passClocks n).pipesAs s := by simp [Chip.passClocks]

@[simp] theorem passTime_pipe (n : Nat) : (s.passTime n).pipesAs s := by simp [Chip.passTime]

@[simp] theorem elapse_pipe (n : Nat) : (s.elapse n).pipesAs s := by simp [Chip.elapse]

@[simp] theorem setCand_pipe (c : Nat) (x : CandState) : (s.setCand c x).pipesAs s := by simp [Chip.setCand]

@[simp] theorem slotsLoseLink_pipe (p sub : Nat) : (s.slotsLoseLink p sub).pipesAs s := by simp [Chip.slotsLoseLink]

@[simp] theorem slotsLoseAnnounce_pipe (n : Nat) : (s.slotsLoseAnnounce n).pipesAs s := by simp [Chip.slotsLoseAnnounce]

@[simp] theorem calUpset_pipe (cause : Nat) (applies : Nat → Nat → Bool) : (s.calUpset cause applies).pipesAs s := by
  unfold Chip.calUpset
  (repeat' split) <;> simp

@[simp] theorem markWorn_pipe (i : Nat) : (s.markWorn i).pipesAs s := by simp [Chip.markWorn]

@[simp] theorem queueCommit_pipe (i : Nat) (v : Word) : (s.queueCommit i v).pipesAs s := by simp [Chip.queueCommit]

/-! ### Stamps -/

@[simp] theorem slate_pipe (kind index flags : Nat) (stamp : Raw) : (s.slate kind index flags stamp).1.pipesAs s := by
  simp [Chip.slate]

@[simp] theorem slateIsLost_pipe (kind index : Nat) : (s.slateIsLost kind index).pipesAs s := by simp [Chip.slateIsLost]

@[simp] theorem addKib_pipe (f : Fld) (bytes : Nat) : (s.addKib f bytes).pipesAs s := by simp [Chip.addKib]

@[simp] theorem countSent_pipe (m sub len : Nat) : (s.countSent m sub len).pipesAs s := by simp [Chip.countSent]

@[simp] theorem emit_pipe (m sub : Nat) (a : LineStamp) (f : BitVec 128 → Sent) : (s.emit m sub a f).pipesAs s := by
  simp [Chip.emit]

@[simp] theorem emitMac_pipe (m sub : Nat) (dmac : BitVec 48) (etype : BitVec 16) (b : SentBody) :
    (s.emitMac m sub dmac etype b).pipesAs s := by
  simp [Chip.emitMac]

/-! ### Promise -/

@[simp] theorem setGate_pipe (p : Nat) (g : Gate) : (s.setGate p g).pipesAs s := by simp [Chip.setGate]

@[simp] theorem setBounds_pipe (p sub : Nat) (b : List Nat) : (s.setBounds p sub b).pipesAs s := by simp [Chip.setBounds]

@[simp] theorem rebound_pipe (p sub : Nat) : (s.rebound p sub).pipesAs s := by simp [Chip.rebound]

@[simp] theorem reboundPort_pipe (p : Nat) : (s.reboundPort p).pipesAs s := by simp [Chip.reboundPort]

@[simp] theorem syncLedger_pipe (p sub : Nat) : (s.syncLedger p sub).pipesAs s := by simp [Chip.syncLedger]

/-! ### Lookup -/

@[simp] theorem setTable_pipe (w : Nat) (t : Store (BitVec 128)) : (s.setTable w t).pipesAs s := by simp [Chip.setTable]

@[simp] theorem putEntry_pipe (w i : Nat) (v : BitVec 128) : (s.putEntry w i v).pipesAs s := by simp [Chip.putEntry]

@[simp] theorem meetUpset_pipe (h : ScrubHit) : (s.meetUpset h).pipesAs s := by simp [Chip.meetUpset]

@[simp] theorem readMeets_pipe (hits : List ScrubHit) (w i : Nat) : (s.readMeets hits w i).pipesAs s := by simp [Chip.readMeets]

@[simp] theorem setDesc_pipe (n k w : Nat) (v : Word) : (s.setDesc n k w v).pipesAs s := by simp [Chip.setDesc]

@[simp] theorem ringAdvance_pipe (n : Nat) : (s.ringAdvance n).pipesAs s := by
  have counted : ((s.setN (F.ringHead n) ((s.getN (F.ringHead n) + 1) % s.ringSize n)).bump (F.ringFrames n)).pipesAs s := by
    simp
  have raised : ∀ t : Chip, t.pipesAs s → (if t.flag (F.ringCtrlIrqEn n) then t.raise n else t).pipesAs s := by
    intro t ht
    split <;> simp [ht]
  exact raised _ counted

@[simp] theorem toRing_pipe (n p sub len : Nat) (late : Bool) : (s.toRing n p sub len late).pipesAs s := by simp [Chip.toRing]

@[simp] theorem viaNextHop_pipe (f : RxFrame) (nhIndex : Nat) (stack : List (BitVec 32)) (etype : BitVec 16)
    (under : List (BitVec 16 × BitVec 16)) (len cls : Nat) (bind : Nat → Nat → Option Nat × Bool) :
    (s.viaNextHop f nhIndex stack etype under len cls bind).1.pipesAs s := by
  unfold Chip.viaNextHop
  dsimp only
  (repeat' split) <;> simp

@[simp] theorem detnet_pipe (hits : List ScrubHit) (p i : Nat) (dcw : BitVec 32) (deep : Bool) :
    (s.detnet hits p i dcw deep).pipesAs s := by
  simp [Chip.detnet]

@[simp] theorem finish_pipe (f : RxFrame) (fromHost : Bool) (e : BitVec 128) (stack : List (BitVec 32)) (etype : BitVec 16) :
    (s.finish f fromHost e stack etype).1.pipesAs s := by
  unfold Chip.finish
  dsimp only
  (repeat' split) <;> simp

@[simp] theorem endOfStack_pipe (p : Nat) : (s.endOfStack p).1.pipesAs s := by simp [Chip.endOfStack]

@[simp] theorem exposePayload_pipe (f : RxFrame) (fromHost : Bool) (e : BitVec 128) :
    (s.exposePayload f fromHost e).1.pipesAs s := by
  unfold Chip.exposePayload
  (repeat' split) <;> simp

theorem ite_pipe {α : Type} {c : Prop} [Decidable c] {a b : Chip × α} (ha : a.1.pipesAs s) (hb : b.1.pipesAs s) :
    (if c then a else b).1.pipesAs s := by
  split
  · exact ha
  · exact hb

@[simp] theorem pathLookup_pipe (f : RxFrame) (fromHost : Bool) (top : BitVec 32) (left seen : Nat)
    (l : List (BitVec 32)) : (s.pathLookup f fromHost top left seen l).1.pipesAs s := by
  induction l generalizing s left seen with
  | nil => simp [Chip.pathLookup]
  | cons cur rest ih =>
    unfold Chip.pathLookup
    extract_lets p q i s' e act t tc cls labels
    have hs : s'.pipesAs s := by simp [s']
    clear_value p q i s' e act t tc cls labels
    refine ite_pipe s hs (ite_pipe s (by simp [hs]) (ite_pipe s hs (ite_pipe s hs (ite_pipe s (by simp [hs])
      (ite_pipe s (by simp [hs]) (ite_pipe s ?pop (ite_pipe s (by simp [hs]) (ite_pipe s (by simp [hs]) ?under))))))))
    case pop => cases left <;> simp [apply_ite Prod.fst, ih, hs]
    case under => cases rest <;> simp [apply_ite Prod.fst, hs]

@[simp] theorem nonMpls_pipe (f : RxFrame) : (s.nonMpls f).1.pipesAs s := by
  unfold Chip.nonMpls
  dsimp only
  (repeat' split) <;> simp

@[simp] theorem lookup_pipe (f : RxFrame) (fromHost : Bool) : (s.lookup f fromHost).1.pipesAs s := by
  unfold Chip.lookup
  dsimp only
  (repeat' split) <;> simp

@[simp] theorem setFuse_pipe (p : Nat) (x : Fuse) : (s.setFuse p x).pipesAs s := by simp [Chip.setFuse]

@[simp] theorem recordEarly_pipe (p : Nat) (t : TsTag) (f : RxFrame) (v : Verdict) : (s.recordEarly p t f v).pipesAs s := by
  simp [Chip.recordEarly]

@[simp] theorem skipNumber_pipe (v : Verdict) : (s.skipNumber v).pipesAs s := by
  cases v <;> simp [Chip.skipNumber]

/-! ### Fabric -/

@[simp] theorem bucketTake_pipe (i bytes : Nat) : (s.bucketTake i bytes).pipesAs s := by simp [Chip.bucketTake]

@[simp] theorem bucketReturn_pipe (i bytes : Nat) : (s.bucketReturn i bytes).pipesAs s := by simp [Chip.bucketReturn]

@[simp] theorem oversize_pipe (id : Nat) (r : Tail) : (s.oversize id r).pipesAs s := by simp [Chip.oversize]

@[simp] theorem tailRecord_pipe (id : Nat) : (s.tailRecord id).pipesAs s := by
  unfold Chip.tailRecord
  (repeat' split) <;> simp

@[simp] theorem limitWrite_pipe (o c v : Nat) : (s.limitWrite o c v).pipesAs s := by simp [Chip.limitWrite]

@[simp] theorem setLimits_pipe (o v : Nat) : (s.setLimits o v).pipesAs s := by simp [Chip.setLimits]

@[simp] theorem setStoreFree_pipe (k n : Nat) : (s.setStoreFree k n).pipesAs s := by simp [Chip.setStoreFree]

@[simp] theorem startSweep_pipe (k : Nat) : (s.startSweep k).pipesAs s := by simp [Chip.startSweep]

@[simp] theorem auditStore_pipe (k : Nat) : (s.auditStore k).pipesAs s := by simp [Chip.auditStore]

@[simp] theorem leak_pipe (k n : Nat) : (s.leak k n).pipesAs s := by simp [Chip.leak]

@[simp] theorem double_pipe (k n : Nat) : (s.double k n).pipesAs s := by simp [Chip.double]

@[simp] theorem driftStore_pipe (d : Fin 96 × Int) : (s.driftStore d).pipesAs s := by simp [Chip.driftStore]

@[simp] theorem audit_pipe (drift : List (Fin 96 × Int)) : (s.audit drift).pipesAs s := by simp [Chip.audit]

@[simp] theorem mismatch_pipe : (s.mismatch).pipesAs s := by simp [Chip.mismatch]

@[simp] theorem fence_pipe (isB : Bool) : (s.fence isB).pipesAs s := by simp [Chip.fence]

@[simp] theorem reloadReplica_pipe : (s.reloadReplica).pipesAs s := by simp [Chip.reloadReplica]

@[simp] theorem sweepDone_pipe (k : Nat) : (s.sweepDone k).pipesAs s := by simp [Chip.sweepDone]

@[simp] theorem inject_pipe (a b : Bool) : (s.inject a b).pipesAs s := by simp [Chip.inject]

/-! ### Tx -/

@[simp] theorem nodeEcc_pipe (q : Nat) (k : Nat) (e : Ecc) : (s.nodeEcc q k e).pipesAs s := by
  unfold Chip.nodeEcc
  (repeat' split) <;> simp

@[simp] theorem freeEcc_pipe (f : Frame) (upper : Bool) (e : Ecc) : (s.freeEcc f upper e).pipesAs s := by
  unfold Chip.freeEcc
  (repeat' split) <;> simp

@[simp] theorem takeSeq_pipe (q : Nat) (express : Bool) : (s.takeSeq q express).pipesAs s := by simp [Chip.takeSeq]

@[simp] theorem readCells_pipe (n : Nat) (l : List Ecc) : (s.readCells n l).1.pipesAs s := by
  induction l generalizing s n with
  | nil => simp [Chip.readCells]
  | cons x l ih => cases x <;> simp [Chip.readCells, ih]

@[simp] theorem takeBoundary_pipe (p : Nat) : (s.takeBoundary p).pipesAs s := by simp [Chip.takeBoundary]

@[simp] theorem gateEvent_pipe (p : Nat) (ecc : Ecc) : (s.gateEvent p ecc).pipesAs s := by
  unfold Chip.gateEvent
  (repeat' split) <;> simp

@[simp] theorem syncTake_pipe (p : Nat) : (s.syncTake p).pipesAs s := by simp [Chip.syncTake]

@[simp] theorem cutOver_pipe (p : Nat) : (s.cutOver p).pipesAs s := by
  unfold Chip.cutOver
  dsimp only
  (repeat' split) <;> simp

@[simp] theorem stepGate_pipe (p old : Nat) : (s.stepGate p old).pipesAs s := by simp [Chip.stepGate]

@[simp] theorem shadowEcc_pipe (p : Nat) (x : Fin 256 × Ecc) : (s.shadowEcc p x).pipesAs s := by
  unfold Chip.shadowEcc
  (repeat' split) <;> simp

@[simp] theorem showTree_pipe (p : Nat) (failure : Option (Nat × Nat × Nat)) : (s.showTree p failure).pipesAs s := by
  unfold Chip.showTree
  (repeat' split) <;> simp

@[simp] theorem treeChecked_pipe (p : Nat) (upsets : List (Fin 256 × Ecc)) : (s.treeChecked p upsets).pipesAs s := by
  unfold Chip.treeChecked
  dsimp only
  (repeat' split) <;> simp

@[simp] theorem resetTree_pipe (p n : Nat) : (s.resetTree p n).pipesAs s := by simp [Chip.resetTree]

@[simp] theorem resetGate_pipe (p : Nat) : (s.resetGate p).pipesAs s := by simp [Chip.resetGate]

/-! ### Ports -/

@[simp] theorem restartSessions_pipe (test : BitVec 256 → Bool) : (s.restartSessions test).pipesAs s := by
  simp [Chip.restartSessions]

@[simp] theorem modeHeld_pipe (p : Nat) : (s.modeHeld p).pipesAs s := by simp [Chip.modeHeld]

@[simp] theorem changeFuse_pipe (p : Nat) (on : Bool) : (s.changeFuse p on).pipesAs s := by simp [Chip.changeFuse]

@[simp] theorem applyMode_pipe (p : Nat) (run : Nat × Bool) : (s.applyMode p run).pipesAs s := by simp [Chip.applyMode]

@[simp] theorem wakeMode_pipe (p : Nat) : (s.wakeMode p).pipesAs s := by
  unfold Chip.wakeMode
  (repeat' split) <;> simp

@[simp] theorem modeWrite_pipe (p : Nat) (w : Word) : (s.modeWrite p w).pipesAs s := by simp [Chip.modeWrite]

@[simp] theorem maxframeWrite_pipe (p : Nat) (w : Word) : (s.maxframeWrite p w).pipesAs s := by simp [Chip.maxframeWrite]

@[simp] theorem mapWrite_pipe (p k : Nat) (w : Word) : (s.mapWrite p k w).pipesAs s := by simp [Chip.mapWrite]

@[simp] theorem startSub_pipe (p sub : Nat) : (s.startSub p sub).pipesAs s := by simp [Chip.startSub]

@[simp] theorem startSubs_pipe (q : Nat) (which : Nat → Bool) : (s.startSubs q which).pipesAs s := by simp [Chip.startSubs]

@[simp] theorem restart_pipe (q : Nat) : (s.restart q).pipesAs s := by simp [Chip.restart]

@[simp] theorem mergeStop_pipe (m sub : Nat) : (s.mergeStop m sub).pipesAs s := by simp [Chip.mergeStop]

@[simp] theorem mergeStart_pipe (m sub : Nat) : (s.mergeStart m sub).pipesAs s := by simp [Chip.mergeStart]

@[simp] theorem mergeWrite_pipe (p : Nat) (w : Word) : (s.mergeWrite p w).pipesAs s := by simp [Chip.mergeWrite]

@[simp] theorem verifyDone_pipe (p sub : Nat) (ok : Bool) : (s.verifyDone p sub ok).pipesAs s := by simp [Chip.verifyDone]

@[simp] theorem showFuse_pipe (p : Nat) (f : Fld) (v : Bool) : (s.showFuse p f v).pipesAs s := by simp [Chip.showFuse]

@[simp] theorem fuseStatus_pipe (p : Nat) : (s.fuseStatus p).pipesAs s := by simp [Chip.fuseStatus]

@[simp] theorem markerMissed_pipe (p : Nat) : (s.markerMissed p).pipesAs s := by simp [Chip.markerMissed]

@[simp] theorem sendMarker_pipe (p m : Nat) : (s.sendMarker p m).pipesAs s := by simp [Chip.sendMarker]

@[simp] theorem fuseMarkerTime_pipe (p : Nat) : (s.fuseMarkerTime p).pipesAs s := by simp [Chip.fuseMarkerTime]

@[simp] theorem pcsAligned_pipe (m sub : Nat) : (s.pcsAligned m sub).pipesAs s := by simp [Chip.pcsAligned]

@[simp] theorem patternErrors_pipe (p k n : Nat) : (s.patternErrors p k n).pipesAs s := by simp [Chip.patternErrors]

@[simp] theorem trainLane_pipe (p k : Nat) (l : TrainedLane) : (s.trainLane p k l).pipesAs s := by simp [Chip.trainLane]

@[simp] theorem trained_pipe (p sub : Nat) (lanes : List TrainedLane) : (s.trained p sub lanes).pipesAs s := by
  simp [Chip.trained]

@[simp] theorem anFails_pipe (p sub : Nat) : (s.anFails p sub).pipesAs s := by simp [Chip.anFails]

@[simp] theorem anAgain_pipe (p sub : Nat) : (s.anAgain p sub).pipesAs s := by simp [Chip.anAgain]

/-! ### Time -/

@[simp] theorem setWide_pipe (lo hi : Fld) (v : Nat) : (s.setWide lo hi v).pipesAs s := by simp [Chip.setWide]

@[simp] theorem refreshValid_pipe : (s.refreshValid).pipesAs s := by simp [Chip.refreshValid]

@[simp] theorem servoState_pipe (st : Nat) : (s.servoState st).pipesAs s := by simp [Chip.servoState]

@[simp] theorem setDolly_pipe (d : Int) (held : Bool) : (s.setDolly d held).pipesAs s := by simp [Chip.setDolly]

@[simp] theorem moveDolly_pipe : (s.moveDolly).pipesAs s := by simp [Chip.moveDolly]

@[simp] theorem recordJump_pipe (src : Nat) (e : Int) : (s.recordJump src e).pipesAs s := by simp [Chip.recordJump]

@[simp] theorem refuse_pipe (src : Nat) (e : Int) : (s.refuse src e).pipesAs s := by simp [Chip.refuse]

@[simp] theorem acceptResult_pipe (src : Nat) (e : Int) : (s.acceptResult src e).1.pipesAs s := by
  unfold Chip.acceptResult
  dsimp only
  (repeat' split) <;> simp

@[simp] theorem checkResult_pipe (src : Nat) (e : Int) : (s.checkResult src e).1.pipesAs s := by
  unfold Chip.checkResult
  (repeat' split) <;> simp

@[simp] theorem slew_pipe (fed : Option Int) : (s.slew fed).pipesAs s := by
  unfold Chip.slew
  (repeat' split) <;> simp

@[simp] theorem noteOffers_pipe : (s.noteOffers).pipesAs s := by simp [Chip.noteOffers]

@[simp] theorem checkDisqualified_pipe : s.checkDisqualified.pipesAs s := by
  refine foldl_pipe (fun t src => ?_) _ s
  split
  · split <;> simp
  · simp

@[simp] theorem servo_pipe : (s.servo).pipesAs s := by
  unfold Chip.servo
  dsimp only
  (repeat' split) <;> simp

@[simp] theorem coastEntry_pipe : (s.coastEntry).pipesAs s := by simp [Chip.coastEntry]

@[simp] theorem countCoast_pipe (dip : Bool) : (s.countCoast dip).pipesAs s := by simp [Chip.countCoast]

@[simp] theorem switchParams_pipe : (s.switchParams).pipesAs s := by simp [Chip.switchParams]

@[simp] theorem keepParams_pipe : (s.keepParams).pipesAs s := by simp [Chip.keepParams]

@[simp] theorem placeMarker_pipe (align : Bool) : (s.placeMarker align).pipesAs s := by simp [Chip.placeMarker]

@[simp] theorem applyStep_pipe (step : Int) : (s.applyStep step).pipesAs s := by simp [Chip.applyStep]

@[simp] theorem stepGates_pipe (old : Nat) : (s.stepGates old).pipesAs s := by simp [Chip.stepGates]

@[simp] theorem gateLoss_pipe : (s.gateLoss).pipesAs s := by simp [Chip.gateLoss]

@[simp] theorem convert_pipe : (s.convert).pipesAs s := by simp [Chip.convert]

@[simp] theorem convertDone_pipe : (s.convertDone).pipesAs s := by
  unfold Chip.convertDone
  (repeat' split) <;> simp

@[simp] theorem overrun_pipe : (s.overrun).pipesAs s := by simp [Chip.overrun]

@[simp] theorem gafferOverrun_pipe : (s.gafferOverrun).pipesAs s := by simp [Chip.gafferOverrun]

/-! ### Sessions -/

@[simp] theorem putSession_pipe (n : Nat) (x : Session) : (s.putSession n x).pipesAs s := by simp [Chip.putSession]

@[simp] theorem speidPair_pipe (x : Session) (v : Int × Int) : (s.speidPair x v).1.pipesAs s := by
  unfold Chip.speidPair
  dsimp only
  (repeat' split) <;> simp

@[simp] theorem pairDone_pipe (x : Session) (up : Bool) : (s.pairDone x up).1.pipesAs s := by
  unfold Chip.pairDone
  dsimp only
  (repeat' split) <;> simp

@[simp] theorem scanSpeid_pipe (x : Session) : (s.scanSpeid x).1.pipesAs s := by
  unfold Chip.scanSpeid
  dsimp only
  (repeat' split) <;> simp

@[simp] theorem takeTlv_pipe (x : Session) (t : SpeidTlv) : (s.takeTlv x t).1.pipesAs s := by
  unfold Chip.takeTlv
  dsimp only
  (repeat' split) <;> simp

@[simp] theorem setQueue_pipe (g : Nat) (q : List QMsg) : (s.setQueue g q).pipesAs s := by simp [Chip.setQueue]

@[simp] theorem ptpRx_pipe (m : PtpMsg) : (s.ptpRx m).pipesAs s := by
  unfold Chip.ptpRx
  dsimp only
  (repeat' split) <;> simp

@[simp] theorem memberChange_pipe (x : Session) (up : Bool) : (s.memberChange x up).1.pipesAs s := by
  unfold Chip.memberChange
  (repeat' split) <;> simp

@[simp] theorem handleMsg_pipe (x : Session) (m : PtpMsg) (stamp : Raw) (age : Nat) (up : Bool) :
    (s.handleMsg x m stamp age up).1.pipesAs s := by
  unfold Chip.handleMsg
  (repeat' split) <;> simp

@[simp] theorem handleQueued_pipe (q : QMsg) : (s.handleQueued q).pipesAs s := by
  unfold Chip.handleQueued
  (repeat' split) <;> simp

@[simp] theorem ptpSend_pipe (x : Session) (a : LineStamp) (seqId : BitVec 16) (b : SentBody) :
    (s.ptpSend x a seqId b).pipesAs s := by
  simp [Chip.ptpSend]

@[simp] theorem sendSignaling_pipe (x : Session) (a : LineStamp) : (s.sendSignaling x a).1.pipesAs s := by
  simp [Chip.sendSignaling]

@[simp] theorem sendSync_pipe (x : Session) (a : LineStamp) : (s.sendSync x a).1.pipesAs s := by simp [Chip.sendSync]

@[simp] theorem sendAnnounce_pipe (x : Session) (a : LineStamp) : (s.sendAnnounce x a).1.pipesAs s := by simp [Chip.sendAnnounce]

@[simp] theorem sendDelayReq_pipe (x : Session) (a : LineStamp) : (s.sendDelayReq x a).1.pipesAs s := by simp [Chip.sendDelayReq]

@[simp] theorem sendDelayResp_pipe (x : Session) (a : LineStamp) (q : Asked) : (s.sendDelayResp x a q).pipesAs s := by
  simp [Chip.sendDelayResp]

@[simp] theorem sendIf_pipe (b : Bool) {f : Chip → Session → Chip × Session} (h : ∀ t x, (f t x).1.pipesAs t)
    (c : Chip × Session) : (sendIf b f c).1.pipesAs c.1 := by
  cases b
  · exact ⟨rfl, rfl⟩
  · exact h c.1 c.2

@[simp] theorem sendScheduled_pipe (n : Nat) (a : LineStamp) (c : Chip × Session) (k : Nat) :
    (Chip.sendScheduled n a c k).1.pipesAs c.1 := by
  unfold Chip.sendScheduled
  dsimp only
  split <;> simp

@[simp] theorem sendDue_pipe (n : Nat) (x : Session) (ph : Option PhaseIn) : (s.sendDue n x ph).1.pipesAs s := by
  unfold Chip.sendDue
  dsimp only
  split
  · simp
  · simp [foldl_pipe_of (fun c : Chip × Session => c.1) (fun c k => sendScheduled_pipe n _ c k)]

@[simp] theorem postResult_pipe (n : Nat) (x : Session) : (s.postResult n x).1.pipesAs s := by
  unfold Chip.postResult
  (repeat' split) <;> simp

@[simp] theorem eachSession_pipe (ns : List Nat) {f : Chip → Nat → Session → Chip × Session}
    (h : ∀ t n x, (f t n x).1.pipesAs t) : (s.eachSession ns f).pipesAs s := by
  refine foldl_pipe (fun t n => ?_) ns s
  split
  · exact h t n _
  · simp

@[simp] theorem scanSession_pipe (x : Session) : (s.scanSession x).1.pipesAs s := by
  unfold Chip.scanSession
  (repeat' split) <;> simp

@[simp] theorem latchPhases_pipe (g : Nat) (phases : List PhaseIn) : (s.latchPhases g phases).pipesAs s := by
  simp [Chip.latchPhases]

@[simp] theorem gripWork_pipe (g : Nat) (phases : List PhaseIn) (items : Nat) : (s.gripWork g phases items).pipesAs s := by
  simp [Chip.gripWork]

@[simp] theorem gripOver_pipe (g : Nat) : (s.gripOver g).pipesAs s := by simp [Chip.gripOver]

@[simp] theorem gripClapper_pipe (g : Nat) (phases : List PhaseIn) : (s.gripClapper g phases).pipesAs s := by
  simp [Chip.gripClapper]

@[simp] theorem gripOverrun_pipe (g : Nat) (phases : List PhaseIn) (reached : Nat) :
    (s.gripOverrun g phases reached).pipesAs s := by
  simp [Chip.gripOverrun]

@[simp] theorem gripFault_pipe (g : Nat) : (s.gripFault g).pipesAs s := by simp [Chip.gripFault]

@[simp] theorem gripRestarted_pipe (g : Nat) (phases : List PhaseIn) : (s.gripRestarted g phases).pipesAs s := by
  simp [Chip.gripRestarted]

@[simp] theorem gripMarker_pipe : (s.gripMarker).pipesAs s := by simp [Chip.gripMarker]

@[simp] theorem annTimesOut_pipe (n : Nat) : (s.annTimesOut n).pipesAs s := by
  unfold Chip.annTimesOut
  (repeat' split) <;> simp

@[simp] theorem countSessions_pipe : (s.countSessions).pipesAs s := by simp [Chip.countSessions]

@[simp] theorem openSession_pipe (n : Nat) (cfg : BitVec 256) : (s.openSession n cfg).pipesAs s := by simp [Chip.openSession]

@[simp] theorem closeSession_pipe (n : Nat) : (s.closeSession n).pipesAs s := by simp [Chip.closeSession]

@[simp] theorem sessTrigger_pipe : (s.sessTrigger).pipesAs s := by simp [Chip.sessTrigger]

@[simp] theorem sessMeets_pipe (old : Chip) (upset : Option (BitVec 256)) : (old.sessMeets s upset).pipesAs s := by
  unfold Chip.sessMeets
  split <;> simp

@[simp] theorem loadSess_pipe (v : BitVec 256) : (s.loadSess v).pipesAs s := by simp [Chip.loadSess]

@[simp] theorem sessDone_pipe : (s.sessDone).pipesAs s := by
  unfold Chip.sessDone
  (repeat' split) <;> simp

@[simp] theorem moveLedger_pipe (p sub : Nat) (tx rx : Int) : (s.moveLedger p sub tx rx).pipesAs s := by simp [Chip.moveLedger]

@[simp] theorem setEsmc_pipe (p sub : Nat) (x : EsmcRx) : (s.setEsmc p sub x).pipesAs s := by simp [Chip.setEsmc]

@[simp] theorem esmcSend_pipe (p sub : Nat) (isEvent : Bool) (ql : Nat) : (s.esmcSend p sub isEvent ql).pipesAs s := by
  simp [Chip.esmcSend]

@[simp] theorem esmcInfo_pipe (p sub : Nat) : (s.esmcInfo p sub).pipesAs s := by simp [Chip.esmcInfo]

@[simp] theorem esmcStops_pipe (p : Nat) : (s.esmcStops p).pipesAs s := by simp [Chip.esmcStops]

@[simp] theorem esmcEvent_pipe (p sub : Nat) : (s.esmcEvent p sub).pipesAs s := by
  unfold Chip.esmcEvent
  dsimp only
  (repeat' split) <;> simp

@[simp] theorem esmcRx_pipe (p sub : Nat) (d : EsmcPdu) : (s.esmcRx p sub d).pipesAs s := by
  unfold Chip.esmcRx
  (repeat' split) <;> simp

@[simp] theorem esmcFails_pipe (p sub : Nat) : (s.esmcFails p sub).pipesAs s := by simp [Chip.esmcFails]

/-! ### Refs -/

@[simp] theorem publish_pipe (c : Nat) (f : Int) : (s.publish c f).pipesAs s := by simp [Chip.publish]

@[simp] theorem publishAll_pipe (m : MarkerIn) : (s.publishAll m).pipesAs s := by
  unfold Chip.publishAll
  dsimp only
  rw [Chip.pipesAs, (foldl_pipe (fun u k => ?_) _ _).1, (foldl_pipe (fun u k => ?_) _ _).2]
  · simp
  all_goals
    split
    · split <;> simp
    · simp

@[simp] theorem renewCand_pipe (c : Nat) : (s.renewCand c).pipesAs s := by simp [Chip.renewCand]

@[simp] theorem clearLost_pipe (c : Nat) : (s.clearLost c).pipesAs s := by simp [Chip.clearLost]

@[simp] theorem disqualify_pipe (c k : Nat) : (s.disqualify c k).pipesAs s := by simp [Chip.disqualify]

@[simp] theorem qualify_pipe (lifted : List Nat) (c : Nat) : (s.qualify lifted c).pipesAs s := by
  unfold Chip.qualify
  dsimp only
  (repeat' split) <;> simp

@[simp] theorem holdoffOver_pipe (c : Nat) : (s.holdoffOver c).pipesAs s := by simp [Chip.holdoffOver]

@[simp] theorem activity_pipe (c : Nat) (b : Bool) : (s.activity c b).pipesAs s := by simp [Chip.activity]

@[simp] theorem setCv_pipe (v : Int) : (s.setCv v).pipesAs s := by simp [Chip.setCv]

@[simp] theorem showLoop_pipe : (s.showLoop).pipesAs s := by simp [Chip.showLoop]

@[simp] theorem stageSettles_pipe : (s.stageSettles).pipesAs s := by simp [Chip.stageSettles]

@[simp] theorem enterHoldover_pipe : (s.enterHoldover).pipesAs s := by simp [Chip.enterHoldover]

@[simp] theorem archiveEntry_pipe : (s.archiveEntry).pipesAs s := by simp [Chip.archiveEntry]

@[simp] theorem sampleCv_pipe : (s.sampleCv).pipesAs s := by simp [Chip.sampleCv]

@[simp] theorem waits_pipe (time : Bool) (sel : Option Nat) : (s.waits time sel).pipesAs s := by simp [Chip.waits]

@[simp] theorem waitOver_pipe (c : Nat) : (s.waitOver c).pipesAs s := by simp [Chip.waitOver]

@[simp] theorem freqCut_pipe (old new : Option Nat) : (s.freqCut old new).pipesAs s := by
  unfold Chip.freqCut
  dsimp only
  (repeat' split) <;> simp

@[simp] theorem timeCut_pipe (new : Option Nat) : (s.timeCut new).pipesAs s := by
  unfold Chip.timeCut
  dsimp only
  (repeat' split) <;> simp

@[simp] theorem select_pipe (time : Bool) : (s.select time).pipesAs s := by simp [Chip.select]

@[simp] theorem heldLoop_pipe (lost : Bool) : (s.heldLoop lost).pipesAs s := by
  unfold Chip.heldLoop
  (repeat' split) <;> simp

@[simp] theorem loopCv_pipe (m : MarkerIn) : (s.loopCv m).pipesAs s := by simp [Chip.loopCv]

@[simp] theorem refMarker_pipe (m : MarkerIn) (zero : Bool) (lifted : List Nat) : (s.refMarker m zero lifted).pipesAs s := by
  simp [Chip.refMarker]

@[simp] theorem archTrigger_pipe : (s.archTrigger).pipesAs s := by simp [Chip.archTrigger]

@[simp] theorem archDone_pipe : (s.archDone).pipesAs s := by
  unfold Chip.archDone
  split <;> simp

@[simp] theorem ppsin_pipe (n : Nat) (measured : Raw) : (s.ppsin n measured).pipesAs s := by
  unfold Chip.ppsin
  dsimp only
  split
  · simp
  · rw [Chip.pipesAs, (foldl_pipe (fun u k => ?_) _ _).1, (foldl_pipe (fun u k => ?_) _ _).2]
    · simp
    all_goals (repeat' split) <;> simp

/-! ### Clocks -/

@[simp] theorem showClk_pipe (n : Nat) : (s.showClk n).pipesAs s := by simp [Chip.showClk]

@[simp] theorem clkWrite_pipe (n : Nat) (w : Word) : (s.clkWrite n w).pipesAs s := by simp [Chip.clkWrite]

@[simp] theorem setPulse_pipe (n : Nat) (x : Pulse) : (s.setPulse n x).pipesAs s := by simp [Chip.setPulse]

@[simp] theorem showAlign_pipe (n : Nat) : (s.showAlign n).pipesAs s := by simp [Chip.showAlign]

@[simp] theorem ppsSettle_pipe (n : Nat) (was : Bool) : (s.ppsSettle n was).pipesAs s := by simp [Chip.ppsSettle]

@[simp] theorem ppsWrite_pipe (n reg : Nat) (w : Word) : (s.ppsWrite n reg w).pipesAs s := by simp [Chip.ppsWrite]

@[simp] theorem ppsPulse_pipe (n : Nat) : (s.ppsPulse n).pipesAs s := by simp [Chip.ppsPulse]

@[simp] theorem jumpPulses_pipe (step : Int) : (s.jumpPulses step).pipesAs s := by simp [Chip.jumpPulses]

@[simp] theorem reslateOne_pipe (n : Nat) : (s.reslateOne n).pipesAs s := by simp [Chip.reslateOne]

@[simp] theorem leaveEvclk_pipe : (s.leaveEvclk).pipesAs s := by simp [Chip.leaveEvclk]

@[simp] theorem setPllWait_pipe (k v : Nat) : (s.setPllWait k v).pipesAs s := by simp [Chip.setPllWait]

@[simp] theorem tclkSwitched_pipe : (s.tclkSwitched).pipesAs s := by simp [Chip.tclkSwitched]

@[simp] theorem toFallback_pipe : (s.toFallback).pipesAs s := by simp [Chip.toFallback]

@[simp] theorem masterLol_pipe : (s.masterLol).pipesAs s := by simp [Chip.masterLol]

@[simp] theorem releaseDividers_pipe : (s.releaseDividers).pipesAs s := by simp [Chip.releaseDividers]

@[simp] theorem clocksReturn_pipe : (s.clocksReturn).pipesAs s := by simp [Chip.clocksReturn]

@[simp] theorem phaseCheck_pipe (left : Nat) (l : List Nat) : (s.phaseCheck left l).pipesAs s := by
  induction l generalizing s left with
  | nil => simp [Chip.phaseCheck]
  | cons phi l ih =>
    unfold Chip.phaseCheck
    dsimp only
    (repeat' split) <;> simp [ih]

@[simp] theorem releaseCounter_pipe : (s.releaseCounter).pipesAs s := by simp [Chip.releaseCounter]

@[simp] theorem masterLock_pipe (band : Nat) (phis : List Nat) : (s.masterLock band phis).pipesAs s := by simp [Chip.masterLock]

@[simp] theorem fallbackEnds_pipe : (s.fallbackEnds).pipesAs s := by simp [Chip.fallbackEnds]

@[simp] theorem enterSafeStop_pipe : (s.enterSafeStop).pipesAs s := by simp [Chip.enterSafeStop]

@[simp] theorem setCoreLocked_pipe (pll : Nat) (v : Bool) : (s.setCoreLocked pll v).pipesAs s := by simp [Chip.setCoreLocked]

@[simp] theorem swapCore_pipe : (s.swapCore).pipesAs s := by simp [Chip.swapCore]

@[simp] theorem coreLol_pipe (pll : Nat) : (s.coreLol pll).pipesAs s := by simp [Chip.coreLol]

@[simp] theorem coreChange_pipe : (s.coreChange).pipesAs s := by simp [Chip.coreChange]

@[simp] theorem coreRuns_pipe : (s.coreRuns).pipesAs s := by simp [Chip.coreRuns]

@[simp] theorem standbyLocks_pipe : (s.standbyLocks).pipesAs s := by simp [Chip.standbyLocks]

@[simp] theorem startEnabled_pipe (p : Nat) : (s.startEnabled p).pipesAs s := by simp [Chip.startEnabled]

@[simp] theorem laneRelock_pipe (g k : Nat) : (s.laneRelock g k).pipesAs s := by simp [Chip.laneRelock]

/-! ### Events -/

@[simp] theorem setChannel_pipe (e : Nat) (x : Channel) : (s.setChannel e x).pipesAs s := by simp [Chip.setChannel]

@[simp] theorem useSeq_pipe (e : Nat) : (s.useSeq e).pipesAs s := by simp [Chip.useSeq]

@[simp] theorem eventEdge_pipe (e : Nat) (rising : Bool) (edge tap : Nat) (inSwitch : Bool) :
    (s.eventEdge e rising edge tap inSwitch).pipesAs s := by
  unfold Chip.eventEdge
  dsimp only
  (repeat' split) <;> simp

@[simp] theorem deadTimeEnd_pipe (e : Nat) : (s.deadTimeEnd e).pipesAs s := by
  unfold Chip.deadTimeEnd
  dsimp only
  (repeat' split) <;> simp

@[simp] theorem popSlate_pipe (e : Nat) : (s.popSlate e).1.pipesAs s := by
  unfold Chip.popSlate
  dsimp only
  (repeat' split) <;> simp

@[simp] theorem showStall_pipe (e : Nat) : (s.showStall e).pipesAs s := by simp [Chip.showStall]

@[simp] theorem dmaBatch_pipe (e : Nat) : (s.dmaBatch e).pipesAs s := by simp [Chip.dmaBatch]

@[simp] theorem evCtrlWrite_pipe (e : Nat) (w : Word) : (s.evCtrlWrite e w).pipesAs s := by simp [Chip.evCtrlWrite]

@[simp] theorem dmaRestart_pipe (e : Nat) : (s.dmaRestart e).pipesAs s := by simp [Chip.dmaRestart]

@[simp] theorem tbLoss_pipe (multiplier : Bool) : (s.tbLoss multiplier).pipesAs s := by simp [Chip.tbLoss]

@[simp] theorem tbLock_pipe : (s.tbLock).pipesAs s := by simp [Chip.tbLock]

@[simp] theorem tbReturn_pipe : (s.tbReturn).pipesAs s := by simp [Chip.tbReturn]

@[simp] theorem tbCfgWrite_pipe (w : Word) : (s.tbCfgWrite w).pipesAs s := by simp [Chip.tbCfgWrite]

@[simp] theorem tbMarker_pipe (m : MarkerIn) : (s.tbMarker m).pipesAs s := by simp [Chip.tbMarker]

/-! ### Persist -/

@[simp] theorem commitHead_pipe : (s.commitHead).pipesAs s := by
  unfold Chip.commitHead
  (repeat' split) <;> simp

@[simp] theorem persCommit_pipe : (s.persCommit).pipesAs s := by simp [Chip.persCommit]

@[simp] theorem persistWord_pipe (i : Nat) : (s.persistWord i).pipesAs s := by simp [Chip.persistWord]

@[simp] theorem persistWords_pipe (is : List Nat) : (s.persistWords is).pipesAs s := by simp [Chip.persistWords]

@[simp] theorem strapWrite_pipe (w : Word) : (s.strapWrite w).pipesAs s := by simp [Chip.strapWrite]

@[simp] theorem putWord_pipe (i : Nat) (w : Word) : (s.putWord i w).pipesAs s := by simp [Chip.putWord]

@[simp] theorem loadWord_pipe (e : Nat × Mram) : (s.loadWord e).pipesAs s := by
  unfold Chip.loadWord
  (repeat' split) <;> simp

@[simp] theorem loadBad_pipe (u : MramUpset) : (s.loadBad u).pipesAs s := by simp [Chip.loadBad]

@[simp] theorem tear_pipe : (s.tear).pipesAs s := by
  unfold Chip.tear
  (repeat' split) <;> simp

@[simp] theorem loadCut_pipe (x : PowerUp) : (s.loadCut x).pipesAs s := by simp [Chip.loadCut]

@[simp] theorem loadMram_pipe : (s.loadMram).pipesAs s := by simp [Chip.loadMram]

/-! ### Ageing -/

@[simp] theorem startAvs_pipe (target : Nat) : (s.startAvs target).pipesAs s := by
  unfold Chip.startAvs
  (repeat' split) <;> simp

@[simp] theorem avsReached_pipe (a : AvsChange) : (s.avsReached a).pipesAs s := by simp [Chip.avsReached]

@[simp] theorem avsStep_pipe (readMv : Nat) : (s.avsStep readMv).pipesAs s := by
  unfold Chip.avsStep
  (repeat' split) <;> simp

@[simp] theorem avsMiss_pipe (readMv : Nat) : (s.avsMiss readMv).pipesAs s := by
  unfold Chip.avsMiss
  (repeat' split) <;> simp

@[simp] theorem regStatus_pipe (w : BitVec 16) : (s.regStatus w).pipesAs s := by simp [Chip.regStatus]

@[simp] theorem telemetry_pipe (ts : List RegTelem) : (s.telemetry ts).pipesAs s := by simp [Chip.telemetry]

@[simp] theorem pmbAlert_pipe (ws : List (BitVec 16)) : (s.pmbAlert ws).pipesAs s := by simp [Chip.pmbAlert]

@[simp] theorem oneTemp_pipe (d : Nat) (v : Int) : (s.oneTemp d v).pipesAs s := by simp [Chip.oneTemp]

@[simp] theorem temps_pipe (l : List (Fin 10 × Int)) : (s.temps l).pipesAs s := by simp [Chip.temps]

@[simp] theorem holdHot_pipe : (s.holdHot).pipesAs s := by simp [Chip.holdHot]

@[simp] theorem thermalTrip_pipe : (s.thermalTrip).pipesAs s := by simp [Chip.thermalTrip]

@[simp] theorem sensors_pipe (khz : List (Fin 64 × Nat)) : (s.sensors khz).pipesAs s := by simp [Chip.sensors]

@[simp] theorem releaseRaise_pipe : (s.releaseRaise).pipesAs s := by
  unfold Chip.releaseRaise
  (repeat' split) <;> simp

@[simp] theorem drift_pipe (taps : List (Fin 10 × Nat)) : (s.drift taps).pipesAs s := by simp [Chip.drift]

@[simp] theorem oscHour_pipe : (s.oscHour).pipesAs s := by simp [Chip.oscHour]

@[simp] theorem gafferWrites_pipe (addrs : List Nat) : (gafferWrites addrs s).pipesAs s := by simp [gafferWrites]

@[simp] theorem recordAvs_pipe (set need day : Nat) : (s.recordAvs set need day).pipesAs s := by
  unfold Chip.recordAvs
  dsimp only
  (repeat' split) <;> simp

@[simp] theorem recordOsc_pipe : (s.recordOsc).pipesAs s := by
  unfold Chip.recordOsc
  dsimp only
  (repeat' split) <;> simp

@[simp] theorem plan_pipe (linkMoved : Bool) : (s.plan linkMoved).pipesAs s := by
  unfold Chip.plan
  extract_lets need target set t u seq day g v a b c d e
  have hv : v.pipesAs s := by
    simp only [v, u, t]
    split <;> simp
  have he : e.pipesAs v := by simp [e, d, c, b, a]
  simp [he, hv]

@[simp] theorem planFalls_pipe (linkMoved : Bool) : (s.planFalls linkMoved).pipesAs s := by simp [Chip.planFalls]

@[simp] theorem releasePlan_pipe (zero : Bool) : (s.releasePlan zero).pipesAs s := by
  unfold Chip.releasePlan
  (repeat' split) <;> simp

@[simp] theorem holdAvs_pipe : (s.holdAvs).pipesAs s := by
  unfold Chip.holdAvs
  (repeat' split) <;> simp

@[simp] theorem gafferFails_pipe : (s.gafferFails).pipesAs s := by simp [Chip.gafferFails]

@[simp] theorem gafferTested_pipe (pass : Bool) : (s.gafferTested pass).pipesAs s := by simp [Chip.gafferTested]

@[simp] theorem gafferResumes_pipe : (s.gafferResumes).pipesAs s := by simp [Chip.gafferResumes]

/-! ### Power -/

@[simp] theorem setSlot_pipe (n : Nat) (x : Slot) : (s.setSlot n x).pipesAs s := by simp [Chip.setSlot]

@[simp] theorem firmwareWord_pipe (f : Fld) (v : Word) : (s.firmwareWord f v).pipesAs s := by simp [Chip.firmwareWord]

@[simp] theorem directorWrites_pipe (addrs : List Nat) : (s.directorWrites addrs).pipesAs s := by simp [Chip.directorWrites]

@[simp] theorem complete_pipe (n status : Nat) (results : List Word) : (s.complete n status results).pipesAs s := by
  simp [Chip.complete]

@[simp] theorem abortSlots_pipe (but : Option Nat) : (s.abortSlots but).pipesAs s := by simp [Chip.abortSlots]

@[simp] theorem slotEnds_pipe (test : Slot → Bool) (snap : List Word) : (s.slotEnds test snap).pipesAs s := by
  simp [Chip.slotEnds]

@[simp] theorem logDip_pipe (d : Dip) (us : Nat) : (s.logDip d us).pipesAs s := by simp [Chip.logDip]

@[simp] theorem enterDip_pipe (rail minMv : Nat) : (s.enterDip rail minMv).pipesAs s := by simp [Chip.enterDip]

@[simp] theorem dipEntry_pipe (rail minMv : Nat) : (s.dipEntry rail minMv).pipesAs s := by
  unfold Chip.dipEntry
  (repeat' split) <;> simp

@[simp] theorem endDip_pipe (d : Dip) (us : Nat) : (s.endDip d us).pipesAs s := by simp [Chip.endDip]

@[simp] theorem dipEnds_pipe : (s.dipEnds).pipesAs s := by
  unfold Chip.dipEnds
  (repeat' split) <;> simp

@[simp] theorem leaveDip_pipe : (s.leaveDip).pipesAs s := by
  unfold Chip.leaveDip
  (repeat' split) <;> simp

@[simp] theorem setCause_pipe (cause rail : Nat) : (s.setCause cause rail).pipesAs s := by simp [Chip.setCause]

@[simp] theorem firstSet_pipe : (s.firstSet).pipesAs s := by simp [Chip.firstSet]

@[simp] theorem sampleStraps_pipe (straps : BitVec 16) : (s.sampleStraps straps).pipesAs s := by simp [Chip.sampleStraps]

@[simp] theorem sequence_pipe (x : PowerUp) : (s.sequence x).pipesAs s := by simp [Chip.sequence]

@[simp] theorem railTimeout_pipe (rail : Nat) : (s.railTimeout rail).pipesAs s := by simp [Chip.railTimeout]

@[simp] theorem sequenceAgain_pipe (x : PowerUp) : (s.sequenceAgain x).pipesAs s := by simp [Chip.sequenceAgain]

@[simp] theorem lockTimeout_pipe : (s.lockTimeout).pipesAs s := by simp [Chip.lockTimeout]

@[simp] theorem outputsLow_pipe : (s.outputsLow).pipesAs s := by simp [Chip.outputsLow]

@[simp] theorem xoLost_pipe : (s.xoLost).pipesAs s := by simp [Chip.xoLost]

@[simp] theorem resetRings_pipe : (s.resetRings).pipesAs s := by simp [Chip.resetRings]

@[simp] theorem functionReset_pipe : (s.functionReset).pipesAs s := by simp [Chip.functionReset]

@[simp] theorem flr_pipe : (s.flr).pipesAs s := by simp [Chip.flr]

@[simp] theorem pcieDown_pipe (perst : Bool) : (s.pcieDown perst).pipesAs s := by simp [Chip.pcieDown]

@[simp] theorem pcieUp_pipe : (s.pcieUp).pipesAs s := by simp [Chip.pcieUp]

@[simp] theorem idleCore_pipe : (s.idleCore).pipesAs s := by simp [Chip.idleCore]

@[simp] theorem warmGoes_pipe (straps : BitVec 16) : (s.warmGoes straps).pipesAs s := by simp [Chip.warmGoes]

@[simp] theorem rstRises_pipe (straps : BitVec 16) : (s.rstRises straps).pipesAs s := by simp [Chip.rstRises]

@[simp] theorem coolEnough_pipe (straps : BitVec 16) : (s.coolEnough straps).pipesAs s := by simp [Chip.coolEnough]

@[simp] theorem testPairs_pipe (pass0 pass1 : Bool) : (s.testPairs pass0 pass1).pipesAs s := by simp [Chip.testPairs]

@[simp] theorem startClappers_pipe : (s.startClappers).pipesAs s := by simp [Chip.startClappers]

@[simp] theorem resetEnds_pipe (pass0 pass1 gafferPass : Bool) : (s.resetEnds pass0 pass1 gafferPass).pipesAs s := by
  simp [Chip.resetEnds]

@[simp] theorem forgetSlates_pipe (p : Nat) : (s.forgetSlates p).pipesAs s := by simp [Chip.forgetSlates]

@[simp] theorem forgetEsmc_pipe (p : Nat) : (s.forgetEsmc p).pipesAs s := by simp [Chip.forgetEsmc]

@[simp] theorem pagesFall_pipe (pgs : List Nat) : (s.pagesFall pgs).pipesAs s := by simp [Chip.pagesFall]

@[simp] theorem laneLocks_pipe (g : Nat) (v : Bool) : (s.laneLocks g v).pipesAs s := by simp [Chip.laneLocks]

@[simp] theorem loadDie_pipe (g : Nat) : (s.loadDie g).pipesAs s := by simp [Chip.loadDie]

@[simp] theorem unloadDie_pipe (g : Nat) : (s.unloadDie g).pipesAs s := by simp [Chip.unloadDie]

@[simp] theorem dropDie_pipe (d : Nat) : (s.dropDie d).pipesAs s := by simp [Chip.dropDie]

@[simp] theorem syncPort_pipe (p : Nat) : (s.syncPort p).pipesAs s := by simp [Chip.syncPort]

@[simp] theorem wakeFields_pipe (g : Nat) : (s.wakeFields g).pipesAs s := by simp [Chip.wakeFields]

@[simp] theorem wakeModes_pipe (p : Nat) : (s.wakeModes p).pipesAs s := by simp [Chip.wakeModes]

@[simp] theorem beginWakeGroup_pipe (g : Nat) : (s.beginWakeGroup g).pipesAs s := by simp [Chip.beginWakeGroup]

@[simp] theorem wakeGroup_pipe (g : Nat) : (s.wakeGroup g).pipesAs s := by simp [Chip.wakeGroup]

@[simp] theorem groupReady_pipe (g : Nat) : (s.groupReady g).pipesAs s := by simp [Chip.groupReady]

@[simp] theorem portBack_pipe (p : Nat) : (s.portBack p).pipesAs s := by simp [Chip.portBack]

@[simp] theorem handshake_pipe (pg : Nat) : (s.handshake pg).pipesAs s := by
  unfold Chip.handshake
  (repeat' split) <;> simp

@[simp] theorem darkBits_pipe (q : Nat) (v : Bool) : (s.darkBits q v).pipesAs s := by simp [Chip.darkBits]

@[simp] theorem wakePort_pipe (q : Nat) : (s.wakePort q).pipesAs s := by simp [Chip.wakePort]

@[simp] theorem beginWake_pipe : (s.beginWake).pipesAs s := by simp [Chip.beginWake]

@[simp] theorem leaveStandby_pipe : (s.leaveStandby).pipesAs s := by simp [Chip.leaveStandby]

/-! ### Counters -/

@[simp] theorem freeze_pipe (c : Chip) (number : Nat) (at_ : Raw) : (s.freeze c number at_).pipesAs s := by simp [Chip.freeze]

@[simp] theorem answer1_pipe (data : List Word) (unsupported nack : Bool) : (s.answer1 data unsupported nack).pipesAs s := by
  simp [Chip.answer1]

@[simp] theorem unsupported_pipe : (s.unsupported).pipesAs s := by simp [Chip.unsupported]

@[simp] theorem unanswered_pipe : (s.unanswered).pipesAs s := by simp [Chip.unanswered]

@[simp] theorem bar4Read_pipe (offset count : Nat) : (s.bar4Read offset count).pipesAs s := by simp [Chip.bar4Read]

@[simp] theorem bar4Write_pipe (offset : Nat) : (s.bar4Write offset).pipesAs s := by simp [Chip.bar4Write]

/-! ### Windows -/

@[simp] theorem windowTrigger_pipe (k : Nat) (read write : Bool) : (s.windowTrigger k read write).pipesAs s := by
  simp [Chip.windowTrigger]

@[simp] theorem tblPut_pipe (w : Nat) (o : WinOp) : (s.tblPut w o).pipesAs s := by simp [Chip.tblPut]

@[simp] theorem tblGet_pipe (w : Nat) (o : WinOp) : (s.tblGet w o).1.pipesAs s := by
  unfold Chip.tblGet
  dsimp only
  (repeat' split) <;> simp

@[simp] theorem windowEnds_pipe (k result : Nat) : (s.windowEnds k result).pipesAs s := by simp [Chip.windowEnds]

@[simp] theorem tblDone_pipe (w : Nat) (upset : Option (BitVec 128 × Bool)) : (s.tblDone w upset).pipesAs s := by
  unfold Chip.tblDone
  (repeat' split) <;> simp

@[simp] theorem schdPut_pipe (k p e : Nat) (v : BitVec 128) : (s.schdPut k p e v).pipesAs s := by simp [Chip.schdPut]

@[simp] theorem markSchd_pipe (k p e : Nat) (active : Bool) : (s.markSchd k p e active).pipesAs s := by simp [Chip.markSchd]

@[simp] theorem schdGet_pipe (k : Nat) (o : WinOp) (ecc : Ecc) : (s.schdGet k o ecc).1.pipesAs s := by
  unfold Chip.schdGet
  dsimp only
  (repeat' split) <;> simp

@[simp] theorem schdDone_pipe (k : Nat) (ecc : Ecc) : (s.schdDone k ecc).pipesAs s := by
  unfold Chip.schdDone
  (repeat' split) <;> simp

/-! ### Mail -/

@[simp] theorem slotIgnored_pipe : (s.slotIgnored).pipesAs s := by simp [Chip.slotIgnored]

@[simp] theorem goLost_pipe (n : Nat) : (s.goLost n).pipesAs s := by simp [Chip.goLost]

@[simp] theorem goLatch_pipe (n : Nat) : (s.goLatch n).pipesAs s := by simp [Chip.goLatch]

@[simp] theorem go_pipe (n : Nat) : (s.go n).pipesAs s := by simp [Chip.go]

@[simp] theorem admitFlow_pipe (f : LFlow) (entry : BitVec 128) (bounds : List Nat) : (s.admitFlow f entry bounds).pipesAs s := by
  simp [Chip.admitFlow]

@[simp] theorem releaseFlow_pipe (i : Nat) : (s.releaseFlow i).pipesAs s := by
  unfold Chip.releaseFlow
  (repeat' split) <;> simp

@[simp] theorem pendCut_pipe (p : Nat) (k : Option CutOver) : (s.pendCut p k).pipesAs s := by simp [Chip.pendCut]

@[simp] theorem commitRun_pipe (first count : Nat) : (s.commitRun first count).pipesAs s := by simp [Chip.commitRun]

@[simp] theorem takeStepNow_pipe (step : Int) : (s.takeStepNow step).1.pipesAs s := by simp [Chip.takeStepNow]

@[simp] theorem reslate_pipe (x : Slot) : (s.reslate x).1.pipesAs s := by simp [Chip.reslate]

@[simp] theorem putAsym_pipe (p sub : Nat) (ext asymWord : Word) : (s.putAsym p sub ext asymWord).pipesAs s := by
  simp [Chip.putAsym]

@[simp] theorem powerEnds_pipe (scope i st : Nat) : (s.powerEnds scope i st).pipesAs s := by simp [Chip.powerEnds]

@[simp] theorem enact_pipe (e : Effect) : (s.enact e).pipesAs s := by cases e <;> simp [Chip.enact]

@[simp] theorem view_pipe : (s.view).pipesAs s := by simp [Chip.view]

@[simp] theorem stage1_pipe (n : Nat) (e : StepEnd) : (s.stage1 n e).pipesAs s := by simp [Chip.stage1]

@[simp] theorem runSlot_pipe (n : Nat) : (s.runSlot n).pipesAs s := by simp [Chip.runSlot]

@[simp] theorem directorStep_pipe (op n : Nat) : (s.directorStep op n).pipesAs s := by simp [Chip.directorStep]

@[simp] theorem meetGate_pipe (p : Nat) (u : Fin 1024 × Ecc) : (s.meetGate p u).pipesAs s := by
  unfold Chip.meetGate
  (repeat' split) <;> simp

@[simp] theorem takeRow_pipe (n : Nat) (upsets : List (Fin 1024 × Ecc)) : (s.takeRow n upsets).pipesAs s := by simp [Chip.takeRow]

@[simp] theorem commitRow_pipe (n : Nat) (upsets : List ScrubHit) : (s.commitRow n upsets).pipesAs s := by simp [Chip.commitRow]

@[simp] theorem transitionDone_pipe (n : Nat) : (s.transitionDone n).pipesAs s := by simp [Chip.transitionDone]

@[simp] theorem calBegins_pipe (n : Nat) (x : Slot) (kind : Nat) (before : List Nat) :
    (s.calBegins n x kind before).pipesAs s := by
  unfold Chip.calBegins
  (repeat' split) <;> simp

@[simp] theorem expireLegs_pipe : (s.expireLegs).pipesAs s := by simp [Chip.expireLegs]

@[simp] theorem calCheck_pipe : (s.calCheck).pipesAs s := by
  unfold Chip.calCheck
  (repeat' split) <;> simp

@[simp] theorem calData_pipe (n kind : Nat) (data : CalIn) : (s.calData n kind data).pipesAs s := by
  unfold Chip.calData
  (repeat' split) <;> simp

@[simp] theorem putLink_pipe (ds : List Nat) (n : Nat) : (s.putLink ds n).pipesAs s := by simp [Chip.putLink]

@[simp] theorem calPut_pipe (x : Slot) (target : Nat) (d : CalIn) : (s.calPut x target d).1.pipesAs s := by
  cases d <;> unfold Chip.calPut <;> dsimp only <;> (repeat' split) <;> simp

@[simp] theorem recordCal_pipe (kind : Nat) : (s.recordCal kind).pipesAs s := by simp [Chip.recordCal]

@[simp] theorem calIdle_pipe (result : Nat) : (s.calIdle result).pipesAs s := by simp [Chip.calIdle]

@[simp] theorem calFails_pipe (r : CalRun) (cause : Nat) : (s.calFails r cause).pipesAs s := by simp [Chip.calFails]

@[simp] theorem calDone_pipe (n kind target : Nat) (data : CalIn) : (s.calDone n kind target data).pipesAs s := by
  unfold Chip.calDone
  dsimp only
  (repeat' split) <;> simp

@[simp] theorem exchange_pipe (r : CalRun) (d : CalIn) : (s.exchange r d).pipesAs s := by simp [Chip.exchange]

@[simp] theorem sendProbe_pipe : (s.sendProbe).pipesAs s := by
  unfold Chip.sendProbe
  (repeat' split) <;> simp

@[simp] theorem calMarker_pipe (data : Option CalIn) : (s.calMarker data).pipesAs s := by
  unfold Chip.calMarker
  (repeat' split) <;> simp

@[simp] theorem trimLinks_pipe : (s.trimLinks).pipesAs s := by simp [Chip.trimLinks]

@[simp] theorem beginSlot_pipe (before : List Nat) (n : Nat) : (s.beginSlot before n).pipesAs s := by
  unfold Chip.beginSlot
  dsimp only
  (repeat' split) <;> simp

@[simp] theorem beginAll_pipe (before l : List Nat) : (s.beginAll before l).pipesAs s := by
  induction l generalizing s before with
  | nil => simp [Chip.beginAll]
  | cons n l ih => simp [Chip.beginAll, ih]

@[simp] theorem makeDue_pipe : (s.makeDue).pipesAs s := by simp [Chip.makeDue]

@[simp] theorem beginClapper_pipe : (s.beginClapper).pipesAs s := by simp [Chip.beginClapper]

@[simp] theorem reportMove_pipe : (s.reportMove).pipesAs s := by simp [Chip.reportMove]

@[simp] theorem moveRest_pipe : (s.moveRest).pipesAs s := by
  unfold Chip.moveRest
  (repeat' split) <;> simp

@[simp] theorem directorOverrun_pipe : (s.directorOverrun).pipesAs s := by simp [Chip.directorOverrun]

@[simp] theorem settleSteps_pipe : (s.settleSteps).pipesAs s := by simp [Chip.settleSteps]

@[simp] theorem runsOn_pipe (n : Nat) : (s.runsOn n).pipesAs s := by simp [Chip.runsOn]

@[simp] theorem releaseLate_pipe (e : Staged) : (s.releaseLate e).pipesAs s := by simp [Chip.releaseLate]

@[simp] theorem releaseEnded_pipe : (s.releaseEnded).pipesAs s := by simp [Chip.releaseEnded]

@[simp] theorem repeatClapper_pipe : (s.repeatClapper).pipesAs s := by simp [Chip.repeatClapper]

@[simp] theorem discardStaged_pipe : (s.discardStaged).pipesAs s := by simp [Chip.discardStaged]

@[simp] theorem directorFails_pipe : (s.directorFails).pipesAs s := by simp [Chip.directorFails]

@[simp] theorem standbyFails_pipe : (s.standbyFails).pipesAs s := by simp [Chip.standbyFails]

@[simp] theorem pairTested_pipe (pass : Bool) : (s.pairTested pass).pipesAs s := by simp [Chip.pairTested]

@[simp] theorem rejoin_pipe (zero : Bool) : (s.rejoin zero).pipesAs s := by simp [Chip.rejoin]

/-! ### Marker -/

@[simp] theorem toMarker_pipe : (s.toMarker).pipesAs s := by simp [Chip.toMarker]

@[simp] theorem stepState_pipe : (s.stepState).pipesAs s := by simp [Chip.stepState]

@[simp] theorem settleTime_pipe (old : Nat) (dip : Bool) : (s.settleTime old dip).pipesAs s := by simp [Chip.settleTime]

@[simp] theorem newClapper_pipe : (s.newClapper).pipesAs s := by simp [Chip.newClapper]

@[simp] theorem agentsMarker_pipe (m : MarkerIn) (zero : Bool) : (s.agentsMarker m zero).pipesAs s := by simp [Chip.agentsMarker]

@[simp] theorem countSecond_pipe (zero : Bool) : (s.countSecond zero).pipesAs s := by simp [Chip.countSecond]

@[simp] theorem afterRelease_pipe (m : MarkerIn) (zero repeating : Bool) (lifted : List Nat) (old : Nat) (dip : Bool) :
    (s.afterRelease m zero repeating lifted old dip).pipesAs s := by
  simp [Chip.afterRelease]

/-! ### Host -/

@[simp] theorem parityFault_pipe (addr : Nat) : (s.parityFault addr).pipesAs s := by simp [Chip.parityFault]

@[simp] theorem parityCheck_pipe (addr : Nat) : (s.parityCheck addr).pipesAs s := by simp [Chip.parityCheck]

@[simp] theorem parityRestored_pipe (addr : Nat) (be : BitVec 4) : (s.parityRestored addr be).pipesAs s := by
  simp [Chip.parityRestored]

@[simp] theorem voteField_pipe (addr : Nat) (a b c : Word) (f : FieldRow) : (s.voteField addr a b c f).pipesAs s := by
  simp [Chip.voteField]

@[simp] theorem voteRepair_pipe (addr : Nat) (a b c : Word) : (s.voteRepair addr a b c).pipesAs s := by simp [Chip.voteRepair]

@[simp] theorem latch_pipe (path : Path) (base : Nat) (ws : List Word) : (s.latch path base ws).pipesAs s := by simp [Chip.latch]

@[simp] theorem wideRead_pipe (path : Path) (base n lag : Nat) : (s.wideRead path base n lag).2.pipesAs s := by
  unfold Chip.wideRead
  (repeat' split) <;> simp

@[simp] theorem latchChain_pipe (path : Path) (k : Nat) : (s.latchChain path k).pipesAs s := by simp [Chip.latchChain]

@[simp] theorem readReg_pipe (path : Path) (addr lag : Nat) : (s.readReg path addr lag).2.pipesAs s := by
  unfold Chip.readReg
  (repeat' split) <;> simp

@[simp] theorem pageRead_pipe (path : Path) (addr lag : Nat) : (s.pageRead path addr lag).2.pipesAs s := by
  unfold Chip.pageRead
  dsimp only
  (repeat' split) <;> simp

@[simp] theorem busRead_pipe (path : Path) (addr lag : Nat) : (s.busRead path addr lag).2.pipesAs s := by simp [Chip.busRead]

@[simp] theorem putField_pipe (before : Chip) (addr : Nat) (be : BitVec 4) (w : Word) (f : FieldRow) :
    (s.putField before addr be w f).pipesAs s := by
  unfold Chip.putField
  (repeat' split) <;> simp

@[simp] theorem putFields_pipe (before : Chip) (addr : Nat) (be : BitVec 4) (w : Word) (allow : Access → Bool) :
    (s.putFields before addr be w allow).pipesAs s := by
  simp [Chip.putFields]

@[simp] theorem lockRefuse_pipe (pg : Nat) : (s.lockRefuse pg).pipesAs s := by simp [Chip.lockRefuse]

@[simp] theorem writeWord_pipe (addr : Nat) (be : BitVec 4) (w : Word) : (s.writeWord addr be w).pipesAs s := by
  simp [Chip.writeWord]

@[simp] theorem wideWrite_pipe (path : Path) (base addr : Nat) (be : BitVec 4) (w : Word) :
    (s.wideWrite path base addr be w).pipesAs s := by
  simp [Chip.wideWrite]

@[simp] theorem shareWrite_pipe (o sub : Nat) (w : Word) : (s.shareWrite o sub w).pipesAs s := by simp [Chip.shareWrite]

@[simp] theorem trgLost_pipe (pg : Nat) : (s.trgLost pg).pipesAs s := by simp [Chip.trgLost]

@[simp] theorem applyTree_pipe (p : Nat) : (s.applyTree p).pipesAs s := by simp [Chip.applyTree]

@[simp] theorem injectWrite_pipe (a b : Bool) : (s.injectWrite a b).pipesAs s := by simp [Chip.injectWrite]

@[simp] theorem toggleParity_pipe (addr : Nat) : (s.toggleParity addr).pipesAs s := by simp [Chip.toggleParity]

@[simp] theorem ringSeen_pipe (addr : Nat) : (s.ringSeen addr).pipesAs s := by simp [Chip.ringSeen]

@[simp] theorem ringWrite_pipe (addr : Nat) (be : BitVec 4) (w : Word) : (s.ringWrite addr be w).pipesAs s := by
  unfold Chip.ringWrite
  (repeat' split) <;> simp

@[simp] theorem notReached_pipe (path : Path) : (s.notReached path).pipesAs s := by
  cases path <;> simp [Chip.notReached]

@[simp] theorem hostRead_pipe (path : Path) (addr lag : Nat) : (s.hostRead path addr lag).pipesAs s := by simp [Chip.hostRead]

@[simp] theorem memReads_pipe (a n : Nat) : (s.memReads a n).2.pipesAs s := by
  refine foldl_pipe_of (fun x : List Word × Chip => x.2) (fun x k => ?_) _ _
  dsimp only
  split <;> simp

@[simp] theorem putMsix_pipe (k : Nat) (w : Word) : (s.putMsix k w).pipesAs s := by simp [Chip.putMsix]

@[simp] theorem processCall_pipe (head : SmbHead) (count : Nat) (offset : Word) :
    (s.processCall head count offset).pipesAs s := by
  simp [Chip.processCall]

end

/-! ### Frames in range: what every operation on the pipeline is built from -/

/-- A frame whose ports, subports and class are ones there are: what Chip.framesInRange says of each frame. -/
def Frame.inRange (f : Frame) : Prop :=
  f.inPort < 48 ∧ f.inSub < 8 ∧ f.outPort < 48 ∧ f.outSub < 8 ∧ f.cls < 16

section
variable {s t : Chip} {f : Frame}

theorem Chip.framesInRange.of_pipe (hs : s.framesInRange) (h : t.pipesAs s) : t.framesInRange := by
  obtain ⟨hf, hc⟩ := h
  rw [Chip.framesInRange, hf, hc]
  exact hs

theorem Chip.framesInRange.frame (hs : s.framesInRange) {id : Nat} (h : s.frame id = some f) : f.inRange :=
  hs.1 f (frame_mem h)

theorem Chip.framesInRange.onWire (hs : s.framesInRange) {m sub : Nat} (h : s.onWire m sub = some f) : f.inRange :=
  hs.frame (onWire_eq h).1

theorem empty_inRange (hf : t.frames = []) (hc : t.fab.crossing = []) : t.framesInRange := by
  simp [Chip.framesInRange, hf, hc]

theorem foldl_inRange {β : Type} {g : Chip → β → Chip} {l : List β}
    (h : ∀ t b, b ∈ l → t.framesInRange → (g t b).framesInRange) (hs : s.framesInRange) : (l.foldl g s).framesInRange :=
  List.foldlRecOn l g hs (fun t ht b hb => h t b hb ht)

theorem map_inRange (hs : s.framesInRange) {g : Frame → Frame} (hg : ∀ f : Frame, f.inRange → (g f).inRange) :
    ({ s with frames := s.frames.map g } : Chip).framesInRange := by
  refine ⟨fun x hx => ?_, hs.2⟩
  obtain ⟨f, hf, rfl⟩ := List.mem_map.1 hx
  exact hg f (hs.1 f hf)

theorem putFrame_inRange (hs : s.framesInRange) (hf : f.inRange) : (s.putFrame f).framesInRange := by
  refine map_inRange hs (fun g hg => ?_)
  split
  · exact hf
  · exact hg

theorem markHeld_inRange (hs : s.framesInRange) (q sub : Nat) : (s.markHeld q sub).framesInRange := by
  refine map_inRange hs (fun g hg => ?_)
  split <;> exact hg

theorem dropFrame_inRange (hs : s.framesInRange) (f : Frame) : (s.dropFrame f).framesInRange := by
  refine ⟨fun g hg => hs.1 g ?_, fun c hc => hs.2 c ?_⟩
  · simp only [Chip.dropFrame, freeCells_pipe, List.mem_filter] at hg
    exact hg.1
  · simp only [Chip.dropFrame, freeCells_pipe, List.mem_filter] at hc
    exact hc.1

theorem endFrame_inRange (hs : s.framesInRange) (hf : f.inRange) : (s.endFrame f).framesInRange := by
  unfold Chip.endFrame
  split
  · exact putFrame_inRange ⟨hs.1, fun c hc => hs.2 c (List.mem_filter.1 hc).1⟩ hf
  · exact dropFrame_inRange hs f

theorem endBroken_inRange (hs : s.framesInRange) (hf : f.inRange) (ctr : Nat → Nat → Fld) :
    (s.endBroken f ctr).framesInRange :=
  (endFrame_inRange (f := { f with broken := true }) hs hf).of_pipe (breakPromise_pipe _ _ _)

theorem abort_inRange (hs : s.framesInRange) (hf : f.inRange) : (s.abort f).framesInRange := by
  unfold Chip.abort
  split
  · exact (endFrame_inRange hs hf).of_pipe (by simp)
  · exact endFrame_inRange hs hf

theorem flush_inRange (hs : s.framesInRange) (pick : Frame → Bool) (brk : Nat → Nat → Fld)
    (ctr : Option (Nat → Nat → Fld)) : (s.flush pick brk ctr).framesInRange := by
  refine foldl_inRange (fun t f _ ht => ?_) hs
  have dropped : ((t.dropFrame f).breakPromise f brk).framesInRange :=
    (dropFrame_inRange ht f).of_pipe (breakPromise_pipe _ _ _)
  cases ctr
  · exact dropped
  · exact dropped.of_pipe (by simp)

end

/-! ### Lookup and reception (R98 to R106): a frame leaves to an output and in a class that there are -/

theorem lowerOf_le (s : Chip) (p : Nat) : s.lowerOf p ≤ p := by
  unfold Chip.lowerOf
  split <;> omega

theorem bits_lt {n : Nat} (w : BitVec n) {hi lo m : Nat} (h : 2 ^ (hi - lo + 1) ≤ m) : bits w hi lo < m :=
  lt_of_lt_of_le (Nat.mod_lt _ (by positivity)) h

/-- A frame that a verdict sends leaves through an output port, a subport and a class there are. -/
def Verdict.inRange : Verdict → Prop
  | .send port sub cls _ _ _ _ => port < 48 ∧ sub < 8 ∧ cls < 16
  | .drop | .ring _ | .grip => True

section
variable (s : Chip) (f : RxFrame) (fromHost : Bool) (e : BitVec 128)

theorem classFor_lt : classFor fromHost e < 16 := by
  have h : pathClass e < 16 := bits_lt e (by decide)
  unfold classFor
  split <;> omega

theorem ite_verdict {c : Prop} [Decidable c] {a b : Chip × Verdict} (ha : a.2.inRange) (hb : b.2.inRange) :
    (if c then a else b).2.inRange := by
  split
  · exact ha
  · exact hb

theorem viaNextHop_verdict (nhIndex : Nat) (stack : List (BitVec 32)) (etype : BitVec 16)
    (under : List (BitVec 16 × BitVec 16)) (len : Nat) {cls : Nat} (hcls : cls < 16)
    (bind : Nat → Nat → Option Nat × Bool) : (s.viaNextHop f nhIndex stack etype under len cls bind).2.inRange := by
  unfold Chip.viaNextHop
  extract_lets t e out tag outLen b
  refine ite_verdict trivial ?_
  split
  · trivial
  · next h =>
    have hport : nhPort e < 48 := by
      by_contra hn
      exact h (by simp [Nat.le_of_not_lt hn])
    exact ⟨(lowerOf_le t _).trans_lt hport, bits_lt e (by decide), hcls⟩

theorem nonMpls_verdict : (s.nonMpls f).2.inRange := by
  unfold Chip.nonMpls
  extract_lets p q t
  split
  · trivial
  · exact viaNextHop_verdict t f _ _ _ _ _ (by decide) _
  · trivial

theorem finish_verdict (stack : List (BitVec 32)) (etype : BitVec 16) :
    (s.finish f fromHost e stack etype).2.inRange := by
  unfold Chip.finish
  extract_lets upTo labels len member cls present set t
  split
  · exact viaNextHop_verdict _ _ _ _ _ _ _ (classFor_lt _ _) _
  · split
    · exact viaNextHop_verdict _ _ _ _ _ _ _ (classFor_lt _ _) _
    · exact viaNextHop_verdict _ _ _ _ _ _ _ (bits_lt _ (by decide)) _

theorem exposePayload_verdict : (s.exposePayload f fromHost e).2.inRange :=
  ite_verdict (finish_verdict _ _ _ _ _ _) (ite_verdict (finish_verdict _ _ _ _ _ _) trivial)

theorem pathLookup_verdict (top : BitVec 32) (left seen : Nat) (l : List (BitVec 32)) :
    (s.pathLookup f fromHost top left seen l).2.inRange := by
  induction l generalizing s left seen with
  | nil => simp [Chip.pathLookup, Chip.endOfStack, Verdict.inRange]
  | cons cur rest ih =>
    unfold Chip.pathLookup
    extract_lets p q i s' e act t tc cls labels
    refine ite_verdict trivial (ite_verdict ?miss (ite_verdict trivial (ite_verdict trivial (ite_verdict ?ttl
      (ite_verdict trivial (ite_verdict ?pop (ite_verdict (finish_verdict _ _ _ _ _ _)
      (ite_verdict (finish_verdict _ _ _ _ _ _) ?under))))))))
    case miss | ttl => dsimp only; split <;> trivial
    case pop =>
      cases left with
      | zero => trivial
      | succ n => exact ite_verdict trivial (ih s' n (seen + 1))
    case under =>
      cases rest with
      | nil => exact ite_verdict (exposePayload_verdict _ _ _ _) (finish_verdict _ _ _ _ _ _)
      | cons x l => exact finish_verdict _ _ _ _ _ _

theorem lookup_verdict : (s.lookup f fromHost).2.inRange := by
  unfold Chip.lookup
  extract_lets p q t
  refine ite_verdict trivial (ite_verdict (nonMpls_verdict _ _) (ite_verdict trivial (ite_verdict ?slow
    (ite_verdict ?stack (nonMpls_verdict _ _)))))
  case slow => dsimp only; split <;> trivial
  case stack =>
    split
    · trivial
    · exact pathLookup_verdict _ _ _ _ _ _ _

end

section
variable {s : Chip}

theorem addFrame_inRange (hs : s.framesInRange) (f : RxFrame) (fromHost direct cutIn waiting : Bool) {v : Verdict}
    (hv : v.inRange) : (s.addFrame f fromHost direct cutIn waiting v).framesInRange := by
  cases v with
  | drop => exact hs
  | grip => exact hs
  | ring n => cases waiting <;> exact hs.of_pipe (by simp [Chip.addFrame])
  | send port sub cls len hdr flow unadmitted =>
    dsimp -zeta only [Chip.addFrame]
    extract_lets cut src no g t
    have ht : t.framesInRange := by
      refine ⟨fun x hx => ?_, hs.2⟩
      rcases List.mem_append.1 hx with hx | hx
      · exact hs.1 x hx
      · rw [List.mem_singleton.1 hx]
        exact ⟨f.port.isLt, f.sub.isLt, hv⟩
    split
    · exact ht.of_pipe (by simp)
    · exact ht

theorem lookup_addFrame_inRange (hs : s.framesInRange) (f : RxFrame) (fromHost cut : Bool) :
    ((s.lookup f fromHost).1.addFrame f fromHost false cut false (s.lookup f fromHost).2).framesInRange :=
  addFrame_inRange (hs.of_pipe (by simp)) _ _ _ _ _ (lookup_verdict _ _ _)

theorem releaseEarly_inRange (hs : s.framesInRange) (k : Early) : (s.releaseEarly k).framesInRange := by
  have renumbered : (s.releaseEarly { k with ring := none }).framesInRange := by
    refine (map_inRange hs (g := fun f => if f.id = k.id then { f with waiting := false, order := s.nextFrame } else f)
      (fun f hf => ?_)).of_pipe ⟨rfl, rfl⟩
    split <;> exact hf
  unfold Chip.releaseEarly
  extract_lets t
  split
  · exact Chip.framesInRange.of_pipe (s := t) renumbered (by simp)
  · exact renumbered

theorem releaseEarlies_inRange (hs : s.framesInRange) (l : List Early) : (l.foldl Chip.releaseEarly s).framesInRange :=
  foldl_inRange (fun _ k _ ht => releaseEarly_inRange ht k) hs

theorem releaseSeq_inRange (hs : s.framesInRange) (p : Nat) (express : Bool) (n : Nat) :
    (s.releaseSeq p express n).framesInRange :=
  releaseEarlies_inRange (hs.of_pipe (setFuse_pipe _ _ _)) _

theorem passSeq_inRange (hs : s.framesInRange) (p : Nat) (express : Bool) (n fuel : Nat) :
    (s.passSeq p express n fuel).framesInRange := by
  induction fuel generalizing s n with
  | zero => exact hs
  | succ fuel ih =>
    unfold Chip.passSeq
    extract_lets m t
    have ht : t.framesInRange := hs.of_pipe (setFuse_pipe _ _ _)
    split
    · exact ih (releaseSeq_inRange ht _ _ _) _
    · exact ht

theorem leaveEpoch_inRange (hs : s.framesInRange) (p epoch : Nat) : (s.leaveEpoch p epoch).framesInRange := by
  unfold Chip.leaveEpoch
  extract_lets x
  split
  · exact hs
  · exact releaseEarlies_inRange (hs.of_pipe (by simp)) _

theorem sequenceTag_inRange (hs : s.framesInRange) (q : Nat) (f : RxFrame) (t : TsTag) (cut : Bool) :
    (s.sequenceTag q f t cut).framesInRange := by
  unfold Chip.sequenceTag
  extract_lets s1 j s2 r u
  have h2 : s2.framesInRange := (leaveEpoch_inRange hs q _).of_pipe (setFuse_pipe _ _ _)
  split
  · exact h2.of_pipe (by simp)
  · exact (addFrame_inRange (h2.of_pipe (by simp [r])) _ _ _ _ _ (lookup_verdict _ _ _)).of_pipe (skipNumber_pipe _ _)
  · exact passSeq_inRange (lookup_addFrame_inRange h2 f false cut) _ _ _ _

theorem macTakes_pipe {f : RxFrame} {t : Chip} (h : s.macTakes f = some t) : t.pipesAs s := by
  unfold Chip.macTakes at h
  (repeat' split at h) <;> cases h <;> simp

theorem receive_inRange (hs : s.framesInRange) (f : RxFrame) : (s.receive f).framesInRange := by
  unfold Chip.receive
  extract_lets p q long f' s1 s2 r
  have h2 : s2.framesInRange := by
    simp only [s2]
    split <;> exact hs.of_pipe (by simp [s1])
  split
  · cases h : s.macTakes f with
    | none => exact hs
    | some t => exact hs.of_pipe (macTakes_pipe h)
  · split
    · exact hs
    · split
      · exact h2.of_pipe (by simp)
      · split
        · next h => exact h2.of_pipe (macTakes_pipe h)
        · exact lookup_addFrame_inRange h2 _ false _
        · split
          · exact sequenceTag_inRange h2 _ _ _ _
          · exact h2.of_pipe (by simp)

theorem endWait_inRange (hs : s.framesInRange) (p : Nat) (express : Bool) (k : Early) :
    (s.endWait p express k).framesInRange := by
  have counted : ∀ n, (s.count (F.port2SeqLost k.inPort 0) n).framesInRange := fun n => hs.of_pipe (by simp)
  exact passSeq_inRange (foldl_inRange (fun _ m _ ht => releaseSeq_inRange ht p express m) (counted _)) _ _ _ _

theorem seqExpiry_inRange (hs : s.framesInRange) (id : Nat) : (s.seqExpiry id).framesInRange := by
  unfold Chip.seqExpiry
  split
  · exact endWait_inRange hs _ _ _
  · exact hs

theorem serveTx_inRange (hs : s.framesInRange) (f : RxFrame) : (s.serveTx f).framesInRange := by
  unfold Chip.serveTx
  split
  · exact hs
  · extract_lets k w3 len port sub s1 clear g s2 r s3
    have h1 : s1.framesInRange := hs.of_pipe ⟨rfl, rfl⟩
    split
    · exact (h1.of_pipe (setDesc_pipe _ _ _ _ _)).of_pipe (ringAdvance_pipe _ _)
    · next h =>
      obtain ⟨hport, -⟩ := not_or.1 h
      have h2 : s2.framesInRange := h1.of_pipe (setDesc_pipe _ _ _ _ _)
      have h3 : s3.framesInRange := by
        simp only [s3]
        split
        · exact lookup_addFrame_inRange h2 _ _ _
        · exact addFrame_inRange h2 _ _ _ _ _
            ⟨(lowerOf_le s port).trans_lt (by omega), bits_lt _ (by decide), by omega⟩
      exact h3.of_pipe (ringAdvance_pipe _ _)

end

/-! ### Admission and the input's cells (R62 to R64, R119) -/

section
variable {s : Chip} {f : Frame}

theorem accept_inRange (hs : s.framesInRange) (hf : f.inRange) (i : Nat) : (s.accept f i).framesInRange := by
  obtain ⟨hin, hsub, hout, houtSub, -⟩ := hf
  unfold Chip.accept
  extract_lets e excess t
  have ht : t.framesInRange :=
    putFrame_inRange (hs.of_pipe (bucketTake_pipe _ _ _)) ⟨hin, hsub, hout, houtSub, bits_lt e (by decide)⟩
  exact ht.of_pipe (by simp)

theorem unadmit_inRange (hs : s.framesInRange) (hf : f.inRange) : (s.unadmit f).framesInRange := by
  obtain ⟨hin, hsub, hout, houtSub, -⟩ := hf
  unfold Chip.unadmit
  have put : (s.putFrame { f with
      taken := true, unadmitted := true, cls := min 11 (s.getN (F.admCtrlUnadmittedClass f.outPort)) }).framesInRange :=
    putFrame_inRange hs ⟨hin, hsub, hout, houtSub, by dsimp only; omega⟩
  exact put.of_pipe (by simp)

theorem admission_inRange (hs : s.framesInRange) (id : Nat) : (s.admission id).framesInRange := by
  unfold Chip.admission
  split
  · exact hs
  · next f h =>
    have hf := hs.frame h
    split
    · exact hs
    · split
      · exact putFrame_inRange hs hf
      · split
        · exact unadmit_inRange hs hf
        · next i _ =>
          extract_lets e
          split
          · exact unadmit_inRange hs hf
          · split
            · exact accept_inRange hs hf i
            · split
              · exact (dropFrame_inRange hs f).of_pipe (by simp)
              · obtain ⟨hin, hsub, hout, houtSub, -⟩ := hf
                have demoted : (s.putFrame { f with taken := true, cls := flowDemote e }).framesInRange :=
                  putFrame_inRange hs ⟨hin, hsub, hout, houtSub, bits_lt e (by decide)⟩
                exact demoted.of_pipe (by simp)

theorem spoil_inRange (hs : s.framesInRange) (hf : f.inRange) : (s.spoil f).framesInRange := by
  have ht : (s.putFrame { f with bad := true }).framesInRange := putFrame_inRange hs hf
  unfold Chip.spoil
  extract_lets t
  split
  · exact ht.of_pipe (by simp [t])
  · exact ht

theorem tailAdmission_inRange (hs : s.framesInRange) (id : Nat) (how : TailEnd) : (s.tailAdmission id how).framesInRange := by
  unfold Chip.tailAdmission
  split
  · exact hs
  · extract_lets t
    have ht : t.framesInRange := hs.of_pipe (tailRecord_pipe _ _)
    split
    · exact ht
    · next f h =>
      have hf : f.inRange := ht.frame h
      split
      · exact ht
      · extract_lets g u
        have hu : u.framesInRange := putFrame_inRange ht hf
        cases how with
        | good => exact hu
        | badFcs =>
          dsimp only
          split
          · exact hu
          · exact spoil_inRange hu hf
        | badFec => exact spoil_inRange (hu.of_pipe (by simp)) hf

theorem formCell_inRange (hs : s.framesInRange) (hf : f.inRange) : (s.formCell f).framesInRange := by
  have put : (s.putFrame { f with stored := true, formed := f.formed + 1 }).framesInRange := putFrame_inRange hs hf
  unfold Chip.formCell
  extract_lets t t'
  have ht' : t'.framesInRange := by
    simp only [t']
    split
    · exact put.of_pipe (oversize_pipe _ _ _)
    · exact put
  exact ht'.of_pipe ⟨rfl, rfl⟩

theorem cellForm_inRange (hs : s.framesInRange) (id : Nat) : (s.cellForm id).framesInRange := by
  unfold Chip.cellForm
  split
  · exact hs
  · next f h =>
    have hf := hs.frame h
    split
    · exact hs
    · split
      · split
        · exact (endBroken_inRange hs hf (s.breakCause f)).of_pipe (by simp)
        · exact formCell_inRange hs hf
      · split
        · exact (dropFrame_inRange hs f).of_pipe (by simp)
        · exact formCell_inRange hs hf

end

/-! ### The fabric (R120 to R130): a cell crosses to a slice of its frame's output -/

section
variable {s : Chip} {f : Frame}

theorem members_le {p m : Nat} (h : m ∈ s.members p) : m ≤ p + 6 := by
  unfold Chip.members at h
  split at h
  · rcases List.mem_pair.1 h with rfl | rfl <;> omega
  · rw [List.mem_singleton.1 h]
    omega

theorem turnAway_inRange (hs : s.framesInRange) (f : Frame) (a : Answer) : (s.turnAway f a).framesInRange := by
  have dropped := dropFrame_inRange hs f
  cases a with
  | pass => exact hs
  | refuse | inReset | down => exact dropped.of_pipe (by simp [Chip.turnAway])

theorem land_inRange (hs : s.framesInRange) (c : Nat × Nat) : (s.land c).framesInRange := by
  unfold Chip.land
  split
  · exact hs
  · next f h =>
    have hf := hs.frame h
    split
    · exact endBroken_inRange hs hf _
    · extract_lets first g t free fab
      have hg : (s.putFrame g).framesInRange := putFrame_inRange hs hf
      exact hg.of_pipe (by simp [fab, t])

theorem sendCell_inRange (hs : s.framesInRange) {fs : List Frame} (hfs : ∀ f ∈ fs, f.inRange) (r : Req) :
    (s.sendCell fs r).framesInRange := by
  unfold Chip.sendCell
  extract_lets here key at_
  split
  · exact hs
  · split
    · exact hs
    · next f h =>
      obtain ⟨hmem, hpick⟩ := List.mem_filter.1 (List.mem_of_find?_eq_some h)
      have hf := hfs f hmem
      have hto : r.2.1 < 54 := by
        have hmember : r.2.1 ∈ s.members f.outPort := by
          simp only [Bool.and_eq_true] at hpick
          exact List.contains_iff_mem.1 hpick.2
        have hle := members_le hmember
        obtain ⟨-, -, hout, -⟩ := hf
        omega
      extract_lets t
      have ht : t.framesInRange := by
        simp only [t]
        split
        · exact putFrame_inRange hs hf
        · exact hs
      refine ⟨ht.1, fun c hc => ?_⟩
      rcases List.mem_append.1 hc with hc | hc
      · exact ht.2 c hc
      · rw [List.mem_singleton.1 hc]
        exact hto

theorem feedDirect_inRange (hs : s.framesInRange) (busy : List Nat) : (s.feedDirect busy).framesInRange := by
  refine foldl_inRange (fun t o _ ht => ?_) hs
  split
  · exact ht
  · split
    · exact ht
    · next f h =>
      split
      · split
        · exact land_inRange (putFrame_inRange (f := { f with rsv := t.rsvFor o, formed := f.cells }) ht
            (ht.1 f (List.mem_of_find?_eq_some h))) _
        · exact turnAway_inRange ht _ _
      · exact land_inRange ht _

theorem grantSlot_inRange (hs : s.framesInRange) : s.grantSlot.framesInRange := by
  unfold Chip.grantSlot
  extract_lets fs asked s1 ok rs useB m mB bRuns s2
  have h1 : s1.framesInRange := foldl_inRange (fun t x _ ht => turnAway_inRange ht _ _) hs
  have hok : ∀ f ∈ ok, f.inRange := by
    intro f hf
    obtain ⟨x, hx, rfl⟩ := List.mem_map.1 hf
    obtain ⟨g, hg, rfl⟩ := List.mem_map.1 (List.mem_filter.1 hx).1
    exact hs.1 g (List.mem_filter.1 hg).1
  exact foldl_inRange (fun t r _ ht => sendCell_inRange ht hok r) (h1.of_pipe ⟨rfl, rfl⟩)

theorem dualReset_inRange (hs : s.framesInRange) : s.dualReset.framesInRange := by
  unfold Chip.dualReset
  extract_lets lost ids fab s1 s2 s3
  have h1 : s1.framesInRange := ⟨hs.1, fun c hc => hs.2 c (List.mem_filter.1 hc).1⟩
  have h2 : s2.framesInRange := by
    refine foldl_inRange (fun t id _ ht => ?_) h1
    split
    · next f h => exact endBroken_inRange ht (ht.frame h) _
    · exact ht
  exact h2.of_pipe (by simp [s3])

theorem orphanInput_inRange (hs : s.framesInRange) (hf : f.inRange) : (s.orphanInput f).framesInRange :=
  (endBroken_inRange hs hf _).of_pipe (leak_pipe _ _ _)

theorem inputEcc_inRange (hs : s.framesInRange) (x : StoreHit) : (s.inputEcc x).framesInRange := by
  unfold Chip.inputEcc
  split
  · exact hs
  · next f h =>
    split
    · exact hs
    · exact hs.of_pipe (by simp)
    · exact (endBroken_inRange hs (hs.frame h) (s.causeOver f F.admSubBreakEcc)).of_pipe (by simp)
    · have orphaned : ((s.behindInput f).foldl Chip.orphanInput s).framesInRange :=
        foldl_inRange (fun t g hg ht => orphanInput_inRange ht (hs.1 g (List.mem_filter.1 hg).1)) hs
      exact orphaned.of_pipe (by simp)
    · exact hs.of_pipe (by simp)

theorem moveCells_inRange (hs : s.framesInRange) : s.moveCells.framesInRange := by
  unfold Chip.moveCells
  extract_lets aged fab t
  have ht : t.framesInRange := by
    refine ⟨hs.1, fun c hc => ?_⟩
    obtain ⟨d, hd, rfl⟩ := List.mem_map.1 (List.mem_filter.1 hc).1
    exact hs.2 d hd
  exact foldl_inRange (fun u c _ hu => land_inRange hu _) ht

theorem replicaSlot_inRange (hs : s.framesInRange) (fault : SlotFault) : (s.replicaSlot fault).framesInRange := by
  unfold Chip.replicaSlot
  extract_lets how fab t
  have ht : t.framesInRange := hs
  clear_value how
  cases how
  case dual => exact dualReset_inRange (ht.of_pipe (by simp))
  case fenceA | fenceB => exact grantSlot_inRange (ht.of_pipe (by simp))
  case pass => exact grantSlot_inRange ht

theorem schedSlot_inRange (hs : s.framesInRange) (fault : SlotFault) (ecc : List StoreHit) :
    (s.schedSlot fault ecc).framesInRange := by
  unfold Chip.schedSlot
  split
  · exact hs
  · extract_lets s1 fab s2
    have h1 : s1.framesInRange := foldl_inRange (fun t x _ ht => inputEcc_inRange ht x) (moveCells_inRange hs)
    have h2 : s2.framesInRange := by
      simp only [s2]
      split
      · exact h1.of_pipe ⟨rfl, rfl⟩
      · exact replicaSlot_inRange h1 fault
    exact feedDirect_inRange h2 _

end

/-! ### Transmission (R135 to R153) -/

section
variable {s : Chip} {f : Frame}

theorem headOf_queue {p sub c : Nat} (h : s.headOf p sub c = some f) : f ∈ s.queue p sub c := firstLinked_mem h

theorem orphan_inRange (hs : s.framesInRange) (f : Frame) : (s.orphan f).framesInRange := by
  have dropped := dropFrame_inRange hs f
  unfold Chip.orphan
  extract_lets t u
  split <;> exact dropped.of_pipe (by simp [u, t])

theorem linkEcc_inRange (hs : s.framesInRange) (f : Frame) (e : Ecc) : (s.linkEcc f e).framesInRange := by
  cases e with
  | clean => exact hs
  | single => exact hs.of_pipe (by simp [Chip.linkEcc])
  | double =>
    unfold Chip.linkEcc
    extract_lets behind t
    have orphaned : (behind.foldl Chip.orphan s).framesInRange := foldl_inRange (fun t g _ ht => orphan_inRange ht g) hs
    exact orphaned.of_pipe (by simp [t])

theorem judge_inRange (hs : s.framesInRange) (hf : f.inRange) (stamp : Raw) : (s.judge f stamp).framesInRange := by
  have broken : (s.putFrame { f with broken := true }).framesInRange := putFrame_inRange hs hf
  unfold Chip.judge
  split
  · exact hs
  · split
    · exact broken.of_pipe (by simp)
    · exact hs.of_pipe (by simp)

theorem begin_inRange (hs : s.framesInRange) (hf : f.inRange) (m : Nat) (stamp : LineStamp) :
    (s.begin f m stamp).framesInRange := by
  have put : (s.putFrame { f with started := true, member := m }).framesInRange := putFrame_inRange hs hf
  unfold Chip.begin
  extract_lets l g t
  have ht : t.framesInRange := put.of_pipe (setLink_pipe _ _ _ _)
  have counted : ((t.takeSeq f.outPort f.express).bump (F.trafTxFrames m f.outSub f.cls)).framesInRange :=
    ht.of_pipe (by simp)
  exact judge_inRange (f := g) counted hf _

theorem launch_inRange (hs : s.framesInRange) (hf : f.inRange) (m : Nat) (stamp : LineStamp) (ecc : TxEcc) :
    (s.launch f m stamp ecc).framesInRange := by
  unfold Chip.launch
  split
  · exact (endBroken_inRange hs hf (s.causeOver f F.admSubBreakEcc)).of_pipe (by simp)
  · exact (linkEcc_inRange (begin_inRange (hs.of_pipe (by simp)) hf m stamp) f _).of_pipe (freeEcc_pipe _ _ _ _)
  · exact (linkEcc_inRange (begin_inRange hs hf m stamp) f _).of_pipe (freeEcc_pipe _ _ _ _)

theorem lateDiscard_inRange (hs : s.framesInRange) (p sub c fuel : Nat) : (s.lateDiscard p sub c fuel).framesInRange := by
  induction fuel generalizing s with
  | zero => exact hs
  | succ fuel ih =>
    unfold Chip.lateDiscard
    split
    · exact hs
    · next f _ =>
      split
      · exact ih ((dropFrame_inRange hs f).of_pipe (breakPromise_pipe _ _ _))
      · exact hs

theorem txStart_inRange (hs : s.framesInRange) (p sub : Nat) (stamp : LineStamp) (ecc : TxEcc) :
    (s.txStart p sub stamp ecc).framesInRange := by
  unfold Chip.txStart
  extract_lets q m s1 s2 r
  split
  · exact hs
  · have h1 : s1.framesInRange := by
      simp only [s1]
      split
      · exact hs.of_pipe (nodeEcc_pipe _ _ _ _)
      · exact hs
    have h2 : s2.framesInRange :=
      foldl_inRange (fun t c _ ht => lateDiscard_inRange ht _ _ _ _) (h1.of_pipe (setSched_pipe _ _ _))
    split
    · next g hg =>
      have hin : g.inRange := h2.onWire hg
      split
      · split
        · next f hf =>
          have preempted : (s2.putFrame { g with preempted := true }).framesInRange :=
            putFrame_inRange h2 hin
          exact launch_inRange preempted (h2.1 f (mem_of_expressChoice hf).1) _ _ _
        · exact h2
      · exact h2
    · split
      · next f hf => exact launch_inRange h2 (h2.1 f (mem_of_expressChoice hf).1) _ _ _
      · split
        · next f hf =>
          obtain ⟨c, -, hc⟩ := Option.bind_eq_some_iff.1 hf
          exact launch_inRange (h2.of_pipe (setSched_pipe _ _ _)) (h2.1 f (mem_of_ready1 hc).1) _ _ _
        · exact h2

theorem underrun_inRange (hs : s.framesInRange) (p sub : Nat) : (s.underrun p sub).framesInRange := by
  unfold Chip.underrun
  split
  · exact hs
  · next f h =>
    split
    · exact hs
    · exact (endFrame_inRange hs (hs.onWire (Option.filter_eq_some_iff.1 h).1)).of_pipe (by simp)

theorem finishTx_inRange (hs : s.framesInRange) (m sub : Nat) (f : Frame) (sent : Nat) :
    (s.finishTx m sub f sent).framesInRange := by
  have dropped := dropFrame_inRange hs f
  unfold Chip.finishTx
  extract_lets l t u
  have hu : u.framesInRange := by
    simp only [u]
    split <;> exact dropped.of_pipe (by simp [t])
  split
  · next g h =>
    have hg : g.inRange := hu.onWire h
    exact putFrame_inRange hu hg
  · exact hu

theorem txEnd_inRange (hs : s.framesInRange) (p sub : Nat) (cells : List Ecc) : (s.txEnd p sub cells).framesInRange := by
  unfold Chip.txEnd
  split
  · exact hs
  · next f h =>
    have hf := hs.onWire (Option.filter_eq_some_iff.1 h).1
    extract_lets r
    have hr : r.1.framesInRange := hs.of_pipe (readCells_pipe _ _ _)
    split
    · exact finishTx_inRange (endBroken_inRange hr hf _) _ _ _ _
    · split
      · exact finishTx_inRange hr _ _ _ _
      · exact hr

end

/-! ### Links and fused pairs (R83 to R94) -/

section
variable {s : Chip} {f : Frame}

theorem returnFlush_inRange (hs : s.framesInRange) (q sub : Nat) : (s.returnFlush q sub).framesInRange :=
  flush_inRange hs _ _ _

theorem portReturns_inRange (hs : s.framesInRange) (q sub : Nat) : (s.portReturns q sub).framesInRange := by
  unfold Chip.portReturns
  extract_lets held l t u
  have ht : t.framesInRange := hs.of_pipe (setLink_pipe _ _ _ _)
  split
  · have hu : u.framesInRange := returnFlush_inRange (ht.of_pipe (by simp)) _ _
    refine map_inRange hu (fun g hg => ?_)
    split <;> exact hg
  · exact ht

theorem expireHold_inRange (hs : s.framesInRange) (q sub : Nat) : (s.expireHold q sub).framesInRange := by
  unfold Chip.expireHold
  extract_lets t
  have ht : t.framesInRange := flush_inRange hs _ _ _
  exact ht.of_pipe (by simp)

theorem portDrops_inRange (hs : s.framesInRange) (q sub : Nat) : (s.portDrops q sub).framesInRange := by
  unfold Chip.portDrops
  extract_lets t
  have ht : t.framesInRange := markHeld_inRange hs q sub
  split
  · exact expireHold_inRange ht q sub
  · exact ht.of_pipe (by simp)

theorem endSpace_inRange (hs : s.framesInRange) (p gone : Nat) (alone express : Bool) :
    (s.endSpace p gone alone express).framesInRange := by
  unfold Chip.endSpace
  extract_lets x n dist due
  split
  · exact endWait_inRange hs _ _ _
  · exact hs

theorem endWaits_inRange (hs : s.framesInRange) (p gone : Nat) : (s.endWaits p gone).framesInRange :=
  endSpace_inRange (endSpace_inRange hs _ _ _ _) _ _ _ _

theorem memberLeaves_inRange (hs : s.framesInRange) (m : Nat) : (s.memberLeaves m).framesInRange := by
  unfold Chip.memberLeaves
  extract_lets p x y t
  have left : ((s.setFuse p y).fuseStatus p).framesInRange := hs.of_pipe (by simp)
  have ht : t.framesInRange := endWaits_inRange (markHeld_inRange left _ _) _ _
  split
  · exact portDrops_inRange ht _ _
  · exact ht

theorem fuseEval_inRange (hs : s.framesInRange) (p : Nat) : (s.fuseEval p).framesInRange := by
  unfold Chip.fuseEval
  extract_lets x skewOk y t
  split
  · exact hs.of_pipe (fuseStatus_pipe _ _)
  · have ht : t.framesInRange := hs.of_pipe (by simp [t])
    split
    · exact portReturns_inRange ht _ _
    · exact ht

theorem skewStep_inRange (hs : s.framesInRange) (p : Nat) : (s.skewStep p).framesInRange := by
  unfold Chip.skewStep
  extract_lets x
  split
  · exact hs
  · extract_lets t y u v
    have hu : u.framesInRange := hs.of_pipe (by simp [u, t])
    have hv : v.framesInRange := hu.of_pipe (by simp [v])
    split
    · split
      · exact memberLeaves_inRange hv _
      · exact hv
    · exact hu

theorem markerRx_inRange (hs : s.framesInRange) (m : Nat) (k : FuseMarker) : (s.markerRx m k).framesInRange := by
  unfold Chip.markerRx
  extract_lets p aligned x c w y
  split
  · exact hs
  · exact fuseEval_inRange (skewStep_inRange (hs.of_pipe (setFuse_pipe _ _ _)) _) _

theorem cutWire_inRange (hs : s.framesInRange) (m sub : Nat) : (s.cutWire m sub).framesInRange := by
  unfold Chip.cutWire
  extract_lets ids t
  have ht : t.framesInRange := by
    refine foldl_inRange (fun u id _ hu => ?_) hs
    split
    · next f h =>
      extract_lets v
      have hv : v.framesInRange := endFrame_inRange hu (hu.frame h)
      split
      · exact finishTx_inRange hv _ _ _ _
      · exact hv
    · exact hu
  exact ht.of_pipe (setLink_pipe _ _ _ _)

theorem cutArriving_inRange (hs : s.framesInRange) (m sub : Nat) : (s.cutArriving m sub).framesInRange := by
  refine foldl_inRange (fun t f hf ht => ?_) hs
  exact abort_inRange (ht.of_pipe ⟨rfl, rfl⟩) (hs.1 f (List.mem_filter.1 hf).1)

theorem linkFalls_inRange (hs : s.framesInRange) (m sub : Nat) (next : LinkPhase) : (s.linkFalls m sub next).framesInRange := by
  unfold Chip.linkFalls
  extract_lets t u l v q
  have ht : t.framesInRange := cutArriving_inRange (cutWire_inRange (hs.of_pipe (by simp)) _ _) _ _
  split <;> exact ht.of_pipe (by simp [v, u])

theorem linkDown_inRange (hs : s.framesInRange) (m sub : Nat) (faultOnly : Bool) :
    (s.linkDown m sub faultOnly).framesInRange := by
  unfold Chip.linkDown
  split
  · exact hs.of_pipe (setLink_pipe _ _ _ _)
  · extract_lets p next t x low up y u
    have ht : t.framesInRange := (linkFalls_inRange hs m sub next).of_pipe (by simp [t])
    split
    · have hu : u.framesInRange := ht.of_pipe (setFuse_pipe _ _ _)
      have leaves : (u.memberLeaves m).framesInRange := memberLeaves_inRange hu m
      have stays : (u.fuseStatus p).framesInRange := hu.of_pipe (fuseStatus_pipe _ _)
      split <;> split
      · exact leaves
      · exact stays
      · exact leaves
      · exact stays
    · exact portDrops_inRange ht _ _

theorem holdExpiry_inRange (hs : s.framesInRange) (p sub : Nat) : (s.holdExpiry p sub).framesInRange := by
  unfold Chip.holdExpiry
  split
  · exact expireHold_inRange hs _ _
  · exact hs

theorem linkComesUp_inRange (hs : s.framesInRange) (m sub : Nat) : (s.linkComesUp m sub).framesInRange := by
  unfold Chip.linkComesUp
  split
  · exact hs
  · extract_lets p l t u
    have ht : t.framesInRange := hs.of_pipe (by simp [t])
    have hu : u.framesInRange := by
      simp only [u]
      split
      · exact fuseEval_inRange ht _
      · exact portReturns_inRange ht _ _
    exact hu.of_pipe (mergeStart_pipe _ _ _)

theorem stopSub_inRange (hs : s.framesInRange) (m sub : Nat) : (s.stopSub m sub).framesInRange :=
  (linkDown_inRange hs m sub false).of_pipe (setLink_pipe _ _ _ _)

theorem turnReceivers_inRange (hs : s.framesInRange) (p m : Nat) : (s.turnReceivers p m).framesInRange := by
  refine foldl_inRange (fun t sub _ ht => ?_) hs
  split
  · exact ht
  · exact linkDown_inRange ht _ _ _

theorem ctrlWrite_inRange (hs : s.framesInRange) (p : Nat) (w : Word) : (s.ctrlWrite p w).framesInRange := by
  unfold Chip.ctrlWrite
  split
  · exact hs.of_pipe (modeHeld_pipe _ _)
  · extract_lets old o t was turns t' falls rises u
    have ho : o.framesInRange := hs.of_pipe (by simp [o])
    have ht : t.framesInRange := by
      simp only [t]
      split
      · exact ho.of_pipe (calUpset_pipe _ _ _)
      · exact ho
    have ht' : t'.framesInRange := by
      simp only [t']
      split
      · refine foldl_inRange (fun v m _ hv => ?_) ht
        split
        · exact hv
        · exact turnReceivers_inRange hv _ _
      · exact ht
    have hu : u.framesInRange :=
      foldl_inRange (fun v m _ hv => foldl_inRange (fun x sub _ hx => stopSub_inRange hx m sub) hv) ht'
    split
    · exact hu.of_pipe (startSubs_pipe _ _ _)
    · exact hu

end

/-! ### Resets, dark parts and power (R246 to R249, R306 to R311): what they cut, and what they clear -/

section
variable {s : Chip} {f : Frame}

theorem cutByReset_inRange (hs : s.framesInRange) (hf : f.inRange) : (s.cutByReset f).framesInRange := by
  unfold Chip.cutByReset
  split
  · exact abort_inRange hs hf
  · exact endBroken_inRange hs hf _

theorem emptyInput_inRange (hs : s.framesInRange) (p : Nat) (ends : Bool) : (s.emptyInput p ends).framesInRange := by
  refine foldl_inRange (fun t f hf ht => ?_) hs
  have hin : f.inRange := hs.1 f (List.mem_filter.1 hf).1
  have hu : ({ t with tails := Store.erase f.id t.tails } : Chip).framesInRange := ht
  split
  · exact abort_inRange hu hin
  · exact cutByReset_inRange hu hin

theorem flushOutputs_inRange (hs : s.framesInRange) (q : Nat) (brk : Nat → Nat → Fld) :
    (s.flushOutputs q brk).framesInRange :=
  flush_inRange hs _ _ _

theorem stopMember_inRange (hs : s.framesInRange) (m : Nat) (count : Bool) : (s.stopMember m count).framesInRange := by
  refine foldl_inRange (fun t sub _ ht => ?_) hs
  have hu := linkFalls_inRange ht m sub .down
  dsimp only
  split <;> exact hu.of_pipe (by simp)

theorem stopPort_inRange (hs : s.framesInRange) (q : Nat) (count : Bool) (brk : Nat → Nat → Fld) :
    (s.stopPort q count brk).framesInRange := by
  unfold Chip.stopPort
  extract_lets ms t v x
  have ht : t.framesInRange :=
    foldl_inRange (fun u m _ hu => stopMember_inRange (emptyInput_inRange hu m true) m count) hs
  have hv : v.framesInRange := flushOutputs_inRange ht _ _
  split
  · exact hv.of_pipe (by simp)
  · exact hv

theorem laneLol_inRange (hs : s.framesInRange) (g k : Nat) : (s.laneLol g k).framesInRange := by
  unfold Chip.laneLol
  split
  · exact hs
  · extract_lets t
    have ht : t.framesInRange := hs.of_pipe (by simp [t])
    exact foldl_inRange (fun u p _ hu => foldl_inRange (fun v sub _ hv => stopSub_inRange hv p sub) hu) ht

theorem coldClear_inRange (s : Chip) : s.coldClear.framesInRange := by
  have cleared : Chip.zero.framesInRange := empty_inRange rfl rfl
  exact cleared.of_pipe (by simp [Chip.coldClear])

theorem coldReset_inRange (s : Chip) (cause rail : Nat) : (s.coldReset cause rail).framesInRange :=
  (coldClear_inRange s).of_pipe (by simp [Chip.coldReset])

theorem powersOn_inRange (hs : s.framesInRange) (x : PowerUp) : (s.powersOn x).framesInRange := by
  unfold Chip.powersOn
  split
  · exact hs
  · exact (coldClear_inRange s).of_pipe (by simp)

theorem railFalls_inRange (hs : s.framesInRange) (rail : Nat) : (s.railFalls rail).framesInRange := by
  unfold Chip.railFalls
  split
  · exact coldReset_inRange _ _ _
  · exact hs

theorem dipTimeout_inRange (hs : s.framesInRange) : s.dipTimeout.framesInRange := by
  unfold Chip.dipTimeout
  split
  · split
    · exact hs
    · exact coldReset_inRange _ _ _
  · exact hs

theorem xoBack_inRange (hs : s.framesInRange) : s.xoBack.framesInRange := by
  unfold Chip.xoBack
  split
  · exact coldReset_inRange _ _ _
  · exact hs

theorem unpower_inRange (s : Chip) : s.unpower.framesInRange := (coldClear_inRange s).of_pipe ⟨rfl, rfl⟩

theorem deviceReset_inRange (s : Chip) (mask : Nat) : (s.deviceReset mask).framesInRange := by
  have cleared : Chip.zero.framesInRange := empty_inRange rfl rfl
  exact cleared.of_pipe (by simp [Chip.deviceReset])

theorem softReset_inRange (s : Chip) : s.softReset.framesInRange :=
  (deviceReset_inRange s kS).of_pipe (by simp [Chip.softReset])

theorem warmBegins_inRange (hs : s.framesInRange) : s.warmBegins.framesInRange := by
  unfold Chip.warmBegins
  split
  · exact (deviceReset_inRange (s.abortSlots none) kW).of_pipe (by simp)
  · exact hs

theorem rstFalls_inRange (hs : s.framesInRange) : s.rstFalls.framesInRange := by
  have ht : ({ s with power := { s.power with rstLow := true } } : Chip).framesInRange := hs
  exact (warmBegins_inRange ht).of_pipe (holdHot_pipe _)

theorem tapTakes_inRange (hs : s.framesInRange) (i : TapInstr) (straps : BitVec 16) :
    (s.tapTakes i straps).framesInRange := by
  have ht : ({ s with power := { s.power with tap := i } } : Chip).framesInRange := hs
  unfold Chip.tapTakes
  extract_lets was t
  split
  · split
    · exact ht
    · exact warmBegins_inRange ht
  · split
    · exact ht.of_pipe (warmGoes_pipe _ _)
    · exact ht

theorem tapMoves_inRange (hs : s.framesInRange) (x : TapEvent) : (s.tapMoves x).framesInRange := by
  unfold Chip.tapMoves
  split
  · exact hs
  · split
    · next low _ =>
      have ht : ({ s with power := { s.power with trstLow := low } } : Chip).framesInRange := hs
      extract_lets t
      split
      · exact tapTakes_inRange ht _ _
      · exact ht
    · exact tapTakes_inRange hs _ _
    · split
      · exact hs
      · exact tapTakes_inRange hs _ _
    · split <;> exact hs

theorem memberFalls_inRange (hs : s.framesInRange) (m : Nat) : (s.memberFalls m).framesInRange := by
  unfold Chip.memberFalls
  extract_lets q x low up y t
  have left : ((s.setFuse q y).fuseStatus q).framesInRange := hs.of_pipe (by simp)
  have ht : t.framesInRange := endWaits_inRange (markHeld_inRange left _ _) _ _
  split
  · exact ht.of_pipe (by simp)
  · exact ht

theorem stopForGroup_inRange (hs : s.framesInRange) (m : Nat) : (s.stopForGroup m).framesInRange := by
  unfold Chip.stopForGroup
  extract_lets q t w u
  have ht : t.framesInRange := stopMember_inRange (emptyInput_inRange hs m false) m false
  have hw : w.framesInRange := flush_inRange ht _ _ _
  have hu : u.framesInRange :=
    foldl_inRange (fun x f hf hx => endFrame_inRange hx (hw.1 f (List.mem_filter.1 hf).1)) hw
  split
  · exact memberFalls_inRange hu _
  · exact hu

theorem beginGroupReset_inRange (hs : s.framesInRange) (g : Nat) : (s.beginGroupReset g).framesInRange := by
  unfold Chip.beginGroupReset
  extract_lets t u v
  have ht : t.framesInRange :=
    foldl_inRange (fun x m _ hx => stopForGroup_inRange hx m) (hs.of_pipe (calUpset_pipe _ _ _))
  exact ht.of_pipe (by simp [v, u])

theorem groupFault_inRange (hs : s.framesInRange) (g : Nat) : (s.groupFault g).framesInRange := by
  unfold Chip.groupFault
  split
  · exact hs
  · extract_lets now old t pw u
    have ht : t.framesInRange := beginGroupReset_inRange (hs.of_pipe (by simp)) g
    split <;> exact ht.of_pipe (by simp [u])

theorem beginPortReset_inRange (hs : s.framesInRange) (q : Nat) : (s.beginPortReset q).framesInRange := by
  unfold Chip.beginPortReset
  extract_lets ms t u v
  have ht : t.framesInRange := stopPort_inRange (hs.of_pipe (by simp)) _ _ _
  exact ht.of_pipe (by simp [v, u])

theorem darkPort_inRange (hs : s.framesInRange) (q : Nat) : (s.darkPort q).framesInRange :=
  (stopPort_inRange (hs.of_pipe (by simp)) q true F.admSubBreakLink).of_pipe (darkBits_pipe _ _ _)

theorem darkGroup_inRange (hs : s.framesInRange) (g : Nat) : (s.darkGroup g).framesInRange := by
  unfold Chip.darkGroup
  extract_lets t u
  have ht : t.framesInRange :=
    foldl_inRange (fun x p _ hx => stopPort_inRange hx p true F.admSubBreakLink) (hs.of_pipe (calUpset_pipe _ _ _))
  exact ht.of_pipe (by simp [u])

theorem enterStandby_inRange (s : Chip) : s.enterStandby.framesInRange := empty_inRange rfl rfl

theorem powerBegins_inRange (hs : s.framesInRange) (scope i st : Nat) : (s.powerBegins scope i st).framesInRange := by
  unfold Chip.powerBegins
  split
  · (repeat' split) <;> exact hs.of_pipe (by simp)
  · split
    · exact darkPort_inRange hs i
    · split
      · exact darkGroup_inRange hs i
      · exact enterStandby_inRange s

end

/-! ### The CLAPPER_MARKER (R341) -/

section
variable {s : Chip}

theorem releaseOne_inRange (hs : s.framesInRange) (e : Staged) : (s.releaseOne e).framesInRange := by
  unfold Chip.releaseOne
  extract_lets mail keep
  have hkeep : keep.framesInRange := hs
  split
  case h_1 =>
    split
    · exact hkeep
    · split <;> exact hs.of_pipe (by simp)
  case h_2 => exact hkeep
  case h_3 => exact hs.of_pipe (complete_pipe _ _ _ _)
  case h_4 =>
    split
    · exact hkeep
    · exact hs.of_pipe (calMarker_pipe _ _)
  case h_5 => exact (beginGroupReset_inRange (hs.of_pipe (by simp)) _).of_pipe (runsOn_pipe _ _)
  case h_6 => exact (beginPortReset_inRange hs _).of_pipe (runsOn_pipe _ _)
  case h_7 => exact (powerBegins_inRange hs _ _ _).of_pipe (runsOn_pipe _ _)
  case h_8 => exact hs
  all_goals exact hs.of_pipe (by simp)

theorem deviceResets_inRange (s : Chip) (n : Nat) : (s.deviceResets n).framesInRange := softReset_inRange _

theorem releaseAll_inRange (hs : s.framesInRange) : s.releaseAll.framesInRange := by
  unfold Chip.releaseAll
  extract_lets st ended mail t u late
  have ht : t.framesInRange := hs.of_pipe (by simp [t, ended])
  have released : (st.foldl Chip.releaseOne t).framesInRange := foldl_inRange (fun x e _ hx => releaseOne_inRange hx e) ht
  exact released.of_pipe (by simp [u])

theorem afterRelease_inRange (hs : s.framesInRange) (m : MarkerIn) (zero repeating : Bool) (lifted : List Nat)
    (old : Nat) (dip : Bool) : (s.afterRelease m zero repeating lifted old dip).framesInRange :=
  hs.of_pipe (afterRelease_pipe s m zero repeating lifted old dip)

theorem marker_inRange (hs : s.framesInRange) (m : MarkerIn) : (s.marker m).framesInRange := by
  unfold Chip.marker
  split
  · exact hs
  · extract_lets zero repeating released marked c c' t u v
    have hc : c'.framesInRange := by
      simp only [c']
      split <;> exact hs.of_pipe (by simp [c, marked])
    have hu : u.framesInRange := by
      simp only [u]
      split <;> exact hc.of_pipe (by simp [t])
    split
    · exact deviceResets_inRange _ _
    · have hv : v.framesInRange := by
        simp only [v]
        split
        · exact releaseAll_inRange hu
        · split
          · exact hu.of_pipe (repeatClapper_pipe _)
          · exact hu
      exact afterRelease_inRange hv _ _ _ _ _ _

end

/-! ### Register writes (R27 to R36) -/

section
variable {s : Chip}

theorem ite_option_inRange {k : Prop} [Decidable k] {o u : Option Chip} (ho : ∀ c ∈ o, c.framesInRange)
    (hu : ∀ c ∈ u, c.framesInRange) : ∀ c ∈ (if k then o else u), c.framesInRange := by
  split
  · exact ho
  · exact hu

theorem ite_some_inRange {t : Chip} {k : Prop} [Decidable k] {u : Option Chip} (ht : t.framesInRange)
    (hu : ∀ c ∈ u, c.framesInRange) : ∀ c ∈ (if k then some t else u), c.framesInRange :=
  ite_option_inRange (fun _ hc => Option.some_injective _ hc ▸ ht) hu

theorem portWrite_inRange (hs : s.framesInRange) (q page o : Nat) (p t : Word) :
    ∀ c ∈ s.portWrite q page o p t, c.framesInRange := by
  have written : ∀ {u : Chip}, u.pipesAs s → u.framesInRange := hs.of_pipe
  have applied : (if bit t 0 then s.applyTree q else s).framesInRange := by
    split
    · exact written (applyTree_pipe _ _)
    · exact hs
  exact ite_some_inRange (written (modeWrite_pipe _ _ _)) <| ite_some_inRange (ctrlWrite_inRange hs q p) <|
    ite_some_inRange (written (maxframeWrite_pipe _ _ _)) <| ite_some_inRange (written (modeHeld_pipe _ _)) <|
    ite_some_inRange (written (mergeWrite_pipe _ _ _)) <| ite_some_inRange (written (mapWrite_pipe _ _ _ _)) <|
    ite_some_inRange (written (modeHeld_pipe _ _)) <| ite_some_inRange applied <|
    ite_some_inRange (written (by simp)) <| by simp

theorem eventWrite_inRange (hs : s.framesInRange) (e o : Nat) (be : BitVec 4) (p w : Word) :
    ∀ c ∈ s.eventWrite e o be p w, c.framesInRange := by
  have counted : ∀ c ∈ (if s.getN (F.evCtrlMode e) = 2 then some s
      else if o = 0x60 then some ((s.writeWord (0x51060 + e * 0x1000) be w).dmaRestart e) else none), c.framesInRange :=
    ite_some_inRange hs <| ite_some_inRange (hs.of_pipe (by simp)) <| by simp
  refine ite_some_inRange (hs.of_pipe (evCtrlWrite_pipe _ _ _)) ?_
  split
  · exact counted
  · exact ite_some_inRange (hs.of_pipe (by simp)) (by simp)

theorem actingWrite_inRange (hs : s.framesInRange) (addr : Nat) (be : BitVec 4) (p t w : Word) :
    ∀ c ∈ s.actingWrite addr be p t w, c.framesInRange := by
  have written : ∀ {u : Chip}, u.pipesAs s → u.framesInRange := hs.of_pipe
  have acts : ∀ (on : Bool) {u : Chip}, u.pipesAs s → (if on then u else s).framesInRange := by
    intro on u hu
    split
    · exact written hu
    · exact hs
  unfold Chip.actingWrite
  extract_lets pg o
  refine ite_option_inRange (portWrite_inRange hs _ _ _ _ _) <| ite_option_inRange (eventWrite_inRange hs _ _ _ _ _) <|
    ite_some_inRange (written (shareWrite_pipe _ _ _ _)) <| ite_some_inRange (written (limitWrite_pipe _ _ _ _)) <|
    ite_some_inRange (written (clkWrite_pipe _ _ _)) <| ite_some_inRange (written (ppsWrite_pipe _ _ _ _)) <|
    ite_some_inRange (written (tbCfgWrite_pipe _ _)) <| ite_some_inRange (written (strapWrite_pipe _ _)) <|
    ite_some_inRange (written (injectWrite_pipe _ _ _)) <| ite_some_inRange (written (by simp)) <|
    ite_some_inRange (written (windowTrigger_pipe _ _ _ _)) <| ite_some_inRange (acts _ (convert_pipe _)) <|
    ite_some_inRange (acts _ (sessTrigger_pipe _)) <| ite_some_inRange (acts _ (archTrigger_pipe _)) ?_
  split
  · intro c hc
    rw [← Option.some_injective _ hc]
    split <;> exact written (by simp)
  · simp

theorem upsetBit_inRange (hs : s.framesInRange) (addr k : Nat) : (s.upsetBit addr k).framesInRange := by
  unfold Chip.upsetBit
  split
  · exact hs
  · split
    · exact hs.of_pipe (toggleParity_pipe _ _)
    · split
      · extract_lets g t w acts
        have ht : t.framesInRange := hs.of_pipe (set_pipe _ _ _)
        have hacts : ∀ c ∈ acts, c.framesInRange := ite_option_inRange (actingWrite_inRange hs _ _ _ _ _) (by simp)
        have hgot : (acts.getD t).framesInRange := by
          cases h : acts with
          | none => exact ht
          | some c => exact hacts c h
        exact hgot.of_pipe (by simp)
      · exact hs

theorem parityScan_inRange (hs : s.framesInRange) (upsets : List (BitVec 26 × Fin 33)) :
    (s.parityScan upsets).framesInRange := by
  unfold Chip.parityScan
  split
  · exact hs
  · extract_lets t
    have ht : t.framesInRange := foldl_inRange (fun u x _ hu => upsetBit_inRange hu _ _) hs
    exact ht.of_pipe (by simp)

theorem writeReg_inRange (hs : s.framesInRange) (before : Chip) (path : Path) (addr : Nat) (be : BitVec 4) (w : Word) :
    (s.writeReg before path addr be w).framesInRange := by
  unfold Chip.writeReg
  split
  · next c h =>
    have hc : c.framesInRange := actingWrite_inRange hs _ _ _ _ _ c h
    split
    · exact hc
    · exact hc.of_pipe (parityRestored_pipe _ _ _)
  · split
    · split
      · extract_lets t
        have ht : t.framesInRange := hs.of_pipe (wideWrite_pipe _ _ _ _ _ _)
        split
        · exact ht.of_pipe (dmaRestart_pipe _ _)
        · exact ht
      · exact hs
    · exact hs.of_pipe (by simp)

theorem pageWrite_inRange (hs : s.framesInRange) (before : Chip) (path : Path) (addr : Nat) (be : BitVec 4) (w : Word) :
    (s.pageWrite before path addr be w).framesInRange := by
  unfold Chip.pageWrite
  extract_lets pg t
  split
  · exact hs.of_pipe (by simp)
  · split
    · split <;> exact hs.of_pipe (by simp)
    · split
      · exact hs.of_pipe (by simp)
      · split
        · exact hs.of_pipe (trgLost_pipe _ _)
        · split
          · exact hs
          · exact writeReg_inRange hs _ _ _ _ _

theorem busWrite_inRange (hs : s.framesInRange) (path : Path) (addr : Nat) (be : BitVec 4) (w : Word) :
    (s.busWrite path addr be w).framesInRange := by
  unfold Chip.busWrite
  extract_lets pg t
  have ht : t.framesInRange := hs.of_pipe (by simp [t])
  split
  · exact ht
  · exact pageWrite_inRange ht _ _ _ _ _

theorem hostWrite_inRange (hs : s.framesInRange) (path : Path) (addr : Nat) (be : BitVec 4) (w : Word) :
    (s.hostWrite path addr be w).framesInRange := by
  unfold Chip.hostWrite
  split
  · exact hs.of_pipe (notReached_pipe _ _)
  · split
    · exact (busWrite_inRange hs path _ _ w).of_pipe (answer1_pipe _ _ _ _)
    · split <;> exact hs.of_pipe (by simp)

theorem memWrites_inRange (hs : s.framesInRange) (a n : Nat) (be : Nat → BitVec 4) (data : List Word) :
    (s.memWrites a n be data).framesInRange := by
  refine foldl_inRange (fun t k _ ht => ?_) hs
  split
  · exact busWrite_inRange ht _ _ _ _
  · exact ht.of_pipe (ringWrite_pipe _ _ _ _)

theorem memServed_inRange (hs : s.framesInRange) (isWrite : Bool) (cut : Option Nat) (a : Nat) (be : Nat → BitVec 4)
    (count : Nat) (data : List Word) : (s.memServed isWrite cut a be count data).framesInRange := by
  unfold Chip.memServed
  split
  · exact hs.of_pipe (by simp)
  · split
    · exact (memWrites_inRange hs _ _ _ _).of_pipe (answer1_pipe _ _ _ _)
    · exact hs.of_pipe (by simp)

theorem memRequest_inRange (hs : s.framesInRange) (op : PcieOp) (addr : Nat) (firstBe lastBe : BitVec 4) (count : Nat)
    (data : List Word) : (s.memRequest op addr firstBe lastBe count data).framesInRange := by
  cases op with
  | powerState d | tableWrite k =>
    refine hs.of_pipe ?_
    dsimp only [Chip.memRequest]
    split <;> simp
  | write cut | read cut =>
    dsimp only [Chip.memRequest]
    split
    · exact hs.of_pipe (unanswered_pipe _)
    · exact memServed_inRange hs _ _ _ _ _ _

theorem blockWrite_inRange (hs : s.framesInRange) (head : SmbHead) (count : Nat) (offset data : Word) (pec : Pec) :
    (s.blockWrite head count offset data pec).framesInRange := by
  unfold Chip.blockWrite
  extract_lets t
  have ht : t.framesInRange := hs
  have written : ((t.busWrite .smbus offset.toNat 0xF data).answer1 [] false false).framesInRange :=
    (busWrite_inRange ht _ _ _ _).of_pipe (answer1_pipe _ _ _ _)
  split
  · exact ht.of_pipe (answer1_pipe _ _ _ _)
  · cases pec with
    | cut | bad => exact ht.of_pipe (by simp)
    | good => exact written
    | none =>
      dsimp only
      split
      · exact ht.of_pipe (answer1_pipe _ _ _ _)
      · exact written

end

/-! ### O4: every step keeps the frames in range -/

section
variable {s t : State}

theorem done_inRange {u : Chip} (hu : u.framesInRange) (h : done s u = .next t) : t.chip.framesInRange := by
  cases h
  exact hu

/-- Commands that write registers or move frames keep the range by the rules above; every other one leaves the pipeline as
it stands. -/
theorem exec_inRange (hs : s.chip.framesInRange) (c : Instr) (h : exec c s = .next t) : t.chip.framesInRange := by
  cases c
  case registerWrite | wideWrite | convert | tblRead | tblWrite | schdRead | schdWrite | archRead | apply | injectA | injectB
      | injectBoth | go | portModeWrite | twoShotWrite | enableWrite | mergeEnWrite | clkoutCfgWrite | ppsoutCfgWrite
      | evModeWrite | rwpWrite =>
    exact done_inRange (hostWrite_inRange hs _ _ _ _) h
  case sessRead => exact done_inRange ((hostWrite_inRange hs _ _ _ _).of_pipe (sessMeets_pipe _ _ _)) h
  case pcieMemRequest => exact done_inRange (memRequest_inRange hs _ _ _ _ _ _) h
  case smbusBlockWrite => exact done_inRange (blockWrite_inRange hs _ _ _ _ _) h
  case parityScan => exact done_inRange (parityScan_inRange hs _) h
  case frameReceive => exact done_inRange (receive_inRange hs _) h
  case seqWaitExpiry => exact done_inRange (seqExpiry_inRange hs _) h
  case txRingServe => exact done_inRange (serveTx_inRange hs _) h
  case frameAdmission => exact done_inRange (admission_inRange hs _) h
  case frameTailAdmission => exact done_inRange (tailAdmission_inRange hs _ _) h
  case cellForm => exact done_inRange (cellForm_inRange hs _) h
  case schedulerSlot => exact done_inRange (schedSlot_inRange hs _ _) h
  case txFrameStart => exact done_inRange (txStart_inRange hs _ _ _ _) h
  case txUnderrun => exact done_inRange (underrun_inRange hs _ _) h
  case txFrameEnd => exact done_inRange (txEnd_inRange hs _ _ _) h
  case fuseMarkerRx => exact done_inRange (markerRx_inRange hs _ _) h
  case linkDown => exact done_inRange (linkDown_inRange hs _ _ _) h
  case holdExpiry => exact done_inRange (holdExpiry_inRange hs _ _) h
  case linkUp => exact done_inRange (linkComesUp_inRange hs _ _) h
  case lanePllLol => exact done_inRange (laneLol_inRange hs _ _) h
  case clapperMarker => exact done_inRange (marker_inRange hs _) h
  case groupFault => exact done_inRange (groupFault_inRange hs _) h
  case dipTimeout => exact done_inRange (dipTimeout_inRange hs) h
  case railResetLevel => exact done_inRange (railFalls_inRange hs _) h
  case powerOn => exact done_inRange (powersOn_inRange hs _) h
  case xoReturn => exact done_inRange (xoBack_inRange hs) h
  case warmResetAssert => exact done_inRange (rstFalls_inRange hs) h
  case jtagInstruction => exact done_inRange (tapMoves_inRange hs _) h
  case vddAuxRemoval => exact done_inRange (unpower_inRange _) h
  all_goals exact done_inRange (hs.of_pipe (by simp)) h

end

/-- Settles O4: the range holds of every state a step can reach from one where it holds, since each command, and an edge of
time, either leaves the pipeline as it stands or moves its frames and cells within it. -/
theorem stepKeepsFramesInRange : Obligations.StepKeepsFramesInRange := by
  unfold Obligations.StepKeepsFramesInRange
  intro s t hs h
  unfold step at h
  split at h
  · exact done_inRange (hs.of_pipe (elapse_pipe _ 1)) h
  · next c rest _ => exact exec_inRange (s := { s with pending := rest }) hs c h

end Sys2Proof.Machine

/-!
## O5: the descriptor memory of the packet rings stays in its canonical form

First one rule per operation that leaves the memory as it stands, in the order of the model's parts. Then the operations that
write descriptors or empty the memory, and what is built on them. Last the step.
-/

namespace Sys2Proof.Machine

theorem foldl_ringMem_of {β γ : Type} (chip : γ → Chip) {g : γ → β → γ} (h : ∀ c b, (chip (g c b)).ringMem = (chip c).ringMem)
    (l : List β) : ∀ c : γ, (chip (l.foldl g c)).ringMem = (chip c).ringMem := by
  induction l with
  | nil => exact fun c => rfl
  | cons b l ih => exact fun c => (ih _).trans (h c b)

@[simp] theorem foldl_ringMem {β : Type} {g : Chip → β → Chip} (h : ∀ t b, (g t b).ringMem = t.ringMem) (l : List β) (s : Chip) :
    (l.foldl g s).ringMem = s.ringMem :=
  foldl_ringMem_of id h l s

@[simp] theorem ite_ringMem {c : Prop} [Decidable c] (s t : Chip) :
    (if c then s else t).ringMem = if c then s.ringMem else t.ringMem := apply_ite Chip.ringMem c s t

section
variable {β : Type} (s : Chip) (g : β → Fld) (l : List β)

@[simp] theorem foldl_set_ringMem (v : β → Word) : (l.foldl (fun t b => t.set (g b) (v b)) s).ringMem = s.ringMem :=
  foldl_ringMem (fun t b => set_ringMem t (g b) (v b)) l s

@[simp] theorem foldl_setN_ringMem (v : β → Nat) : (l.foldl (fun t b => t.setN (g b) (v b)) s).ringMem = s.ringMem :=
  foldl_ringMem (fun t b => setN_ringMem t (g b) (v b)) l s

@[simp] theorem foldl_setB_ringMem (v : β → Bool) : (l.foldl (fun t b => t.setB (g b) (v b)) s).ringMem = s.ringMem :=
  foldl_ringMem (fun t b => setB_ringMem t (g b) (v b)) l s

end

theorem ite_fst_ringMem (s : Chip) {α : Type} {c : Prop} [Decidable c] {a b : Chip × α} (ha : a.1.ringMem = s.ringMem)
    (hb : b.1.ringMem = s.ringMem) : (if c then a else b).1.ringMem = s.ringMem := by
  split
  · exact ha
  · exact hb

section
variable (s : Chip)

/-! ### Ops -/

@[simp] theorem setMax_ringMem (f : Fld) (v : Nat) : (s.setMax f v).ringMem = s.ringMem := by simp [Chip.setMax]
@[simp] theorem pageFault_ringMem (k pg : Nat) : (s.pageFault k pg).ringMem = s.ringMem := by simp [Chip.pageFault]
@[simp] theorem addSat_ringMem (f : Fld) (n : Nat) : (s.addSat f n).ringMem = s.ringMem := by simp [Chip.addSat]
@[simp] theorem countSat_ringMem (f : Fld) (n : Nat) : (s.countSat f n).ringMem = s.ringMem := by simp [Chip.countSat]
@[simp] theorem show_ringMem (f : Fld) (v : Nat) : (s.show f v).ringMem = s.ringMem := by simp [Chip.show]
@[simp] theorem showB_ringMem (f : Fld) (v : Bool) : (s.showB f v).ringMem = s.ringMem := by simp [Chip.showB]
@[simp] theorem resetPages_ringMem (mask : Nat) (acts : Nat → Bool) : (s.resetPages mask acts).ringMem = s.ringMem := by simp [Chip.resetPages]
@[simp] theorem setLink_ringMem (p sub : Nat) (l : Link) : (s.setLink p sub l).ringMem = s.ringMem := by simp [Chip.setLink]
@[simp] theorem freeCells_ringMem (o n : Nat) : (s.freeCells o n).ringMem = s.ringMem := by simp [Chip.freeCells]

@[simp] theorem breakPromise_ringMem (f : Frame) (ctr : Nat → Nat → Fld) : (s.breakPromise f ctr).ringMem = s.ringMem := by
  simp [Chip.breakPromise]

@[simp] theorem setSched_ringMem (p : Nat) (t : Sched) : (s.setSched p t).ringMem = s.ringMem := by simp [Chip.setSched]

@[simp] theorem passClocks_ringMem (n : Nat) : (s.passClocks n).ringMem = s.ringMem := by
  refine foldl_ringMem (fun t k => ?_) _ s
  simp

@[simp] theorem passTime_ringMem (n : Nat) : (s.passTime n).ringMem = s.ringMem := by simp [Chip.passTime]
@[simp] theorem elapse_ringMem (n : Nat) : (s.elapse n).ringMem = s.ringMem := by simp [Chip.elapse]
@[simp] theorem setCand_ringMem (c : Nat) (x : CandState) : (s.setCand c x).ringMem = s.ringMem := by simp [Chip.setCand]
@[simp] theorem slotsLoseLink_ringMem (p sub : Nat) : (s.slotsLoseLink p sub).ringMem = s.ringMem := by simp [Chip.slotsLoseLink]
@[simp] theorem slotsLoseAnnounce_ringMem (n : Nat) : (s.slotsLoseAnnounce n).ringMem = s.ringMem := by simp [Chip.slotsLoseAnnounce]

@[simp] theorem calUpset_ringMem (cause : Nat) (applies : Nat → Nat → Bool) : (s.calUpset cause applies).ringMem = s.ringMem := by
  unfold Chip.calUpset
  (repeat' split) <;> simp

@[simp] theorem markWorn_ringMem (i : Nat) : (s.markWorn i).ringMem = s.ringMem := by simp [Chip.markWorn]
@[simp] theorem queueCommit_ringMem (i : Nat) (v : Word) : (s.queueCommit i v).ringMem = s.ringMem := by simp [Chip.queueCommit]

/-! ### Stamps -/

@[simp] theorem slate_ringMem (kind index flags : Nat) (stamp : Raw) : (s.slate kind index flags stamp).1.ringMem = s.ringMem := by
  simp [Chip.slate]

@[simp] theorem slateIsLost_ringMem (kind index : Nat) : (s.slateIsLost kind index).ringMem = s.ringMem := by simp [Chip.slateIsLost]
@[simp] theorem addKib_ringMem (f : Fld) (bytes : Nat) : (s.addKib f bytes).ringMem = s.ringMem := by simp [Chip.addKib]
@[simp] theorem countSent_ringMem (m sub len : Nat) : (s.countSent m sub len).ringMem = s.ringMem := by simp [Chip.countSent]

@[simp] theorem emit_ringMem (m sub : Nat) (a : LineStamp) (f : BitVec 128 → Sent) : (s.emit m sub a f).ringMem = s.ringMem := by
  simp [Chip.emit]

@[simp] theorem emitMac_ringMem (m sub : Nat) (dmac : BitVec 48) (etype : BitVec 16) (b : SentBody) :
    (s.emitMac m sub dmac etype b).ringMem = s.ringMem := by
  simp [Chip.emitMac]

/-! ### Promise -/

@[simp] theorem setGate_ringMem (p : Nat) (g : Gate) : (s.setGate p g).ringMem = s.ringMem := by simp [Chip.setGate]
@[simp] theorem setBounds_ringMem (p sub : Nat) (b : List Nat) : (s.setBounds p sub b).ringMem = s.ringMem := by simp [Chip.setBounds]
@[simp] theorem rebound_ringMem (p sub : Nat) : (s.rebound p sub).ringMem = s.ringMem := by simp [Chip.rebound]
@[simp] theorem reboundPort_ringMem (p : Nat) : (s.reboundPort p).ringMem = s.ringMem := by simp [Chip.reboundPort]
@[simp] theorem syncLedger_ringMem (p sub : Nat) : (s.syncLedger p sub).ringMem = s.ringMem := by simp [Chip.syncLedger]

/-! ### Lookup -/

@[simp] theorem setTable_ringMem (w : Nat) (t : Store (BitVec 128)) : (s.setTable w t).ringMem = s.ringMem := by simp [Chip.setTable]
@[simp] theorem putEntry_ringMem (w i : Nat) (v : BitVec 128) : (s.putEntry w i v).ringMem = s.ringMem := by simp [Chip.putEntry]
@[simp] theorem meetUpset_ringMem (h : ScrubHit) : (s.meetUpset h).ringMem = s.ringMem := by simp [Chip.meetUpset]
@[simp] theorem readMeets_ringMem (hits : List ScrubHit) (w i : Nat) : (s.readMeets hits w i).ringMem = s.ringMem := by simp [Chip.readMeets]

@[simp] theorem ringAdvance_ringMem (n : Nat) : (s.ringAdvance n).ringMem = s.ringMem := by
  have counted : ((s.setN (F.ringHead n) ((s.getN (F.ringHead n) + 1) % s.ringSize n)).bump (F.ringFrames n)).ringMem = s.ringMem := by
    simp
  have raised : ∀ t : Chip, t.ringMem = s.ringMem → (if t.flag (F.ringCtrlIrqEn n) then t.raise n else t).ringMem = s.ringMem := by
    intro t ht
    split <;> simp [ht]
  exact raised _ counted

@[simp] theorem viaNextHop_ringMem (f : RxFrame) (nhIndex : Nat) (stack : List (BitVec 32)) (etype : BitVec 16)
    (under : List (BitVec 16 × BitVec 16)) (len cls : Nat) (bind : Nat → Nat → Option Nat × Bool) :
    (s.viaNextHop f nhIndex stack etype under len cls bind).1.ringMem = s.ringMem := by
  unfold Chip.viaNextHop
  dsimp only
  (repeat' split) <;> simp

@[simp] theorem detnet_ringMem (hits : List ScrubHit) (p i : Nat) (dcw : BitVec 32) (deep : Bool) :
    (s.detnet hits p i dcw deep).ringMem = s.ringMem := by
  simp [Chip.detnet]

@[simp] theorem finish_ringMem (f : RxFrame) (fromHost : Bool) (e : BitVec 128) (stack : List (BitVec 32)) (etype : BitVec 16) :
    (s.finish f fromHost e stack etype).1.ringMem = s.ringMem := by
  unfold Chip.finish
  dsimp only
  (repeat' split) <;> simp

@[simp] theorem endOfStack_ringMem (p : Nat) : (s.endOfStack p).1.ringMem = s.ringMem := by simp [Chip.endOfStack]

@[simp] theorem exposePayload_ringMem (f : RxFrame) (fromHost : Bool) (e : BitVec 128) :
    (s.exposePayload f fromHost e).1.ringMem = s.ringMem := by
  unfold Chip.exposePayload
  (repeat' split) <;> simp

@[simp] theorem pathLookup_ringMem (f : RxFrame) (fromHost : Bool) (top : BitVec 32) (left seen : Nat)
    (l : List (BitVec 32)) : (s.pathLookup f fromHost top left seen l).1.ringMem = s.ringMem := by
  induction l generalizing s left seen with
  | nil => simp [Chip.pathLookup]
  | cons cur rest ih =>
    unfold Chip.pathLookup
    extract_lets p q i s' e act t tc cls labels
    have hs : s'.ringMem = s.ringMem := by simp [s']
    clear_value p q i s' e act t tc cls labels
    refine ite_fst_ringMem s hs (ite_fst_ringMem s (by simp [hs]) (ite_fst_ringMem s hs (ite_fst_ringMem s hs (ite_fst_ringMem s (by simp [hs])
      (ite_fst_ringMem s (by simp [hs]) (ite_fst_ringMem s ?pop (ite_fst_ringMem s (by simp [hs]) (ite_fst_ringMem s (by simp [hs]) ?under))))))))
    case pop => cases left <;> simp [apply_ite Prod.fst, ih, hs]
    case under => cases rest <;> simp [apply_ite Prod.fst, hs]

@[simp] theorem nonMpls_ringMem (f : RxFrame) : (s.nonMpls f).1.ringMem = s.ringMem := by
  unfold Chip.nonMpls
  dsimp only
  (repeat' split) <;> simp

@[simp] theorem lookup_ringMem (f : RxFrame) (fromHost : Bool) : (s.lookup f fromHost).1.ringMem = s.ringMem := by
  unfold Chip.lookup
  dsimp only
  (repeat' split) <;> simp

@[simp] theorem setFuse_ringMem (p : Nat) (x : Fuse) : (s.setFuse p x).ringMem = s.ringMem := by simp [Chip.setFuse]

@[simp] theorem recordEarly_ringMem (p : Nat) (t : TsTag) (f : RxFrame) (v : Verdict) : (s.recordEarly p t f v).ringMem = s.ringMem := by
  simp [Chip.recordEarly]

@[simp] theorem skipNumber_ringMem (v : Verdict) : (s.skipNumber v).ringMem = s.ringMem := by
  cases v <;> simp [Chip.skipNumber]

/-! ### Fabric -/

@[simp] theorem bucketTake_ringMem (i bytes : Nat) : (s.bucketTake i bytes).ringMem = s.ringMem := by simp [Chip.bucketTake]
@[simp] theorem bucketReturn_ringMem (i bytes : Nat) : (s.bucketReturn i bytes).ringMem = s.ringMem := by simp [Chip.bucketReturn]
@[simp] theorem oversize_ringMem (id : Nat) (r : Tail) : (s.oversize id r).ringMem = s.ringMem := by simp [Chip.oversize]

@[simp] theorem tailRecord_ringMem (id : Nat) : (s.tailRecord id).ringMem = s.ringMem := by
  unfold Chip.tailRecord
  (repeat' split) <;> simp

@[simp] theorem limitWrite_ringMem (o c v : Nat) : (s.limitWrite o c v).ringMem = s.ringMem := by simp [Chip.limitWrite]
@[simp] theorem setLimits_ringMem (o v : Nat) : (s.setLimits o v).ringMem = s.ringMem := by simp [Chip.setLimits]
@[simp] theorem setStoreFree_ringMem (k n : Nat) : (s.setStoreFree k n).ringMem = s.ringMem := by simp [Chip.setStoreFree]
@[simp] theorem startSweep_ringMem (k : Nat) : (s.startSweep k).ringMem = s.ringMem := by simp [Chip.startSweep]
@[simp] theorem auditStore_ringMem (k : Nat) : (s.auditStore k).ringMem = s.ringMem := by simp [Chip.auditStore]
@[simp] theorem leak_ringMem (k n : Nat) : (s.leak k n).ringMem = s.ringMem := by simp [Chip.leak]
@[simp] theorem double_ringMem (k n : Nat) : (s.double k n).ringMem = s.ringMem := by simp [Chip.double]
@[simp] theorem driftStore_ringMem (d : Fin 96 × Int) : (s.driftStore d).ringMem = s.ringMem := by simp [Chip.driftStore]
@[simp] theorem audit_ringMem (drift : List (Fin 96 × Int)) : (s.audit drift).ringMem = s.ringMem := by simp [Chip.audit]
@[simp] theorem mismatch_ringMem : (s.mismatch).ringMem = s.ringMem := by simp [Chip.mismatch]
@[simp] theorem fence_ringMem (isB : Bool) : (s.fence isB).ringMem = s.ringMem := by simp [Chip.fence]
@[simp] theorem reloadReplica_ringMem : (s.reloadReplica).ringMem = s.ringMem := by simp [Chip.reloadReplica]
@[simp] theorem sweepDone_ringMem (k : Nat) : (s.sweepDone k).ringMem = s.ringMem := by simp [Chip.sweepDone]
@[simp] theorem inject_ringMem (a b : Bool) : (s.inject a b).ringMem = s.ringMem := by simp [Chip.inject]

/-! ### Tx -/

@[simp] theorem nodeEcc_ringMem (q : Nat) (k : Nat) (e : Ecc) : (s.nodeEcc q k e).ringMem = s.ringMem := by
  unfold Chip.nodeEcc
  (repeat' split) <;> simp

@[simp] theorem freeEcc_ringMem (f : Frame) (upper : Bool) (e : Ecc) : (s.freeEcc f upper e).ringMem = s.ringMem := by
  unfold Chip.freeEcc
  (repeat' split) <;> simp

@[simp] theorem takeSeq_ringMem (q : Nat) (express : Bool) : (s.takeSeq q express).ringMem = s.ringMem := by simp [Chip.takeSeq]

@[simp] theorem readCells_ringMem (n : Nat) (l : List Ecc) : (s.readCells n l).1.ringMem = s.ringMem := by
  induction l generalizing s n with
  | nil => simp [Chip.readCells]
  | cons x l ih => cases x <;> simp [Chip.readCells, ih]

@[simp] theorem takeBoundary_ringMem (p : Nat) : (s.takeBoundary p).ringMem = s.ringMem := by simp [Chip.takeBoundary]

@[simp] theorem gateEvent_ringMem (p : Nat) (ecc : Ecc) : (s.gateEvent p ecc).ringMem = s.ringMem := by
  unfold Chip.gateEvent
  (repeat' split) <;> simp

@[simp] theorem syncTake_ringMem (p : Nat) : (s.syncTake p).ringMem = s.ringMem := by simp [Chip.syncTake]

@[simp] theorem cutOver_ringMem (p : Nat) : (s.cutOver p).ringMem = s.ringMem := by
  unfold Chip.cutOver
  dsimp only
  (repeat' split) <;> simp

@[simp] theorem stepGate_ringMem (p old : Nat) : (s.stepGate p old).ringMem = s.ringMem := by simp [Chip.stepGate]

@[simp] theorem shadowEcc_ringMem (p : Nat) (x : Fin 256 × Ecc) : (s.shadowEcc p x).ringMem = s.ringMem := by
  unfold Chip.shadowEcc
  (repeat' split) <;> simp

@[simp] theorem showTree_ringMem (p : Nat) (failure : Option (Nat × Nat × Nat)) : (s.showTree p failure).ringMem = s.ringMem := by
  unfold Chip.showTree
  (repeat' split) <;> simp

@[simp] theorem treeChecked_ringMem (p : Nat) (upsets : List (Fin 256 × Ecc)) : (s.treeChecked p upsets).ringMem = s.ringMem := by
  unfold Chip.treeChecked
  dsimp only
  (repeat' split) <;> simp

@[simp] theorem resetTree_ringMem (p n : Nat) : (s.resetTree p n).ringMem = s.ringMem := by simp [Chip.resetTree]
@[simp] theorem resetGate_ringMem (p : Nat) : (s.resetGate p).ringMem = s.ringMem := by simp [Chip.resetGate]

/-! ### Ports -/

@[simp] theorem restartSessions_ringMem (test : BitVec 256 → Bool) : (s.restartSessions test).ringMem = s.ringMem := by
  simp [Chip.restartSessions]

@[simp] theorem modeHeld_ringMem (p : Nat) : (s.modeHeld p).ringMem = s.ringMem := by simp [Chip.modeHeld]
@[simp] theorem changeFuse_ringMem (p : Nat) (on : Bool) : (s.changeFuse p on).ringMem = s.ringMem := by simp [Chip.changeFuse]
@[simp] theorem applyMode_ringMem (p : Nat) (run : Nat × Bool) : (s.applyMode p run).ringMem = s.ringMem := by simp [Chip.applyMode]

@[simp] theorem wakeMode_ringMem (p : Nat) : (s.wakeMode p).ringMem = s.ringMem := by
  unfold Chip.wakeMode
  (repeat' split) <;> simp

@[simp] theorem modeWrite_ringMem (p : Nat) (w : Word) : (s.modeWrite p w).ringMem = s.ringMem := by simp [Chip.modeWrite]
@[simp] theorem maxframeWrite_ringMem (p : Nat) (w : Word) : (s.maxframeWrite p w).ringMem = s.ringMem := by simp [Chip.maxframeWrite]
@[simp] theorem mapWrite_ringMem (p k : Nat) (w : Word) : (s.mapWrite p k w).ringMem = s.ringMem := by simp [Chip.mapWrite]
@[simp] theorem startSub_ringMem (p sub : Nat) : (s.startSub p sub).ringMem = s.ringMem := by simp [Chip.startSub]
@[simp] theorem startSubs_ringMem (q : Nat) (which : Nat → Bool) : (s.startSubs q which).ringMem = s.ringMem := by simp [Chip.startSubs]
@[simp] theorem restart_ringMem (q : Nat) : (s.restart q).ringMem = s.ringMem := by simp [Chip.restart]
@[simp] theorem mergeStop_ringMem (m sub : Nat) : (s.mergeStop m sub).ringMem = s.ringMem := by simp [Chip.mergeStop]
@[simp] theorem mergeStart_ringMem (m sub : Nat) : (s.mergeStart m sub).ringMem = s.ringMem := by simp [Chip.mergeStart]
@[simp] theorem mergeWrite_ringMem (p : Nat) (w : Word) : (s.mergeWrite p w).ringMem = s.ringMem := by simp [Chip.mergeWrite]
@[simp] theorem verifyDone_ringMem (p sub : Nat) (ok : Bool) : (s.verifyDone p sub ok).ringMem = s.ringMem := by simp [Chip.verifyDone]
@[simp] theorem showFuse_ringMem (p : Nat) (f : Fld) (v : Bool) : (s.showFuse p f v).ringMem = s.ringMem := by simp [Chip.showFuse]
@[simp] theorem fuseStatus_ringMem (p : Nat) : (s.fuseStatus p).ringMem = s.ringMem := by simp [Chip.fuseStatus]
@[simp] theorem markerMissed_ringMem (p : Nat) : (s.markerMissed p).ringMem = s.ringMem := by simp [Chip.markerMissed]
@[simp] theorem sendMarker_ringMem (p m : Nat) : (s.sendMarker p m).ringMem = s.ringMem := by simp [Chip.sendMarker]
@[simp] theorem fuseMarkerTime_ringMem (p : Nat) : (s.fuseMarkerTime p).ringMem = s.ringMem := by simp [Chip.fuseMarkerTime]
@[simp] theorem pcsAligned_ringMem (m sub : Nat) : (s.pcsAligned m sub).ringMem = s.ringMem := by simp [Chip.pcsAligned]
@[simp] theorem patternErrors_ringMem (p k n : Nat) : (s.patternErrors p k n).ringMem = s.ringMem := by simp [Chip.patternErrors]
@[simp] theorem trainLane_ringMem (p k : Nat) (l : TrainedLane) : (s.trainLane p k l).ringMem = s.ringMem := by simp [Chip.trainLane]

@[simp] theorem trained_ringMem (p sub : Nat) (lanes : List TrainedLane) : (s.trained p sub lanes).ringMem = s.ringMem := by
  simp [Chip.trained]

@[simp] theorem anFails_ringMem (p sub : Nat) : (s.anFails p sub).ringMem = s.ringMem := by simp [Chip.anFails]
@[simp] theorem anAgain_ringMem (p sub : Nat) : (s.anAgain p sub).ringMem = s.ringMem := by simp [Chip.anAgain]

/-! ### Time -/

@[simp] theorem setWide_ringMem (lo hi : Fld) (v : Nat) : (s.setWide lo hi v).ringMem = s.ringMem := by simp [Chip.setWide]
@[simp] theorem refreshValid_ringMem : (s.refreshValid).ringMem = s.ringMem := by simp [Chip.refreshValid]
@[simp] theorem servoState_ringMem (st : Nat) : (s.servoState st).ringMem = s.ringMem := by simp [Chip.servoState]
@[simp] theorem setDolly_ringMem (d : Int) (held : Bool) : (s.setDolly d held).ringMem = s.ringMem := by simp [Chip.setDolly]
@[simp] theorem moveDolly_ringMem : (s.moveDolly).ringMem = s.ringMem := by simp [Chip.moveDolly]
@[simp] theorem recordJump_ringMem (src : Nat) (e : Int) : (s.recordJump src e).ringMem = s.ringMem := by simp [Chip.recordJump]
@[simp] theorem refuse_ringMem (src : Nat) (e : Int) : (s.refuse src e).ringMem = s.ringMem := by simp [Chip.refuse]

@[simp] theorem acceptResult_ringMem (src : Nat) (e : Int) : (s.acceptResult src e).1.ringMem = s.ringMem := by
  unfold Chip.acceptResult
  dsimp only
  (repeat' split) <;> simp

@[simp] theorem checkResult_ringMem (src : Nat) (e : Int) : (s.checkResult src e).1.ringMem = s.ringMem := by
  unfold Chip.checkResult
  (repeat' split) <;> simp

@[simp] theorem slew_ringMem (fed : Option Int) : (s.slew fed).ringMem = s.ringMem := by
  unfold Chip.slew
  (repeat' split) <;> simp

@[simp] theorem noteOffers_ringMem : (s.noteOffers).ringMem = s.ringMem := by simp [Chip.noteOffers]

@[simp] theorem checkDisqualified_ringMem : s.checkDisqualified.ringMem = s.ringMem := by
  refine foldl_ringMem (fun t src => ?_) _ s
  split
  · split <;> simp
  · simp

@[simp] theorem servo_ringMem : (s.servo).ringMem = s.ringMem := by
  unfold Chip.servo
  dsimp only
  (repeat' split) <;> simp

@[simp] theorem coastEntry_ringMem : (s.coastEntry).ringMem = s.ringMem := by simp [Chip.coastEntry]
@[simp] theorem countCoast_ringMem (dip : Bool) : (s.countCoast dip).ringMem = s.ringMem := by simp [Chip.countCoast]
@[simp] theorem switchParams_ringMem : (s.switchParams).ringMem = s.ringMem := by simp [Chip.switchParams]
@[simp] theorem keepParams_ringMem : (s.keepParams).ringMem = s.ringMem := by simp [Chip.keepParams]
@[simp] theorem placeMarker_ringMem (align : Bool) : (s.placeMarker align).ringMem = s.ringMem := by simp [Chip.placeMarker]
@[simp] theorem applyStep_ringMem (step : Int) : (s.applyStep step).ringMem = s.ringMem := by simp [Chip.applyStep]
@[simp] theorem stepGates_ringMem (old : Nat) : (s.stepGates old).ringMem = s.ringMem := by simp [Chip.stepGates]
@[simp] theorem gateLoss_ringMem : (s.gateLoss).ringMem = s.ringMem := by simp [Chip.gateLoss]
@[simp] theorem convert_ringMem : (s.convert).ringMem = s.ringMem := by simp [Chip.convert]

@[simp] theorem convertDone_ringMem : (s.convertDone).ringMem = s.ringMem := by
  unfold Chip.convertDone
  (repeat' split) <;> simp

@[simp] theorem overrun_ringMem : (s.overrun).ringMem = s.ringMem := by simp [Chip.overrun]
@[simp] theorem gafferOverrun_ringMem : (s.gafferOverrun).ringMem = s.ringMem := by simp [Chip.gafferOverrun]

/-! ### Sessions -/

@[simp] theorem putSession_ringMem (n : Nat) (x : Session) : (s.putSession n x).ringMem = s.ringMem := by simp [Chip.putSession]

@[simp] theorem speidPair_ringMem (x : Session) (v : Int × Int) : (s.speidPair x v).1.ringMem = s.ringMem := by
  unfold Chip.speidPair
  dsimp only
  (repeat' split) <;> simp

@[simp] theorem pairDone_ringMem (x : Session) (up : Bool) : (s.pairDone x up).1.ringMem = s.ringMem := by
  unfold Chip.pairDone
  dsimp only
  (repeat' split) <;> simp

@[simp] theorem scanSpeid_ringMem (x : Session) : (s.scanSpeid x).1.ringMem = s.ringMem := by
  unfold Chip.scanSpeid
  dsimp only
  (repeat' split) <;> simp

@[simp] theorem takeTlv_ringMem (x : Session) (t : SpeidTlv) : (s.takeTlv x t).1.ringMem = s.ringMem := by
  unfold Chip.takeTlv
  dsimp only
  (repeat' split) <;> simp

@[simp] theorem setQueue_ringMem (g : Nat) (q : List QMsg) : (s.setQueue g q).ringMem = s.ringMem := by simp [Chip.setQueue]

@[simp] theorem ptpRx_ringMem (m : PtpMsg) : (s.ptpRx m).ringMem = s.ringMem := by
  unfold Chip.ptpRx
  dsimp only
  (repeat' split) <;> simp

@[simp] theorem memberChange_ringMem (x : Session) (up : Bool) : (s.memberChange x up).1.ringMem = s.ringMem := by
  unfold Chip.memberChange
  (repeat' split) <;> simp

@[simp] theorem handleMsg_ringMem (x : Session) (m : PtpMsg) (stamp : Raw) (age : Nat) (up : Bool) :
    (s.handleMsg x m stamp age up).1.ringMem = s.ringMem := by
  unfold Chip.handleMsg
  (repeat' split) <;> simp

@[simp] theorem handleQueued_ringMem (q : QMsg) : (s.handleQueued q).ringMem = s.ringMem := by
  unfold Chip.handleQueued
  (repeat' split) <;> simp

@[simp] theorem ptpSend_ringMem (x : Session) (a : LineStamp) (seqId : BitVec 16) (b : SentBody) :
    (s.ptpSend x a seqId b).ringMem = s.ringMem := by
  simp [Chip.ptpSend]

@[simp] theorem sendSignaling_ringMem (x : Session) (a : LineStamp) : (s.sendSignaling x a).1.ringMem = s.ringMem := by
  simp [Chip.sendSignaling]

@[simp] theorem sendSync_ringMem (x : Session) (a : LineStamp) : (s.sendSync x a).1.ringMem = s.ringMem := by simp [Chip.sendSync]
@[simp] theorem sendAnnounce_ringMem (x : Session) (a : LineStamp) : (s.sendAnnounce x a).1.ringMem = s.ringMem := by simp [Chip.sendAnnounce]
@[simp] theorem sendDelayReq_ringMem (x : Session) (a : LineStamp) : (s.sendDelayReq x a).1.ringMem = s.ringMem := by simp [Chip.sendDelayReq]

@[simp] theorem sendDelayResp_ringMem (x : Session) (a : LineStamp) (q : Asked) : (s.sendDelayResp x a q).ringMem = s.ringMem := by
  simp [Chip.sendDelayResp]

@[simp] theorem sendIf_ringMem (b : Bool) {f : Chip → Session → Chip × Session} (h : ∀ t x, (f t x).1.ringMem = t.ringMem)
    (c : Chip × Session) : (sendIf b f c).1.ringMem = c.1.ringMem := by
  cases b
  · rfl
  · exact h c.1 c.2

@[simp] theorem sendScheduled_ringMem (n : Nat) (a : LineStamp) (c : Chip × Session) (k : Nat) :
    (Chip.sendScheduled n a c k).1.ringMem = c.1.ringMem := by
  unfold Chip.sendScheduled
  dsimp only
  split <;> simp

@[simp] theorem sendDue_ringMem (n : Nat) (x : Session) (ph : Option PhaseIn) : (s.sendDue n x ph).1.ringMem = s.ringMem := by
  unfold Chip.sendDue
  dsimp only
  split
  · simp
  · simp [foldl_ringMem_of (fun c : Chip × Session => c.1) (fun c k => sendScheduled_ringMem n _ c k)]

@[simp] theorem postResult_ringMem (n : Nat) (x : Session) : (s.postResult n x).1.ringMem = s.ringMem := by
  unfold Chip.postResult
  (repeat' split) <;> simp

@[simp] theorem eachSession_ringMem (ns : List Nat) {f : Chip → Nat → Session → Chip × Session}
    (h : ∀ t n x, (f t n x).1.ringMem = t.ringMem) : (s.eachSession ns f).ringMem = s.ringMem := by
  refine foldl_ringMem (fun t n => ?_) ns s
  split
  · exact h t n _
  · simp

@[simp] theorem scanSession_ringMem (x : Session) : (s.scanSession x).1.ringMem = s.ringMem := by
  unfold Chip.scanSession
  (repeat' split) <;> simp

@[simp] theorem latchPhases_ringMem (g : Nat) (phases : List PhaseIn) : (s.latchPhases g phases).ringMem = s.ringMem := by
  simp [Chip.latchPhases]

@[simp] theorem gripWork_ringMem (g : Nat) (phases : List PhaseIn) (items : Nat) : (s.gripWork g phases items).ringMem = s.ringMem := by
  simp [Chip.gripWork]

@[simp] theorem gripOver_ringMem (g : Nat) : (s.gripOver g).ringMem = s.ringMem := by simp [Chip.gripOver]

@[simp] theorem gripClapper_ringMem (g : Nat) (phases : List PhaseIn) : (s.gripClapper g phases).ringMem = s.ringMem := by
  simp [Chip.gripClapper]

@[simp] theorem gripOverrun_ringMem (g : Nat) (phases : List PhaseIn) (reached : Nat) :
    (s.gripOverrun g phases reached).ringMem = s.ringMem := by
  simp [Chip.gripOverrun]

@[simp] theorem gripFault_ringMem (g : Nat) : (s.gripFault g).ringMem = s.ringMem := by simp [Chip.gripFault]

@[simp] theorem gripRestarted_ringMem (g : Nat) (phases : List PhaseIn) : (s.gripRestarted g phases).ringMem = s.ringMem := by
  simp [Chip.gripRestarted]

@[simp] theorem gripMarker_ringMem : (s.gripMarker).ringMem = s.ringMem := by simp [Chip.gripMarker]

@[simp] theorem annTimesOut_ringMem (n : Nat) : (s.annTimesOut n).ringMem = s.ringMem := by
  unfold Chip.annTimesOut
  (repeat' split) <;> simp

@[simp] theorem countSessions_ringMem : (s.countSessions).ringMem = s.ringMem := by simp [Chip.countSessions]
@[simp] theorem openSession_ringMem (n : Nat) (cfg : BitVec 256) : (s.openSession n cfg).ringMem = s.ringMem := by simp [Chip.openSession]
@[simp] theorem closeSession_ringMem (n : Nat) : (s.closeSession n).ringMem = s.ringMem := by simp [Chip.closeSession]
@[simp] theorem sessTrigger_ringMem : (s.sessTrigger).ringMem = s.ringMem := by simp [Chip.sessTrigger]

@[simp] theorem sessMeets_ringMem (old : Chip) (upset : Option (BitVec 256)) : (old.sessMeets s upset).ringMem = s.ringMem := by
  unfold Chip.sessMeets
  split <;> simp

@[simp] theorem loadSess_ringMem (v : BitVec 256) : (s.loadSess v).ringMem = s.ringMem := by simp [Chip.loadSess]

@[simp] theorem sessDone_ringMem : (s.sessDone).ringMem = s.ringMem := by
  unfold Chip.sessDone
  (repeat' split) <;> simp

@[simp] theorem moveLedger_ringMem (p sub : Nat) (tx rx : Int) : (s.moveLedger p sub tx rx).ringMem = s.ringMem := by simp [Chip.moveLedger]
@[simp] theorem setEsmc_ringMem (p sub : Nat) (x : EsmcRx) : (s.setEsmc p sub x).ringMem = s.ringMem := by simp [Chip.setEsmc]

@[simp] theorem esmcSend_ringMem (p sub : Nat) (isEvent : Bool) (ql : Nat) : (s.esmcSend p sub isEvent ql).ringMem = s.ringMem := by
  simp [Chip.esmcSend]

@[simp] theorem esmcInfo_ringMem (p sub : Nat) : (s.esmcInfo p sub).ringMem = s.ringMem := by simp [Chip.esmcInfo]
@[simp] theorem esmcStops_ringMem (p : Nat) : (s.esmcStops p).ringMem = s.ringMem := by simp [Chip.esmcStops]

@[simp] theorem esmcEvent_ringMem (p sub : Nat) : (s.esmcEvent p sub).ringMem = s.ringMem := by
  unfold Chip.esmcEvent
  dsimp only
  (repeat' split) <;> simp

@[simp] theorem esmcRx_ringMem (p sub : Nat) (d : EsmcPdu) : (s.esmcRx p sub d).ringMem = s.ringMem := by
  unfold Chip.esmcRx
  (repeat' split) <;> simp

@[simp] theorem esmcFails_ringMem (p sub : Nat) : (s.esmcFails p sub).ringMem = s.ringMem := by simp [Chip.esmcFails]

/-! ### Refs -/

@[simp] theorem publish_ringMem (c : Nat) (f : Int) : (s.publish c f).ringMem = s.ringMem := by simp [Chip.publish]

@[simp] theorem publishAll_ringMem (m : MarkerIn) : (s.publishAll m).ringMem = s.ringMem := by
  unfold Chip.publishAll
  extract_lets t
  have ht : t.ringMem = s.ringMem := by simp [t]
  refine (foldl_ringMem (fun u k => ?_) _ t).trans ht
  (repeat' split) <;> simp

@[simp] theorem renewCand_ringMem (c : Nat) : (s.renewCand c).ringMem = s.ringMem := by simp [Chip.renewCand]
@[simp] theorem clearLost_ringMem (c : Nat) : (s.clearLost c).ringMem = s.ringMem := by simp [Chip.clearLost]
@[simp] theorem disqualify_ringMem (c k : Nat) : (s.disqualify c k).ringMem = s.ringMem := by simp [Chip.disqualify]

@[simp] theorem qualify_ringMem (lifted : List Nat) (c : Nat) : (s.qualify lifted c).ringMem = s.ringMem := by
  unfold Chip.qualify
  dsimp only
  (repeat' split) <;> simp

@[simp] theorem holdoffOver_ringMem (c : Nat) : (s.holdoffOver c).ringMem = s.ringMem := by simp [Chip.holdoffOver]
@[simp] theorem activity_ringMem (c : Nat) (b : Bool) : (s.activity c b).ringMem = s.ringMem := by simp [Chip.activity]
@[simp] theorem setCv_ringMem (v : Int) : (s.setCv v).ringMem = s.ringMem := by simp [Chip.setCv]
@[simp] theorem showLoop_ringMem : (s.showLoop).ringMem = s.ringMem := by simp [Chip.showLoop]
@[simp] theorem stageSettles_ringMem : (s.stageSettles).ringMem = s.ringMem := by simp [Chip.stageSettles]
@[simp] theorem enterHoldover_ringMem : (s.enterHoldover).ringMem = s.ringMem := by simp [Chip.enterHoldover]
@[simp] theorem archiveEntry_ringMem : (s.archiveEntry).ringMem = s.ringMem := by simp [Chip.archiveEntry]
@[simp] theorem sampleCv_ringMem : (s.sampleCv).ringMem = s.ringMem := by simp [Chip.sampleCv]
@[simp] theorem waits_ringMem (time : Bool) (sel : Option Nat) : (s.waits time sel).ringMem = s.ringMem := by simp [Chip.waits]
@[simp] theorem waitOver_ringMem (c : Nat) : (s.waitOver c).ringMem = s.ringMem := by simp [Chip.waitOver]

@[simp] theorem freqCut_ringMem (old new : Option Nat) : (s.freqCut old new).ringMem = s.ringMem := by
  unfold Chip.freqCut
  dsimp only
  (repeat' split) <;> simp

@[simp] theorem timeCut_ringMem (new : Option Nat) : (s.timeCut new).ringMem = s.ringMem := by
  unfold Chip.timeCut
  dsimp only
  (repeat' split) <;> simp

@[simp] theorem select_ringMem (time : Bool) : (s.select time).ringMem = s.ringMem := by simp [Chip.select]

@[simp] theorem heldLoop_ringMem (lost : Bool) : (s.heldLoop lost).ringMem = s.ringMem := by
  unfold Chip.heldLoop
  (repeat' split) <;> simp

@[simp] theorem loopCv_ringMem (m : MarkerIn) : (s.loopCv m).ringMem = s.ringMem := by simp [Chip.loopCv]

@[simp] theorem refMarker_ringMem (m : MarkerIn) (zero : Bool) (lifted : List Nat) : (s.refMarker m zero lifted).ringMem = s.ringMem := by
  simp [Chip.refMarker]

@[simp] theorem archTrigger_ringMem : (s.archTrigger).ringMem = s.ringMem := by simp [Chip.archTrigger]

@[simp] theorem archDone_ringMem : (s.archDone).ringMem = s.ringMem := by
  unfold Chip.archDone
  split <;> simp

@[simp] theorem ppsin_ringMem (n : Nat) (measured : Raw) : (s.ppsin n measured).ringMem = s.ringMem := by
  unfold Chip.ppsin
  split
  · rfl
  · extract_lets stamp flags t
    have ht : t.ringMem = s.ringMem := by simp [t]
    refine (foldl_ringMem (fun u k => ?_) _ t).trans ht
    extract_lets v
    have hv : v.ringMem = u.ringMem := by simp [v]
    split
    · exact hv
    · extract_lets tag
      split <;> exact hv

/-! ### Clocks -/

@[simp] theorem showClk_ringMem (n : Nat) : (s.showClk n).ringMem = s.ringMem := by simp [Chip.showClk]
@[simp] theorem clkWrite_ringMem (n : Nat) (w : Word) : (s.clkWrite n w).ringMem = s.ringMem := by simp [Chip.clkWrite]
@[simp] theorem setPulse_ringMem (n : Nat) (x : Pulse) : (s.setPulse n x).ringMem = s.ringMem := by simp [Chip.setPulse]
@[simp] theorem showAlign_ringMem (n : Nat) : (s.showAlign n).ringMem = s.ringMem := by simp [Chip.showAlign]
@[simp] theorem ppsSettle_ringMem (n : Nat) (was : Bool) : (s.ppsSettle n was).ringMem = s.ringMem := by simp [Chip.ppsSettle]
@[simp] theorem ppsWrite_ringMem (n reg : Nat) (w : Word) : (s.ppsWrite n reg w).ringMem = s.ringMem := by simp [Chip.ppsWrite]
@[simp] theorem ppsPulse_ringMem (n : Nat) : (s.ppsPulse n).ringMem = s.ringMem := by simp [Chip.ppsPulse]
@[simp] theorem jumpPulses_ringMem (step : Int) : (s.jumpPulses step).ringMem = s.ringMem := by simp [Chip.jumpPulses]
@[simp] theorem reslateOne_ringMem (n : Nat) : (s.reslateOne n).ringMem = s.ringMem := by simp [Chip.reslateOne]
@[simp] theorem leaveEvclk_ringMem : (s.leaveEvclk).ringMem = s.ringMem := by simp [Chip.leaveEvclk]
@[simp] theorem setPllWait_ringMem (k v : Nat) : (s.setPllWait k v).ringMem = s.ringMem := by simp [Chip.setPllWait]
@[simp] theorem tclkSwitched_ringMem : (s.tclkSwitched).ringMem = s.ringMem := by simp [Chip.tclkSwitched]
@[simp] theorem toFallback_ringMem : (s.toFallback).ringMem = s.ringMem := by simp [Chip.toFallback]
@[simp] theorem masterLol_ringMem : (s.masterLol).ringMem = s.ringMem := by simp [Chip.masterLol]
@[simp] theorem releaseDividers_ringMem : (s.releaseDividers).ringMem = s.ringMem := by simp [Chip.releaseDividers]
@[simp] theorem clocksReturn_ringMem : (s.clocksReturn).ringMem = s.ringMem := by simp [Chip.clocksReturn]

@[simp] theorem phaseCheck_ringMem (left : Nat) (l : List Nat) : (s.phaseCheck left l).ringMem = s.ringMem := by
  induction l generalizing s left with
  | nil => simp [Chip.phaseCheck]
  | cons phi l ih =>
    unfold Chip.phaseCheck
    dsimp only
    (repeat' split) <;> simp [ih]

@[simp] theorem releaseCounter_ringMem : (s.releaseCounter).ringMem = s.ringMem := by simp [Chip.releaseCounter]
@[simp] theorem masterLock_ringMem (band : Nat) (phis : List Nat) : (s.masterLock band phis).ringMem = s.ringMem := by simp [Chip.masterLock]
@[simp] theorem fallbackEnds_ringMem : (s.fallbackEnds).ringMem = s.ringMem := by simp [Chip.fallbackEnds]
@[simp] theorem enterSafeStop_ringMem : (s.enterSafeStop).ringMem = s.ringMem := by simp [Chip.enterSafeStop]
@[simp] theorem setCoreLocked_ringMem (pll : Nat) (v : Bool) : (s.setCoreLocked pll v).ringMem = s.ringMem := by simp [Chip.setCoreLocked]
@[simp] theorem swapCore_ringMem : (s.swapCore).ringMem = s.ringMem := by simp [Chip.swapCore]
@[simp] theorem coreLol_ringMem (pll : Nat) : (s.coreLol pll).ringMem = s.ringMem := by simp [Chip.coreLol]
@[simp] theorem coreChange_ringMem : (s.coreChange).ringMem = s.ringMem := by simp [Chip.coreChange]
@[simp] theorem coreRuns_ringMem : (s.coreRuns).ringMem = s.ringMem := by simp [Chip.coreRuns]
@[simp] theorem standbyLocks_ringMem : (s.standbyLocks).ringMem = s.ringMem := by simp [Chip.standbyLocks]
@[simp] theorem startEnabled_ringMem (p : Nat) : (s.startEnabled p).ringMem = s.ringMem := by simp [Chip.startEnabled]
@[simp] theorem laneRelock_ringMem (g k : Nat) : (s.laneRelock g k).ringMem = s.ringMem := by simp [Chip.laneRelock]

/-! ### Events -/

@[simp] theorem setChannel_ringMem (e : Nat) (x : Channel) : (s.setChannel e x).ringMem = s.ringMem := by simp [Chip.setChannel]
@[simp] theorem useSeq_ringMem (e : Nat) : (s.useSeq e).ringMem = s.ringMem := by simp [Chip.useSeq]

@[simp] theorem eventEdge_ringMem (e : Nat) (rising : Bool) (edge tap : Nat) (inSwitch : Bool) :
    (s.eventEdge e rising edge tap inSwitch).ringMem = s.ringMem := by
  unfold Chip.eventEdge
  dsimp only
  (repeat' split) <;> simp

@[simp] theorem deadTimeEnd_ringMem (e : Nat) : (s.deadTimeEnd e).ringMem = s.ringMem := by
  unfold Chip.deadTimeEnd
  dsimp only
  (repeat' split) <;> simp

@[simp] theorem popSlate_ringMem (e : Nat) : (s.popSlate e).1.ringMem = s.ringMem := by
  unfold Chip.popSlate
  dsimp only
  (repeat' split) <;> simp

@[simp] theorem showStall_ringMem (e : Nat) : (s.showStall e).ringMem = s.ringMem := by simp [Chip.showStall]
@[simp] theorem dmaBatch_ringMem (e : Nat) : (s.dmaBatch e).ringMem = s.ringMem := by simp [Chip.dmaBatch]
@[simp] theorem evCtrlWrite_ringMem (e : Nat) (w : Word) : (s.evCtrlWrite e w).ringMem = s.ringMem := by simp [Chip.evCtrlWrite]
@[simp] theorem dmaRestart_ringMem (e : Nat) : (s.dmaRestart e).ringMem = s.ringMem := by simp [Chip.dmaRestart]
@[simp] theorem tbLoss_ringMem (multiplier : Bool) : (s.tbLoss multiplier).ringMem = s.ringMem := by simp [Chip.tbLoss]
@[simp] theorem tbLock_ringMem : (s.tbLock).ringMem = s.ringMem := by simp [Chip.tbLock]
@[simp] theorem tbReturn_ringMem : (s.tbReturn).ringMem = s.ringMem := by simp [Chip.tbReturn]
@[simp] theorem tbCfgWrite_ringMem (w : Word) : (s.tbCfgWrite w).ringMem = s.ringMem := by simp [Chip.tbCfgWrite]
@[simp] theorem tbMarker_ringMem (m : MarkerIn) : (s.tbMarker m).ringMem = s.ringMem := by simp [Chip.tbMarker]

/-! ### Persist -/

@[simp] theorem commitHead_ringMem : (s.commitHead).ringMem = s.ringMem := by
  unfold Chip.commitHead
  (repeat' split) <;> simp

@[simp] theorem persCommit_ringMem : (s.persCommit).ringMem = s.ringMem := by simp [Chip.persCommit]
@[simp] theorem persistWord_ringMem (i : Nat) : (s.persistWord i).ringMem = s.ringMem := by simp [Chip.persistWord]
@[simp] theorem persistWords_ringMem (is : List Nat) : (s.persistWords is).ringMem = s.ringMem := by simp [Chip.persistWords]
@[simp] theorem strapWrite_ringMem (w : Word) : (s.strapWrite w).ringMem = s.ringMem := by simp [Chip.strapWrite]
@[simp] theorem putWord_ringMem (i : Nat) (w : Word) : (s.putWord i w).ringMem = s.ringMem := by simp [Chip.putWord]

@[simp] theorem loadWord_ringMem (e : Nat × Mram) : (s.loadWord e).ringMem = s.ringMem := by
  unfold Chip.loadWord
  (repeat' split) <;> simp

@[simp] theorem loadBad_ringMem (u : MramUpset) : (s.loadBad u).ringMem = s.ringMem := by simp [Chip.loadBad]

@[simp] theorem tear_ringMem : (s.tear).ringMem = s.ringMem := by
  unfold Chip.tear
  (repeat' split) <;> simp

@[simp] theorem loadCut_ringMem (x : PowerUp) : (s.loadCut x).ringMem = s.ringMem := by simp [Chip.loadCut]
@[simp] theorem loadMram_ringMem : (s.loadMram).ringMem = s.ringMem := by simp [Chip.loadMram]

/-! ### Ageing -/

@[simp] theorem startAvs_ringMem (target : Nat) : (s.startAvs target).ringMem = s.ringMem := by
  unfold Chip.startAvs
  (repeat' split) <;> simp

@[simp] theorem avsReached_ringMem (a : AvsChange) : (s.avsReached a).ringMem = s.ringMem := by simp [Chip.avsReached]

@[simp] theorem avsStep_ringMem (readMv : Nat) : (s.avsStep readMv).ringMem = s.ringMem := by
  unfold Chip.avsStep
  (repeat' split) <;> simp

@[simp] theorem avsMiss_ringMem (readMv : Nat) : (s.avsMiss readMv).ringMem = s.ringMem := by
  unfold Chip.avsMiss
  (repeat' split) <;> simp

@[simp] theorem regStatus_ringMem (w : BitVec 16) : (s.regStatus w).ringMem = s.ringMem := by simp [Chip.regStatus]
@[simp] theorem telemetry_ringMem (ts : List RegTelem) : (s.telemetry ts).ringMem = s.ringMem := by simp [Chip.telemetry]
@[simp] theorem pmbAlert_ringMem (ws : List (BitVec 16)) : (s.pmbAlert ws).ringMem = s.ringMem := by simp [Chip.pmbAlert]
@[simp] theorem oneTemp_ringMem (d : Nat) (v : Int) : (s.oneTemp d v).ringMem = s.ringMem := by simp [Chip.oneTemp]
@[simp] theorem temps_ringMem (l : List (Fin 10 × Int)) : (s.temps l).ringMem = s.ringMem := by simp [Chip.temps]
@[simp] theorem holdHot_ringMem : (s.holdHot).ringMem = s.ringMem := by simp [Chip.holdHot]
@[simp] theorem thermalTrip_ringMem : (s.thermalTrip).ringMem = s.ringMem := by simp [Chip.thermalTrip]
@[simp] theorem sensors_ringMem (khz : List (Fin 64 × Nat)) : (s.sensors khz).ringMem = s.ringMem := by simp [Chip.sensors]

@[simp] theorem releaseRaise_ringMem : (s.releaseRaise).ringMem = s.ringMem := by
  unfold Chip.releaseRaise
  (repeat' split) <;> simp

@[simp] theorem drift_ringMem (taps : List (Fin 10 × Nat)) : (s.drift taps).ringMem = s.ringMem := by simp [Chip.drift]
@[simp] theorem oscHour_ringMem : (s.oscHour).ringMem = s.ringMem := by simp [Chip.oscHour]
@[simp] theorem gafferWrites_ringMem (addrs : List Nat) : (gafferWrites addrs s).ringMem = s.ringMem := by simp [gafferWrites]

@[simp] theorem recordAvs_ringMem (set need day : Nat) : (s.recordAvs set need day).ringMem = s.ringMem := by
  unfold Chip.recordAvs
  dsimp only
  (repeat' split) <;> simp

@[simp] theorem recordOsc_ringMem : (s.recordOsc).ringMem = s.ringMem := by
  unfold Chip.recordOsc
  dsimp only
  (repeat' split) <;> simp

@[simp] theorem plan_ringMem (linkMoved : Bool) : (s.plan linkMoved).ringMem = s.ringMem := by
  unfold Chip.plan
  extract_lets need target set t u seq day g v a b c d e
  have hv : v.ringMem = s.ringMem := by
    simp only [v, u, t]
    split <;> simp
  have hd : d.ringMem = v.ringMem := by simp [d, c, b, a]
  have he : e.ringMem = d.ringMem :=
    foldl_ringMem (fun _ _ => (setN_ringMem _ _ _).trans (setN_ringMem _ _ _)) _ d
  simp [he, hd, hv]

@[simp] theorem planFalls_ringMem (linkMoved : Bool) : (s.planFalls linkMoved).ringMem = s.ringMem := by simp [Chip.planFalls]

@[simp] theorem releasePlan_ringMem (zero : Bool) : (s.releasePlan zero).ringMem = s.ringMem := by
  unfold Chip.releasePlan
  (repeat' split) <;> simp

@[simp] theorem holdAvs_ringMem : (s.holdAvs).ringMem = s.ringMem := by
  unfold Chip.holdAvs
  (repeat' split) <;> simp

@[simp] theorem gafferFails_ringMem : (s.gafferFails).ringMem = s.ringMem := by simp [Chip.gafferFails]
@[simp] theorem gafferTested_ringMem (pass : Bool) : (s.gafferTested pass).ringMem = s.ringMem := by simp [Chip.gafferTested]
@[simp] theorem gafferResumes_ringMem : (s.gafferResumes).ringMem = s.ringMem := by simp [Chip.gafferResumes]

/-! ### Power -/

@[simp] theorem setSlot_ringMem (n : Nat) (x : Slot) : (s.setSlot n x).ringMem = s.ringMem := by simp [Chip.setSlot]
@[simp] theorem firmwareWord_ringMem (f : Fld) (v : Word) : (s.firmwareWord f v).ringMem = s.ringMem := by simp [Chip.firmwareWord]
@[simp] theorem directorWrites_ringMem (addrs : List Nat) : (s.directorWrites addrs).ringMem = s.ringMem := by simp [Chip.directorWrites]

@[simp] theorem complete_ringMem (n status : Nat) (results : List Word) : (s.complete n status results).ringMem = s.ringMem := by
  simp [Chip.complete]

@[simp] theorem abortSlots_ringMem (but : Option Nat) : (s.abortSlots but).ringMem = s.ringMem := by simp [Chip.abortSlots]

@[simp] theorem slotEnds_ringMem (test : Slot → Bool) (snap : List Word) : (s.slotEnds test snap).ringMem = s.ringMem := by
  simp [Chip.slotEnds]

@[simp] theorem logDip_ringMem (d : Dip) (us : Nat) : (s.logDip d us).ringMem = s.ringMem := by simp [Chip.logDip]
@[simp] theorem enterDip_ringMem (rail minMv : Nat) : (s.enterDip rail minMv).ringMem = s.ringMem := by simp [Chip.enterDip]

@[simp] theorem dipEntry_ringMem (rail minMv : Nat) : (s.dipEntry rail minMv).ringMem = s.ringMem := by
  unfold Chip.dipEntry
  (repeat' split) <;> simp

@[simp] theorem endDip_ringMem (d : Dip) (us : Nat) : (s.endDip d us).ringMem = s.ringMem := by simp [Chip.endDip]

@[simp] theorem dipEnds_ringMem : (s.dipEnds).ringMem = s.ringMem := by
  unfold Chip.dipEnds
  (repeat' split) <;> simp

@[simp] theorem leaveDip_ringMem : (s.leaveDip).ringMem = s.ringMem := by
  unfold Chip.leaveDip
  (repeat' split) <;> simp

@[simp] theorem setCause_ringMem (cause rail : Nat) : (s.setCause cause rail).ringMem = s.ringMem := by simp [Chip.setCause]
@[simp] theorem firstSet_ringMem : (s.firstSet).ringMem = s.ringMem := by simp [Chip.firstSet]
@[simp] theorem sampleStraps_ringMem (straps : BitVec 16) : (s.sampleStraps straps).ringMem = s.ringMem := by simp [Chip.sampleStraps]
@[simp] theorem sequence_ringMem (x : PowerUp) : (s.sequence x).ringMem = s.ringMem := by simp [Chip.sequence]
@[simp] theorem railTimeout_ringMem (rail : Nat) : (s.railTimeout rail).ringMem = s.ringMem := by simp [Chip.railTimeout]
@[simp] theorem sequenceAgain_ringMem (x : PowerUp) : (s.sequenceAgain x).ringMem = s.ringMem := by simp [Chip.sequenceAgain]
@[simp] theorem lockTimeout_ringMem : (s.lockTimeout).ringMem = s.ringMem := by simp [Chip.lockTimeout]
@[simp] theorem outputsLow_ringMem : (s.outputsLow).ringMem = s.ringMem := by simp [Chip.outputsLow]
@[simp] theorem xoLost_ringMem : (s.xoLost).ringMem = s.ringMem := by simp [Chip.xoLost]
@[simp] theorem pcieUp_ringMem : (s.pcieUp).ringMem = s.ringMem := by simp [Chip.pcieUp]
@[simp] theorem idleCore_ringMem : (s.idleCore).ringMem = s.ringMem := by simp [Chip.idleCore]
@[simp] theorem warmGoes_ringMem (straps : BitVec 16) : (s.warmGoes straps).ringMem = s.ringMem := by simp [Chip.warmGoes]
@[simp] theorem rstRises_ringMem (straps : BitVec 16) : (s.rstRises straps).ringMem = s.ringMem := by simp [Chip.rstRises]
@[simp] theorem coolEnough_ringMem (straps : BitVec 16) : (s.coolEnough straps).ringMem = s.ringMem := by simp [Chip.coolEnough]
@[simp] theorem testPairs_ringMem (pass0 pass1 : Bool) : (s.testPairs pass0 pass1).ringMem = s.ringMem := by simp [Chip.testPairs]
@[simp] theorem startClappers_ringMem : (s.startClappers).ringMem = s.ringMem := by simp [Chip.startClappers]

@[simp] theorem resetEnds_ringMem (pass0 pass1 gafferPass : Bool) : (s.resetEnds pass0 pass1 gafferPass).ringMem = s.ringMem := by
  simp [Chip.resetEnds]

@[simp] theorem forgetSlates_ringMem (p : Nat) : (s.forgetSlates p).ringMem = s.ringMem := by simp [Chip.forgetSlates]
@[simp] theorem forgetEsmc_ringMem (p : Nat) : (s.forgetEsmc p).ringMem = s.ringMem := by simp [Chip.forgetEsmc]
@[simp] theorem pagesFall_ringMem (pgs : List Nat) : (s.pagesFall pgs).ringMem = s.ringMem := by simp [Chip.pagesFall]
@[simp] theorem laneLocks_ringMem (g : Nat) (v : Bool) : (s.laneLocks g v).ringMem = s.ringMem := by simp [Chip.laneLocks]
@[simp] theorem loadDie_ringMem (g : Nat) : (s.loadDie g).ringMem = s.ringMem := by simp [Chip.loadDie]
@[simp] theorem unloadDie_ringMem (g : Nat) : (s.unloadDie g).ringMem = s.ringMem := by simp [Chip.unloadDie]
@[simp] theorem dropDie_ringMem (d : Nat) : (s.dropDie d).ringMem = s.ringMem := by simp [Chip.dropDie]
@[simp] theorem syncPort_ringMem (p : Nat) : (s.syncPort p).ringMem = s.ringMem := by simp [Chip.syncPort]
@[simp] theorem wakeFields_ringMem (g : Nat) : (s.wakeFields g).ringMem = s.ringMem := by simp [Chip.wakeFields]
@[simp] theorem wakeModes_ringMem (p : Nat) : (s.wakeModes p).ringMem = s.ringMem := by simp [Chip.wakeModes]
@[simp] theorem beginWakeGroup_ringMem (g : Nat) : (s.beginWakeGroup g).ringMem = s.ringMem := by simp [Chip.beginWakeGroup]
@[simp] theorem wakeGroup_ringMem (g : Nat) : (s.wakeGroup g).ringMem = s.ringMem := by simp [Chip.wakeGroup]
@[simp] theorem groupReady_ringMem (g : Nat) : (s.groupReady g).ringMem = s.ringMem := by simp [Chip.groupReady]
@[simp] theorem portBack_ringMem (p : Nat) : (s.portBack p).ringMem = s.ringMem := by simp [Chip.portBack]

@[simp] theorem handshake_ringMem (pg : Nat) : (s.handshake pg).ringMem = s.ringMem := by
  unfold Chip.handshake
  (repeat' split) <;> simp

@[simp] theorem darkBits_ringMem (q : Nat) (v : Bool) : (s.darkBits q v).ringMem = s.ringMem := by simp [Chip.darkBits]
@[simp] theorem wakePort_ringMem (q : Nat) : (s.wakePort q).ringMem = s.ringMem := by simp [Chip.wakePort]
@[simp] theorem beginWake_ringMem : (s.beginWake).ringMem = s.ringMem := by simp [Chip.beginWake]
@[simp] theorem leaveStandby_ringMem : (s.leaveStandby).ringMem = s.ringMem := by simp [Chip.leaveStandby]

/-! ### Counters -/

@[simp] theorem freeze_ringMem (c : Chip) (number : Nat) (at_ : Raw) : (s.freeze c number at_).ringMem = s.ringMem := by simp [Chip.freeze]

@[simp] theorem answer1_ringMem (data : List Word) (unsupported nack : Bool) : (s.answer1 data unsupported nack).ringMem = s.ringMem := by
  simp [Chip.answer1]

@[simp] theorem unsupported_ringMem : (s.unsupported).ringMem = s.ringMem := by simp [Chip.unsupported]
@[simp] theorem unanswered_ringMem : (s.unanswered).ringMem = s.ringMem := by simp [Chip.unanswered]
@[simp] theorem bar4Read_ringMem (offset count : Nat) : (s.bar4Read offset count).ringMem = s.ringMem := by simp [Chip.bar4Read]
@[simp] theorem bar4Write_ringMem (offset : Nat) : (s.bar4Write offset).ringMem = s.ringMem := by simp [Chip.bar4Write]

/-! ### Windows -/

@[simp] theorem windowTrigger_ringMem (k : Nat) (read write : Bool) : (s.windowTrigger k read write).ringMem = s.ringMem := by
  simp [Chip.windowTrigger]

@[simp] theorem tblPut_ringMem (w : Nat) (o : WinOp) : (s.tblPut w o).ringMem = s.ringMem := by simp [Chip.tblPut]

@[simp] theorem tblGet_ringMem (w : Nat) (o : WinOp) : (s.tblGet w o).1.ringMem = s.ringMem := by
  unfold Chip.tblGet
  dsimp only
  (repeat' split) <;> simp

@[simp] theorem windowEnds_ringMem (k result : Nat) : (s.windowEnds k result).ringMem = s.ringMem := by simp [Chip.windowEnds]

@[simp] theorem tblDone_ringMem (w : Nat) (upset : Option (BitVec 128 × Bool)) : (s.tblDone w upset).ringMem = s.ringMem := by
  unfold Chip.tblDone
  (repeat' split) <;> simp

@[simp] theorem schdPut_ringMem (k p e : Nat) (v : BitVec 128) : (s.schdPut k p e v).ringMem = s.ringMem := by simp [Chip.schdPut]
@[simp] theorem markSchd_ringMem (k p e : Nat) (active : Bool) : (s.markSchd k p e active).ringMem = s.ringMem := by simp [Chip.markSchd]

@[simp] theorem schdGet_ringMem (k : Nat) (o : WinOp) (ecc : Ecc) : (s.schdGet k o ecc).1.ringMem = s.ringMem := by
  unfold Chip.schdGet
  dsimp only
  (repeat' split) <;> simp

@[simp] theorem schdDone_ringMem (k : Nat) (ecc : Ecc) : (s.schdDone k ecc).ringMem = s.ringMem := by
  unfold Chip.schdDone
  (repeat' split) <;> simp

/-! ### Mail -/

@[simp] theorem slotIgnored_ringMem : (s.slotIgnored).ringMem = s.ringMem := by simp [Chip.slotIgnored]
@[simp] theorem goLost_ringMem (n : Nat) : (s.goLost n).ringMem = s.ringMem := by simp [Chip.goLost]
@[simp] theorem goLatch_ringMem (n : Nat) : (s.goLatch n).ringMem = s.ringMem := by simp [Chip.goLatch]
@[simp] theorem go_ringMem (n : Nat) : (s.go n).ringMem = s.ringMem := by simp [Chip.go]

@[simp] theorem admitFlow_ringMem (f : LFlow) (entry : BitVec 128) (bounds : List Nat) : (s.admitFlow f entry bounds).ringMem = s.ringMem := by
  simp [Chip.admitFlow]

@[simp] theorem releaseFlow_ringMem (i : Nat) : (s.releaseFlow i).ringMem = s.ringMem := by
  unfold Chip.releaseFlow
  (repeat' split) <;> simp

@[simp] theorem pendCut_ringMem (p : Nat) (k : Option CutOver) : (s.pendCut p k).ringMem = s.ringMem := by simp [Chip.pendCut]
@[simp] theorem commitRun_ringMem (first count : Nat) : (s.commitRun first count).ringMem = s.ringMem := by simp [Chip.commitRun]
@[simp] theorem takeStepNow_ringMem (step : Int) : (s.takeStepNow step).1.ringMem = s.ringMem := by simp [Chip.takeStepNow]
@[simp] theorem reslate_ringMem (x : Slot) : (s.reslate x).1.ringMem = s.ringMem := by simp [Chip.reslate]

@[simp] theorem putAsym_ringMem (p sub : Nat) (ext asymWord : Word) : (s.putAsym p sub ext asymWord).ringMem = s.ringMem := by
  simp [Chip.putAsym]

@[simp] theorem powerEnds_ringMem (scope i st : Nat) : (s.powerEnds scope i st).ringMem = s.ringMem := by simp [Chip.powerEnds]
@[simp] theorem enact_ringMem (e : Effect) : (s.enact e).ringMem = s.ringMem := by cases e <;> simp [Chip.enact]
@[simp] theorem view_ringMem : (s.view).ringMem = s.ringMem := by simp [Chip.view]
@[simp] theorem stage1_ringMem (n : Nat) (e : StepEnd) : (s.stage1 n e).ringMem = s.ringMem := by simp [Chip.stage1]
@[simp] theorem runSlot_ringMem (n : Nat) : (s.runSlot n).ringMem = s.ringMem := by simp [Chip.runSlot]
@[simp] theorem directorStep_ringMem (op n : Nat) : (s.directorStep op n).ringMem = s.ringMem := by simp [Chip.directorStep]

@[simp] theorem meetGate_ringMem (p : Nat) (u : Fin 1024 × Ecc) : (s.meetGate p u).ringMem = s.ringMem := by
  unfold Chip.meetGate
  (repeat' split) <;> simp

@[simp] theorem takeRow_ringMem (n : Nat) (upsets : List (Fin 1024 × Ecc)) : (s.takeRow n upsets).ringMem = s.ringMem := by simp [Chip.takeRow]
@[simp] theorem commitRow_ringMem (n : Nat) (upsets : List ScrubHit) : (s.commitRow n upsets).ringMem = s.ringMem := by simp [Chip.commitRow]
@[simp] theorem transitionDone_ringMem (n : Nat) : (s.transitionDone n).ringMem = s.ringMem := by simp [Chip.transitionDone]

@[simp] theorem calBegins_ringMem (n : Nat) (x : Slot) (kind : Nat) (before : List Nat) :
    (s.calBegins n x kind before).ringMem = s.ringMem := by
  unfold Chip.calBegins
  (repeat' split) <;> simp

@[simp] theorem expireLegs_ringMem : (s.expireLegs).ringMem = s.ringMem := by simp [Chip.expireLegs]

@[simp] theorem calCheck_ringMem : (s.calCheck).ringMem = s.ringMem := by
  unfold Chip.calCheck
  (repeat' split) <;> simp

@[simp] theorem calData_ringMem (n kind : Nat) (data : CalIn) : (s.calData n kind data).ringMem = s.ringMem := by
  unfold Chip.calData
  (repeat' split) <;> simp

@[simp] theorem putLink_ringMem (ds : List Nat) (n : Nat) : (s.putLink ds n).ringMem = s.ringMem := by simp [Chip.putLink]

@[simp] theorem calPut_ringMem (x : Slot) (target : Nat) (d : CalIn) : (s.calPut x target d).1.ringMem = s.ringMem := by
  cases d with
  | lanes tx rx =>
    dsimp -zeta only [Chip.calPut]
    extract_lets t u
    have ht : t.ringMem = s.ringMem := foldl_ringMem (fun _ _ => (setN_ringMem _ _ _).trans (setN_ringMem _ _ _)) _ s
    simp only [u]
    split <;> simp [ht]
  | tdc lines grid | links ds | phase v | asym loop legs =>
    unfold Chip.calPut
    dsimp only
    (repeat' split) <;> simp

@[simp] theorem recordCal_ringMem (kind : Nat) : (s.recordCal kind).ringMem = s.ringMem := by simp [Chip.recordCal]
@[simp] theorem calIdle_ringMem (result : Nat) : (s.calIdle result).ringMem = s.ringMem := by simp [Chip.calIdle]
@[simp] theorem calFails_ringMem (r : CalRun) (cause : Nat) : (s.calFails r cause).ringMem = s.ringMem := by simp [Chip.calFails]

@[simp] theorem calDone_ringMem (n kind target : Nat) (data : CalIn) : (s.calDone n kind target data).ringMem = s.ringMem := by
  unfold Chip.calDone
  dsimp only
  (repeat' split) <;> simp

@[simp] theorem exchange_ringMem (r : CalRun) (d : CalIn) : (s.exchange r d).ringMem = s.ringMem := by simp [Chip.exchange]

@[simp] theorem sendProbe_ringMem : (s.sendProbe).ringMem = s.ringMem := by
  unfold Chip.sendProbe
  (repeat' split) <;> simp

@[simp] theorem calMarker_ringMem (data : Option CalIn) : (s.calMarker data).ringMem = s.ringMem := by
  unfold Chip.calMarker
  (repeat' split) <;> simp

@[simp] theorem trimLinks_ringMem : (s.trimLinks).ringMem = s.ringMem := by simp [Chip.trimLinks]

@[simp] theorem beginSlot_ringMem (before : List Nat) (n : Nat) : (s.beginSlot before n).ringMem = s.ringMem := by
  unfold Chip.beginSlot
  dsimp only
  (repeat' split) <;> simp

@[simp] theorem beginAll_ringMem (before l : List Nat) : (s.beginAll before l).ringMem = s.ringMem := by
  induction l generalizing s before with
  | nil => simp [Chip.beginAll]
  | cons n l ih => simp [Chip.beginAll, ih]

@[simp] theorem makeDue_ringMem : (s.makeDue).ringMem = s.ringMem := by simp [Chip.makeDue]
@[simp] theorem beginClapper_ringMem : (s.beginClapper).ringMem = s.ringMem := by simp [Chip.beginClapper]
@[simp] theorem reportMove_ringMem : (s.reportMove).ringMem = s.ringMem := by simp [Chip.reportMove]

@[simp] theorem moveRest_ringMem : (s.moveRest).ringMem = s.ringMem := by
  unfold Chip.moveRest
  (repeat' split) <;> simp

@[simp] theorem directorOverrun_ringMem : (s.directorOverrun).ringMem = s.ringMem := by simp [Chip.directorOverrun]
@[simp] theorem settleSteps_ringMem : (s.settleSteps).ringMem = s.ringMem := by simp [Chip.settleSteps]
@[simp] theorem runsOn_ringMem (n : Nat) : (s.runsOn n).ringMem = s.ringMem := by simp [Chip.runsOn]
@[simp] theorem releaseLate_ringMem (e : Staged) : (s.releaseLate e).ringMem = s.ringMem := by simp [Chip.releaseLate]
@[simp] theorem releaseEnded_ringMem : (s.releaseEnded).ringMem = s.ringMem := by simp [Chip.releaseEnded]
@[simp] theorem repeatClapper_ringMem : (s.repeatClapper).ringMem = s.ringMem := by simp [Chip.repeatClapper]
@[simp] theorem discardStaged_ringMem : (s.discardStaged).ringMem = s.ringMem := by simp [Chip.discardStaged]
@[simp] theorem directorFails_ringMem : (s.directorFails).ringMem = s.ringMem := by simp [Chip.directorFails]
@[simp] theorem standbyFails_ringMem : (s.standbyFails).ringMem = s.ringMem := by simp [Chip.standbyFails]
@[simp] theorem pairTested_ringMem (pass : Bool) : (s.pairTested pass).ringMem = s.ringMem := by simp [Chip.pairTested]
@[simp] theorem rejoin_ringMem (zero : Bool) : (s.rejoin zero).ringMem = s.ringMem := by simp [Chip.rejoin]

/-! ### Marker -/

@[simp] theorem toMarker_ringMem : (s.toMarker).ringMem = s.ringMem := by simp [Chip.toMarker]
@[simp] theorem stepState_ringMem : (s.stepState).ringMem = s.ringMem := by simp [Chip.stepState]
@[simp] theorem settleTime_ringMem (old : Nat) (dip : Bool) : (s.settleTime old dip).ringMem = s.ringMem := by simp [Chip.settleTime]
@[simp] theorem newClapper_ringMem : (s.newClapper).ringMem = s.ringMem := by simp [Chip.newClapper]
@[simp] theorem agentsMarker_ringMem (m : MarkerIn) (zero : Bool) : (s.agentsMarker m zero).ringMem = s.ringMem := by simp [Chip.agentsMarker]
@[simp] theorem countSecond_ringMem (zero : Bool) : (s.countSecond zero).ringMem = s.ringMem := by simp [Chip.countSecond]

@[simp] theorem afterRelease_ringMem (m : MarkerIn) (zero repeating : Bool) (lifted : List Nat) (old : Nat) (dip : Bool) :
    (s.afterRelease m zero repeating lifted old dip).ringMem = s.ringMem := by
  simp [Chip.afterRelease]

/-! ### Host -/

@[simp] theorem parityFault_ringMem (addr : Nat) : (s.parityFault addr).ringMem = s.ringMem := by simp [Chip.parityFault]
@[simp] theorem parityCheck_ringMem (addr : Nat) : (s.parityCheck addr).ringMem = s.ringMem := by simp [Chip.parityCheck]

@[simp] theorem parityRestored_ringMem (addr : Nat) (be : BitVec 4) : (s.parityRestored addr be).ringMem = s.ringMem := by
  simp [Chip.parityRestored]

@[simp] theorem voteField_ringMem (addr : Nat) (a b c : Word) (f : FieldRow) : (s.voteField addr a b c f).ringMem = s.ringMem := by
  simp [Chip.voteField]

@[simp] theorem voteRepair_ringMem (addr : Nat) (a b c : Word) : (s.voteRepair addr a b c).ringMem = s.ringMem := by simp [Chip.voteRepair]
@[simp] theorem latch_ringMem (path : Path) (base : Nat) (ws : List Word) : (s.latch path base ws).ringMem = s.ringMem := by simp [Chip.latch]

@[simp] theorem wideRead_ringMem (path : Path) (base n lag : Nat) : (s.wideRead path base n lag).2.ringMem = s.ringMem := by
  unfold Chip.wideRead
  (repeat' split) <;> simp

@[simp] theorem latchChain_ringMem (path : Path) (k : Nat) : (s.latchChain path k).ringMem = s.ringMem := by simp [Chip.latchChain]

@[simp] theorem readReg_ringMem (path : Path) (addr lag : Nat) : (s.readReg path addr lag).2.ringMem = s.ringMem := by
  unfold Chip.readReg
  (repeat' split) <;> simp

@[simp] theorem pageRead_ringMem (path : Path) (addr lag : Nat) : (s.pageRead path addr lag).2.ringMem = s.ringMem := by
  unfold Chip.pageRead
  dsimp only
  (repeat' split) <;> simp

@[simp] theorem busRead_ringMem (path : Path) (addr lag : Nat) : (s.busRead path addr lag).2.ringMem = s.ringMem := by simp [Chip.busRead]

@[simp] theorem putField_ringMem (before : Chip) (addr : Nat) (be : BitVec 4) (w : Word) (f : FieldRow) :
    (s.putField before addr be w f).ringMem = s.ringMem := by
  unfold Chip.putField
  (repeat' split) <;> simp

@[simp] theorem putFields_ringMem (before : Chip) (addr : Nat) (be : BitVec 4) (w : Word) (allow : Access → Bool) :
    (s.putFields before addr be w allow).ringMem = s.ringMem := by
  simp [Chip.putFields]

@[simp] theorem lockRefuse_ringMem (pg : Nat) : (s.lockRefuse pg).ringMem = s.ringMem := by simp [Chip.lockRefuse]

@[simp] theorem writeWord_ringMem (addr : Nat) (be : BitVec 4) (w : Word) : (s.writeWord addr be w).ringMem = s.ringMem := by
  simp [Chip.writeWord]

@[simp] theorem wideWrite_ringMem (path : Path) (base addr : Nat) (be : BitVec 4) (w : Word) :
    (s.wideWrite path base addr be w).ringMem = s.ringMem := by
  simp [Chip.wideWrite]

@[simp] theorem shareWrite_ringMem (o sub : Nat) (w : Word) : (s.shareWrite o sub w).ringMem = s.ringMem := by simp [Chip.shareWrite]
@[simp] theorem trgLost_ringMem (pg : Nat) : (s.trgLost pg).ringMem = s.ringMem := by simp [Chip.trgLost]
@[simp] theorem applyTree_ringMem (p : Nat) : (s.applyTree p).ringMem = s.ringMem := by simp [Chip.applyTree]
@[simp] theorem injectWrite_ringMem (a b : Bool) : (s.injectWrite a b).ringMem = s.ringMem := by simp [Chip.injectWrite]
@[simp] theorem toggleParity_ringMem (addr : Nat) : (s.toggleParity addr).ringMem = s.ringMem := by simp [Chip.toggleParity]
@[simp] theorem ringSeen_ringMem (addr : Nat) : (s.ringSeen addr).ringMem = s.ringMem := by simp [Chip.ringSeen]

@[simp] theorem notReached_ringMem (path : Path) : (s.notReached path).ringMem = s.ringMem := by
  cases path <;> simp [Chip.notReached]

@[simp] theorem hostRead_ringMem (path : Path) (addr lag : Nat) : (s.hostRead path addr lag).ringMem = s.ringMem := by simp [Chip.hostRead]

@[simp] theorem memReads_ringMem (a n : Nat) : (s.memReads a n).2.ringMem = s.ringMem := by
  refine foldl_ringMem_of (fun x : List Word × Chip => x.2) (fun x k => ?_) _ _
  dsimp only
  split <;> simp

@[simp] theorem putMsix_ringMem (k : Nat) (w : Word) : (s.putMsix k w).ringMem = s.ringMem := by simp [Chip.putMsix]

@[simp] theorem processCall_ringMem (head : SmbHead) (count : Nat) (offset : Word) :
    (s.processCall head count offset).ringMem = s.ringMem := by
  simp [Chip.processCall]

end

/-! ### Frames: what moves them leaves the descriptors alone -/

section
variable (s : Chip)

@[simp] theorem putFrame_ringMem (f : Frame) : (s.putFrame f).ringMem = s.ringMem := by simp [Chip.putFrame]
@[simp] theorem markHeld_ringMem (q sub : Nat) : (s.markHeld q sub).ringMem = s.ringMem := by simp [Chip.markHeld]
@[simp] theorem dropFrame_ringMem (f : Frame) : (s.dropFrame f).ringMem = s.ringMem := by simp [Chip.dropFrame]
@[simp] theorem endFrame_ringMem (f : Frame) : (s.endFrame f).ringMem = s.ringMem := by simp [Chip.endFrame]

@[simp] theorem endBroken_ringMem (f : Frame) (ctr : Nat → Nat → Fld) : (s.endBroken f ctr).ringMem = s.ringMem := by
  simp [Chip.endBroken]

@[simp] theorem abort_ringMem (f : Frame) : (s.abort f).ringMem = s.ringMem := by simp [Chip.abort]

@[simp] theorem flush_ringMem (pick : Frame → Bool) (brk : Nat → Nat → Fld) (ctr : Option (Nat → Nat → Fld)) :
    (s.flush pick brk ctr).ringMem = s.ringMem := by
  cases ctr <;> simp [Chip.flush]

@[simp] theorem accept_ringMem (f : Frame) (i : Nat) : (s.accept f i).ringMem = s.ringMem := by simp [Chip.accept]
@[simp] theorem unadmit_ringMem (f : Frame) : (s.unadmit f).ringMem = s.ringMem := by simp [Chip.unadmit]

@[simp] theorem admission_ringMem (id : Nat) : (s.admission id).ringMem = s.ringMem := by
  unfold Chip.admission
  dsimp only
  (repeat' split) <;> simp

@[simp] theorem spoil_ringMem (f : Frame) : (s.spoil f).ringMem = s.ringMem := by simp [Chip.spoil]

@[simp] theorem tailAdmission_ringMem (id : Nat) (how : TailEnd) : (s.tailAdmission id how).ringMem = s.ringMem := by
  unfold Chip.tailAdmission
  dsimp only
  (repeat' split) <;> simp

@[simp] theorem formCell_ringMem (f : Frame) : (s.formCell f).ringMem = s.ringMem := by
  unfold Chip.formCell
  dsimp only
  split <;> simp

@[simp] theorem cellForm_ringMem (id : Nat) : (s.cellForm id).ringMem = s.ringMem := by
  unfold Chip.cellForm
  (repeat' split) <;> simp

@[simp] theorem turnAway_ringMem (f : Frame) (a : Answer) : (s.turnAway f a).ringMem = s.ringMem := by
  cases a <;> simp [Chip.turnAway]

@[simp] theorem land_ringMem (c : Nat × Nat) : (s.land c).ringMem = s.ringMem := by
  unfold Chip.land
  dsimp only
  (repeat' split) <;> simp

@[simp] theorem sendCell_ringMem (fs : List Frame) (r : Req) : (s.sendCell fs r).ringMem = s.ringMem := by
  unfold Chip.sendCell
  dsimp only
  (repeat' split) <;> simp

@[simp] theorem feedDirect_ringMem (busy : List Nat) : (s.feedDirect busy).ringMem = s.ringMem := by
  refine foldl_ringMem (fun t o => ?_) _ s
  (repeat' split) <;> simp

@[simp] theorem grantSlot_ringMem : s.grantSlot.ringMem = s.ringMem := by simp [Chip.grantSlot]

@[simp] theorem dualReset_ringMem : s.dualReset.ringMem = s.ringMem := by
  unfold Chip.dualReset
  extract_lets lost ids fab s1 s2 s3
  have h2 : s2.ringMem = s1.ringMem := by
    refine foldl_ringMem (fun t id => ?_) _ s1
    split <;> simp
  simp [s3, h2, s1]

@[simp] theorem orphanInput_ringMem (f : Frame) : (s.orphanInput f).ringMem = s.ringMem := by simp [Chip.orphanInput]

@[simp] theorem inputEcc_ringMem (x : StoreHit) : (s.inputEcc x).ringMem = s.ringMem := by
  unfold Chip.inputEcc
  (repeat' split) <;> simp

@[simp] theorem moveCells_ringMem : s.moveCells.ringMem = s.ringMem := by simp [Chip.moveCells]

@[simp] theorem replicaSlot_ringMem (fault : SlotFault) : (s.replicaSlot fault).ringMem = s.ringMem := by
  unfold Chip.replicaSlot
  dsimp only
  split <;> simp

@[simp] theorem schedSlot_ringMem (fault : SlotFault) (ecc : List StoreHit) :
    (s.schedSlot fault ecc).ringMem = s.ringMem := by
  simp [Chip.schedSlot]

@[simp] theorem orphan_ringMem (f : Frame) : (s.orphan f).ringMem = s.ringMem := by simp [Chip.orphan]

@[simp] theorem linkEcc_ringMem (f : Frame) (e : Ecc) : (s.linkEcc f e).ringMem = s.ringMem := by
  cases e <;> simp [Chip.linkEcc]

@[simp] theorem judge_ringMem (f : Frame) (stamp : Raw) : (s.judge f stamp).ringMem = s.ringMem := by simp [Chip.judge]

@[simp] theorem begin_ringMem (f : Frame) (m : Nat) (stamp : LineStamp) : (s.begin f m stamp).ringMem = s.ringMem := by
  simp [Chip.begin]

@[simp] theorem launch_ringMem (f : Frame) (m : Nat) (stamp : LineStamp) (ecc : TxEcc) :
    (s.launch f m stamp ecc).ringMem = s.ringMem := by
  unfold Chip.launch
  split <;> simp

@[simp] theorem lateDiscard_ringMem (p sub c fuel : Nat) : (s.lateDiscard p sub c fuel).ringMem = s.ringMem := by
  induction fuel generalizing s with
  | zero => rfl
  | succ fuel ih =>
    unfold Chip.lateDiscard
    (repeat' split) <;> simp [ih]

@[simp] theorem txStart_ringMem (p sub : Nat) (stamp : LineStamp) (ecc : TxEcc) :
    (s.txStart p sub stamp ecc).ringMem = s.ringMem := by
  unfold Chip.txStart
  extract_lets q m s1 s2 r
  have h1 : s1.ringMem = s.ringMem := by
    simp only [s1]
    split <;> simp
  have h2 : s2.ringMem = s.ringMem := by simp [s2, h1]
  (repeat' split) <;> simp [h2]

@[simp] theorem underrun_ringMem (p sub : Nat) : (s.underrun p sub).ringMem = s.ringMem := by
  unfold Chip.underrun
  (repeat' split) <;> simp

@[simp] theorem finishTx_ringMem (m sub : Nat) (f : Frame) (sent : Nat) : (s.finishTx m sub f sent).ringMem = s.ringMem := by
  unfold Chip.finishTx
  dsimp only
  (repeat' split) <;> simp

@[simp] theorem txEnd_ringMem (p sub : Nat) (cells : List Ecc) : (s.txEnd p sub cells).ringMem = s.ringMem := by
  unfold Chip.txEnd
  dsimp only
  (repeat' split) <;> simp

@[simp] theorem portReturns_ringMem (q sub : Nat) : (s.portReturns q sub).ringMem = s.ringMem := by
  simp [Chip.portReturns, Chip.returnFlush]

@[simp] theorem expireHold_ringMem (q sub : Nat) : (s.expireHold q sub).ringMem = s.ringMem := by simp [Chip.expireHold]
@[simp] theorem portDrops_ringMem (q sub : Nat) : (s.portDrops q sub).ringMem = s.ringMem := by simp [Chip.portDrops]
@[simp] theorem fuseEval_ringMem (p : Nat) : (s.fuseEval p).ringMem = s.ringMem := by simp [Chip.fuseEval]

@[simp] theorem cutWire_ringMem (m sub : Nat) : (s.cutWire m sub).ringMem = s.ringMem := by
  unfold Chip.cutWire
  extract_lets ids t
  have ht : t.ringMem = s.ringMem := by
    refine foldl_ringMem (fun u id => ?_) _ s
    dsimp only
    (repeat' split) <;> simp
  simp [ht]

@[simp] theorem cutArriving_ringMem (m sub : Nat) : (s.cutArriving m sub).ringMem = s.ringMem := by simp [Chip.cutArriving]

@[simp] theorem linkFalls_ringMem (m sub : Nat) (next : LinkPhase) : (s.linkFalls m sub next).ringMem = s.ringMem := by
  simp [Chip.linkFalls]

@[simp] theorem linkComesUp_ringMem (m sub : Nat) : (s.linkComesUp m sub).ringMem = s.ringMem := by simp [Chip.linkComesUp]
@[simp] theorem holdExpiry_ringMem (p sub : Nat) : (s.holdExpiry p sub).ringMem = s.ringMem := by simp [Chip.holdExpiry]

@[simp] theorem emptyInput_ringMem (p : Nat) (ends : Bool) : (s.emptyInput p ends).ringMem = s.ringMem := by
  simp [Chip.emptyInput, Chip.cutByReset]

@[simp] theorem stopMember_ringMem (m : Nat) (count : Bool) : (s.stopMember m count).ringMem = s.ringMem := by
  simp [Chip.stopMember]

@[simp] theorem stopPort_ringMem (q : Nat) (count : Bool) (brk : Nat → Nat → Fld) :
    (s.stopPort q count brk).ringMem = s.ringMem := by
  simp [Chip.stopPort, Chip.flushOutputs]

@[simp] theorem beginPortReset_ringMem (q : Nat) : (s.beginPortReset q).ringMem = s.ringMem := by
  simp [Chip.beginPortReset]

@[simp] theorem darkPort_ringMem (q : Nat) : (s.darkPort q).ringMem = s.ringMem := by simp [Chip.darkPort]
@[simp] theorem darkGroup_ringMem (g : Nat) : (s.darkGroup g).ringMem = s.ringMem := by simp [Chip.darkGroup]

theorem macTakes_ringMem {f : RxFrame} {t : Chip} (h : s.macTakes f = some t) : t.ringMem = s.ringMem := by
  unfold Chip.macTakes at h
  (repeat' split at h) <;> cases h <;> simp

end

/-! ### Operations that write descriptors, and what is built on them (R93, R106 to R108) -/

/-- A descriptor memory in its canonical form. -/
def canonicalRing (m : Store Word) : Prop := Store.canonical 0 m = true

/-- The descriptor memory stands in its canonical form. Reducible, so that simp rewrites the memory in it. -/
@[simp] abbrev Chip.ringOk (s : Chip) : Prop := canonicalRing s.ringMem

section
variable {s t : Chip}

theorem Chip.ringOk.of_mem (hs : s.ringOk) (h : t.ringMem = s.ringMem) : t.ringOk := by
  rw [Chip.ringOk, h]
  exact hs

theorem foldl_ringOk {β : Type} {g : Chip → β → Chip} (h : ∀ t b, t.ringOk → (g t b).ringOk) (l : List β) (hs : s.ringOk) :
    (l.foldl g s).ringOk :=
  List.foldlRecOn l g hs (fun t ht b _ => h t b ht)

@[simp] theorem setDesc_ringOk (hs : s.ringOk) (n k w : Nat) (v : Word) : (s.setDesc n k w v).ringOk :=
  store_canonical_write 0 s.ringMem _ _ hs

@[simp] theorem toRing_ringOk (hs : s.ringOk) (n p sub len : Nat) (late : Bool) : (s.toRing n p sub len late).ringOk := by
  unfold Chip.toRing
  dsimp only
  (repeat' split) <;> simp [hs]

@[simp] theorem addFrame_ringOk (hs : s.ringOk) (f : RxFrame) (fromHost direct cutIn waiting : Bool) (v : Verdict) :
    (s.addFrame f fromHost direct cutIn waiting v).ringOk := by
  unfold Chip.addFrame
  dsimp only
  (repeat' split) <;> simp [hs]

@[simp] theorem releaseEarly_ringOk (hs : s.ringOk) (k : Early) : (s.releaseEarly k).ringOk := by
  unfold Chip.releaseEarly
  dsimp only
  split <;> simp [hs]

@[simp] theorem releaseEarlies_ringOk (hs : s.ringOk) (l : List Early) : (l.foldl Chip.releaseEarly s).ringOk :=
  foldl_ringOk (fun _ k ht => releaseEarly_ringOk ht k) l hs

@[simp] theorem releaseSeq_ringOk (hs : s.ringOk) (p : Nat) (express : Bool) (n : Nat) : (s.releaseSeq p express n).ringOk := by
  simp [Chip.releaseSeq, hs]

@[simp] theorem passSeq_ringOk (hs : s.ringOk) (p : Nat) (express : Bool) (n fuel : Nat) :
    (s.passSeq p express n fuel).ringOk := by
  induction fuel generalizing s n with
  | zero => exact hs
  | succ fuel ih =>
    unfold Chip.passSeq
    dsimp only
    split
    · exact ih (by simp [hs]) _
    · simp [hs]

@[simp] theorem leaveEpoch_ringOk (hs : s.ringOk) (p epoch : Nat) : (s.leaveEpoch p epoch).ringOk := by
  unfold Chip.leaveEpoch
  dsimp only
  split <;> simp [hs]

@[simp] theorem sequenceTag_ringOk (hs : s.ringOk) (q : Nat) (f : RxFrame) (t : TsTag) (cut : Bool) :
    (s.sequenceTag q f t cut).ringOk := by
  unfold Chip.sequenceTag
  extract_lets s1 j s2 r u
  have h2 : s2.ringOk := by simp [s2, s1, hs]
  have hu : u.ringOk := by simp [u, r, h2]
  split
  · simp [h2]
  · simp [r, h2]
  · exact passSeq_ringOk hu _ _ _ _

@[simp] theorem receive_ringOk (hs : s.ringOk) (f : RxFrame) : (s.receive f).ringOk := by
  unfold Chip.receive
  extract_lets p q long f' s1 s2 r
  have h2 : s2.ringOk := by
    simp only [s2]
    split <;> simp [s1, hs]
  split
  · cases h : s.macTakes f with
    | none => exact hs
    | some t => exact hs.of_mem (macTakes_ringMem s h)
  · split
    · exact hs
    · split
      · simp [h2]
      · split
        · next h => exact h2.of_mem (macTakes_ringMem s2 h)
        · simp [r, h2]
        · split <;> simp [h2]

@[simp] theorem endWait_ringOk (hs : s.ringOk) (p : Nat) (express : Bool) (k : Early) : (s.endWait p express k).ringOk := by
  unfold Chip.endWait
  dsimp only
  exact passSeq_ringOk (foldl_ringOk (fun _ m ht => releaseSeq_ringOk ht p express m) _ (by simp [hs])) _ _ _ _

@[simp] theorem seqExpiry_ringOk (hs : s.ringOk) (id : Nat) : (s.seqExpiry id).ringOk := by
  unfold Chip.seqExpiry
  split <;> simp [hs]

@[simp] theorem serveTx_ringOk (hs : s.ringOk) (f : RxFrame) : (s.serveTx f).ringOk := by
  unfold Chip.serveTx
  split
  · exact hs
  · extract_lets k w3 len port sub s1 clear g s2 r s3
    have h1 : s1.ringOk := hs
    have h2 : s2.ringOk := setDesc_ringOk h1 _ _ _ _
    have h3 : s3.ringOk := by
      simp only [s3]
      split <;> simp [r, h2]
    split
    · simp [h1]
    · simp [h3]

@[simp] theorem ringWrite_ringOk (hs : s.ringOk) (addr : Nat) (be : BitVec 4) (w : Word) : (s.ringWrite addr be w).ringOk := by
  unfold Chip.ringWrite
  (repeat' split) <;> simp [hs]

end

/-! ### Links and fused pairs, whose members leave with their waiting frames (R83 to R94) -/

section
variable {s : Chip}

@[simp] theorem endSpace_ringOk (hs : s.ringOk) (p gone : Nat) (alone express : Bool) :
    (s.endSpace p gone alone express).ringOk := by
  unfold Chip.endSpace
  dsimp only
  split <;> simp [hs]

@[simp] theorem endWaits_ringOk (hs : s.ringOk) (p gone : Nat) : (s.endWaits p gone).ringOk := by simp [Chip.endWaits, hs]

@[simp] theorem memberLeaves_ringOk (hs : s.ringOk) (m : Nat) : (s.memberLeaves m).ringOk := by
  unfold Chip.memberLeaves
  dsimp only
  split <;> simp [hs]

@[simp] theorem skewStep_ringOk (hs : s.ringOk) (p : Nat) : (s.skewStep p).ringOk := by
  unfold Chip.skewStep
  dsimp only
  (repeat' split) <;> simp [hs]

@[simp] theorem markerRx_ringOk (hs : s.ringOk) (m : Nat) (k : FuseMarker) : (s.markerRx m k).ringOk := by
  unfold Chip.markerRx
  dsimp only
  split <;> simp [hs]

@[simp] theorem linkDown_ringOk (hs : s.ringOk) (m sub : Nat) (faultOnly : Bool) : (s.linkDown m sub faultOnly).ringOk := by
  unfold Chip.linkDown
  dsimp only
  (repeat' split) <;> simp [hs]

@[simp] theorem stopSub_ringOk (hs : s.ringOk) (m sub : Nat) : (s.stopSub m sub).ringOk := by simp [Chip.stopSub, hs]

@[simp] theorem turnReceivers_ringOk (hs : s.ringOk) (p m : Nat) : (s.turnReceivers p m).ringOk := by
  refine foldl_ringOk (fun t sub ht => ?_) _ hs
  split <;> simp [ht]

@[simp] theorem ctrlWrite_ringOk (hs : s.ringOk) (p : Nat) (w : Word) : (s.ctrlWrite p w).ringOk := by
  unfold Chip.ctrlWrite
  split
  · simp [hs]
  · extract_lets old o t was turns t' falls rises u
    have ht : t.ringOk := by
      simp only [t, o]
      split <;> simp [hs]
    have ht' : t'.ringOk := by
      simp only [t']
      split
      · refine foldl_ringOk (fun v m hv => ?_) _ ht
        split <;> simp [hv]
      · exact ht
    have hu : u.ringOk :=
      foldl_ringOk (fun _ m hv => foldl_ringOk (fun _ sub hx => stopSub_ringOk hx m sub) _ hv) _ ht'
    split <;> simp [hu]

@[simp] theorem laneLol_ringOk (hs : s.ringOk) (g k : Nat) : (s.laneLol g k).ringOk := by
  unfold Chip.laneLol
  split
  · exact hs
  · exact foldl_ringOk (fun _ p hu => foldl_ringOk (fun _ sub hv => stopSub_ringOk hv p sub) _ hu) _ (by simp [hs])

@[simp] theorem memberFalls_ringOk (hs : s.ringOk) (m : Nat) : (s.memberFalls m).ringOk := by
  unfold Chip.memberFalls
  dsimp only
  split <;> simp [hs]

@[simp] theorem stopForGroup_ringOk (hs : s.ringOk) (m : Nat) : (s.stopForGroup m).ringOk := by
  unfold Chip.stopForGroup
  dsimp only
  split <;> simp [hs]

@[simp] theorem beginGroupReset_ringOk (hs : s.ringOk) (g : Nat) : (s.beginGroupReset g).ringOk := by
  unfold Chip.beginGroupReset
  extract_lets t u v
  have ht : t.ringOk := foldl_ringOk (fun _ m hx => stopForGroup_ringOk hx m) _ (by simp [hs])
  simp [v, u, ht]

@[simp] theorem groupFault_ringOk (hs : s.ringOk) (g : Nat) : (s.groupFault g).ringOk := by
  unfold Chip.groupFault
  dsimp only
  (repeat' split) <;> simp [hs]

end

/-! ### Resets that empty the descriptor memory (R25, R304 to R311) -/

section
variable {s : Chip}

@[simp] theorem canonicalRing_nil : canonicalRing [] := (rfl)
@[simp] theorem functionReset_ringMem (s : Chip) : s.functionReset.ringMem = [] := (rfl)

@[simp] theorem flr_ringOk (hs : s.ringOk) : s.flr.ringOk := by
  unfold Chip.flr
  split <;> simp [hs]

@[simp] theorem pcieDown_ringOk (hs : s.ringOk) (perst : Bool) : (s.pcieDown perst).ringOk := by
  unfold Chip.pcieDown
  dsimp only
  split <;> simp [hs]

@[simp] theorem coldClear_ringMem (s : Chip) : s.coldClear.ringMem = [] := by simp [Chip.coldClear, Chip.zero]

@[simp] theorem coldReset_ringMem (s : Chip) (cause rail : Nat) : (s.coldReset cause rail).ringMem = [] := by
  simp [Chip.coldReset]

@[simp] theorem powersOn_ringOk (hs : s.ringOk) (x : PowerUp) : (s.powersOn x).ringOk := by
  unfold Chip.powersOn
  split <;> simp [hs]

@[simp] theorem railFalls_ringOk (hs : s.ringOk) (rail : Nat) : (s.railFalls rail).ringOk := by
  unfold Chip.railFalls
  split <;> simp [hs]

@[simp] theorem dipTimeout_ringOk (hs : s.ringOk) : s.dipTimeout.ringOk := by
  unfold Chip.dipTimeout
  (repeat' split) <;> simp [hs]

@[simp] theorem xoBack_ringOk (hs : s.ringOk) : s.xoBack.ringOk := by
  unfold Chip.xoBack
  split <;> simp [hs]

@[simp] theorem unpower_ringMem (s : Chip) : s.unpower.ringMem = [] := by simp [Chip.unpower]

@[simp] theorem softReset_ringMem (s : Chip) : s.softReset.ringMem = [] := by
  simp [Chip.softReset, Chip.deviceReset, Chip.zero]

@[simp] theorem warmBegins_ringOk (hs : s.ringOk) : s.warmBegins.ringOk := by
  unfold Chip.warmBegins
  split <;> simp [hs]

@[simp] theorem rstFalls_ringOk (hs : s.ringOk) : s.rstFalls.ringOk := by simp [Chip.rstFalls, hs]

@[simp] theorem tapTakes_ringOk (hs : s.ringOk) (i : TapInstr) (straps : BitVec 16) : (s.tapTakes i straps).ringOk := by
  unfold Chip.tapTakes
  dsimp only
  (repeat' split) <;> simp [hs]

@[simp] theorem tapMoves_ringOk (hs : s.ringOk) (x : TapEvent) : (s.tapMoves x).ringOk := by
  unfold Chip.tapMoves
  dsimp only
  (repeat' split) <;> simp [hs]

@[simp] theorem enterStandby_ringMem (s : Chip) : s.enterStandby.ringMem = [] := (rfl)

@[simp] theorem powerBegins_ringOk (hs : s.ringOk) (scope i st : Nat) : (s.powerBegins scope i st).ringOk := by
  unfold Chip.powerBegins
  (repeat' split) <;> simp [hs]

end

/-! ### The CLAPPER_MARKER (R341) -/

section
variable {s : Chip}

@[simp] theorem releaseOne_ringOk (hs : s.ringOk) (e : Staged) : (s.releaseOne e).ringOk := by
  unfold Chip.releaseOne
  dsimp only
  split
  case h_5 => exact (beginGroupReset_ringOk (hs.of_mem (setBit_ringMem _ _ _ _)) _).of_mem (runsOn_ringMem _ _)
  all_goals (repeat' split) <;> simp [hs]

@[simp] theorem releaseAll_ringOk (hs : s.ringOk) : s.releaseAll.ringOk := by
  unfold Chip.releaseAll
  extract_lets st ended mail t u late
  have released : (st.foldl Chip.releaseOne t).ringOk :=
    foldl_ringOk (fun _ e hx => releaseOne_ringOk hx e) _ (by simp [t, ended, hs])
  simp [late, u, released]

@[simp] theorem marker_ringOk (hs : s.ringOk) (m : MarkerIn) : (s.marker m).ringOk := by
  unfold Chip.marker
  split
  · exact hs
  · extract_lets zero repeating released marked c c' t u v
    have hu : u.ringOk := by
      simp only [u, t, c', c, marked]
      (repeat' split) <;> simp [hs]
    split
    · simp [Chip.deviceResets]
    · have hv : v.ringOk := by
        simp only [v]
        (repeat' split) <;> simp [hu]
      simp [hv]

end

/-! ### Accesses of the host (R27 to R36) -/

section
variable {s : Chip}

theorem forall_mem_ite {k : Prop} [Decidable k] {o u : Option Chip} {P : Chip → Prop} :
    (∀ c ∈ (if k then o else u), P c) ↔ (k → ∀ c ∈ o, P c) ∧ (¬k → ∀ c ∈ u, P c) := by
  split <;> simp [*]

theorem portWrite_ringOk (hs : s.ringOk) (q page o : Nat) (p t : Word) : ∀ c ∈ s.portWrite q page o p t, c.ringOk := by
  simp [Chip.portWrite, forall_mem_ite, hs, Option.mem_some_iff, -Option.mem_def]

theorem eventWrite_ringOk (hs : s.ringOk) (e o : Nat) (be : BitVec 4) (p w : Word) :
    ∀ c ∈ s.eventWrite e o be p w, c.ringOk := by
  simp [Chip.eventWrite, forall_mem_ite, hs, Option.mem_some_iff, -Option.mem_def]

/-- A write that acts leaves a canonical memory: of the registers that act on more than stored fields, CTRL alone may send
frames on to the host's rings. -/
theorem actingWrite_ringOk (hs : s.ringOk) (addr : Nat) (be : BitVec 4) (p t w : Word) :
    ∀ c ∈ s.actingWrite addr be p t w, c.ringOk := by
  simp only [Chip.actingWrite, forall_mem_ite]
  refine ⟨fun _ => portWrite_ringOk hs _ _ _ _ _, fun _ => ⟨fun _ => eventWrite_ringOk hs _ _ _ _ _, fun _ => ?_⟩⟩
  (repeat' split) <;> simp [hs, Option.mem_some_iff, -Option.mem_def]

theorem upsetBit_ringOk (hs : s.ringOk) (addr k : Nat) : (s.upsetBit addr k).ringOk := by
  unfold Chip.upsetBit
  split
  · exact hs
  · split
    · simp [hs]
    · split
      · extract_lets g t w acts
        have hacts : (acts.getD t).ringOk := by
          cases h : acts with
          | none => exact hs
          | some c =>
            simp only [acts, Option.ite_none_right_eq_some] at h
            exact actingWrite_ringOk hs _ _ _ _ _ c h.2
        simp [hacts]
      · exact hs

@[simp] theorem parityScan_ringOk (hs : s.ringOk) (upsets : List (BitVec 26 × Fin 33)) : (s.parityScan upsets).ringOk := by
  unfold Chip.parityScan
  extract_lets t
  have ht : t.ringOk := foldl_ringOk (fun _ x hu => upsetBit_ringOk hu _ _) _ hs
  split
  · exact hs
  · simp [ht]

@[simp] theorem writeReg_ringOk (hs : s.ringOk) (before : Chip) (path : Path) (addr : Nat) (be : BitVec 4) (w : Word) :
    (s.writeReg before path addr be w).ringOk := by
  unfold Chip.writeReg
  dsimp only
  split
  · next c h =>
    have hc : c.ringOk := actingWrite_ringOk hs _ _ _ _ _ c h
    split <;> simp [hc]
  · (repeat' split) <;> simp [hs]

@[simp] theorem pageWrite_ringOk (hs : s.ringOk) (before : Chip) (path : Path) (addr : Nat) (be : BitVec 4) (w : Word) :
    (s.pageWrite before path addr be w).ringOk := by
  unfold Chip.pageWrite
  dsimp only
  (repeat' split) <;> simp [hs]

@[simp] theorem busWrite_ringOk (hs : s.ringOk) (path : Path) (addr : Nat) (be : BitVec 4) (w : Word) :
    (s.busWrite path addr be w).ringOk := by
  unfold Chip.busWrite
  dsimp only
  split <;> simp [hs]

@[simp] theorem hostWrite_ringOk (hs : s.ringOk) (path : Path) (addr : Nat) (be : BitVec 4) (w : Word) :
    (s.hostWrite path addr be w).ringOk := by
  unfold Chip.hostWrite
  (repeat' split) <;> simp [hs]

@[simp] theorem memWrites_ringOk (hs : s.ringOk) (a n : Nat) (be : Nat → BitVec 4) (data : List Word) :
    (s.memWrites a n be data).ringOk := by
  refine foldl_ringOk (fun t k ht => ?_) _ hs
  split <;> simp [ht]

@[simp] theorem memServed_ringOk (hs : s.ringOk) (isWrite : Bool) (cut : Option Nat) (a : Nat) (be : Nat → BitVec 4)
    (count : Nat) (data : List Word) : (s.memServed isWrite cut a be count data).ringOk := by
  unfold Chip.memServed
  dsimp only
  (repeat' split) <;> simp [hs]

@[simp] theorem memRequest_ringOk (hs : s.ringOk) (op : PcieOp) (addr : Nat) (firstBe lastBe : BitVec 4) (count : Nat)
    (data : List Word) : (s.memRequest op addr firstBe lastBe count data).ringOk := by
  cases op <;> dsimp only [Chip.memRequest] <;> split <;> simp [hs]

@[simp] theorem blockWrite_ringOk (hs : s.ringOk) (head : SmbHead) (count : Nat) (offset data : Word) (pec : Pec) :
    (s.blockWrite head count offset data pec).ringOk := by
  unfold Chip.blockWrite
  dsimp only
  (repeat' split) <;> simp [hs]

end

/-! ### O5: every step keeps the descriptor memory in its canonical form -/

section
variable {s t : State}

theorem done_ringOk {u : Chip} (hu : u.ringOk) (h : done s u = .next t) : t.chip.ringOk := by
  cases h
  exact hu

theorem exec_ringOk (hs : s.chip.ringOk) (c : Instr) (h : exec c s = .next t) : t.chip.ringOk := by
  cases c <;> exact done_ringOk (by simp [hs]) h

end

/-- Settles O5: of the commands, those that serve a descriptor, that release frames to the host's rings or that write
descriptors for the host write words of the memory, resets empty it, and every other one leaves it as it stands. -/
theorem stepKeepsRingMemoryCanonical : Obligations.StepKeepsRingMemoryCanonical := by
  unfold Obligations.StepKeepsRingMemoryCanonical
  intro s t hs h
  unfold step at h
  split at h
  · exact done_ringOk (Chip.ringOk.of_mem hs (elapse_ringMem _ 1)) h
  · next c rest _ => exact exec_ringOk (s := { s with pending := rest }) hs c h

end Sys2Proof.Machine

/-! What the table and scheduler windows capture at a trigger (R110, R113, R153, R159, R162, R164): O10. -/

namespace Sys2Proof.Machine

open Sys2Proof.Says

/-! ### A trigger of a table or scheduler window -/

/-- A write of every byte of a word that acts, on a page that serves: what the ACCESS probes leave of the block, on which the
write then acts. -/
theorem hostWrite_acts {s : Chip} {path : Path} {a : Nat} {w : Word} (act : Chip → Chip) (h : s.serves path (a / 4096))
    (ha : a < 0x04000000) (h4 : a % 4 = 0) (h40 : 0x40 ≤ a % 4096) (hs : slotAt a = none) (hp : a / 4096 ≠ 0x81)
    (hact : ∀ u p, u.actingWrite a 0xF p (w &&& beMask 0xF) w = some (act u)) (hign : ∀ u : Chip, u.ignores a = false) :
    ∃ u, s.keeps u [] ∧ u.noRegs = s.noRegs
      ∧ s.hostWrite path a 0xF w = ((act u).parityRestored a 0xF).answer1 [] false false :=
  ⟨_, keeps_access s 1 1 (pathMaster path) a, noRegs_access s 1 1 (pathMaster path) a, by
    rw [hostWrite_serves s path a 0xF w h ha h4 h40 hs hp, pathEnables_all, writeReg_acts s (hact _ _) (hign _)]⟩

theorem parityRestored_all (s : Chip) (a : Nat) :
    s.parityRestored a 0xF = { s with badParity := s.badParity.filter (fun x => x != a) } := if_pos rfl

/-- The words of the table and scheduler windows take every write (R89, R270, R317). -/
theorem ignores_window (s : Chip) {a : Nat} (h : 0x110 ≤ a / 4096 ∧ a / 4096 < 0x2000) : s.ignores a = false := by
  have ha : (a == 0x11040) = false := beq_eq_false_iff_ne.2 (by omega)
  unfold Chip.ignores
  dsimp only
  rw [if_neg (by omega), if_neg (by omega), ha, Bool.false_and]

/-- A trigger of a window that is idle (R110, R164). -/
theorem windowTrigger_idle {s : Chip} {k : Nat} {read write : Bool} (h : (read || write) = true)
    (hidle : Store.find k s.windows = none) :
    s.windowTrigger k read write
      = Chip.setB { s with windows := Store.insert k (s.capture k read write) s.windows } (windowBusy k) true := by
  unfold Chip.windowTrigger
  rw [if_neg (by cases read <;> cases write <;> simp_all), if_neg (by rw [hidle]; decide)]

theorem windowEntry_congr {s t : Chip} {k : Nat} (h : ∀ i < 4, t.get (windowData k i) = s.get (windowData k i)) :
    t.windowEntry k = s.windowEntry k := by
  rw [Chip.windowEntry, Chip.windowEntry, h 0 (by omega), h 1 (by omega), h 2 (by omega), h 3 (by omega)]

/-! ### TBL_READ and TBL_WRITE (R110, R113) -/

section
variable (w : Fin 5)

/-- CMD of a table window. -/
def tblCmd (w : Fin 5) : Nat := (F.tblCmdRead w.val).addr

theorem fieldsOf_tblCmd : fieldsOf (tblCmd w) lockable
    = [⟨17, 1, .trg, 0, 0, false⟩, ⟨16, 1, .trg, 0, 0, false⟩, ⟨8, 1, .rw, 0, 0x3c, false⟩, ⟨0, 8, .rw, 0, 0x3c, false⟩] := by
  revert w
  decide

/-- A write of CMD puts CHECK_GEN and EXPECT_GEN, and no more. -/
theorem putFields_tblCmd (s : Chip) (data : Word) :
    s.putFields s (tblCmd w) 0xF data lockable
      = (s.set (F.tblCmdCheckGen w.val) (word (bits data 8 8))).set (F.tblCmdExpectGen w.val) (word (bits data 7 0)) := by
  have hfold : s.putFields s (tblCmd w) 0xF data lockable
      = (fieldsOf (tblCmd w) lockable).foldl (fun t f => t.putField s (tblCmd w) 0xF data f) s := rfl
  rw [hfold, fieldsOf_tblCmd]
  simp only [List.foldl_cons, List.foldl_nil]
  rw [putField_rw_all _ _ _ _ ⟨8, 1, .rw, 0, 0x3c, false⟩ rfl (by decide) (by decide),
    putField_rw_all _ _ _ _ ⟨0, 8, .rw, 0, 0x3c, false⟩ rfl (by decide) (by decide)]
  rfl

/-- What a trigger of a table window makes of CMD and of the window. -/
def Chip.tblAct (s : Chip) (w : Fin 5) (data : Word) : Chip :=
  (s.writeWord (tblCmd w) 0xF data).windowTrigger w.val (bit data 17) (bit data 16)

theorem actingWrite_tblCmd (s : Chip) (p data : Word) :
    s.actingWrite (tblCmd w) 0xF p (data &&& beMask 0xF) data = some (s.tblAct w data) := by
  rw [word_and_beMask_all]
  fin_cases w <;> rfl

theorem hostWrite_tblCmd {s : Chip} {path : Path} (data : Word) (h : s.serves path (0x200 + w.val)) :
    ∃ u, s.keeps u [] ∧ u.noRegs = s.noRegs
      ∧ s.hostWrite path (tblCmd w) 0xF data = ((u.tblAct w data).parityRestored (tblCmd w) 0xF).answer1 [] false false := by
  have hw := w.isLt
  have hpage : tblCmd w / 4096 = 0x200 + w.val := by simp only [tblCmd, F.tblCmdRead]; omega
  refine hostWrite_acts (fun u => u.tblAct w data) (hpage ▸ h) ?_ ?_ ?_ (slotAt_off ?_) ?_
    (fun u p => actingWrite_tblCmd w u p data) (fun u => ignores_window u (by omega))
  all_goals simp only [tblCmd, F.tblCmdRead]; omega

/-- CMD after a write of its word: its two plain fields, and its parity put right. -/
theorem writeWord_tblCmd (s : Chip) (data : Word) :
    (s.writeWord (tblCmd w) 0xF data).flag (F.tblCmdCheckGen w.val) = bit data 8
      ∧ (s.writeWord (tblCmd w) 0xF data).getN (F.tblCmdExpectGen w.val) = bits data 7 0
      ∧ s.keeps (s.writeWord (tblCmd w) 0xF data) [F.tblCmdCheckGen w.val, F.tblCmdExpectGen w.val]
      ∧ (s.writeWord (tblCmd w) 0xF data).noRegs = s.noRegs.parityRestored (tblCmd w) 0xF := by
  have hne : (F.tblCmdCheckGen w.val).key ≠ (F.tblCmdExpectGen w.val).key := by
    simp only [Fld.key, F.tblCmdCheckGen, F.tblCmdExpectGen]; omega
  unfold Chip.writeWord
  rw [putFields_tblCmd]
  refine ⟨?_, ?_, keeps_parityRestored (keeps_trans (keeps_set _ _ _) (keeps_set _ _ _)) _ _, rfl⟩
  · rw [flag_parityRestored, Chip.flag, Chip.getN, get_set_other _ _ _ _ hne, get_set_same]
    simp only [word_toNat, F.tblCmdCheckGen, bit, bits]
    rw [Bool.eq_iff_iff, bne_iff_ne, beq_iff_eq]
    omega
  · rw [getN_parityRestored, Chip.getN, get_set_same]
    simp only [word_toNat, F.tblCmdExpectGen, bits]
    omega

theorem capture_tbl (s : Chip) (read write : Bool) :
    s.capture w.val read write
      = ⟨read, write, s.getN (F.tblIndex w.val), false, s.windowEntry w.val, s.flag (F.tblCmdCheckGen w.val),
          BitVec.ofNat 8 (s.getN (F.tblCmdExpectGen w.val)),
          if w.val = 4 then s.getN F.tblstageTargetTable * 2 ^ 20 + s.getN F.tblstageTargetEntry else 0⟩ :=
  if_pos w.isLt

/-- What an idle table window captures of a word written to CMD that holds READ or WRITE. -/
theorem tblAct_captures {s u : Chip} {path : Path} {data : Word} (hk : s.keeps u []) (hn : u.noRegs = s.noRegs)
    (htrig : (bit data 17 || bit data 16) = true) (hidle : Store.find w.val s.windows = none) :
    tblCaptured path w (bit data 17) (bit data 16) data s
      (((u.tblAct w data).parityRestored (tblCmd w) 0xF).answer1 [] false false) := by
  obtain ⟨hcheck, hexpect, hkv, hnv⟩ := writeWord_tblCmd w u data
  unfold Chip.tblAct
  generalize u.writeWord (tblCmd w) 0xF data = v at *
  have hsv : s.keeps v [F.tblCmdCheckGen w.val, F.tblCmdExpectGen w.val] := keeps_trans hk hkv
  rw [hn] at hnv
  have hwindow : Store.find w.val v.windows = none := by
    have h := congrArg (fun c => Store.find w.val (Chip.windows c)) hnv
    exact h.trans hidle
  have hget : ∀ f : Fld, f.offProbes → f.addr ≠ tblCmd w → v.get f = s.get f := fun f hf ha =>
    get_of_keeps hsv f hf (fun g hg => by
      obtain ⟨hl, -⟩ := hf
      rcases List.mem_pair.1 hg with rfl | rfl
      · exact key_ne_of_addr hl (show 8 < 32 by decide) ha
      · exact key_ne_of_addr hl (show 0 < 32 by decide) ha)
  have hindex : v.getN (F.tblIndex w.val) = s.getN (F.tblIndex w.val) := by
    refine congrArg BitVec.toNat (hget _ ⟨show 0 < 32 by decide, ?_⟩ ?_) <;> simp only [F.tblIndex, tblCmd, F.tblCmdRead] <;> omega
  have hdata : v.windowEntry w.val = s.windowEntry w.val := by
    refine windowEntry_congr fun i hi => ?_
    rw [windowData, if_pos w.isLt]
    refine hget _ ⟨show 0 < 32 by decide, ?_⟩ ?_ <;> simp only [F.tblData, tblCmd, F.tblCmdRead] <;> omega
  rw [windowTrigger_idle htrig hwindow, capture_tbl, hindex, hdata,
    show windowBusy w.val = F.tblStatusBusy w.val from if_pos w.isLt]
  generalize ho : (WinOp.mk (bit data 17) (bit data 16) _ _ _ _ _ _) = o
  refine ⟨?_, ?_, ?_, o, by rw [← ho], by rw [← ho], by rw [← ho], by rw [← ho], ?_, ?_, ?_, ?_⟩
  case refine_1 =>
    rw [flag_answer1, flag_parityRestored, flag_setB_same _ _ _ (show 1 ≤ 1 by decide) (show 1 ≤ 32 by decide)]
  case refine_2 =>
    rw [flag_answer1, flag_parityRestored, flag_setB_other]
    · exact hcheck
    · simp only [Fld.key, F.tblCmdCheckGen, F.tblStatusBusy]; omega
  case refine_3 =>
    rw [getN_answer1, getN_parityRestored, getN_setB_other]
    · exact hexpect
    · simp only [Fld.key, F.tblCmdExpectGen, F.tblStatusBusy]; omega
  case refine_4 =>
    rw [← ho]
    exact hcheck
  case refine_5 =>
    rw [← ho, hexpect, BitVec.toNat_ofNat]
    exact bits_mod data 7 0 8 rfl
  case refine_6 =>
    have hset : s.keeps (Chip.setB { v with windows := Store.insert w.val o v.windows } (F.tblStatusBusy w.val) true)
        ([F.tblCmdCheckGen w.val, F.tblCmdExpectGen w.val] ++ [F.tblStatusBusy w.val]) :=
      keeps_trans (b := { v with windows := Store.insert w.val o v.windows }) hsv (keeps_setB _ _ _)
    refine keeps_answer1 (keeps_parityRestored (keeps_mono hset ?_) _ _) _ _ _
    simp
  case refine_7 =>
    rw [parityAfter_all]
    refine eq_of_noRegs (s := { s with
      badParity := (s.parityRestored (tblCmd w) 0xF).badParity, windows := Store.insert w.val o s.windows, reply := written }) ?_
    have h := congrArg (fun c : Chip => Chip.noRegs (Chip.answer1 (Chip.parityRestored
      { c with windows := Store.insert w.val o c.windows } (tblCmd w) 0xF) [] false false)) hnv
    refine Eq.trans h ?_
    simp only [parityRestored_all, List.filter_filter, Bool.and_self]
    rfl

/-- A word written with one more bit of its own above CHECK_GEN. -/
theorem bits_or_low (data m : Word) (h : m.toNat % 2 ^ 8 = 0) : bits (data ||| m) 7 0 = bits data 7 0 := by
  simp only [bits, BitVec.toNat_or, pow_zero, Nat.div_one]
  rw [Nat.or_mod_two_pow, h, Nat.or_zero]

theorem bit_or (data m : Word) (k : Nat) : bit (data ||| m) k = (bit data k || bit m k) := by
  simp only [bit_eq_getLsbD, BitVec.getLsbD_or]

/-- The bits of a trigger, which lie above CHECK_GEN, are no part of what its window captures. -/
theorem tblCaptured_of_or {path : Path} {read write : Bool} {data m : Word} {s t : Chip} (h8 : bit m 8 = false)
    (hm : m.toNat % 2 ^ 8 = 0) (h : tblCaptured path w read write (data ||| m) s t) : tblCaptured path w read write data s t := by
  simpa only [tblCaptured, bit_or, h8, Bool.or_false, bits_or_low data m hm] using h

theorem tblRead_holds (path : Path) (data : Word) (s : State) : tblRead path w data s := by
  intro hs hidle
  obtain ⟨u, hk, hn, hrun⟩ := hostWrite_tblCmd w (data ||| 0x20000) hs
  have h17 : bit (data ||| 0x20000) 17 = true := by
    rw [bit_or, show bit (0x20000 : Word) 17 = true from by decide, Bool.or_true]
  have h16 : bit (data ||| 0x20000) 16 = bit data 16 := by
    rw [bit_or, show bit (0x20000 : Word) 16 = false from by decide, Bool.or_false]
  have h := tblAct_captures w (path := path) hk hn (by rw [h17, Bool.true_or]) hidle
  rw [h17, h16] at h
  exact runs_done (congrArg (done s) hrun) (tblCaptured_of_or w (by decide) (by decide) h)

theorem tblWrite_holds (path : Path) (data : Word) (s : State) : tblWrite path w data s := by
  intro hs hidle
  obtain ⟨u, hk, hn, hrun⟩ := hostWrite_tblCmd w (data ||| 0x10000) hs
  have h17 : bit (data ||| 0x10000) 17 = bit data 17 := by
    rw [bit_or, show bit (0x10000 : Word) 17 = false from by decide, Bool.or_false]
  have h16 : bit (data ||| 0x10000) 16 = true := by
    rw [bit_or, show bit (0x10000 : Word) 16 = true from by decide, Bool.or_true]
  have h := tblAct_captures w (path := path) hk hn (by rw [h16, Bool.or_true]) hidle
  rw [h17, h16] at h
  exact runs_done (congrArg (done s) hrun) (tblCaptured_of_or w (by decide) (by decide) h)

end

/-! ### SCHD_READ and SCHD_WRITE (R153, R159, R162, R164) -/

section
variable (w : Fin 2)

/-- CMD of a scheduler window. -/
def schdCmd (w : Fin 2) : Nat := (F.schdCmdRead w.val).addr

theorem actingWrite_schdCmd (s : Chip) (p data : Word) :
    s.actingWrite (schdCmd w) 0xF p (data &&& beMask 0xF) data
      = some (s.windowTrigger (5 + w.val) (bit data 17) (bit data 16)) := by
  rw [word_and_beMask_all]
  fin_cases w <;> rfl

theorem hostWrite_schdCmd {s : Chip} {path : Path} (data : Word) (h : s.serves path (0x110 + w.val)) :
    ∃ u, s.keeps u [] ∧ u.noRegs = s.noRegs ∧ s.hostWrite path (schdCmd w) 0xF data
      = ((u.windowTrigger (5 + w.val) (bit data 17) (bit data 16)).parityRestored (schdCmd w) 0xF).answer1 [] false false := by
  have hw := w.isLt
  have hpage : schdCmd w / 4096 = 0x110 + w.val := by simp only [schdCmd, F.schdCmdRead]; omega
  refine hostWrite_acts (fun u => u.windowTrigger (5 + w.val) (bit data 17) (bit data 16)) (hpage ▸ h) ?_ ?_ ?_ (slotAt_off ?_) ?_
    (fun u p => actingWrite_schdCmd w u p data) (fun u => ignores_window u (by omega))
  all_goals simp only [schdCmd, F.schdCmdRead]; omega

theorem windowEntry_probed {s u : Chip} (hk : s.keeps u []) {k : Nat} (h : k < 7) : u.windowEntry k = s.windowEntry k := by
  refine windowEntry_congr fun i hi => get_probed hk ?_
  unfold windowData
  split <;> exact .of ⟨by omega, by decide⟩

theorem capture_schd (s : Chip) (read write : Bool) :
    s.capture (5 + w.val) read write
      = ⟨read, write, s.getN (F.schdIndex w.val), s.flag (F.schdIndexBank w.val), s.windowEntry (5 + w.val), false, 0,
          ofBool (s.windowHeld (5 + w.val) (schdPort (5 + w.val) (s.getN (F.schdIndex w.val))))⟩ := by
  rw [Chip.capture, if_neg (by omega), Nat.add_sub_cancel_left]

/-- The triggers of the word that SCHD_WRITE writes to CMD. -/
theorem bits_schdCmd : ∀ andRead : Bool, bit (if andRead then 0x30000 else 0x10000 : Word) 17 = andRead
    ∧ bit (if andRead then 0x30000 else 0x10000 : Word) 16 = true := by
  decide

/-- What a scheduler window captures does not look at the probes' counts. -/
theorem capture_schd_probed {s u : Chip} (hk : s.keeps u []) (hn : u.noRegs = s.noRegs) (read write : Bool) :
    u.capture (5 + w.val) read write = s.capture (5 + w.val) read write := by
  have hg : ∀ p, u.gate p = s.gate p := fun p => by
    change u.noRegs.gate p = s.noRegs.gate p
    rw [hn]
  have hc : u.checking = s.checking := by
    change u.noRegs.checking = s.noRegs.checking
    rw [hn]
  have hi : u.getN (F.schdIndex w.val) = s.getN (F.schdIndex w.val) :=
    getN_probed hk (.of ⟨by omega, by decide⟩)
  have hb : u.flag (F.schdIndexBank w.val) = s.flag (F.schdIndexBank w.val) :=
    flag_probed hk (.of ⟨by omega, by decide⟩)
  simp only [capture_schd, Chip.windowHeld, windowEntry_probed hk (show 5 + w.val < 7 by omega), fusedUpper_probed hk, hg, hc, hi, hb]

/-- What an idle scheduler window holds after a trigger. -/
theorem schd_captures {s u : Chip} (path : Path) {read write : Bool} (hk : s.keeps u []) (hn : u.noRegs = s.noRegs)
    (htrig : (read || write) = true) (hidle : Store.find (5 + w.val) s.windows = none) {t : Chip}
    (ht : t = ((u.windowTrigger (5 + w.val) read write).parityRestored (schdCmd w) 0xF).answer1 [] false false) :
    t.flag (F.schdStatusBusy w.val) = true ∧ s.keeps t [F.schdStatusBusy w.val]
      ∧ t = { s with
          regs := t.regs, badParity := s.parityAfter path (schdCmd w) 0xF
          windows := Store.insert (5 + w.val) (s.capture (5 + w.val) read write) s.windows, reply := written } := by
  have hwindow : Store.find (5 + w.val) u.windows = none :=
    (congrArg (fun c : Chip => Store.find (5 + w.val) c.windows) hn).trans hidle
  have hbusy : windowBusy (5 + w.val) = F.schdStatusBusy w.val := by
    rw [windowBusy, if_neg (by omega), Nat.add_sub_cancel_left]
  rw [windowTrigger_idle htrig hwindow, capture_schd_probed w hk hn, hbusy] at ht
  subst ht
  refine ⟨?_, ?_, ?_⟩
  · rw [flag_answer1, flag_parityRestored, flag_setB_same _ _ _ (show 1 ≤ 1 by decide) (show 1 ≤ 32 by decide)]
  · have hset : s.keeps (Chip.setB { u with windows := Store.insert (5 + w.val) (s.capture (5 + w.val) read write) u.windows }
        (F.schdStatusBusy w.val) true) ([] ++ [F.schdStatusBusy w.val]) :=
      keeps_trans (b := { u with windows := Store.insert (5 + w.val) (s.capture (5 + w.val) read write) u.windows }) hk
        (keeps_setB _ _ _)
    exact keeps_answer1 (keeps_parityRestored hset _ _) _ _ _
  · rw [parityAfter_all]
    refine eq_of_noRegs (s := { s with
      badParity := (s.parityRestored (schdCmd w) 0xF).badParity
      windows := Store.insert (5 + w.val) (s.capture (5 + w.val) read write) s.windows, reply := written }) ?_
    have h := congrArg (fun c : Chip => Chip.noRegs (Chip.answer1 (Chip.parityRestored
      { c with windows := Store.insert (5 + w.val) (s.capture (5 + w.val) read write) c.windows } (schdCmd w) 0xF) [] false false)) hn
    exact h

/-- A WRITE of a scheduler window is refused HELD as R153, R159 and R162 list it. -/
theorem windowHeld_iff (s : Chip) (p : Nat) :
    ofBool (s.windowHeld (5 + w.val) p) ≠ 0 ↔ s.fusedUpper p = true ∨ (w = 0 ∧ s.checking.contains p = true)
      ∨ (w = 1 ∧ (s.gate p).pending.isSome = true) := by
  have hof : ∀ b : Bool, ofBool b ≠ 0 ↔ b = true := by decide
  rw [hof, Chip.windowHeld]
  match w with
  | 0 => simp
  | 1 => simp

theorem schdRead_holds (path : Path) (s : State) : schdRead path w s := by
  intro hs hidle
  obtain ⟨u, hk, hn, hrun⟩ := hostWrite_schdCmd w 0x20000 hs
  obtain ⟨hbusy, hkeeps, heq⟩ := schd_captures w path (read := true) (write := false) hk hn rfl hidle rfl
  refine runs_done (congrArg (done s) hrun) ⟨hbusy, hkeeps, _, ?_, ?_, ?_, ?_, ?_, heq⟩ <;> rw [capture_schd]

theorem schdWrite_holds (path : Path) (andRead : Bool) (s : State) : schdWrite path w andRead s := by
  intro hs hidle
  obtain ⟨u, hk, hn, hrun⟩ := hostWrite_schdCmd w (if andRead then 0x30000 else 0x10000) hs
  obtain ⟨h17, h16⟩ := bits_schdCmd andRead
  rw [h17, h16] at hrun
  obtain ⟨hbusy, hkeeps, heq⟩ := schd_captures w path hk hn (Bool.or_true andRead) hidle rfl
  refine runs_done (congrArg (done s) hrun) ⟨hbusy, hkeeps, _, ?_, ?_, ?_, ?_, ?_, ?_, heq⟩
  case refine_4 => simpa only [capture_schd] using windowHeld_iff w s.chip _
  all_goals rw [capture_schd]

end

/-- Settles O10, window by window. -/
theorem tableWindowsCaptureAtTheTrigger : Obligations.TableWindowsCaptureAtTheTrigger := fun s =>
  ⟨fun path w data => tblRead_holds w path data s, fun path w data => tblWrite_holds w path data s,
    fun path w => schdRead_holds w path s, fun path w andRead => schdWrite_holds w path andRead s⟩

end Sys2Proof.Machine

/-! What the end of a table operation leaves, and what the error that its read meets leaves (R110, R111, R117): O11. -/

namespace Sys2Proof.Machine

open Sys2Proof.Says

/-! ### The end of a window operation -/

theorem windowBusy_tbl (w : Fin 5) : windowBusy w.val = F.tblStatusBusy w.val := if_pos w.isLt
theorem windowResult_tbl (w : Fin 5) : windowResult w.val = F.tblStatusResult w.val := if_pos w.isLt

theorem windowBusy_schd (w : Fin 2) : windowBusy (5 + w.val) = F.schdStatusBusy w.val := by
  rw [windowBusy, if_neg (by omega), Nat.add_sub_cancel_left]

theorem windowResult_schd (w : Fin 2) : windowResult (5 + w.val) = F.schdStatusResult w.val := by
  rw [windowResult, if_neg (by omega), Nat.add_sub_cancel_left]

/-- BUSY and RESULT of a window are two fields of one word. -/
theorem windowBusy_result (k : Nat) : (windowBusy k).lsb = 8 ∧ (windowBusy k).width = 1 ∧ (windowResult k).lsb = 0
    ∧ (windowResult k).width = 4 ∧ (windowResult k).addr = (windowBusy k).addr := by
  unfold windowBusy windowResult
  split <;> exact ⟨rfl, rfl, rfl, rfl, rfl⟩

/-- What the end of a window operation leaves: BUSY clear, RESULT, and the operation gone. -/
theorem windowEnds_spec (s : Chip) (k : Nat) {r : Nat} (hr : r < 16) :
    (s.windowEnds k r).flag (windowBusy k) = false ∧ (s.windowEnds k r).getN (windowResult k) = r
      ∧ s.keeps (s.windowEnds k r) [windowBusy k, windowResult k]
      ∧ s.windowEnds k r = { s with regs := (s.windowEnds k r).regs, windows := Store.erase k s.windows } := by
  obtain ⟨hl, hw, hl', hw', ha⟩ := windowBusy_result k
  have hkeeps : s.keeps (s.windowEnds k r) ([windowResult k] ++ [windowBusy k]) :=
    keeps_trans (a := s) (b := Chip.setN { s with windows := Store.erase k s.windows } (windowResult k) r)
      (keeps_set _ _ _) (keeps_setB _ _ _)
  refine ⟨?_, ?_, keeps_mono hkeeps (by simp), rfl⟩
  · exact flag_setB_same _ _ _ (by omega) (by omega)
  · rw [Chip.windowEnds, getN_setB_other _ _ _ _ (by simp only [Fld.key]; omega), getN_setN_same _ _ _ (by omega), hw']
    exact Nat.mod_eq_of_lt hr

/-! ### TBL_OP_DONE (R110, R111, R117) -/

section
variable (w : Fin 5)

/-- DATA of a table window. -/
def tblDatas (w : Fin 5) : List Fld := [F.tblData w.val 0, F.tblData w.val 1, F.tblData w.val 2, F.tblData w.val 3]

theorem tblData_offProbes (i : Nat) : (F.tblData w.val i).offProbes := .of ⟨by omega, show 0 < 32 by decide⟩

theorem tblGet_range {s : Chip} {o : WinOp} (h : tableSize w.val ≤ o.index) : s.tblGet w.val o = (s, winRange) := if_pos h

/-- What a READ within the table leaves: the entry in DATA, and its result. -/
theorem tblGet_spec {s : Chip} {o : WinOp} (h : o.index < tableSize w.val) :
    (s.tblGet w.val o).2 = (if s.failed w.val o.index then winEcc else winOk)
      ∧ (∀ i < 4, (s.tblGet w.val o).1.get (F.tblData w.val i) = entryWord (s.tentry w.val o.index) i)
      ∧ s.keeps (s.tblGet w.val o).1 (tblDatas w) ∧ (s.tblGet w.val o).1.noRegs = s.noRegs := by
  rw [Chip.tblGet, if_neg (Nat.not_le.2 h)]
  have hne : ∀ i j, i ≠ j → (F.tblData w.val i).key ≠ (F.tblData w.val j).key := fun i j hij => by
    simp only [Fld.key, F.tblData]; omega
  exact ⟨rfl, fun i hi => get_foldl_entry (F.tblData w.val) (fun _ => rfl) hne _ i (List.range 4) List.nodup_range
    (List.mem_range.2 hi) s, keeps_foldl_entry (F.tblData w.val) _ (List.range 4) s, noRegs_foldl_entry _ _ _ s⟩

/-- The end of an operation of a table window, with its fields named. -/
theorem tblEnds_spec (s : Chip) {r : Nat} (hr : r < 16) :
    (s.windowEnds w.val r).flag (F.tblStatusBusy w.val) = false ∧ (s.windowEnds w.val r).getN (F.tblStatusResult w.val) = r
      ∧ s.keeps (s.windowEnds w.val r) [F.tblStatusBusy w.val, F.tblStatusResult w.val]
      ∧ s.windowEnds w.val r = { s with regs := (s.windowEnds w.val r).regs, windows := Store.erase w.val s.windows } := by
  simpa only [windowBusy_tbl, windowResult_tbl] using windowEnds_spec s w.val hr

/-- A field of the window's page other than BUSY and RESULT stands through the end of an operation. -/
theorem get_tblEnds {s : Chip} {r : Nat} (hr : r < 16) {f : Fld} (hf : f.offProbes) (ha : f.addr ≠ (F.tblStatusBusy w.val).addr) :
    (s.windowEnds w.val r).get f = s.get f := by
  obtain ⟨-, -, hk, -⟩ := tblEnds_spec w s hr
  have hl := hf.1
  exact get_of_keeps hk f hf (Fld.notIn_pair (key_ne_of_addr hl (show 8 < 32 by decide) ha)
    (key_ne_of_addr hl (show 0 < 32 by decide) ha))

theorem tblDone_read {s : Chip} {o : WinOp} (hfind : Store.find w.val s.windows = some o) (hread : o.read = true)
    (hwrite : o.write = false) :
    s.tblDone w.val none = (s.tblGet w.val o).1.windowEnds w.val (s.tblGet w.val o).2 := by
  simp [Chip.tblDone, hfind, hread, hwrite]

theorem tblDone_readUpset {s : Chip} {o : WinOp} (hfind : Store.find w.val s.windows = some o) (hread : o.read = true)
    (hwrite : o.write = false) (flips : BitVec 128) (double : Bool) :
    s.tblDone w.val (some (flips, double))
      = ((s.meetUpset ⟨w, o.index, flips, double⟩).tblGet w.val o).1.windowEnds w.val
          ((s.meetUpset ⟨w, o.index, flips, double⟩).tblGet w.val o).2 := by
  simp [Chip.tblDone, Chip.tblReads, hfind, hread, hwrite]

theorem tblDone_write {s : Chip} {o : WinOp} (hfind : Store.find w.val s.windows = some o) (hread : o.read = false)
    (hwrite : o.write = true) :
    s.tblDone w.val none = (if s.tblWriteResult w.val o = winOk then s.tblPut w.val o else s).windowEnds w.val
      (s.tblWriteResult w.val o) := by
  by_cases hr : s.tblWriteResult w.val o = winOk <;> simp [Chip.tblDone, hfind, hread, hwrite, hr]

theorem tblDone_range {s : Chip} {o : WinOp} (hfind : Store.find w.val s.windows = some o)
    (hop : o.read = true ∨ o.write = true) (h : tableSize w.val ≤ o.index) :
    s.tblDone w.val none = s.windowEnds w.val winRange := by
  have hr : s.tblWriteResult w.val o = winRange := if_pos h
  have hne : winRange ≠ winOk := by decide
  cases hwrite : o.write with
  | true => cases hread : o.read <;> simp [Chip.tblDone, hfind, hwrite, hread, hr, hne, tblGet_range w h]
  | false =>
    have hread : o.read = true := by simpa [hwrite] using hop
    rw [tblDone_read w hfind hread hwrite, tblGet_range w h]

theorem tblRange_holds (o : WinOp) (s : State) : tblRange w o s := by
  intro hfind hop h
  obtain ⟨hbusy, hresult, hkeeps, heq⟩ := tblEnds_spec w s.chip (show winRange < 16 by decide)
  exact runs_done (congrArg (done s) (tblDone_range w hfind hop h)) ⟨hresult, hbusy, hkeeps, heq⟩

theorem tblWriteReadOnly_holds (o : WinOp) (s : State) : tblWriteReadOnly w o s := by
  intro hw hfind hread hwrite h
  have hr : s.chip.tblWriteResult w.val o = winReadOnly := by
    rw [Chip.tblWriteResult, if_neg (Nat.not_le.2 h), if_pos hw]
  have hdone := tblDone_write w hfind hread hwrite
  rw [hr, if_neg (by decide)] at hdone
  obtain ⟨hbusy, hresult, hkeeps, heq⟩ := tblEnds_spec w s.chip (show winReadOnly < 16 by decide)
  exact runs_done (congrArg (done s) hdone) ⟨hresult, hbusy, hkeeps, heq⟩

/-- The READ of an entry within the table, ended. -/
theorem tblRead_ends {s : Chip} {o : WinOp} (h : o.index < tableSize w.val) {r : Nat}
    (hr : (if s.failed w.val o.index then winEcc else winOk) = r) {t : Chip}
    (ht : t = (s.tblGet w.val o).1.windowEnds w.val (s.tblGet w.val o).2) :
    t.flag (F.tblStatusBusy w.val) = false ∧ t.getN (F.tblStatusResult w.val) = r
      ∧ (∀ i < 4, t.get (F.tblData w.val i) = entryWord (s.tentry w.val o.index) i)
      ∧ s.keeps t ([F.tblStatusBusy w.val, F.tblStatusResult w.val] ++ tblDatas w)
      ∧ t = { s with regs := t.regs, windows := Store.erase w.val s.windows } := by
  obtain ⟨hres, hdata, hkeeps, hn⟩ := tblGet_spec w (s := s) h
  rw [hres, hr] at ht
  have hr16 : r < 16 := by rw [← hr]; split <;> decide
  obtain ⟨hbusy, hresult, hends, heq⟩ := tblEnds_spec w (s.tblGet w.val o).1 hr16
  subst ht
  refine ⟨hbusy, hresult, fun i hi => ?_, keeps_mono (keeps_trans hkeeps hends) fun g hg => ?_, ?_⟩
  · rw [get_tblEnds w hr16 (tblData_offProbes w i) (by simp only [F.tblData, F.tblStatusBusy]; omega), hdata i hi]
  · exact List.mem_append.2 (List.mem_append.1 hg).symm
  · exact heq.trans (congrArg (fun c : Chip => { c with
      regs := ((s.tblGet w.val o).1.windowEnds w.val r).regs, windows := Store.erase w.val c.windows }) hn)

theorem tblReadDone_holds (o : WinOp) (s : State) : tblReadDone w o s := by
  intro hfind hread hwrite
  by_cases h : tableSize w.val ≤ o.index
  · obtain ⟨hbusy, hresult, hkeeps, heq⟩ := tblEnds_spec w s.chip (show winRange < 16 by decide)
    exact runs_done (congrArg (done s) (tblDone_range w hfind (.inl hread) h))
      ⟨hbusy, heq, fun _ => ⟨hresult, hkeeps⟩, fun h' => absurd h (Nat.not_le.2 h')⟩
  · obtain ⟨hbusy, hresult, hdata, hkeeps, heq⟩ := tblRead_ends w (s := s.chip) (o := o) (Nat.not_le.1 h) rfl rfl
    refine runs_done (congrArg (done s) (tblDone_read w hfind hread hwrite))
      ⟨hbusy, heq, fun h' => absurd h' h, fun _ hfailed => ⟨?_, hdata, hkeeps⟩⟩
    rw [hresult, hfailed]
    rfl

end

/-! ### The tables and what an upset met leaves of them -/

theorem table_setTable (s : Chip) {k w : Nat} (hk : k < 5) (hw : w < 5) (l : Store (BitVec 128)) :
    (s.setTable w l).table k = if k = w then l else s.table k := by
  interval_cases w <;> interval_cases k <;> rfl

/-- Replacing a table leaves all but the tables alone. -/
theorem setTable_frame (s : Chip) (w : Nat) (l : Store (BitVec 128)) :
    ∃ p n f d g, s.setTable w l = { s with path := p, nh := n, flow := f, dn := d, stage := g } := by
  unfold Chip.setTable
  split_ifs <;> exact ⟨_, _, _, _, _, rfl⟩

/-- An entry written takes its value and leaves every other entry alone. -/
theorem tentry_setTable_write (s : Chip) {k w : Nat} (hk : k < 5) (hw : w < 5) (i j : Nat) (v : BitVec 128) :
    (s.setTable w (Store.write 0 (s.table w) i v)).tentry k j = if (k, j) = (w, i) then v else s.tentry k j := by
  rw [Chip.tentry, table_setTable s hk hw]
  by_cases hkw : k = w
  · subst hkw
    by_cases hji : j = i
    · rw [if_pos rfl, hji, store_read_write_same, if_pos rfl]
    · rw [if_pos rfl, store_read_write_other _ _ _ _ hji, if_neg (by simp [hji]), Chip.tentry]
  · rw [if_neg hkw, if_neg (by simp [hkw]), Chip.tentry]

section
variable {s : Chip} (w : Fin 5) {i : Nat} (flips : BitVec 128) (h : i < tableSize w.val) (hfailed : s.failed w.val i = false)
include h hfailed

/-- A single-bit error in an entry that stands counts, and no more (R117). -/
theorem meetUpset_single : s.meetUpset ⟨w, i, flips, false⟩ = s.bump (F.tblEccCorrected w.val) := by
  unfold Chip.meetUpset
  dsimp only
  rw [if_neg (by simp [h, hfailed]), if_neg (by simp)]

/-- What a double-bit error in an entry that stands leaves (R117). -/
theorem meetUpset_double {t : Chip} (ht : t = s.meetUpset ⟨w, i, flips, true⟩) :
    s.counted t (F.tblEccUncorr w.val) 1 ∧ t.getN (F.tblEccIndex w.val) = i ∧ t.failed w.val i = true
      ∧ t.getBit F.hlthFault fEcc = true
      ∧ s.keeps t [F.tblEccUncorr w.val, F.tblEccIndex w.val, F.hlthFault]
      ∧ (∀ k < 5, ∀ j, (k, j) ≠ (w.val, i) → t.tentry k j = s.tentry k j)
      ∧ t.eccMarked = s.eccMarked ++ [(w.val, i)]
      ∧ ∃ r m p n f d g e, t = { s with
          regs := r, msix := m, path := p, nh := n, flow := f, dn := d, stage := g, eccMarked := e } := by
  obtain ⟨p, n, f, d, g, hv⟩ := setTable_frame s w.val (Store.write 0 (s.table w.val) i (s.tentry w.val i ^^^ flips))
  have htables : ∀ k < 5, ∀ j, (k, j) ≠ (w.val, i)
      → ({ s with path := p, nh := n, flow := f, dn := d, stage := g } : Chip).tentry k j = s.tentry k j := fun k hk j hne => by
    rw [← hv, tentry_setTable_write s hk w.isLt, if_neg hne]
  have hi : i < 2 ^ 20 := h.trans_le (by fin_cases w <;> decide)
  unfold Chip.meetUpset at ht
  dsimp only at ht
  rw [if_neg (by simp [h, hfailed]), if_pos rfl, hv] at ht
  generalize hv' : ({ s with path := p, nh := n, flow := f, dn := d, stage := g, eccMarked := s.eccMarked ++ [(w.val, i)] } : Chip) = v at ht
  have hcount : s.counted (v.bump (F.tblEccUncorr w.val)) (F.tblEccUncorr w.val) 1 := by
    subst hv'
    exact counted_bump_after rfl (.of ⟨by omega, by decide⟩) rfl (keeps_of_regs [] rfl) (Fld.notIn_nil _)
  have hn : t.noRegs = { v.noRegs with msix := t.msix } := by
    rw [ht, noRegs_fault, noRegs_setN, noRegs_bump]
  have hrest : (v.bump (F.tblEccUncorr w.val)).keeps t ([F.tblEccIndex w.val] ++ [F.hlthFault]) :=
    ht ▸ keeps_trans (keeps_setN _ _ _) (keeps_fault _ _)
  have hmarked : t.eccMarked = s.eccMarked ++ [(w.val, i)] :=
    (congrArg Chip.eccMarked hn).trans (by rw [← hv']; rfl)
  refine ⟨counted_keeps hcount (.of ⟨by omega, by decide⟩) hrest (Fld.notIn_pair ?_ ?_), ?_, ?_, ?_, ?_, ?_, hmarked,
    t.regs, t.msix, p, n, f, d, g, s.eccMarked ++ [(w.val, i)], ?_⟩
  case refine_1 => simp only [Fld.key, F.tblEccUncorr, F.tblEccIndex]; omega
  case refine_2 => simp only [Fld.key, F.tblEccUncorr, F.hlthFault]; omega
  case refine_3 =>
    rw [ht, getN_fault_other _ _ _ (by simp only [Fld.key, F.tblEccIndex, F.hlthFault]; omega),
      getN_setN_same _ _ _ (show 20 ≤ 32 by decide)]
    exact Nat.mod_eq_of_lt hi
  case refine_4 =>
    rw [Chip.failed, hmarked]
    simp
  case refine_5 =>
    rw [ht]
    exact getBit_fault_same _ (by decide)
  case refine_6 =>
    have hsv : s.keeps (v.bump (F.tblEccUncorr w.val)) [F.tblEccUncorr w.val] := by
      subst hv'
      exact keeps_trans (keeps_of_regs [] rfl) (keeps_bump _ _)
    exact keeps_trans hsv hrest
  case refine_7 =>
    intro k hk j hne
    have hkj := congrArg (fun c : Chip => c.tentry k j) hn
    refine Eq.trans hkj ?_
    rw [← htables k hk j hne, ← hv']
    rfl
  case refine_8 =>
    calc t = { t.noRegs with regs := t.regs } := rfl
      _ = { ({ v.noRegs with msix := t.msix } : Chip) with regs := t.regs } := by rw [hn]
      _ = _ := by rw [← hv']; rfl

end

section
variable (w : Fin 5)

/-- The fields that the end of a READ changes. -/
def tblReadFields (w : Fin 5) : List Fld := [F.tblStatusBusy w.val, F.tblStatusResult w.val] ++ tblDatas w

/-- A field below DATA, or above STATUS, is none of those. -/
theorem Fld.notIn_tblReadFields {f : Fld} (hl : f.lsb < 32)
    (ha : f.addr < 0x200044 + w.val * 0x1000 ∨ 0x200058 + w.val * 0x1000 < f.addr) : f.notIn (tblReadFields w) := by
  intro g hg
  have hg' : g.lsb < 32 ∧ 0x200044 + w.val * 0x1000 ≤ g.addr ∧ g.addr ≤ 0x200058 + w.val * 0x1000 := by
    simp only [tblReadFields, tblDatas, List.cons_append, List.nil_append, List.mem_cons, List.not_mem_nil, or_false] at hg
    rcases hg with rfl | rfl | rfl | rfl | rfl | rfl <;>
      simp only [F.tblStatusBusy, F.tblStatusResult, F.tblData] <;> omega
  obtain ⟨hgl, hlow, hhigh⟩ := hg'
  exact key_ne_of_addr hl hgl (by omega)

theorem tblReadUpset_single (o : WinOp) (flips : BitVec 128) (s : State) : tblReadUpset w o flips false s := by
  intro hfind hread hwrite h hfailed
  refine ⟨_, congrArg (done s) (tblDone_readUpset w hfind hread hwrite flips false), ?_⟩
  rw [meetUpset_single w flips h hfailed]
  generalize hu : s.chip.bump (F.tblEccCorrected w.val) = u
  have hn : u.noRegs = s.chip.noRegs := hu ▸ noRegs_bump _ _
  have hk : s.chip.keeps u [F.tblEccCorrected w.val] := hu ▸ keeps_bump _ _
  have hcount : s.chip.counted u (F.tblEccCorrected w.val) 1 := hu ▸ counted_bump _ _ rfl (.of ⟨by omega, by decide⟩)
  have hstands : u.failed w.val o.index = false := (of_noRegs (fun c => c.failed w.val o.index) (fun _ => rfl) hn).trans hfailed
  have htables : ∀ k j, u.tentry k j = s.chip.tentry k j := fun k j => of_noRegs (fun c => c.tentry k j) (fun _ => rfl) hn
  obtain ⟨hbusy, hresult, hdata, hkeeps, heq⟩ := tblRead_ends w (s := u) h (r := winOk) (by rw [hstands]; rfl) rfl
  generalize (u.tblGet w.val o).1.windowEnds w.val (u.tblGet w.val o).2 = t at *
  refine ⟨hbusy, fun _ => ⟨hresult, ?_, fun i hi => by rw [hdata i hi, htables]⟩, (fun hd => nomatch hd),
    keeps_mono (keeps_trans hk hkeeps) ?_, fun k _ j _ => ?_, ?_⟩
  · exact counted_keeps hcount (.of ⟨by omega, by decide⟩) hkeeps
      (Fld.notIn_tblReadFields w (show 0 < 32 by decide) (.inr (by simp only [F.tblEccCorrected]; omega)))
  · simp [tblDatas]
  · rw [← htables k j, heq]
    rfl
  · have heq' : t = { s.chip with regs := t.regs, windows := Store.erase w.val s.chip.windows } := by
      refine heq.trans ?_
      rw [eq_of_noRegs hn]
    rw [heq']
    rfl

theorem tblReadUpset_double (o : WinOp) (flips : BitVec 128) (s : State) : tblReadUpset w o flips true s := by
  intro hfind hread hwrite h hfailed
  refine ⟨_, congrArg (done s) (tblDone_readUpset w hfind hread hwrite flips true), ?_⟩
  obtain ⟨hcount, hindex, hmark, hfault, hk, htables, hmarked, r, m, p, n, f, d, g, e, hframe⟩ :=
    meetUpset_double w flips h hfailed rfl
  generalize s.chip.meetUpset ⟨w, o.index, flips, true⟩ = u at *
  obtain ⟨hbusy, hresult, hdata, hkeeps, heq⟩ := tblRead_ends w (s := u) h (r := winEcc) (by rw [hmark]; rfl) rfl
  generalize (u.tblGet w.val o).1.windowEnds w.val (u.tblGet w.val o).2 = t at *
  refine ⟨hbusy, (fun hd => nomatch hd), fun _ => ⟨hresult, ?_, ?_, ?_, ?_⟩, keeps_mono (keeps_trans hk hkeeps) ?_, fun k hk j hne => ?_, ?_⟩
  · exact counted_keeps hcount (.of ⟨by omega, by decide⟩) hkeeps
      (Fld.notIn_tblReadFields w (show 0 < 32 by decide) (.inr (by simp only [F.tblEccUncorr]; omega)))
  · exact (congrArg BitVec.toNat (get_of_keeps hkeeps (F.tblEccIndex w.val) (.of ⟨by omega, by decide⟩)
      (Fld.notIn_tblReadFields w (show 0 < 32 by decide) (.inr (by simp only [F.tblEccIndex]; omega))))).trans hindex
  · rw [heq]
    exact hmark
  · rw [Chip.getBit, get_of_keeps hkeeps _ ⟨by decide, by decide⟩
      (Fld.notIn_tblReadFields w (by decide) (.inl (by simp only [F.hlthFault]; omega)))]
    exact hfault
  · simp [tblDatas]
  · rw [← htables k hk j hne, heq]
    rfl
  · have he : t.eccMarked = s.chip.eccMarked ++ [(w.val, o.index)] := by
      rw [heq]
      exact hmarked
    rw [if_pos rfl, ← he]
    subst hframe
    rw [heq]

end

/-- Settles O11, clause by clause. -/
theorem tableWindowResults : Obligations.TableWindowResults := fun s =>
  ⟨fun w o => tblReadDone_holds w o s,
    fun w o flips double => match double with
      | false => tblReadUpset_single w o flips s
      | true => tblReadUpset_double w o flips s,
    fun w o => tblWriteReadOnly_holds w o s, fun w o => tblRange_holds w o s⟩

end Sys2Proof.Machine

/-! The writes that the windows take, and those that they refuse (R110, R113, R114, R153, R164): O12. -/

namespace Sys2Proof.Machine

open Sys2Proof.Says

/-! ### TBL_OP_DONE of a WRITE that is accepted (R110, R113, R114) -/

theorem tblWriteResult_path {s : Chip} {o : WinOp} (h : o.index < tableSize 0) (hbad : pathBad o.data = false)
    (hgen : o.checkGen = false ∨ bits (s.tentry 0 o.index) 126 119 = o.expectGen.toNat) : s.tblWriteResult 0 o = winOk := by
  have hpass : (o.checkGen && bits (s.tentry 0 o.index) 126 119 != o.expectGen.toNat) = false := by
    rcases hgen with hgen | hgen <;> simp [hgen]
  have hfields : ¬ (if (0 : Nat) = 4 then stageBad o.target o.data else entryBad 0 o.data) = true := by
    simpa [entryBad] using hbad
  rw [Chip.tblWriteResult, if_neg (Nat.not_le.2 h), if_neg (by decide), if_neg hfields, hpass]
  rfl

theorem tblPut_path (s : Chip) (o : WinOp) : s.tblPut 0 o = { s with
    path := Store.write 0 s.path o.index o.data, eccMarked := s.eccMarked.filter (fun x => x != (0, o.index)) } := rfl

theorem tblWriteDone_holds (o : WinOp) (s : State) : tblWriteDone o s := by
  intro hfind hread hwrite h hbad hgen
  have hdone := tblDone_write 0 hfind hread hwrite
  change s.chip.tblDone 0 none = Chip.windowEnds (if s.chip.tblWriteResult 0 o = winOk then s.chip.tblPut 0 o else s.chip) 0
    (s.chip.tblWriteResult 0 o) at hdone
  rw [tblWriteResult_path h hbad hgen, if_pos rfl, tblPut_path] at hdone
  refine ⟨_, congrArg (done s) hdone, ?_⟩
  generalize hu : ({ s.chip with path := Store.write 0 s.chip.path o.index o.data, eccMarked := _ } : Chip) = u
  obtain ⟨hbusy, hresult, hkeeps, heq⟩ := tblEnds_spec 0 u (show winOk < 16 by decide)
  have hentry : u.tentry 0 o.index = o.data := by
    rw [← hu]
    exact store_read_write_same _ _ _ _
  refine ⟨?_, hresult, hbusy, keeps_trans (l := []) (keeps_of_regs _ (hu ▸ rfl)) hkeeps, ?_⟩
  · exact (congrArg (fun c : Chip => c.tentry 0 o.index) heq).trans hentry
  · exact heq.trans (by rw [← hu]; rfl)

/-! ### SCHD_OP_DONE (R153, R159, R164) -/

section
variable (w : Fin 2)

/-- The end of an operation of a scheduler window, with its fields named. -/
theorem schdEnds_spec (s : Chip) {r : Nat} (hr : r < 16) :
    (s.windowEnds (5 + w.val) r).flag (F.schdStatusBusy w.val) = false
      ∧ (s.windowEnds (5 + w.val) r).getN (F.schdStatusResult w.val) = r
      ∧ s.keeps (s.windowEnds (5 + w.val) r) [F.schdStatusBusy w.val, F.schdStatusResult w.val]
      ∧ s.windowEnds (5 + w.val) r
        = { s with regs := (s.windowEnds (5 + w.val) r).regs, windows := Store.erase (5 + w.val) s.windows } := by
  simpa only [windowBusy_schd, windowResult_schd] using windowEnds_spec s (5 + w.val) hr

theorem schdDone_read {s : Chip} {o : WinOp} {ecc : Ecc} (hfind : Store.find (5 + w.val) s.windows = some o)
    (hread : o.read = true) (hwrite : o.write = false) :
    s.schdDone (5 + w.val) ecc = (s.schdGet (5 + w.val) o ecc).1.windowEnds (5 + w.val) (s.schdGet (5 + w.val) o ecc).2 := by
  simp [Chip.schdDone, hfind, hread, hwrite]

/-- DATA words that a READ of a scheduler window fills: four of a node, two of a gate entry. -/
def schdWords (w : Fin 2) : Nat := if w = 0 then 4 else 2

/-- What the READ of a right entry leaves. -/
theorem schdGet_clean {s : Chip} {o : WinOp} (hp : schdPort (5 + w.val) o.index < 48)
    (hbad : s.schdBad (5 + w.val) (schdPort (5 + w.val) o.index) (schdEntry (5 + w.val) o.index) o.bank = false) :
    s.schdGet (5 + w.val) o .clean
      = ((List.range (schdWords w)).foldl (fun c i => c.set (F.schdData w.val i) (entryWord
          (s.schdEntryOf (5 + w.val) (schdPort (5 + w.val) o.index) (schdEntry (5 + w.val) o.index) o.bank) i)) s, winOk) := by
  unfold Chip.schdGet
  dsimp only
  rw [if_neg (Nat.not_le.2 hp), if_neg (by rw [hbad]; decide), Nat.add_sub_cancel_left]
  fin_cases w <;> rfl

theorem schdReadDone_holds (o : WinOp) (s : State) : schdReadDone w o s := by
  unfold schdReadDone
  intro k words hfind hread hwrite hp hbad
  have hwords : words = schdWords w := rfl
  have hdone := schdDone_read w (ecc := .clean) hfind hread hwrite
  rw [schdGet_clean w hp hbad] at hdone
  refine ⟨_, congrArg (done s) hdone, ?_⟩
  generalize hv : s.chip.schdEntryOf k (schdPort k o.index) (schdEntry k o.index) o.bank = v
  have hne : ∀ i j, i ≠ j → (F.schdData w.val i).key ≠ (F.schdData w.val j).key := fun i j hij => by
    simp only [Fld.key, F.schdData]; omega
  have hdata := fun i (hi : i < words) => get_foldl_entry (F.schdData w.val) (fun _ => rfl) hne v i (List.range words)
    List.nodup_range (List.mem_range.2 hi) s.chip
  have hk := keeps_foldl_entry (F.schdData w.val) v (List.range words) s.chip
  have hn := noRegs_foldl_entry (F.schdData w.val) v (List.range words) s.chip
  have hw4 : words ≤ 4 := by rw [hwords, schdWords]; split <;> decide
  dsimp only
  rw [← hwords]
  generalize (List.range words).foldl (fun c i => c.set (F.schdData w.val i) (entryWord v i)) s.chip = u at *
  obtain ⟨hbusy, hresult, hkeeps, heq⟩ := schdEnds_spec w u (show winOk < 16 by decide)
  refine ⟨fun i hi => ?_, hresult, hbusy, keeps_mono (keeps_trans hk hkeeps) (fun g hg => ?_), ?_⟩
  · rw [get_of_keeps hkeeps (F.schdData w.val i) (.of ⟨by omega, by decide⟩) (Fld.notIn_pair ?_ ?_), hdata i hi]
    · simp only [Fld.key, F.schdData, F.schdStatusBusy]; omega
    · simp only [Fld.key, F.schdData, F.schdStatusResult]; omega
  · exact List.mem_append.2 (List.mem_append.1 hg).symm
  · exact heq.trans (by rw [eq_of_noRegs hn])

/-- The result of a WRITE to a port that exists (log 62). -/
def schdWriteResult (o : WinOp) : Nat := if o.bank then winReadOnly else if o.target = 0 then winOk else winHeld

theorem schdDone_write {s : Chip} {o : WinOp} {ecc : Ecc} (hfind : Store.find (5 + w.val) s.windows = some o)
    (hread : o.read = false) (hwrite : o.write = true) (hp : schdPort (5 + w.val) o.index < 48) :
    s.schdDone (5 + w.val) ecc
      = (if schdWriteResult o = winOk then
          s.schdPut (5 + w.val) (schdPort (5 + w.val) o.index) (schdEntry (5 + w.val) o.index) o.data
        else s).windowEnds (5 + w.val) (schdWriteResult o) := by
  have hr : (if 48 ≤ schdPort (5 + w.val) o.index then winRange else if o.bank then winReadOnly
      else if o.target = 0 then winOk else winHeld) = schdWriteResult o := if_neg (Nat.not_le.2 hp)
  by_cases h : schdWriteResult o = winOk <;> simp [Chip.schdDone, hfind, hread, hwrite, hr, h]

/-- A WRITE through a scheduler window changes the trees or the gates alone. -/
theorem schdPut_frame (s : Chip) (p e : Nat) (v : BitVec 128) :
    ∃ c g, s.schdPut (5 + w.val) p e v = { s with scheds := c, gates := g } ∧ (w = 0 → g = s.gates) ∧ (w = 1 → c = s.scheds) := by
  match w with
  | 0 => exact ⟨_, _, rfl, fun _ => rfl, fun h => absurd h (by decide)⟩
  | 1 => exact ⟨_, _, rfl, fun h => absurd h (by decide), fun _ => rfl⟩

theorem sched_setSched (s : Chip) (p q : Nat) (t : Sched) : (s.setSched p t).sched q = if q = p then t else s.sched q := by
  by_cases h : q = p
  · rw [if_pos h, h]
    exact store_read_write_same _ _ _ _
  · rw [if_neg h]
    exact store_read_write_other _ _ _ _ h

theorem gate_setGate (s : Chip) (p q : Nat) (g : Gate) : (s.setGate p g).gate q = if q = p then g else s.gate q := by
  by_cases h : q = p
  · rw [if_pos h, h]
    exact store_read_write_same _ _ _ _
  · rw [if_neg h]
    exact store_read_write_other _ _ _ _ h

theorem node_setNode (t : Tree) (e j : Nat) (v : BitVec 128) : (t.setNode e v).node j = if j = e then v else t.node j := by
  by_cases h : j = e
  · rw [if_pos h, h]
    exact store_read_write_same _ _ _ _
  · rw [if_neg h]
    exact store_read_write_other _ _ _ _ h

/-- What a scheduler window stores of DATA: a node whole, and the two words of a gate entry. -/
def schdStored (w : Fin 2) (v : BitVec 128) : BitVec 128 := if w = 0 then v else BitVec.ofNat 128 (v.toNat % 2 ^ 64)

/-- The entries after a WRITE through the node window: the shadow node named takes it, and no other (R153). -/
theorem schdEntryOf_schdPut_node (s : Chip) (p e : Nat) (v : BitVec 128) (q j : Nat) (active : Bool) :
    (s.schdPut 5 p e v).schdEntryOf 5 q j active
      = if active = false ∧ (q, j) = (p, e) then v else s.schdEntryOf 5 q j active := by
  have hput : s.schdPut 5 p e v = s.setSched p { s.sched p with
    shadow := (s.sched p).shadow.setNode e v, shadowBad := (s.sched p).shadowBad.filter (fun j => j != e) } := rfl
  simp only [hput, Chip.schdEntryOf, if_pos, sched_setSched]
  by_cases hq : q = p
  · subst hq
    cases active with
    | true => simp
    | false => simp [node_setNode]
  · simp [hq]

/-- As for the node window, of a gate entry. -/
theorem schdEntryOf_schdPut_gate (s : Chip) (p e : Nat) (v : BitVec 128) (q j : Nat) (active : Bool) :
    (s.schdPut 6 p e v).schdEntryOf 6 q j active
      = if active = false ∧ (q, j) = (p, e) then BitVec.ofNat 128 (v.toNat % 2 ^ 64) else s.schdEntryOf 6 q j active := by
  have hput : s.schdPut 6 p e v = s.setGate p { s.gate p with shadow := { (s.gate p).shadow with
    entries := Store.write 0 (s.gate p).shadow.entries e (BitVec.ofNat 64 v.toNat)
    badEntries := (s.gate p).shadow.badEntries.filter (fun j => j != e) } } := rfl
  have hentry : ∀ t : Chip, t.schdEntryOf 6 q j active = BitVec.ofNat 128
    (Store.read 0 (if active then (t.gate q).active else (t.gate q).shadow).entries j).toNat := fun _ => rfl
  simp only [hput, hentry, gate_setGate]
  by_cases hq : q = p
  · subst hq
    cases active with
    | true => simp
    | false =>
      by_cases hj : j = e
      · simp [hj]
      · simp [hj, store_read_write_other]
  · simp [hq]

theorem schdEntryOf_schdPut (s : Chip) (p e : Nat) (v : BitVec 128) (q j : Nat) (active : Bool) :
    (s.schdPut (5 + w.val) p e v).schdEntryOf (5 + w.val) q j active
      = if active = false ∧ (q, j) = (p, e) then schdStored w v else s.schdEntryOf (5 + w.val) q j active := by
  match w with
  | 0 => exact schdEntryOf_schdPut_node s p e v q j active
  | 1 => exact schdEntryOf_schdPut_gate s p e v q j active

/-- A WRITE refused ends with its result, and changes no tree and no gate. -/
theorem schdWrite_refused {s : Chip} {r : Nat} (hr : r < 16) {t : Chip} (ht : t = s.windowEnds (5 + w.val) r) :
    t.flag (F.schdStatusBusy w.val) = false ∧ s.keeps t [F.schdStatusBusy w.val, F.schdStatusResult w.val]
      ∧ (t.getN (F.schdStatusResult w.val) = r ∧ t.scheds = s.scheds ∧ t.gates = s.gates)
      ∧ t = { s with
        regs := t.regs, scheds := t.scheds, gates := t.gates, windows := Store.erase (5 + w.val) s.windows } := by
  obtain ⟨hbusy, hresult, hkeeps, heq⟩ := schdEnds_spec w s hr
  subst ht
  exact ⟨hbusy, hkeeps, ⟨hresult, rfl, rfl⟩, heq⟩

theorem schdWriteDone_holds (o : WinOp) (s : State) : schdWriteDone w o s := by
  unfold schdWriteDone
  intro k p hfind hread hwrite hp
  have hdone := schdDone_write w (ecc := .clean) hfind hread hwrite hp
  refine ⟨_, congrArg (done s) hdone, ?_⟩
  cases hbank : o.bank with
  | true =>
    have hr : schdWriteResult o = winReadOnly := by rw [schdWriteResult, if_pos hbank]
    rw [hr, if_neg (by decide)]
    obtain ⟨hbusy, hkeeps, hresult, heq⟩ := schdWrite_refused w (s := s.chip) (r := winReadOnly) (by decide) rfl
    exact ⟨hbusy, hkeeps, fun _ => hresult, (fun h => nomatch h), (fun h => nomatch h), heq⟩
  | false =>
    by_cases htarget : o.target = 0
    · have hr : schdWriteResult o = winOk := by rw [schdWriteResult, if_neg (by simp [hbank]), if_pos htarget]
      rw [hr, if_pos rfl]
      have hentries := schdEntryOf_schdPut w s.chip p (schdEntry k o.index) o.data
      obtain ⟨c, g, hput, hgates, hscheds⟩ := schdPut_frame w s.chip p (schdEntry k o.index) o.data
      change ∀ q j active, (s.chip.schdPut k p (schdEntry k o.index) o.data).schdEntryOf k q j active = _ at hentries
      rw [hput] at hentries ⊢
      generalize hu : ({ s.chip with scheds := c, gates := g } : Chip) = u at hentries ⊢
      obtain ⟨hbusy, hresult, hkeeps, heq⟩ := schdEnds_spec w u (show winOk < 16 by decide)
      have hsame : ∀ q j active, (u.windowEnds k winOk).schdEntryOf k q j active = u.schdEntryOf k q j active := fun _ _ _ => rfl
      refine ⟨hbusy, keeps_trans (l := []) (keeps_of_regs _ (hu ▸ rfl)) hkeeps, (fun h => nomatch h), fun _ h => absurd htarget h,
        fun _ _ => ⟨hresult, ?_, fun q e hne => ?_, fun q e => ?_, fun h => ?_, fun h => ?_⟩, ?_⟩
      · exact (hsame _ _ _).trans ((hentries _ _ _).trans (if_pos ⟨rfl, rfl⟩))
      · exact (hsame _ _ _).trans ((hentries _ _ _).trans (if_neg (fun h => hne h.2)))
      · exact (hsame _ _ _).trans ((hentries _ _ _).trans (if_neg (fun h => nomatch h.1)))
      · exact (congrArg Chip.gates hu.symm).trans (hgates h)
      · exact (congrArg Chip.scheds hu.symm).trans (hscheds h)
      · subst hu
        exact heq
    · have hr : schdWriteResult o = winHeld := by rw [schdWriteResult, if_neg (by simp [hbank]), if_neg htarget]
      rw [hr, if_neg (by decide)]
      obtain ⟨hbusy, hkeeps, hresult, heq⟩ := schdWrite_refused w (s := s.chip) (r := winHeld) (by decide) rfl
      exact ⟨hbusy, hkeeps, (fun h => nomatch h), fun _ _ => hresult, fun _ h => absurd h htarget, heq⟩

end

/-- Settles O12, window by window. -/
theorem windowWritesReachTheirEntries : Obligations.WindowWritesReachTheirEntries := fun s =>
  ⟨fun o => tblWriteDone_holds o s, fun w o => schdReadDone_holds w o s, fun w o => schdWriteDone_holds w o s⟩

end Sys2Proof.Machine

/-! What SET_TAKE and TABLE_COMMIT stage (R115, R158, R159, R332, R333): O37. -/

namespace Sys2Proof.Machine

open Sys2Proof.Says

/-! ### Reads of the check that meet no error -/

theorem takeRow_nil (s : Chip) (n : Nat) : s.takeRow n [] = s.directorStep 0x03 n :=
  congrArg (fun t : Chip => t.directorStep 0x03 n) (ite_self s)

theorem commitRow_nil (s : Chip) (n : Nat) : s.commitRow n [] = s.directorStep 0x04 n :=
  congrArg (fun t : Chip => t.directorStep 0x04 n) (ite_self s)

/-! ### SET_TAKE (R158, R159, R332) -/

theorem stepOf_take (v : Chip) (x : Slot) (h : x.opcode = 0x03) : v.stepOf x = v.takeStep x := by simp [Chip.stepOf, h]
theorem stepOf_commit (v : Chip) (x : Slot) (h : x.opcode = 0x04) : v.stepOf x = v.commitStep x := by simp [Chip.stepOf, h]

/-- What the step of SET_TAKE gives is what the command stages. -/
theorem stages_of_takeStep {n : Fin 16} {e : StepEnd} {s : State} (h : nextStep 0x03 n s.chip)
    (he : s.chip.view.takeStep (s.chip.slot n.val) = e) : stages (.setTake ⟨n, []⟩) n e s := by
  obtain ⟨-, -, hop, -, -⟩ := id h
  exact stages_of_step (congrArg (done s) (takeRow_nil s.chip n.val)) h ((stepOf_take _ _ hop).trans he)

theorem takeOk_holds (n : Fin 16) (s : State) : takeOk n s := by
  unfold takeOk
  intro x v p g k l instant splice hnext hstandby hp hfused hcancel hlen1 hlen hns1 hns hns5 hns8 hbad hsum hpending hconflict
  refine stages_of_takeStep hnext ?_
  change v.takeStep x = _
  have hlen0 : k.len ≠ 0 := by omega
  unfold Chip.takeStep
  dsimp only
  rw [if_neg (by simp [hstandby]), if_neg (Nat.not_le.2 hp), if_neg (by simpa using hfused), if_neg (by simpa using hcancel),
    if_neg (Nat.not_lt.2 hlen), if_neg (fun h => h.2.elim (Nat.not_lt.2 hns1) (Nat.not_lt.2 hns)), if_neg (by simp [hns5]),
    if_neg (by simp [hns8])]
  change (match l.badEntry with | some i => _ | none => _ : StepEnd) = _
  rw [hbad]
  dsimp only
  rw [if_neg (fun h => h.2 hsum), if_neg (show ¬ g.pending.isSome = true by rw [hpending]; decide), if_neg (fun h => hlen0 h.1)]
  change (match v.takeConflict p (fun c => ((l.figures c).1, (l.figures c).2.1, max (l.figures c).2.2 (splice.getD c 0)))
    (List.range 8) with | some (sub, c, d) => _ | none => _ : StepEnd) = _
  rw [hconflict]

theorem takeCancel_holds (n : Fin 16) (s : State) : takeCancel n s := by
  unfold takeCancel
  intro x v p hnext hstandby hp hfused hcancel hpending
  refine stages_of_takeStep hnext ?_
  change v.takeStep x = _
  unfold Chip.takeStep
  dsimp only
  rw [if_neg (by simp [hstandby]), if_neg (Nat.not_le.2 hp), if_neg (by simpa using hfused), if_pos hcancel, if_pos hpending]

/-! ### TABLE_COMMIT (R115, R333) -/

theorem stages_of_commitStep {n : Fin 16} {e : StepEnd} {s : State} (h : nextStep 0x04 n s.chip)
    (he : s.chip.view.commitStep (s.chip.slot n.val) = e) : stages (.tableCommit ⟨n, []⟩) n e s := by
  obtain ⟨-, -, hop, -, -⟩ := id h
  exact stages_of_step (congrArg (done s) (commitRow_nil s.chip n.val)) h ((stepOf_commit _ _ hop).trans he)

/-- A staging slot that TABLE_COMMIT refuses. -/
def Chip.slotRefused (s : Chip) (i : Nat) : Bool := s.failed 4 i || stageBad (Store.read 0 s.stageTgt i) (s.tentry 4 i)

theorem slotRefused_false {s : Chip} {i : Nat} (h : s.failed 4 i = false ∧ stageBad (Store.read 0 s.stageTgt i) (s.tentry 4 i) = false) :
    s.slotRefused i = false := Bool.or_eq_false_iff.2 h

/-- The step of a right run, by the first slot that is refused. -/
theorem commitStep_run {v : Chip} {x : Slot} {first count : Nat} (hf : bits (x.param 0) 9 0 = first)
    (hc : bits (x.param 1) 10 0 = count) (hstandby : v.power.standby = false) (h1 : 1 ≤ count) (h : first + count ≤ 1024) :
    v.commitStep x = (((List.range count).map (first + ·)).find? v.slotRefused).elim (.commit first count, stOk, []) (refused reTable) := by
  unfold Chip.commitStep
  dsimp only
  rw [hf, hc, if_neg (by simp [hstandby]), if_neg (by omega)]
  change (match ((List.range count).map (first + ·)).find? v.slotRefused with | some i => _ | none => _ : StepEnd) = _
  cases ((List.range count).map (first + ·)).find? v.slotRefused <;> rfl

theorem commitOk_holds (n : Fin 16) (s : State) : commitOk n s := by
  unfold commitOk
  intro x v first count hnext hstandby h1 h hall
  refine stages_of_commitStep hnext ((commitStep_run rfl rfl hstandby h1 h).trans ?_)
  have hnone : ((List.range count).map (first + ·)).find? v.slotRefused = none := by
    rw [List.find?_eq_none]
    intro i hi
    obtain ⟨j, hj, rfl⟩ := List.mem_map.1 hi
    simpa using slotRefused_false (hall j (List.mem_range.1 hj))
  exact congrArg (fun r : Option Nat => r.elim _ _) hnone

theorem commitNot_holds (n : Fin 16) (j : Nat) (s : State) : commitNot n j s := by
  unfold commitNot
  intro x v first count hnext hstandby h hj hbefore hbad
  refine stages_of_commitStep hnext ((commitStep_run rfl rfl hstandby (by omega) h).trans ?_)
  have hsome : ((List.range count).map (first + ·)).find? v.slotRefused = some (first + j) := by
    have hrange : (List.range count).find? (v.slotRefused ∘ (first + ·)) = some j :=
      List.find?_range_eq_some.2 ⟨Bool.or_eq_true_iff.2 hbad, List.mem_range.2 hj, fun i hi => by
        simpa using slotRefused_false (hbefore i hi)⟩
    rw [List.find?_map, hrange, Option.map_some]
  exact congrArg (fun r : Option Nat => r.elim _ _) hsome

/-- Settles O37, command by command. -/
theorem takeAndTableCommandsStage : Obligations.TakeAndTableCommandsStage := fun s =>
  ⟨fun n => takeOk_holds n s, fun n => takeCancel_holds n s, fun n => commitOk_holds n s, fun n j => commitNot_holds n j s⟩

end Sys2Proof.Machine
